-- ==== Sys2Proof/Word.lean ====
section
/-! DEFINITION. The words of the Kyura K2 and the sparse maps its state is made of.

A `SMap` is a list of (key, value) pairs; its reading and writing are in Machine/Ops.lean. -/

namespace Sys2Proof

/-- A byte (R2). -/
abbrev Byte := BitVec 8

/-- A scalar register's word, 64 bits (R87). -/
abbrev Word := BitVec 64

/-- The 256-byte image of a vector register (R87, R88). -/
abbrev VWord := BitVec 2048

/-- A bundle: header and seven syllables (R76). -/
abbrev Bundle := BitVec 256

/-- A table indexed by numbers, held as the list of its entries that differ from the table's default. -/
abbrev SMap (α : Type) := List (Nat × α)

/-- Memory: the bytes that differ from what an unlisted address reads as, by rising address. -/
abbrev Memory := List (Nat × Byte)

end Sys2Proof
end

