-- ==== Sys2Proof/Config.lean ====
section
/-! DEFINITION. What an implementation fixes and the values the manual leaves open.

Every constant here is opaque: it has no body, so no proof can learn a value of it. -/

namespace Sys2Proof.Config

/-- R24: the value a scalar register holds at a task start where R24 gives none (`stamp` is State.tick) [7]. -/
opaque freeScalar (stamp reg : Nat) : BitVec 64

/-- R24: the value a predicate register holds at a task start [7]. -/
opaque freePred (stamp reg : Nat) : BitVec 64

/-- R24: the value a vector register holds at a task start [7]. -/
opaque freeVector (stamp reg : Nat) : BitVec 2048

/-- A byte whose value the manual leaves open: the weight buffer after a projection (R381), the spill area (R377) [8]. -/
opaque freeByte (stamp addr : Nat) : BitVec 8

/-- R237: the value that the other core of a checked pair has computed where the two disagree (`stamp` is State.tick) [19]. -/
opaque pairValue (stamp : Nat) : BitVec 2048

/-- R407: whether the boot ROM accepts the CP image (0) and the FCP image (1) [9]. -/
opaque firmwareOk (image : Nat) : Bool

/-- R407: the step of the CP's start that fails after the retirement store: 0 none, 4 HBM training, 5 port bring-up [9]. -/
opaque bootFail : Nat

/-- R408: SHA-256 of the CP image (0) and of the FCP image (1) [9]. -/
opaque imageDigest (image : Nat) : BitVec 256

/-- R408: the RSA-3072 signature, by the device identity key, over the report's first 128 bytes [9]. -/
opaque deviceSign (report : List (BitVec 8)) : BitVec 3072

/-- R402: whether the signature of retirement record `seq` with the given body verifies [9]. -/
opaque recordOk (seq : Nat) (body : List Nat) : Bool

/-- R408: byte `i` of the device certificate at host control page offset 0xC00 [9]. -/
opaque certByte (i : Nat) : BitVec 8

/-- R167: bytes the compressor needs for a page of the given contents in the airing zone [46]. -/
opaque compressedSize (page : List (BitVec 8)) : Nat

/-- R167: byte i of the compressed form of a page in the airing zone, whose format the manual does not give [46]. -/
opaque zoneByte (page : List (BitVec 8)) (i : Nat) : BitVec 8

/-- R14, R403: a frame of HBM lies on a channel. The manual does not say how addresses map to channels [32]. -/
opaque frameOn (frame channel : Nat) : Bool

/-- R182: bytes read as poisoned carry this value [14]. -/
opaque poisonByte (addr : Nat) : BitVec 8

/-- R206, R257: an address of another die lies, at a time, in a reduction window of a context that this die holds no record of [20]. -/
opaque farWindow (time ctx addr : Nat) : Bool

/-- R240: bytes of another die hold, at a time, an uncorrectable error that a load from here meets [14]. -/
opaque farPoison (time addr : Nat) : Bool

/-- R316: the peer of a core's FIFO pair, beyond the next hop, has at a time accepted every word sent to it [39]. -/
opaque fifoAccepted (time core pair : Nat) : Bool

/-- R402: records the retirement store holds [9]. -/
opaque storeCapacity : Nat

end Sys2Proof.Config
end

