-- ==== Sys2Proof/Syntax.lean ====
section
/-! DEFINITION. The instructions and events of the Kyura K2: one constructor of `Instr` for each row of
spec/opcode_table.json, and the data they carry.

Syllables carry the fields of R84 to R86. Events have no encoding: they carry what the step needs to know (which
core, which frame). Frames are the frames of R286 with their payload as typed data [10]. -/

namespace Sys2Proof

/-- Element type, the ty field (R85). -/
inductive ElTy where
  | i32 | n32 | fp32 | bf16 | i16 | n16 | i8 | n8
  deriving DecidableEq, Repr

/-- Rounding selector rm (R85). -/
inductive Rm where
  | rne | rtz | rup | rdn | dyn
  deriving DecidableEq, Repr

/-- Condition code (R86). -/
inductive Cond where
  | eq | ne | lt | ge | ltu | geu
  deriving DecidableEq, Repr

/-- Operation of vred and vscan (R149). -/
inductive RedOp where
  | add | max | min
  deriving DecidableEq, Repr

/-- Element width of the MV forms (R85). -/
inductive El where
  | w4 | w2 | w1
  deriving DecidableEq, Repr

/-- Operation of mop (R205). -/
inductive MopOp where
  | add | max | min | cas | saxpy
  deriving DecidableEq, Repr

/-- Type of mop (R205): signed, unsigned, fp32. -/
inductive MopTy where
  | int | nat | flt
  deriving DecidableEq, Repr

/-- Operation of amo and ramo (R206). -/
inductive AmoOp where
  | swap | add | and | or | xor | max | min | maxu | minu | cas | fadd
  deriving DecidableEq, Repr

/-- Form of fence (R207). -/
inductive FenceKind where
  | full | acq | rel
  deriving DecidableEq, Repr

/-- Operation of eq.relab (R371). -/
inductive RelabOp where
  | sum | max | mean
  deriving DecidableEq, Repr

/-- Access kind of capchk (R340). -/
inductive AccKind where
  | r | w | a | c | m
  deriving DecidableEq, Repr

/-- A Bamlux plane (R273). -/
inductive Plane where
  | shelf | column
  deriving DecidableEq, Repr

/-- The plane and sending port a frame arrives by, or the plane and next hop it leaves by (R276, R290). -/
structure Link where
  plane : Plane
  port  : Nat
  deriving DecidableEq, Repr

/-- Who asked: core key, stream (R294; 13 is the task) and the request's number. -/
structure Ret where
  core   : Nat
  stream : Nat
  id     : Nat
  deriving DecidableEq, Repr

/-- The accessing agent as the race detector sees it (R173, R175, R176). -/
structure Who where
  agent : BitVec 25
  q     : Nat
  rx    : Bool
  /-- An engine operation: granules that accesses of its task before the command touched after the command's issue, with the agent and the
  time of the last (R170, engine issue). -/
  edge  : List (Nat × Nat × Nat) := []
  deriving DecidableEq, Repr

/-- What one access does at the memory side. `mop .saxpy` holds n and a in `x` and the x address in `y` (R205). -/
inductive MemOp where
  | load (n : Nat) (cap : Bool)
  | store (data : List Byte) (tag : Bool)
  /-- The bytes of a store that lie in one 32-byte sector, with gaps: one frame of a `.rx` vector store (R173). -/
  | storeM (data : List (Option Byte))
  | atomic (op : AmoOp) (n : Nat) (x y : Word)
  | mop (op : MopOp) (t : MopTy) (n : Nat) (x y : Word)
  | fetchAdd (n : Nat) (x : Word)
  | taskDec
  | taskPost (dep : Nat)
  deriving DecidableEq, Repr

/-- One step of a chase (R332). -/
structure ChaseStep where
  off  : BitVec 32
  w    : Nat
  k    : Bool
  mask : Word
  deriving DecidableEq, Repr

/-- A chase packet (R333, R337). -/
structure ChasePkt where
  ret    : Ret
  ctx    : Nat
  rank   : Nat
  basket : Nat
  slot   : Nat
  tag    : Nat
  trap   : Bool
  nstep  : Nat
  s      : Nat
  steps  : List ChaseStep
  addend : Word
  p      : Word
  hops   : Nat
  cap    : Option (BitVec 128)
  /-- The capability register that the chase names. -/
  k      : Nat
  who    : Who
  deriving DecidableEq, Repr

/-- A frame's payload (R287, R315) as typed data [10]. -/
inductive Body where
  | mem (who : Who) (ret : Ret) (gen : Option (BitVec 8)) (addr : Word) (op : MemOp)
  /-- SEND, and SENDL when `last` (R320). -/
  | send (last : Bool) (who : Who) (ret : Ret) (gen : Option (BitVec 8)) (addr : Word) (data : List Byte)
  | fifo (core pair srcCore srcPair : Nat) (ws : List Word)
  | contrib (name : Word) (f : Nat) (data : List Byte)
  /-- A partial, or its first (`half` 1) or second (2) frame; the contributors merged in it go with its last frame (R305). -/
  | wpart (name : Word) (f half : Nat) (els : List Word) (merged : List Nat)
  | chase (p : ChasePkt)
  | data (ret : Ret) (bytes : List Byte) (tag poison : Bool)
  | done (ret : Ret)
  | chres (ret : Ret) (trap : Bool) (basket slot tag : Nat) (bytes : List Byte)
  | bounce (p : ChasePkt)
  | fault (ret : Ret) (code sub : Nat) (addr : Word) (agent : BitVec 25) (time : Nat)
  /-- Credits for a pair, from the giver's core and pair (R316). -/
  | fqcred (core pair srcCore srcPair n : Nat)
  | winack (name : Word) (status : Nat)
  | pegs (ws : List (Nat × Nat))
  | nak (ws : List (Nat × Nat))
  /-- `done`: a DONE word is due (R209, R321). -/
  | arrive (core bar : Nat) (ret : Ret) (done : Bool)
  | expect (core bar n : Nat) (ret : Ret) (done : Bool)
  | sstep (grp k step : Nat)
  | viol (rank sub : Nat) (cap : BitVec 128)
  | darn (slot : Nat)
  /-- A window's descriptor to a seam with the contributors of its shelf; with none, the window is over (R328, R331). -/
  | winreg (name : Word) (desc : BitVec 256) (members : List Nat)
  | none
  deriving DecidableEq, Repr

/-- A Bamlux frame (R286): the header fields a receiver uses, and the payload. -/
structure Frame where
  ctx   : Nat
  vc    : Fin 4
  sh    : Bool
  src   : Nat
  dh    : Bool
  dst   : Nat
  hops  : Nat
  seq   : Nat
  pseq  : Nat
  /-- A reserved header field is nonzero (R288). -/
  resv  : Bool
  body  : Body
  deriving DecidableEq, Repr

/-- A DRT packet (R341). `op` is OP; `len` is LEN, or the bytes a GETREQ asks for. -/
structure Packet where
  op     : Nat
  flagged : Bool
  tagged : Bool
  last   : Bool
  src    : Nat
  dst    : Nat
  mid    : Nat
  pidx   : Nat
  gen    : BitVec 8
  code   : Nat
  len    : Nat
  addr   : Nat
  seqcnt : Nat
  tags   : BitVec 256
  data   : List Byte
  deriving DecidableEq, Repr

/-- A fault or exception on its way to the issuing core (R165, R178, R224). -/
structure Report where
  code  : Nat
  sub   : Nat
  addr  : Word
  agent : BitVec 25
  time  : Nat
  /-- Raised by an engine operation, and its timeline (R226). -/
  eng   : Bool
  tl    : Nat
  obj   : Nat
  /-- Address of the bundle that issued the access, when a bundle did. -/
  epc   : Word
  /-- The kind of access, for the livelock rule of R165: 0 load, 1 store, 2 atomic or bank-side, 3 fetch. -/
  kind  : Nat
  /-- Slot and stage of the syllable that issued it (R226). -/
  slot  : Nat := 0
  stg   : Nat := 0
  /-- The CP retries its cause once (R240). -/
  retry : Bool := false
  /-- The local pages the faulting access needs (R168). -/
  need  : List Nat := []
  deriving DecidableEq, Repr

/-- A soft error or a checked-pair mismatch (R237, R240); `slot` is the slot of the syllable it concerns (R226). -/
inductive SoftError where
  | correctable
  | beat (third : Bool) (slot : Nat)
  | engineBeat (third : Bool) (t n : Nat)
  | residue (t tile block : Nat)
  | uncorrectable (addr : Word) (core : Bool)
  | laneParity (slot : Nat)
  | mismatch (sub : Nat) (slot : Nat)
  deriving DecidableEq, Repr

/-- Every row of spec/opcode_table.json, the rows that only the outside
produces after the others (the run-time representation numbers constructors that the code itself builds below 245). -/
inductive Instr where
  | bundleIssue (ws : List Bundle)
  | sdoneSignal (c : Nat) (i : Nat)
  | resultWriteback (c : Nat)
  | loadReturn (c : Nat) (i : Nat)
  | starvationTrap (c : Nat)
  | accessReport (c : Nat) (r : Report)
  | pendingTrapTaken (c : Nat)
  | trapBetweenTasks (c : Nat)
  | stagedTaskStart (c : Nat)
  | coreTaskChoice (c : Nat)
  | taskRecordDecrement (x : Nat) (a : Word)
  | readyOverflowMove (l : Nat)
  | launchBackoffExpiry (n : Nat)
  | superstepAdvance (n : Nat)
  | launchCompletion (n : Nat)
  | barrierArrivalApplied (c : Nat)
  | barrierDeferredCompletion (c : Nat) (b : Nat)
  | accessPerform (c : Nat) (i : Nat)
  | airedFaultResolve (c : Nat)
  | vbusRetrainStart (p : Nat)
  | vbusRetrainForced (p : Nat)
  | vbusRetrainEnd (p : Nat)
  | engineOpFire (c : Nat) (t : Nat)
  | engineOpComplete (c : Nat) (t : Nat) (n : Nat)
  | tlAcqSatisfied (c : Nat) (i : Nat)
  | landingMove (i : Nat)
  | requestInject (c : Nat) (i : Nat)
  | frameResendTimeout (l : Link) (v : Fin 4)
  | uncorrectableDrift (pl : Plane) (w : Nat)
  | peerSilent (pl : Plane) (p : Nat)
  | chaseReinject (i : Nat)
  | seamDeadlineFlush (i : Nat)
  | windowDeadline (i : Nat)
  | slotTableSwap (pl : Plane)
  | fqUnbindComplete (c : Nat) (i : Nat)
  | drtFlagPlace (i : Nat)
  | drtPacketResend (i : Nat)
  | drtMessageLost (m : Nat)
  | registrationDrained (i : Nat)
  | preempt (x : Nat)
  | restore (x : Nat) (a : Nat)
  | resume (x : Nat) (n : Nat) (k : Nat)
  | gate (g : Nat)
  | relabel (r : Nat) (p : Option Nat) (n : Nat)
  | abort (q : Nat)
  | setpeg (pl : Nat) (p : Nat) (v : Nat) (z : Nat)
  | table (pl : Nat) (a : Nat) (n : Nat)
  | tlen (t : Nat) (n : Nat)
  | attest (a : Nat) (r : Nat)
  | create (a : Nat)
  | destroy (x : Nat)
  | wdogWrite (v : Word)
  | fpcsrWrite (v : Word)
  | parkcfgWrite (v : Word)
  | resvcfgWrite (v : Word)
  | drtcfgWrite (v : Word)
  | drtstWrite (v : Word)
  | eqstWrite (v : Word)
  | controlRegisterWrite (a : BitVec 12) (v : Word)
  | bnkLock (a : Fin 64) (n : Fin 16)
  | loopm (a : Fin 64) (i : Fin 16) (s : Fin 8)
  | add (d : Fin 64) (a : Fin 64) (b : Fin 64) (w : Bool)
  | sub (d : Fin 64) (a : Fin 64) (b : Fin 64) (w : Bool)
  | addi (d : Fin 64) (a : Fin 64) (i : BitVec 13)
  | mul (d : Fin 64) (a : Fin 64) (b : Fin 64) (w : Bool)
  | mulh (d : Fin 64) (a : Fin 64) (b : Fin 64)
  | mulhu (d : Fin 64) (a : Fin 64) (b : Fin 64)
  | mad (d : Fin 64) (a : Fin 64) (b : Fin 64)
  | div (d : Fin 64) (a : Fin 64) (b : Fin 64)
  | divu (d : Fin 64) (a : Fin 64) (b : Fin 64)
  | rem (d : Fin 64) (a : Fin 64) (b : Fin 64)
  | remu (d : Fin 64) (a : Fin 64) (b : Fin 64)
  | and (d : Fin 64) (a : Fin 64) (b : Fin 64)
  | or (d : Fin 64) (a : Fin 64) (b : Fin 64)
  | xor (d : Fin 64) (a : Fin 64) (b : Fin 64)
  | andn (d : Fin 64) (a : Fin 64) (b : Fin 64)
  | shl (d : Fin 64) (a : Fin 64) (b : Fin 64) (w : Bool)
  | shr (d : Fin 64) (a : Fin 64) (b : Fin 64) (w : Bool)
  | sra (d : Fin 64) (a : Fin 64) (b : Fin 64) (w : Bool)
  | shli (d : Fin 64) (a : Fin 64) (c : Fin 64)
  | shri (d : Fin 64) (a : Fin 64) (c : Fin 64)
  | srai (d : Fin 64) (a : Fin 64) (c : Fin 64)
  | min (d : Fin 64) (a : Fin 64) (b : Fin 64)
  | max (d : Fin 64) (a : Fin 64) (b : Fin 64)
  | minu (d : Fin 64) (a : Fin 64) (b : Fin 64)
  | maxu (d : Fin 64) (a : Fin 64) (b : Fin 64)
  | cmp (c : Cond) (p : Fin 8) (a : Fin 64) (b : Fin 64)
  | cmpi (c : Cond) (p : Fin 8) (a : Fin 64) (i : BitVec 13)
  | sel (d : Fin 64) (n : Fin 8) (a : Fin 64) (b : Fin 64)
  | movi (d : Fin 64) (i : BitVec 19)
  | movhi (d : Fin 64) (q : Fin 4) (h : BitVec 16)
  | clz (d : Fin 64) (a : Fin 64)
  | popc (d : Fin 64) (a : Fin 64)
  | bfx (d : Fin 64) (a : Fin 64) (s : Bool) (w : Fin 64) (p : Fin 64)
  | bfi (d : Fin 64) (a : Fin 64) (w : Fin 64) (p : Fin 64)
  | addr (d : Fin 64) (a : Fin 64) (b : Fin 64) (l : Bool) (s : Fin 8)
  | pand (d : Fin 8) (a : Fin 8) (b : Fin 8)
  | por (d : Fin 8) (a : Fin 8) (b : Fin 8)
  | pxor (d : Fin 8) (a : Fin 8) (b : Fin 8)
  | pandn (d : Fin 8) (a : Fin 8) (b : Fin 8)
  | pnot (d : Fin 8) (a : Fin 8)
  | shw (h : Fin 16) (n : Fin 16) (a : Fin 64)
  | br (p : Fin 8) (n : Bool) (o : BitVec 18)
  | bp (p : Fin 8) (n : Bool) (o : BitVec 18)
  | call (p : Fin 8) (n : Bool) (o : BitVec 18)
  | jr (d : Fin 64) (a : Fin 64)
  | loopx (a : Fin 8)
  | trap (c : BitVec 12) (a : Fin 64)
  | bkpt (c : BitVec 12)
  | csrr (d : Fin 64) (c : BitVec 12)
  | csrw (c : BitVec 12) (a : Fin 64)
  | csrx (d : Fin 64) (c : BitVec 12) (a : Fin 64)
  | vpark (v : Fin 32)
  | vunpark (v : Fin 32)
  | vadd (t : ElTy) (d : Fin 32) (a : Fin 32) (b : Fin 32) (p : Fin 8) (r : Rm) (s : Bool)
  | vsub (t : ElTy) (d : Fin 32) (a : Fin 32) (b : Fin 32) (p : Fin 8) (r : Rm) (s : Bool)
  | vmul (t : ElTy) (d : Fin 32) (a : Fin 32) (b : Fin 32) (p : Fin 8) (r : Rm) (s : Bool)
  | vfma (t : ElTy) (d : Fin 32) (a : Fin 32) (b : Fin 32) (p : Fin 8) (r : Rm) (n : Bool)
  | vmin (t : ElTy) (d : Fin 32) (a : Fin 32) (b : Fin 32) (p : Fin 8)
  | vmax (t : ElTy) (d : Fin 32) (a : Fin 32) (b : Fin 32) (p : Fin 8)
  | vabs (t : ElTy) (d : Fin 32) (a : Fin 32) (p : Fin 8) (s : Bool)
  | vadds (t : ElTy) (d : Fin 32) (a : Fin 32) (g : Fin 64) (p : Fin 8) (r : Rm)
  | vmuls (t : ElTy) (d : Fin 32) (a : Fin 32) (g : Fin 64) (p : Fin 8) (r : Rm)
  | vfmas (t : ElTy) (d : Fin 32) (a : Fin 32) (g : Fin 64) (p : Fin 8) (r : Rm)
  | vdiv (t : ElTy) (d : Fin 32) (a : Fin 32) (b : Fin 32) (p : Fin 8) (r : Rm)
  | vsqrt (t : ElTy) (d : Fin 32) (a : Fin 32) (p : Fin 8) (r : Rm)
  | vcmp (c : Cond) (t : ElTy) (d : Fin 8) (a : Fin 32) (b : Fin 32) (p : Fin 8)
  | vsel (d : Fin 32) (n : Fin 8) (a : Fin 32) (b : Fin 32)
  | vand (d : Fin 32) (a : Fin 32) (b : Fin 32) (p : Fin 8)
  | vor (d : Fin 32) (a : Fin 32) (b : Fin 32) (p : Fin 8)
  | vxor (d : Fin 32) (a : Fin 32) (b : Fin 32) (p : Fin 8)
  | vandn (d : Fin 32) (a : Fin 32) (b : Fin 32) (p : Fin 8)
  | vshl (t : ElTy) (d : Fin 32) (a : Fin 32) (b : Fin 32) (p : Fin 8)
  | vshr (t : ElTy) (d : Fin 32) (a : Fin 32) (b : Fin 32) (p : Fin 8)
  | vsra (t : ElTy) (d : Fin 32) (a : Fin 32) (b : Fin 32) (p : Fin 8)
  | vshli (t : ElTy) (d : Fin 32) (a : Fin 32) (p : Fin 8) (i : BitVec 8)
  | vshri (t : ElTy) (d : Fin 32) (a : Fin 32) (p : Fin 8) (i : BitVec 8)
  | vsrai (t : ElTy) (d : Fin 32) (a : Fin 32) (p : Fin 8) (i : BitVec 8)
  | vrcp (d : Fin 32) (a : Fin 32) (p : Fin 8)
  | vrsq (d : Fin 32) (a : Fin 32) (p : Fin 8)
  | vexp2 (d : Fin 32) (a : Fin 32) (p : Fin 8)
  | vlog2 (d : Fin 32) (a : Fin 32) (p : Fin 8)
  | vcvt (t : ElTy) (u : ElTy) (d : Fin 32) (a : Fin 32) (p : Fin 8) (r : Rm) (h : Bool)
  | vbxi (d : Fin 32) (a : Fin 32) (e : Bool)
  | vcvt8 (d : Fin 32) (a : Fin 32) (x : Bool) (q : Fin 4) (p : Fin 8) (r : Rm) (f : Bool)
  | vpack (t : ElTy) (d : Fin 32) (a : Fin 32) (b : Fin 32) (p : Fin 8) (c : Bool)
  | vunpack (t : ElTy) (d : Fin 32) (a : Fin 32) (p : Fin 8) (h : Bool)
  | vperm (t : ElTy) (d : Fin 32) (a : Fin 32) (b : Fin 32) (p : Fin 8)
  | vrot (t : ElTy) (d : Fin 32) (a : Fin 32) (p : Fin 8) (s : Bool) (n : BitVec 8)
  | vbcast (t : ElTy) (d : Fin 32) (g : Fin 64) (p : Fin 8)
  | vext (t : ElTy) (g : Fin 64) (a : Fin 32) (x : Fin 32) (y : Fin 8)
  | vred (t : ElTy) (o : RedOp) (d : Fin 32) (a : Fin 32) (p : Fin 8) (r : Rm) (s : Bool)
  | vscan (t : ElTy) (o : RedOp) (d : Fin 32) (a : Fin 32) (p : Fin 8) (r : Rm) (s : Bool)
  | vdot4 (t : ElTy) (d : Fin 32) (a : Fin 32) (b : Fin 32) (p : Fin 8) (s : Bool)
  | vmovi (t : ElTy) (d : Fin 32) (p : Fin 8) (i : BitVec 8)
  | ld (s : Bool) (z : Fin 4) (r : Bool) (x : Bool) (d : Fin 64) (a : Fin 64) (o : BitVec 7)
  | st (s : Bool) (z : Fin 4) (r : Bool) (d : Fin 64) (a : Fin 64) (o : BitVec 7)
  | vld (s : Bool) (e : El) (r : Bool) (p : Fin 8) (d : Fin 32) (a : Fin 64)
  | vldS (s : Bool) (e : El) (r : Bool) (p : Fin 8) (d : Fin 32) (a : Fin 64) (g : Fin 64)
  | vst (s : Bool) (e : El) (r : Bool) (p : Fin 8) (d : Fin 32) (a : Fin 64)
  | vgath (s : Bool) (e : El) (r : Bool) (p : Fin 8) (d : Fin 32) (a : Fin 64) (b : Fin 32)
  | vscat (s : Bool) (e : El) (r : Bool) (p : Fin 8) (d : Fin 32) (a : Fin 64) (b : Fin 32)
  | tlook (d : Fin 64) (a : Fin 64)
  | tset (d : Fin 64) (a : Fin 64)
  | tinv (a : Fin 64) (m : Bool)
  | mop (o : MopOp) (y : MopTy) (z : Bool) (s : Bool) (d : Fin 64) (a : Fin 64)
  | amo (o : AmoOp) (q : Fin 4) (z : Bool) (s : Bool) (d : Fin 64) (a : Fin 64)
  | fence (c : Fin 4) (f : FenceKind)
  | tfence (c : Fin 4)
  | semSig (a : Fin 64) (n : Fin 128)
  | semSet (a : Fin 64) (b : Fin 64)
  | arrive (a : Fin 64)
  | arriveRlx (a : Fin 64)
  | expect (a : Fin 64) (b : Fin 64)
  | barInit (a : Fin 64) (b : Fin 64)
  | tlRd (a : Fin 64) (f : Fin 128)
  | tlInc (a : Fin 64) (f : Fin 128)
  | tlAcq (d : Fin 64) (a : Fin 64) (f : Fin 128)
  | taskDec (a : Fin 64)
  | taskPost (a : Fin 64) (b : Fin 64)
  | bkOpen (a : Fin 64) (x : Bool)
  | bkClose (a : Fin 64)
  | bkGive (a : Fin 64) (b : Fin 64)
  | bkInit (a : Fin 64) (b : Fin 64)
  | cpGo (h : Fin 4) (c : Fin 4) (w : Bool)
  | cpGath (h : Fin 4) (c : Fin 4) (w : Bool)
  | cpScat (h : Fin 4) (c : Fin 4) (w : Bool) (x : Bool)
  | cpFill (h : Fin 4) (c : Fin 4) (w : Bool)
  | cpChk (h : Fin 4) (c : Fin 4) (w : Bool) (x : Bool)
  | cpTabwL (a : Fin 64) (b : Fin 64)
  | cpTabwR (a : Fin 64) (b : Fin 64)
  | cpTabrL (a : Fin 64) (b : Fin 64) (h : Bool)
  | cpTabrR (a : Fin 64) (b : Fin 64)
  | mxCfg (a : Fin 64) (b : Fin 64)
  | mxGo (h : Fin 4) (w : Bool) (g : Bool)
  | mxWload (h : Fin 4) (w : Bool)
  | mxDrain (h : Fin 4) (a : Fin 64) (w : Bool)
  | mxAcc (a : Fin 64) (b : Fin 64) (i : Bool)
  | mxHad (a : Fin 64) (i : Bool)
  | mxFmt (a : Fin 64) (b : Fin 64)
  | mxZero (a : Fin 64)
  | mxRd (v : Fin 32) (a : Fin 64)
  | vpFwd (h : Fin 4) (w : Bool)
  | vpBwd (h : Fin 4) (w : Bool)
  | vpMerge (a : Fin 64) (b : Fin 64)
  | vpRd (v : Fin 32) (a : Fin 64) (i : Bool)
  | eqUnite (h : Fin 4) (w : Bool) (f : Fin 4)
  | eqUniteNew (a : Fin 64) (f : Fin 4)
  | eqFind (h : Fin 4) (w : Bool) (f : Fin 4)
  | eqRelab (h : Fin 4) (w : Bool) (o : RelabOp) (f : Fin 4)
  | eqSnap (f : Fin 4)
  | eqUndo (f : Fin 4)
  | eqCommit (x : Bool) (f : Fin 4)
  | eqSize (a : Fin 64) (b : Fin 64) (f : Fin 4)
  | fsSend (h : Fin 4) (c : Fin 4) (w : Bool)
  | fsPost (h : Fin 4) (c : Fin 4) (b : Fin 64) (w : Bool)
  | fqBind (i : Fin 8) (a : Fin 64)
  | pegRd (a : Fin 64) (b : Fin 64) (r : Bool)
  | rld (k : Fin 16) (a : Fin 64) (b : Fin 64) (r : Bool) (x : Bool) (z : Fin 8)
  | rst (k : Fin 16) (a : Fin 64) (b : Fin 64) (r : Bool) (z : Fin 8)
  | ramo (o : AmoOp) (q : Fin 4) (z : Bool) (k : Fin 16) (a : Fin 64) (b : Fin 64)
  | rwinReg (a : Fin 64) (b : Fin 64)
  | rwinAdd (w : Bool) (h : Fin 4) (c : Fin 4)
  | rwinPread (a : Fin 64) (b : Fin 64)
  | rwinAbort (a : Fin 64)
  | chase (k : Fin 16) (a : Fin 64) (b : Fin 64) (t : Bool) (c : Bool)
  | capld (k : Fin 16) (a : Fin 64) (s : Bool)
  | capst (k : Fin 16) (a : Fin 64) (s : Bool)
  | capmkNew (k : Fin 16) (a : Fin 64)
  | capmkDer (k : Fin 16) (a : Fin 64) (s : Fin 16)
  | capmkRev (a : Fin 64)
  | capchk (k : Fin 16) (a : Fin 64) (b : Fin 64) (z : Fin 8) (x : AccKind)
  | rmaPut (k : Fin 16) (a : Fin 64) (b : Fin 64) (t : Bool)
  | rmaGet (k : Fin 16) (a : Fin 64) (b : Fin 64)
  | rmaFlag (k : Fin 16) (a : Fin 64) (b : Fin 64)
  | rmaReg (k : Fin 16) (a : Fin 64)
  | rmaRev (k : Fin 16)
  | translationInvalidation (r : Nat) (x : Nat) (c : Nat)
  | invalidationAcknowledgement (r : Nat) (c : Nat)
  | seamPartialDiscard (w : Word)
  | softErrorRerun (c : Nat) (e : SoftError)
  | storeFrame (l : Link) (f : Frame)
  | sendFrame (l : Link) (f : Frame)
  | sendlFrame (l : Link) (f : Frame)
  | fifoFrame (l : Link) (f : Frame)
  | contribFrame (l : Link) (f : Frame)
  | wpartFrame (l : Link) (f : Frame)
  | mopFrame (l : Link) (f : Frame)
  | loadFrame (l : Link) (f : Frame)
  | atomicFrame (l : Link) (f : Frame)
  | chaseFrame (l : Link) (f : Frame)
  | dataFrame (l : Link) (f : Frame)
  | doneFrame (l : Link) (f : Frame)
  | chresFrame (l : Link) (f : Frame)
  | bounceFrame (l : Link) (f : Frame)
  | faultFrame (l : Link) (f : Frame)
  | fqcredFrame (l : Link) (f : Frame)
  | winackFrame (l : Link) (f : Frame)
  | pegretFrame (l : Link) (f : Frame)
  | nakFrame (l : Link) (f : Frame)
  | arriveFrame (l : Link) (f : Frame)
  | expectFrame (l : Link) (f : Frame)
  | sstepFrame (l : Link) (f : Frame)
  | violFrame (l : Link) (f : Frame)
  | darnFrame (l : Link) (f : Frame)
  | winregFrame (l : Link) (f : Frame)
  | retuneStart (pl : Plane) (w : Nat)
  | retuneEnd (pl : Plane) (w : Nat)
  | lineFailure (pl : Plane) (w : Nat)
  | modulatorLaneDeath (pl : Plane) (l : Nat)
  | passbandShift (pl : Plane)
  | put (p : Packet)
  | getreq (p : Packet)
  | getdata (p : Packet)
  | flag (p : Packet)
  | flushreq (p : Packet)
  | flushdone (p : Packet)
  | ack (p : Packet)
  | nack (p : Packet)
  | doorbell (q : Fin 64) (t : BitVec 32)
  | managementDoorbell (t : BitVec 32)
  | queueDescriptorEnable (q : Fin 64)
  | hostControlPageWrite (o : Nat) (v : Word)
  | frameCrcFailure (l : Link) (v : Fin 4)
  | reservedKindFrame (l : Link) (f : Frame)
  | sramBankRetirement (p : Nat) (b : Nat)
  | hbmChannelRetirement (h : Nat)
  | pageCompressorSweep
  | slotStart
  | darningCompute
  | darnTableSwap
  | relabelApply
  | tlenChangeApply
  | fcpGrant
  | boot
  | nop
  | ret
  | tend
  | eret
  | rmaFlush
  | drtPacketBadCrc
  deriving DecidableEq, Repr

end Sys2Proof
end

