-- ==== Sys2Proof/WellFormed.lean ====
section
/-! DEFINITION. Which instructions the encodings of R76 to R100 admit: reserved field values and reserved
combinations of fields (R85, R86, R95 and the instructions' own rows). -/

namespace Sys2Proof

/-- Bits of one element (R50, R51, R85). -/
def ElTy.bits : ElTy → Nat
  | .i32 | .n32 | .fp32 => 32
  | .bf16 | .i16 | .n16 => 16
  | .i8 | .n8 => 8

/-- Elements of a vector register (R85). -/
def ElTy.count : ElTy → Nat
  | .i32 | .n32 | .fp32 => 64
  | .bf16 | .i16 | .n16 => 128
  | .i8 | .n8 => 256

/-- fp32 and bf16. -/
def ElTy.isFp : ElTy → Bool
  | .fp32 | .bf16 => true
  | .i32 | .n32 | .i16 | .n16 | .i8 | .n8 => false

/-- The signed integer types. -/
def ElTy.isSigned : ElTy → Bool
  | .i32 | .i16 | .i8 => true
  | .n32 | .fp32 | .bf16 | .n16 | .n8 => false

/-- R139: integer forms hold rm 0 and may saturate; floating-point forms do not saturate. -/
def rmSat (t : ElTy) (r : Rm) (s : Bool) : Bool := if t.isFp then !s else r == .rne

/-- R139: the types of vabs. -/
def absOk (t : ElTy) (s : Bool) : Bool :=
  if t.isFp then !s else t.isSigned

/-- R144: the legal source and destination pairs of vcvt, with the h bit. -/
def cvtOk (src dst : ElTy) (h : Bool) : Bool :=
  src != dst &&
    (if src.bits = dst.bits then !h
     else if dst.bits < src.bits then
       decide (src.bits = 32 ∧ dst.bits = 16) || (decide (src.bits = 16 ∧ dst.bits = 8) && !src.isFp)
     else decide (src.bits = 16 ∧ dst.bits = 32) || (decide (src.bits = 8 ∧ dst.bits = 16) && !dst.isFp))

/-- R149: rm belongs to floating-point types, .sat to integer additions. -/
def redOk (t : ElTy) (o : RedOp) (r : Rm) (s : Bool) : Bool :=
  if t.isFp then !s else r == .rne && (!s || o == .add)

/-- An even register from 2 to 54, the first of a pair (R205, R216, R253). -/
def evenPair (g : Fin 64) : Bool := 2 ≤ g.val && g.val ≤ 54 && g.val % 2 == 0

/-- R205: the operation, type and size of mop; z is the low bit of sz (0 four bytes, 1 eight). -/
def mopOk (o : MopOp) (y : MopTy) (z : Bool) (d : Fin 64) : Bool :=
  (y != .flt || !z) &&
    (match o with
     | .add | .max | .min => true
     | .cas => y == .nat && evenPair d
     | .saxpy => y == .flt && evenPair d)

/-- R206: fadd is 32 bits wide, cas names an even pair. -/
def amoOk (o : AmoOp) (z : Bool) (d : Fin 64) : Bool :=
  (o != .fadd || !z) && (o != .cas || evenPair d)

/-- R218: timeline codes 0 to 15 and 64 to 127. -/
def tlCode (f : Nat) : Bool := f < 16 || 64 ≤ f

/-- The field values and combinations that the encodings admit (R95); events have no encoding to breach. -/
def wellFormed : Instr → Bool
  | .bundleIssue _ => true
  | .sdoneSignal _ _ => true
  | .resultWriteback _ => true
  | .loadReturn _ _ => true
  | .starvationTrap _ => true
  | .accessReport _ _ => true
  | .pendingTrapTaken _ => true
  | .trapBetweenTasks _ => true
  | .stagedTaskStart _ => true
  | .coreTaskChoice _ => true
  | .taskRecordDecrement _ _ => true
  | .readyOverflowMove _ => true
  | .launchBackoffExpiry _ => true
  | .superstepAdvance _ => true
  | .launchCompletion _ => true
  | .barrierArrivalApplied _ => true
  | .barrierDeferredCompletion _ _ => true
  | .accessPerform _ _ => true
  | .airedFaultResolve _ => true
  | .vbusRetrainStart _ => true
  | .vbusRetrainForced _ => true
  | .vbusRetrainEnd _ => true
  | .engineOpFire _ _ => true
  | .engineOpComplete _ _ _ => true
  | .tlAcqSatisfied _ _ => true
  | .landingMove _ => true
  | .requestInject _ _ => true
  | .frameResendTimeout _ _ => true
  | .chaseReinject _ => true
  | .seamDeadlineFlush _ => true
  | .windowDeadline _ => true
  | .slotTableSwap _ => true
  | .fqUnbindComplete _ _ => true
  | .drtFlagPlace _ => true
  | .drtPacketResend _ => true
  | .drtMessageLost _ => true
  | .registrationDrained _ => true
  | .preempt _ => true
  | .restore _ _ => true
  | .resume _ _ _ => true
  | .gate _ => true
  | .relabel _ _ _ => true
  | .abort _ => true
  | .setpeg _ _ _ _ => true
  | .table _ _ _ => true
  | .tlen _ _ => true
  | .attest _ _ => true
  | .create _ => true
  | .destroy _ => true
  | .wdogWrite _ => true
  | .fpcsrWrite _ => true
  | .parkcfgWrite _ => true
  | .resvcfgWrite _ => true
  | .drtcfgWrite _ => true
  | .drtstWrite _ => true
  | .eqstWrite _ => true
  | .controlRegisterWrite _ _ => true
  | .bnkLock a n => 0 < n.val && a.val < 56
  | .loopm a _ _ => a.val < 56
  | .add _ _ _ _ => true
  | .sub _ _ _ _ => true
  | .addi _ _ _ => true
  | .mul _ _ _ _ => true
  | .mulh _ _ _ => true
  | .mulhu _ _ _ => true
  | .mad _ _ _ => true
  | .div _ _ _ => true
  | .divu _ _ _ => true
  | .rem _ _ _ => true
  | .remu _ _ _ => true
  | .and _ _ _ => true
  | .or _ _ _ => true
  | .xor _ _ _ => true
  | .andn _ _ _ => true
  | .shl _ _ _ _ => true
  | .shr _ _ _ _ => true
  | .sra _ _ _ _ => true
  | .shli _ _ _ => true
  | .shri _ _ _ => true
  | .srai _ _ _ => true
  | .min _ _ _ => true
  | .max _ _ _ => true
  | .minu _ _ _ => true
  | .maxu _ _ _ => true
  | .cmp _ _ _ _ => true
  | .cmpi _ _ _ _ => true
  | .sel _ _ _ _ => true
  | .movi _ _ => true
  | .movhi _ _ _ => true
  | .clz _ _ => true
  | .popc _ _ => true
  | .bfx _ _ _ w p => p.val + (w.val + 1) <= 64
  | .bfi _ _ w p => p.val + (w.val + 1) <= 64
  | .addr _ _ _ _ _ => true
  | .pand _ _ _ => true
  | .por _ _ _ => true
  | .pxor _ _ _ => true
  | .pandn _ _ _ => true
  | .pnot _ _ => true
  | .shw _ _ _ => true
  | .br _ _ _ => true
  | .bp _ _ _ => true
  | .call _ _ _ => true
  | .jr _ _ => true
  | .loopx _ => true
  | .trap _ _ => true
  | .bkpt _ => true
  | .csrr _ _ => true
  | .csrw _ _ => true
  | .csrx _ _ _ => true
  | .vpark _ => true
  | .vunpark _ => true
  | .vadd t _ _ _ _ r s => rmSat t r s
  | .vsub t _ _ _ _ r s => rmSat t r s
  | .vmul t _ _ _ _ r s => rmSat t r s
  | .vfma t _ _ _ _ _ _ => t.isFp
  | .vmin _ _ _ _ _ => true
  | .vmax _ _ _ _ _ => true
  | .vabs t _ _ _ s => absOk t s
  | .vadds t _ _ _ _ r => t.isFp || r == .rne
  | .vmuls t _ _ _ _ r => t.isFp || r == .rne
  | .vfmas t _ _ _ _ _ => t.isFp
  | .vdiv t _ _ _ _ _ => t.isFp
  | .vsqrt t _ _ _ _ => t.isFp
  | .vcmp _ _ _ _ _ _ => true
  | .vsel _ _ _ _ => true
  | .vand _ _ _ _ => true
  | .vor _ _ _ _ => true
  | .vxor _ _ _ _ => true
  | .vandn _ _ _ _ => true
  | .vshl t _ _ _ _ => !t.isFp
  | .vshr t _ _ _ _ => !t.isFp
  | .vsra t _ _ _ _ => !t.isFp
  | .vshli t _ _ _ _ => !t.isFp
  | .vshri t _ _ _ _ => !t.isFp
  | .vsrai t _ _ _ _ => !t.isFp
  | .vrcp _ _ _ => true
  | .vrsq _ _ _ => true
  | .vexp2 _ _ _ => true
  | .vlog2 _ _ _ => true
  | .vcvt t u _ _ _ _ h => cvtOk u t h
  | .vbxi _ _ _ => true
  | .vcvt8 _ _ _ _ _ _ _ => true
  | .vpack t _ _ _ _ _ => t.bits < 32 && !t.isFp
  | .vunpack t _ _ _ _ => 8 < t.bits && !t.isFp
  | .vperm _ _ _ _ _ => true
  | .vrot t _ _ _ _ n => n.toNat < t.count
  | .vbcast _ _ _ _ => true
  | .vext t _ _ x y => y.val * 32 + x.val < t.count
  | .vred t o _ _ _ r s => redOk t o r s
  | .vscan t o _ _ _ r s => (t == .fp32 || t == .i32 || t == .n32) && redOk t o r s
  | .vdot4 t _ _ _ _ _ => t == .i8 || t == .n8
  | .vmovi _ _ _ _ => true
  | .ld _ z _ x _ _ _ => !x || z.val < 3
  | .st _ _ _ _ _ _ => true
  | .vld _ _ _ _ _ _ => true
  | .vldS _ _ _ _ _ _ _ => true
  | .vst _ _ _ _ _ _ => true
  | .vgath _ _ _ _ _ _ _ => true
  | .vscat _ _ _ _ _ _ _ => true
  | .tlook _ _ => true
  | .tset _ _ => true
  | .tinv _ _ => true
  | .mop o y z _ d _ => mopOk o y z d
  | .amo o _ z _ d _ => amoOk o z d
  | .fence _ _ => true
  | .tfence _ => true
  | .semSig _ _ => true
  | .semSet _ _ => true
  | .arrive _ => true
  | .arriveRlx _ => true
  | .expect _ _ => true
  | .barInit _ b => evenPair b
  | .tlRd _ f => tlCode f.val
  | .tlInc _ f => 13 <= f.val && f.val <= 15
  | .tlAcq _ _ f => tlCode f.val
  | .taskDec _ => true
  | .taskPost _ _ => true
  | .bkOpen _ _ => true
  | .bkClose _ => true
  | .bkGive _ _ => true
  | .bkInit _ _ => true
  | .cpGo _ _ _ => true
  | .cpGath _ _ _ => true
  | .cpScat _ _ _ _ => true
  | .cpFill _ _ _ => true
  | .cpChk _ _ _ _ => true
  | .cpTabwL _ b => evenPair b
  | .cpTabwR _ _ => true
  | .cpTabrL _ _ _ => true
  | .cpTabrR _ _ => true
  | .mxCfg _ b => evenPair b
  | .mxGo _ _ _ => true
  | .mxWload _ _ => true
  | .mxDrain _ _ _ => true
  | .mxAcc _ _ _ => true
  | .mxHad _ _ => true
  | .mxFmt _ _ => true
  | .mxZero _ => true
  | .mxRd _ _ => true
  | .vpFwd _ _ => true
  | .vpBwd _ _ => true
  | .vpMerge _ _ => true
  | .vpRd _ _ _ => true
  | .eqUnite _ _ _ => true
  | .eqUniteNew _ _ => true
  | .eqFind _ _ _ => true
  | .eqRelab _ _ _ _ => true
  | .eqSnap _ => true
  | .eqUndo _ => true
  | .eqCommit _ _ => true
  | .eqSize _ _ _ => true
  | .fsSend _ _ _ => true
  | .fsPost _ _ _ _ => true
  | .fqBind _ _ => true
  | .pegRd _ _ _ => true
  | .rld _ _ _ _ x z => z.val <= 5 && (!x || z.val <= 2)
  | .rst _ _ _ _ z => z.val <= 5
  | .ramo o _ z _ _ b => amoOk o z b
  | .rwinReg _ _ => true
  | .rwinAdd _ _ _ => true
  | .rwinPread _ _ => true
  | .rwinAbort _ => true
  | .chase k _ _ _ c => c || k == 0
  | .capld _ _ _ => true
  | .capst _ _ _ => true
  | .capmkNew _ a => evenPair a
  | .capmkDer _ a _ => evenPair a
  | .capmkRev _ => true
  | .capchk _ _ _ _ _ => true
  | .rmaPut _ _ b _ => evenPair b
  | .rmaGet _ _ b => evenPair b
  | .rmaFlag _ _ _ => true
  | .rmaReg _ a => evenPair a
  | .rmaRev _ => true
  | .translationInvalidation _ _ _ => true
  | .invalidationAcknowledgement _ _ => true
  | .seamPartialDiscard _ => true
  | .softErrorRerun _ _ => true
  | .storeFrame _ _ => true
  | .sendFrame _ _ => true
  | .sendlFrame _ _ => true
  | .fifoFrame _ _ => true
  | .contribFrame _ _ => true
  | .wpartFrame _ _ => true
  | .mopFrame _ _ => true
  | .loadFrame _ _ => true
  | .atomicFrame _ _ => true
  | .chaseFrame _ _ => true
  | .dataFrame _ _ => true
  | .doneFrame _ _ => true
  | .chresFrame _ _ => true
  | .bounceFrame _ _ => true
  | .faultFrame _ _ => true
  | .fqcredFrame _ _ => true
  | .winackFrame _ _ => true
  | .pegretFrame _ _ => true
  | .nakFrame _ _ => true
  | .arriveFrame _ _ => true
  | .expectFrame _ _ => true
  | .sstepFrame _ _ => true
  | .violFrame _ _ => true
  | .darnFrame _ _ => true
  | .winregFrame _ _ => true
  | .retuneStart _ _ => true
  | .retuneEnd _ _ => true
  | .uncorrectableDrift _ _ => true
  | .lineFailure _ _ => true
  | .modulatorLaneDeath _ _ => true
  | .passbandShift _ => true
  | .peerSilent _ _ => true
  | .put _ => true
  | .getreq _ => true
  | .getdata _ => true
  | .flag _ => true
  | .flushreq _ => true
  | .flushdone _ => true
  | .ack _ => true
  | .nack _ => true
  | .doorbell _ _ => true
  | .managementDoorbell _ => true
  | .queueDescriptorEnable _ => true
  | .hostControlPageWrite _ _ => true
  | .frameCrcFailure _ _ => true
  | .reservedKindFrame _ _ => true
  | .sramBankRetirement _ _ => true
  | .hbmChannelRetirement _ => true
  | .pageCompressorSweep => true
  | .slotStart => true
  | .darningCompute => true
  | .darnTableSwap => true
  | .relabelApply => true
  | .tlenChangeApply => true
  | .fcpGrant => true
  | .boot => true
  | .nop => true
  | .ret => true
  | .tend => true
  | .eret => true
  | .rmaFlush => true
  | .drtPacketBadCrc => true

end Sys2Proof
end

