-- ==== Sys2Proof/Decode.lean ====
section
/-! DEFINITION. The decoder and the encoder of the syllables, from the formats of R84, the prefix map of R83 and the
opcode maps of R96 to R100.

A word is a number below 2^32, bit 0 its least significant bit. Which map reads it depends on the slot it stands in,
so there is one decoder for each slot class. A word with a reserved bit set, a reserved field value or an unassigned
opcode has no decoding (R95). -/

namespace Sys2Proof

/-- The slot classes (R76) and the prefix map (R83). -/
inductive SlotClass where
  | pfx | x | br | v | mm | en
  deriving DecidableEq, Repr

/-- Bits lo + n - 1 down to lo of a word. -/
def fld (w lo n : Nat) : Nat := w / 2 ^ lo % 2 ^ n

/-- One bit of a word. -/
def bit (w lo : Nat) : Bool := w / 2 ^ lo % 2 == 1

/-- A field of 4 values. -/
def fin4 (w lo : Nat) : Fin 4 := ⟨w / 2 ^ lo % 4, Nat.mod_lt _ (by decide)⟩

/-- A field of 8 values. -/
def fin8 (w lo : Nat) : Fin 8 := ⟨w / 2 ^ lo % 8, Nat.mod_lt _ (by decide)⟩

/-- A field of 16 values. -/
def fin16 (w lo : Nat) : Fin 16 := ⟨w / 2 ^ lo % 16, Nat.mod_lt _ (by decide)⟩

/-- A field of 32 values. -/
def fin32 (w lo : Nat) : Fin 32 := ⟨w / 2 ^ lo % 32, Nat.mod_lt _ (by decide)⟩

/-- A field of 64 values. -/
def fin64 (w lo : Nat) : Fin 64 := ⟨w / 2 ^ lo % 64, Nat.mod_lt _ (by decide)⟩

/-- A field of 128 values. -/
def fin128 (w lo : Nat) : Fin 128 := ⟨w / 2 ^ lo % 128, Nat.mod_lt _ (by decide)⟩

/-- Code of ty (R85). -/
def ElTy.code : ElTy → Nat
  | .i32 => 0
  | .n32 => 1
  | .fp32 => 2
  | .bf16 => 3
  | .i16 => 4
  | .n16 => 5
  | .i8 => 6
  | .n8 => 7

/-- The ty (R85) of a code; none for a reserved one. -/
def ElTy.ofCode : Nat → Option ElTy
  | 0 => some .i32
  | 1 => some .n32
  | 2 => some .fp32
  | 3 => some .bf16
  | 4 => some .i16
  | 5 => some .n16
  | 6 => some .i8
  | 7 => some .n8
  | _ => none

/-- Code of rm (R85). -/
def Rm.code : Rm → Nat
  | .rne => 0
  | .rtz => 1
  | .rup => 2
  | .rdn => 3
  | .dyn => 4

/-- The rm (R85) of a code; none for a reserved one. -/
def Rm.ofCode : Nat → Option Rm
  | 0 => some .rne
  | 1 => some .rtz
  | 2 => some .rup
  | 3 => some .rdn
  | 4 => some .dyn
  | _ => none

/-- Code of condition (R86). -/
def Cond.code : Cond → Nat
  | .eq => 0
  | .ne => 1
  | .lt => 2
  | .ge => 3
  | .ltu => 4
  | .geu => 5

/-- The condition (R86) of a code; none for a reserved one. -/
def Cond.ofCode : Nat → Option Cond
  | 0 => some .eq
  | 1 => some .ne
  | 2 => some .lt
  | 3 => some .ge
  | 4 => some .ltu
  | 5 => some .geu
  | _ => none

/-- Code of operation of vred and vscan (R149). -/
def RedOp.code : RedOp → Nat
  | .add => 0
  | .max => 1
  | .min => 2

/-- The operation of vred and vscan (R149) of a code; none for a reserved one. -/
def RedOp.ofCode : Nat → Option RedOp
  | 0 => some .add
  | 1 => some .max
  | 2 => some .min
  | _ => none

/-- Code of el (R85). -/
def El.code : El → Nat
  | .w4 => 0
  | .w2 => 1
  | .w1 => 2

/-- The el (R85) of a code; none for a reserved one. -/
def El.ofCode : Nat → Option El
  | 0 => some .w4
  | 1 => some .w2
  | 2 => some .w1
  | _ => none

/-- Code of operation of mop (R205). -/
def MopOp.code : MopOp → Nat
  | .add => 0
  | .max => 1
  | .min => 2
  | .cas => 3
  | .saxpy => 4

/-- The operation of mop (R205) of a code; none for a reserved one. -/
def MopOp.ofCode : Nat → Option MopOp
  | 0 => some .add
  | 1 => some .max
  | 2 => some .min
  | 3 => some .cas
  | 4 => some .saxpy
  | _ => none

/-- Code of type of mop (R205). -/
def MopTy.code : MopTy → Nat
  | .int => 0
  | .nat => 1
  | .flt => 2

/-- The type of mop (R205) of a code; none for a reserved one. -/
def MopTy.ofCode : Nat → Option MopTy
  | 0 => some .int
  | 1 => some .nat
  | 2 => some .flt
  | _ => none

/-- Code of operation of amo (R206). -/
def AmoOp.code : AmoOp → Nat
  | .swap => 0
  | .add => 1
  | .and => 2
  | .or => 3
  | .xor => 4
  | .max => 5
  | .min => 6
  | .maxu => 7
  | .minu => 8
  | .cas => 9
  | .fadd => 10

/-- The operation of amo (R206) of a code; none for a reserved one. -/
def AmoOp.ofCode : Nat → Option AmoOp
  | 0 => some .swap
  | 1 => some .add
  | 2 => some .and
  | 3 => some .or
  | 4 => some .xor
  | 5 => some .max
  | 6 => some .min
  | 7 => some .maxu
  | 8 => some .minu
  | 9 => some .cas
  | 10 => some .fadd
  | _ => none

/-- Code of form of fence (R207). -/
def FenceKind.code : FenceKind → Nat
  | .full => 0
  | .acq => 1
  | .rel => 2

/-- The form of fence (R207) of a code; none for a reserved one. -/
def FenceKind.ofCode : Nat → Option FenceKind
  | 0 => some .full
  | 1 => some .acq
  | 2 => some .rel
  | _ => none

/-- Code of operation of eq.relab (R371). -/
def RelabOp.code : RelabOp → Nat
  | .sum => 0
  | .max => 1
  | .mean => 2

/-- The operation of eq.relab (R371) of a code; none for a reserved one. -/
def RelabOp.ofCode : Nat → Option RelabOp
  | 0 => some .sum
  | 1 => some .max
  | 2 => some .mean
  | _ => none

/-- Code of access kind of capchk (R340). -/
def AccKind.code : AccKind → Nat
  | .r => 0
  | .w => 1
  | .a => 2
  | .c => 3
  | .m => 4

/-- The access kind of capchk (R340) of a code; none for a reserved one. -/
def AccKind.ofCode : Nat → Option AccKind
  | 0 => some .r
  | 1 => some .w
  | 2 => some .a
  | 3 => some .c
  | 4 => some .m
  | _ => none

/-- The prefix map (R83). -/
def rawPfx (w : Nat) : Option Instr :=
  if fld w 25 7 = 1 then
    if fld w 0 9 = 0 ∧ fld w 19 6 = 0 then some (.bnkLock (fin64 w 13) (fin16 w 9))
    else none
  else if fld w 25 7 = 2 then
    if fld w 0 6 = 0 ∧ fld w 19 6 = 0 then some (.loopm (fin64 w 13) (fin16 w 9) (fin8 w 6))
    else none
  else none

/-- The scalar map (R96). -/
def rawX (w : Nat) : Option Instr :=
  if fld w 25 7 = 0 then
    if fld w 0 25 = 0 then some .nop
    else none
  else if fld w 25 7 = 1 then
    if fld w 1 6 = 0 then some (.add (fin64 w 19) (fin64 w 13) (fin64 w 7) (bit w 0))
    else none
  else if fld w 25 7 = 2 then
    if fld w 1 6 = 0 then some (.sub (fin64 w 19) (fin64 w 13) (fin64 w 7) (bit w 0))
    else none
  else if fld w 25 7 = 3 then
    some (.addi (fin64 w 19) (fin64 w 13) (BitVec.ofNat 13 w))
  else if fld w 25 7 = 4 then
    if fld w 1 6 = 0 then some (.mul (fin64 w 19) (fin64 w 13) (fin64 w 7) (bit w 0))
    else none
  else if fld w 25 7 = 5 then
    if fld w 0 7 = 0 then some (.mulh (fin64 w 19) (fin64 w 13) (fin64 w 7))
    else none
  else if fld w 25 7 = 6 then
    if fld w 0 7 = 0 then some (.mulhu (fin64 w 19) (fin64 w 13) (fin64 w 7))
    else none
  else if fld w 25 7 = 7 then
    if fld w 0 7 = 0 then some (.mad (fin64 w 19) (fin64 w 13) (fin64 w 7))
    else none
  else if fld w 25 7 = 8 then
    if fld w 0 7 = 0 then some (.div (fin64 w 19) (fin64 w 13) (fin64 w 7))
    else none
  else if fld w 25 7 = 9 then
    if fld w 0 7 = 0 then some (.divu (fin64 w 19) (fin64 w 13) (fin64 w 7))
    else none
  else if fld w 25 7 = 10 then
    if fld w 0 7 = 0 then some (.rem (fin64 w 19) (fin64 w 13) (fin64 w 7))
    else none
  else if fld w 25 7 = 11 then
    if fld w 0 7 = 0 then some (.remu (fin64 w 19) (fin64 w 13) (fin64 w 7))
    else none
  else if fld w 25 7 = 12 then
    if fld w 0 7 = 0 then some (.and (fin64 w 19) (fin64 w 13) (fin64 w 7))
    else none
  else if fld w 25 7 = 13 then
    if fld w 0 7 = 0 then some (.or (fin64 w 19) (fin64 w 13) (fin64 w 7))
    else none
  else if fld w 25 7 = 14 then
    if fld w 0 7 = 0 then some (.xor (fin64 w 19) (fin64 w 13) (fin64 w 7))
    else none
  else if fld w 25 7 = 15 then
    if fld w 0 7 = 0 then some (.andn (fin64 w 19) (fin64 w 13) (fin64 w 7))
    else none
  else if fld w 25 7 = 16 then
    if fld w 1 6 = 0 then some (.shl (fin64 w 19) (fin64 w 13) (fin64 w 7) (bit w 0))
    else none
  else if fld w 25 7 = 17 then
    if fld w 1 6 = 0 then some (.shr (fin64 w 19) (fin64 w 13) (fin64 w 7) (bit w 0))
    else none
  else if fld w 25 7 = 18 then
    if fld w 1 6 = 0 then some (.sra (fin64 w 19) (fin64 w 13) (fin64 w 7) (bit w 0))
    else none
  else if fld w 25 7 = 19 then
    if fld w 6 7 = 0 then some (.shli (fin64 w 19) (fin64 w 13) (fin64 w 0))
    else none
  else if fld w 25 7 = 20 then
    if fld w 6 7 = 0 then some (.shri (fin64 w 19) (fin64 w 13) (fin64 w 0))
    else none
  else if fld w 25 7 = 21 then
    if fld w 6 7 = 0 then some (.srai (fin64 w 19) (fin64 w 13) (fin64 w 0))
    else none
  else if fld w 25 7 = 22 then
    if fld w 0 7 = 0 then some (.min (fin64 w 19) (fin64 w 13) (fin64 w 7))
    else none
  else if fld w 25 7 = 23 then
    if fld w 0 7 = 0 then some (.max (fin64 w 19) (fin64 w 13) (fin64 w 7))
    else none
  else if fld w 25 7 = 24 then
    if fld w 0 7 = 0 then some (.minu (fin64 w 19) (fin64 w 13) (fin64 w 7))
    else none
  else if fld w 25 7 = 25 then
    if fld w 0 7 = 0 then some (.maxu (fin64 w 19) (fin64 w 13) (fin64 w 7))
    else none
  else if fld w 25 7 = 26 then
    if fld w 3 4 = 0 ∧ fld w 22 3 = 0 then (Cond.ofCode (fld w 0 3)).bind fun c => some (.cmp c (fin8 w 19) (fin64 w 13) (fin64 w 7))
    else none
  else if fld w 25 7 = 27 then
    (Cond.ofCode (fld w 22 3)).bind fun c => some (.cmpi c (fin8 w 19) (fin64 w 13) (BitVec.ofNat 13 w))
  else if fld w 25 7 = 28 then
    if fld w 3 4 = 0 then some (.sel (fin64 w 19) (fin8 w 0) (fin64 w 13) (fin64 w 7))
    else none
  else if fld w 25 7 = 29 then
    some (.movi (fin64 w 19) (BitVec.ofNat 19 w))
  else if fld w 25 7 = 30 then
    if fld w 18 1 = 0 then some (.movhi (fin64 w 19) (fin4 w 16) (BitVec.ofNat 16 w))
    else none
  else if fld w 25 7 = 31 then
    if fld w 0 13 = 0 then some (.clz (fin64 w 19) (fin64 w 13))
    else none
  else if fld w 25 7 = 32 then
    if fld w 0 13 = 0 then some (.popc (fin64 w 19) (fin64 w 13))
    else none
  else if fld w 25 7 = 33 then
    some (.bfx (fin64 w 19) (fin64 w 13) (bit w 12) (fin64 w 6) (fin64 w 0))
  else if fld w 25 7 = 34 then
    if fld w 12 1 = 0 then some (.bfi (fin64 w 19) (fin64 w 13) (fin64 w 6) (fin64 w 0))
    else none
  else if fld w 25 7 = 35 then
    if fld w 4 3 = 0 then some (.addr (fin64 w 19) (fin64 w 13) (fin64 w 7) (bit w 3) (fin8 w 0))
    else none
  else if fld w 25 7 = 40 then
    if fld w 0 7 = 0 ∧ fld w 10 3 = 0 ∧ fld w 16 3 = 0 ∧ fld w 22 3 = 0 then some (.pand (fin8 w 19) (fin8 w 13) (fin8 w 7))
    else none
  else if fld w 25 7 = 41 then
    if fld w 0 7 = 0 ∧ fld w 10 3 = 0 ∧ fld w 16 3 = 0 ∧ fld w 22 3 = 0 then some (.por (fin8 w 19) (fin8 w 13) (fin8 w 7))
    else none
  else if fld w 25 7 = 42 then
    if fld w 0 7 = 0 ∧ fld w 10 3 = 0 ∧ fld w 16 3 = 0 ∧ fld w 22 3 = 0 then some (.pxor (fin8 w 19) (fin8 w 13) (fin8 w 7))
    else none
  else if fld w 25 7 = 43 then
    if fld w 0 7 = 0 ∧ fld w 10 3 = 0 ∧ fld w 16 3 = 0 ∧ fld w 22 3 = 0 then some (.pandn (fin8 w 19) (fin8 w 13) (fin8 w 7))
    else none
  else if fld w 25 7 = 44 then
    if fld w 0 13 = 0 ∧ fld w 16 3 = 0 ∧ fld w 22 3 = 0 then some (.pnot (fin8 w 19) (fin8 w 13))
    else none
  else if fld w 25 7 = 48 then
    if fld w 4 9 = 0 ∧ fld w 23 2 = 0 then some (.shw (fin16 w 19) (fin16 w 0) (fin64 w 13))
    else none
  else none

/-- The branch and system map (R97). -/
def rawBr (w : Nat) : Option Instr :=
  if fld w 25 7 = 0 then
    if fld w 0 25 = 0 then some .nop
    else none
  else if fld w 25 7 = 1 then
    if fld w 18 3 = 0 then some (.br (fin8 w 22) (bit w 21) (BitVec.ofNat 18 w))
    else none
  else if fld w 25 7 = 2 then
    if fld w 18 3 = 0 then some (.bp (fin8 w 22) (bit w 21) (BitVec.ofNat 18 w))
    else none
  else if fld w 25 7 = 3 then
    if fld w 18 3 = 0 then some (.call (fin8 w 22) (bit w 21) (BitVec.ofNat 18 w))
    else none
  else if fld w 25 7 = 4 then
    if fld w 0 25 = 0 then some .ret
    else none
  else if fld w 25 7 = 5 then
    if fld w 0 13 = 0 then some (.jr (fin64 w 19) (fin64 w 13))
    else none
  else if fld w 25 7 = 6 then
    if fld w 0 13 = 0 ∧ fld w 16 9 = 0 then some (.loopx (fin8 w 13))
    else none
  else if fld w 25 7 = 8 then
    if fld w 0 25 = 0 then some .tend
    else none
  else if fld w 25 7 = 9 then
    if fld w 12 1 = 0 ∧ fld w 19 6 = 0 then some (.trap (BitVec.ofNat 12 w) (fin64 w 13))
    else none
  else if fld w 25 7 = 10 then
    if fld w 0 25 = 0 then some .eret
    else none
  else if fld w 25 7 = 11 then
    if fld w 12 13 = 0 then some (.bkpt (BitVec.ofNat 12 w))
    else none
  else if fld w 25 7 = 16 then
    if fld w 12 7 = 0 then some (.csrr (fin64 w 19) (BitVec.ofNat 12 w))
    else none
  else if fld w 25 7 = 17 then
    if fld w 12 1 = 0 ∧ fld w 19 6 = 0 then some (.csrw (BitVec.ofNat 12 w) (fin64 w 13))
    else none
  else if fld w 25 7 = 18 then
    if fld w 12 1 = 0 then some (.csrx (fin64 w 19) (BitVec.ofNat 12 w) (fin64 w 13))
    else none
  else if fld w 25 7 = 24 then
    if fld w 0 13 = 0 ∧ fld w 18 7 = 0 then some (.vpark (fin32 w 13))
    else none
  else if fld w 25 7 = 25 then
    if fld w 0 19 = 0 ∧ fld w 24 1 = 0 then some (.vunpark (fin32 w 19))
    else none
  else none

/-- The vector map (R98). -/
def rawV (w : Nat) : Option Instr :=
  if fld w 25 7 = 0 then
    if fld w 0 25 = 0 then some .nop
    else none
  else if fld w 25 7 = 1 then
    (ElTy.ofCode (fld w 4 3)).bind fun t => (Rm.ofCode (fld w 1 3)).bind fun r => some (.vadd t (fin32 w 20) (fin32 w 15) (fin32 w 10) (fin8 w 7) r (bit w 0))
  else if fld w 25 7 = 2 then
    (ElTy.ofCode (fld w 4 3)).bind fun t => (Rm.ofCode (fld w 1 3)).bind fun r => some (.vsub t (fin32 w 20) (fin32 w 15) (fin32 w 10) (fin8 w 7) r (bit w 0))
  else if fld w 25 7 = 3 then
    (ElTy.ofCode (fld w 4 3)).bind fun t => (Rm.ofCode (fld w 1 3)).bind fun r => some (.vmul t (fin32 w 20) (fin32 w 15) (fin32 w 10) (fin8 w 7) r (bit w 0))
  else if fld w 25 7 = 4 then
    (ElTy.ofCode (fld w 4 3)).bind fun t => (Rm.ofCode (fld w 1 3)).bind fun r => some (.vfma t (fin32 w 20) (fin32 w 15) (fin32 w 10) (fin8 w 7) r (bit w 0))
  else if fld w 25 7 = 5 then
    if fld w 0 4 = 0 then (ElTy.ofCode (fld w 4 3)).bind fun t => some (.vmin t (fin32 w 20) (fin32 w 15) (fin32 w 10) (fin8 w 7))
    else none
  else if fld w 25 7 = 6 then
    if fld w 0 4 = 0 then (ElTy.ofCode (fld w 4 3)).bind fun t => some (.vmax t (fin32 w 20) (fin32 w 15) (fin32 w 10) (fin8 w 7))
    else none
  else if fld w 25 7 = 7 then
    if fld w 1 3 = 0 ∧ fld w 10 5 = 0 then (ElTy.ofCode (fld w 4 3)).bind fun t => some (.vabs t (fin32 w 20) (fin32 w 15) (fin8 w 7) (bit w 0))
    else none
  else if fld w 25 7 = 8 then
    (ElTy.ofCode (fld w 3 3)).bind fun t => (Rm.ofCode (fld w 0 3)).bind fun r => some (.vadds t (fin32 w 20) (fin32 w 15) (fin64 w 9) (fin8 w 6) r)
  else if fld w 25 7 = 9 then
    (ElTy.ofCode (fld w 3 3)).bind fun t => (Rm.ofCode (fld w 0 3)).bind fun r => some (.vmuls t (fin32 w 20) (fin32 w 15) (fin64 w 9) (fin8 w 6) r)
  else if fld w 25 7 = 10 then
    (ElTy.ofCode (fld w 3 3)).bind fun t => (Rm.ofCode (fld w 0 3)).bind fun r => some (.vfmas t (fin32 w 20) (fin32 w 15) (fin64 w 9) (fin8 w 6) r)
  else if fld w 25 7 = 12 then
    if fld w 0 1 = 0 then (ElTy.ofCode (fld w 4 3)).bind fun t => (Rm.ofCode (fld w 1 3)).bind fun r => some (.vdiv t (fin32 w 20) (fin32 w 15) (fin32 w 10) (fin8 w 7) r)
    else none
  else if fld w 25 7 = 13 then
    if fld w 0 1 = 0 ∧ fld w 10 5 = 0 then (ElTy.ofCode (fld w 4 3)).bind fun t => (Rm.ofCode (fld w 1 3)).bind fun r => some (.vsqrt t (fin32 w 20) (fin32 w 15) (fin8 w 7) r)
    else none
  else if fld w 25 7 = 16 then
    if fld w 23 2 = 0 then (Cond.ofCode (fld w 0 4)).bind fun c => (ElTy.ofCode (fld w 4 3)).bind fun t => some (.vcmp c t (fin8 w 20) (fin32 w 15) (fin32 w 10) (fin8 w 7))
    else none
  else if fld w 25 7 = 17 then
    if fld w 0 7 = 0 then some (.vsel (fin32 w 20) (fin8 w 7) (fin32 w 15) (fin32 w 10))
    else none
  else if fld w 25 7 = 18 then
    if fld w 0 7 = 0 then some (.vand (fin32 w 20) (fin32 w 15) (fin32 w 10) (fin8 w 7))
    else none
  else if fld w 25 7 = 19 then
    if fld w 0 7 = 0 then some (.vor (fin32 w 20) (fin32 w 15) (fin32 w 10) (fin8 w 7))
    else none
  else if fld w 25 7 = 20 then
    if fld w 0 7 = 0 then some (.vxor (fin32 w 20) (fin32 w 15) (fin32 w 10) (fin8 w 7))
    else none
  else if fld w 25 7 = 21 then
    if fld w 0 7 = 0 then some (.vandn (fin32 w 20) (fin32 w 15) (fin32 w 10) (fin8 w 7))
    else none
  else if fld w 25 7 = 22 then
    if fld w 0 4 = 0 then (ElTy.ofCode (fld w 4 3)).bind fun t => some (.vshl t (fin32 w 20) (fin32 w 15) (fin32 w 10) (fin8 w 7))
    else none
  else if fld w 25 7 = 23 then
    if fld w 0 4 = 0 then (ElTy.ofCode (fld w 4 3)).bind fun t => some (.vshr t (fin32 w 20) (fin32 w 15) (fin32 w 10) (fin8 w 7))
    else none
  else if fld w 25 7 = 24 then
    if fld w 0 4 = 0 then (ElTy.ofCode (fld w 4 3)).bind fun t => some (.vsra t (fin32 w 20) (fin32 w 15) (fin32 w 10) (fin8 w 7))
    else none
  else if fld w 25 7 = 25 then
    if fld w 8 1 = 0 then (ElTy.ofCode (fld w 9 3)).bind fun t => some (.vshli t (fin32 w 20) (fin32 w 15) (fin8 w 12) (BitVec.ofNat 8 w))
    else none
  else if fld w 25 7 = 26 then
    if fld w 8 1 = 0 then (ElTy.ofCode (fld w 9 3)).bind fun t => some (.vshri t (fin32 w 20) (fin32 w 15) (fin8 w 12) (BitVec.ofNat 8 w))
    else none
  else if fld w 25 7 = 27 then
    if fld w 8 1 = 0 then (ElTy.ofCode (fld w 9 3)).bind fun t => some (.vsrai t (fin32 w 20) (fin32 w 15) (fin8 w 12) (BitVec.ofNat 8 w))
    else none
  else if fld w 25 7 = 32 then
    if fld w 0 7 = 32 ∧ fld w 10 5 = 0 then some (.vrcp (fin32 w 20) (fin32 w 15) (fin8 w 7))
    else none
  else if fld w 25 7 = 33 then
    if fld w 0 7 = 32 ∧ fld w 10 5 = 0 then some (.vrsq (fin32 w 20) (fin32 w 15) (fin8 w 7))
    else none
  else if fld w 25 7 = 34 then
    if fld w 0 7 = 32 ∧ fld w 10 5 = 0 then some (.vexp2 (fin32 w 20) (fin32 w 15) (fin8 w 7))
    else none
  else if fld w 25 7 = 35 then
    if fld w 0 7 = 32 ∧ fld w 10 5 = 0 then some (.vlog2 (fin32 w 20) (fin32 w 15) (fin8 w 7))
    else none
  else if fld w 25 7 = 40 then
    if fld w 13 2 = 0 then (ElTy.ofCode (fld w 4 3)).bind fun t => (ElTy.ofCode (fld w 10 3)).bind fun u => (Rm.ofCode (fld w 1 3)).bind fun r => some (.vcvt t u (fin32 w 20) (fin32 w 15) (fin8 w 7) r (bit w 0))
    else none
  else if fld w 25 7 = 41 then
    if fld w 1 14 = 24 then some (.vbxi (fin32 w 20) (fin32 w 15) (bit w 0))
    else none
  else if fld w 25 7 = 42 then
    if fld w 4 3 = 2 ∧ fld w 13 2 = 0 then (Rm.ofCode (fld w 1 3)).bind fun r => some (.vcvt8 (fin32 w 20) (fin32 w 15) (bit w 12) (fin4 w 10) (fin8 w 7) r (bit w 0))
    else none
  else if fld w 25 7 = 48 then
    if fld w 1 3 = 0 then (ElTy.ofCode (fld w 4 3)).bind fun t => some (.vpack t (fin32 w 20) (fin32 w 15) (fin32 w 10) (fin8 w 7) (bit w 0))
    else none
  else if fld w 25 7 = 49 then
    if fld w 1 3 = 0 ∧ fld w 10 5 = 0 then (ElTy.ofCode (fld w 4 3)).bind fun t => some (.vunpack t (fin32 w 20) (fin32 w 15) (fin8 w 7) (bit w 0))
    else none
  else if fld w 25 7 = 50 then
    if fld w 0 4 = 0 then (ElTy.ofCode (fld w 4 3)).bind fun t => some (.vperm t (fin32 w 20) (fin32 w 15) (fin32 w 10) (fin8 w 7))
    else none
  else if fld w 25 7 = 51 then
    (ElTy.ofCode (fld w 9 3)).bind fun t => some (.vrot t (fin32 w 20) (fin32 w 15) (fin8 w 12) (bit w 8) (BitVec.ofNat 8 w))
  else if fld w 25 7 = 52 then
    if fld w 0 3 = 0 ∧ fld w 15 5 = 0 then (ElTy.ofCode (fld w 3 3)).bind fun t => some (.vbcast t (fin32 w 20) (fin64 w 9) (fin8 w 6))
    else none
  else if fld w 25 7 = 53 then
    if fld w 6 3 = 0 then (ElTy.ofCode (fld w 3 3)).bind fun t => some (.vext t (fin64 w 9) (fin32 w 15) (fin32 w 20) (fin8 w 0))
    else none
  else if fld w 25 7 = 54 then
    if fld w 12 3 = 0 then (ElTy.ofCode (fld w 4 3)).bind fun t => (RedOp.ofCode (fld w 10 2)).bind fun o => (Rm.ofCode (fld w 1 3)).bind fun r => some (.vred t o (fin32 w 20) (fin32 w 15) (fin8 w 7) r (bit w 0))
    else none
  else if fld w 25 7 = 55 then
    if fld w 12 3 = 0 then (ElTy.ofCode (fld w 4 3)).bind fun t => (RedOp.ofCode (fld w 10 2)).bind fun o => (Rm.ofCode (fld w 1 3)).bind fun r => some (.vscan t o (fin32 w 20) (fin32 w 15) (fin8 w 7) r (bit w 0))
    else none
  else if fld w 25 7 = 56 then
    if fld w 1 3 = 0 then (ElTy.ofCode (fld w 4 3)).bind fun t => some (.vdot4 t (fin32 w 20) (fin32 w 15) (fin32 w 10) (fin8 w 7) (bit w 0))
    else none
  else if fld w 25 7 = 57 then
    if fld w 8 1 = 0 ∧ fld w 15 5 = 0 then (ElTy.ofCode (fld w 9 3)).bind fun t => some (.vmovi t (fin32 w 20) (fin8 w 12) (BitVec.ofNat 8 w))
    else none
  else none

/-- The memory map (R99). -/
def rawMm (w : Nat) : Option Instr :=
  if fld w 25 7 = 0 then
    if fld w 0 25 = 0 then some .nop
    else none
  else if fld w 25 7 = 1 then
    if fld w 12 1 = 0 then some (.ld (bit w 11) (fin4 w 9) (bit w 8) (bit w 7) (fin64 w 19) (fin64 w 13) (BitVec.ofNat 7 w))
    else none
  else if fld w 25 7 = 2 then
    if fld w 7 1 = 0 ∧ fld w 12 1 = 0 then some (.st (bit w 11) (fin4 w 9) (bit w 8) (fin64 w 19) (fin64 w 13) (BitVec.ofNat 7 w))
    else none
  else if fld w 25 7 = 3 then
    if fld w 7 7 = 0 then (El.ofCode (fld w 0 2)).bind fun e => some (.vld (bit w 6) e (bit w 2) (fin8 w 3) (fin32 w 20) (fin64 w 14))
    else none
  else if fld w 25 7 = 4 then
    if fld w 7 1 = 0 then (El.ofCode (fld w 0 2)).bind fun e => some (.vldS (bit w 6) e (bit w 2) (fin8 w 3) (fin32 w 20) (fin64 w 14) (fin64 w 8))
    else none
  else if fld w 25 7 = 5 then
    if fld w 7 7 = 0 then (El.ofCode (fld w 0 2)).bind fun e => some (.vst (bit w 6) e (bit w 2) (fin8 w 3) (fin32 w 20) (fin64 w 14))
    else none
  else if fld w 25 7 = 6 then
    if fld w 7 1 = 0 ∧ fld w 13 1 = 0 then (El.ofCode (fld w 0 2)).bind fun e => some (.vgath (bit w 6) e (bit w 2) (fin8 w 3) (fin32 w 20) (fin64 w 14) (fin32 w 8))
    else none
  else if fld w 25 7 = 7 then
    if fld w 7 1 = 0 ∧ fld w 13 1 = 0 then (El.ofCode (fld w 0 2)).bind fun e => some (.vscat (bit w 6) e (bit w 2) (fin8 w 3) (fin32 w 20) (fin64 w 14) (fin32 w 8))
    else none
  else if fld w 25 7 = 8 then
    if fld w 0 13 = 3584 then some (.tlook (fin64 w 19) (fin64 w 13))
    else none
  else if fld w 25 7 = 9 then
    if fld w 0 13 = 3584 then some (.tset (fin64 w 19) (fin64 w 13))
    else none
  else if fld w 25 7 = 10 then
    if fld w 1 12 = 1792 ∧ fld w 19 6 = 0 then some (.tinv (fin64 w 13) (bit w 0))
    else none
  else if fld w 25 7 = 12 then
    if fld w 5 4 = 0 ∧ fld w 10 1 = 1 ∧ fld w 12 1 = 0 then (MopOp.ofCode (fld w 0 3)).bind fun o => (MopTy.ofCode (fld w 3 2)).bind fun y => some (.mop o y (bit w 9) (bit w 11) (fin64 w 19) (fin64 w 13))
    else none
  else if fld w 25 7 = 13 then
    if fld w 6 3 = 0 ∧ fld w 10 1 = 1 ∧ fld w 12 1 = 0 then (AmoOp.ofCode (fld w 0 4)).bind fun o => some (.amo o (fin4 w 4) (bit w 9) (bit w 11) (fin64 w 19) (fin64 w 13))
    else none
  else if fld w 25 7 = 16 then
    if fld w 4 21 = 0 then (FenceKind.ofCode (fld w 0 2)).bind fun f => some (.fence (fin4 w 2) f)
    else none
  else if fld w 25 7 = 17 then
    if fld w 0 2 = 0 ∧ fld w 4 21 = 0 then some (.tfence (fin4 w 2))
    else none
  else none

/-- The engine map (R100). -/
def rawEn (w : Nat) : Option Instr :=
  if fld w 25 7 = 0 then
    if fld w 0 25 = 0 then some .nop
    else none
  else if fld w 25 7 = 1 then
    if fld w 7 7 = 0 ∧ fld w 20 5 = 0 then some (.semSig (fin64 w 14) (fin128 w 0))
    else none
  else if fld w 25 7 = 2 then
    if fld w 0 8 = 0 ∧ fld w 20 5 = 0 then some (.semSet (fin64 w 14) (fin64 w 8))
    else none
  else if fld w 25 7 = 3 then
    if fld w 0 14 = 0 ∧ fld w 20 5 = 0 then some (.arrive (fin64 w 14))
    else none
  else if fld w 25 7 = 4 then
    if fld w 0 14 = 0 ∧ fld w 20 5 = 0 then some (.arriveRlx (fin64 w 14))
    else none
  else if fld w 25 7 = 5 then
    if fld w 0 8 = 0 ∧ fld w 20 5 = 0 then some (.expect (fin64 w 14) (fin64 w 8))
    else none
  else if fld w 25 7 = 6 then
    if fld w 0 8 = 0 ∧ fld w 20 5 = 0 then some (.barInit (fin64 w 14) (fin64 w 8))
    else none
  else if fld w 25 7 = 7 then
    if fld w 7 7 = 0 ∧ fld w 20 5 = 0 then some (.tlRd (fin64 w 14) (fin128 w 0))
    else if fld w 7 7 = 0 ∧ fld w 20 5 = 1 then some (.tlInc (fin64 w 14) (fin128 w 0))
    else none
  else if fld w 25 7 = 8 then
    if fld w 7 1 = 0 ∧ fld w 20 5 = 0 then some (.tlAcq (fin64 w 8) (fin64 w 14) (fin128 w 0))
    else none
  else if fld w 25 7 = 9 then
    if fld w 0 14 = 0 ∧ fld w 20 5 = 0 then some (.taskDec (fin64 w 14))
    else none
  else if fld w 25 7 = 10 then
    if fld w 0 8 = 0 ∧ fld w 20 5 = 0 then some (.taskPost (fin64 w 14) (fin64 w 8))
    else none
  else if fld w 25 7 = 11 then
    if fld w 1 13 = 0 ∧ fld w 20 5 = 0 then some (.bkOpen (fin64 w 14) (bit w 0))
    else none
  else if fld w 25 7 = 12 then
    if fld w 0 14 = 0 ∧ fld w 20 5 = 0 then some (.bkClose (fin64 w 14))
    else none
  else if fld w 25 7 = 13 then
    if fld w 0 8 = 0 ∧ fld w 20 5 = 0 then some (.bkGive (fin64 w 14) (fin64 w 8))
    else none
  else if fld w 25 7 = 14 then
    if fld w 0 8 = 0 ∧ fld w 20 5 = 0 then some (.bkInit (fin64 w 14) (fin64 w 8))
    else none
  else if fld w 25 7 = 16 then
    if fld w 0 7 = 0 ∧ fld w 8 12 = 0 ∧ fld w 24 1 = 0 then some (.cpGo (fin4 w 22) (fin4 w 20) (bit w 7))
    else none
  else if fld w 25 7 = 17 then
    if fld w 0 7 = 0 ∧ fld w 8 12 = 0 ∧ fld w 24 1 = 0 then some (.cpGath (fin4 w 22) (fin4 w 20) (bit w 7))
    else none
  else if fld w 25 7 = 18 then
    if fld w 1 6 = 0 ∧ fld w 8 12 = 0 ∧ fld w 24 1 = 0 then some (.cpScat (fin4 w 22) (fin4 w 20) (bit w 7) (bit w 0))
    else none
  else if fld w 25 7 = 19 then
    if fld w 0 7 = 0 ∧ fld w 8 12 = 0 ∧ fld w 24 1 = 0 then some (.cpFill (fin4 w 22) (fin4 w 20) (bit w 7))
    else none
  else if fld w 25 7 = 20 then
    if fld w 1 6 = 0 ∧ fld w 8 12 = 0 ∧ fld w 24 1 = 0 then some (.cpChk (fin4 w 22) (fin4 w 20) (bit w 7) (bit w 0))
    else none
  else if fld w 25 7 = 21 then
    if fld w 0 8 = 0 ∧ fld w 20 5 = 0 then some (.cpTabwL (fin64 w 14) (fin64 w 8))
    else if fld w 0 8 = 0 ∧ fld w 20 5 = 1 then some (.cpTabwR (fin64 w 14) (fin64 w 8))
    else none
  else if fld w 25 7 = 22 then
    if fld w 1 7 = 0 ∧ fld w 20 5 = 0 then some (.cpTabrL (fin64 w 14) (fin64 w 8) (bit w 0))
    else if fld w 0 8 = 0 ∧ fld w 20 5 = 1 then some (.cpTabrR (fin64 w 14) (fin64 w 8))
    else none
  else if fld w 25 7 = 32 then
    if fld w 0 8 = 0 ∧ fld w 20 5 = 0 then some (.mxCfg (fin64 w 14) (fin64 w 8))
    else none
  else if fld w 25 7 = 33 then
    if fld w 1 6 = 0 ∧ fld w 8 12 = 0 ∧ fld w 22 3 = 0 then some (.mxGo (fin4 w 20) (bit w 7) (bit w 0))
    else none
  else if fld w 25 7 = 34 then
    if fld w 0 7 = 0 ∧ fld w 8 12 = 0 ∧ fld w 22 3 = 0 then some (.mxWload (fin4 w 20) (bit w 7))
    else none
  else if fld w 25 7 = 35 then
    if fld w 0 7 = 0 ∧ fld w 8 6 = 0 ∧ fld w 22 3 = 0 then some (.mxDrain (fin4 w 20) (fin64 w 14) (bit w 7))
    else none
  else if fld w 25 7 = 36 then
    if fld w 1 7 = 0 ∧ fld w 20 5 = 0 then some (.mxAcc (fin64 w 14) (fin64 w 8) (bit w 0))
    else none
  else if fld w 25 7 = 37 then
    if fld w 1 13 = 0 ∧ fld w 20 5 = 0 then some (.mxHad (fin64 w 14) (bit w 0))
    else none
  else if fld w 25 7 = 38 then
    if fld w 0 8 = 0 ∧ fld w 20 5 = 0 then some (.mxFmt (fin64 w 14) (fin64 w 8))
    else none
  else if fld w 25 7 = 39 then
    if fld w 0 14 = 0 ∧ fld w 20 5 = 0 then some (.mxZero (fin64 w 14))
    else none
  else if fld w 25 7 = 40 then
    if fld w 0 14 = 0 then some (.mxRd (fin32 w 20) (fin64 w 14))
    else none
  else if fld w 25 7 = 48 then
    if fld w 0 7 = 0 ∧ fld w 8 12 = 0 ∧ fld w 22 3 = 0 then some (.vpFwd (fin4 w 20) (bit w 7))
    else none
  else if fld w 25 7 = 49 then
    if fld w 0 7 = 0 ∧ fld w 8 12 = 0 ∧ fld w 22 3 = 0 then some (.vpBwd (fin4 w 20) (bit w 7))
    else none
  else if fld w 25 7 = 50 then
    if fld w 0 8 = 0 ∧ fld w 20 5 = 0 then some (.vpMerge (fin64 w 14) (fin64 w 8))
    else none
  else if fld w 25 7 = 51 then
    if fld w 1 13 = 0 then some (.vpRd (fin32 w 20) (fin64 w 14) (bit w 0))
    else none
  else if fld w 25 7 = 56 then
    if fld w 2 5 = 0 ∧ fld w 8 12 = 0 ∧ fld w 22 3 = 0 then some (.eqUnite (fin4 w 20) (bit w 7) (fin4 w 0))
    else if fld w 2 12 = 1 ∧ fld w 20 5 = 0 then some (.eqUniteNew (fin64 w 14) (fin4 w 0))
    else none
  else if fld w 25 7 = 57 then
    if fld w 2 5 = 0 ∧ fld w 8 12 = 0 ∧ fld w 22 3 = 0 then some (.eqFind (fin4 w 20) (bit w 7) (fin4 w 0))
    else none
  else if fld w 25 7 = 58 then
    if fld w 4 3 = 0 ∧ fld w 8 12 = 0 ∧ fld w 22 3 = 0 then (RelabOp.ofCode (fld w 2 2)).bind fun o => some (.eqRelab (fin4 w 20) (bit w 7) o (fin4 w 0))
    else none
  else if fld w 25 7 = 59 then
    if fld w 2 23 = 0 then some (.eqSnap (fin4 w 0))
    else none
  else if fld w 25 7 = 60 then
    if fld w 2 23 = 0 then some (.eqUndo (fin4 w 0))
    else none
  else if fld w 25 7 = 61 then
    if fld w 3 22 = 0 then some (.eqCommit (bit w 2) (fin4 w 0))
    else none
  else if fld w 25 7 = 62 then
    if fld w 2 6 = 0 ∧ fld w 20 5 = 0 then some (.eqSize (fin64 w 14) (fin64 w 8) (fin4 w 0))
    else none
  else if fld w 25 7 = 64 then
    if fld w 0 7 = 0 ∧ fld w 8 12 = 0 ∧ fld w 24 1 = 0 then some (.fsSend (fin4 w 22) (fin4 w 20) (bit w 7))
    else none
  else if fld w 25 7 = 65 then
    if fld w 0 7 = 0 ∧ fld w 14 6 = 0 ∧ fld w 24 1 = 0 then some (.fsPost (fin4 w 22) (fin4 w 20) (fin64 w 8) (bit w 7))
    else none
  else if fld w 25 7 = 66 then
    if fld w 0 14 = 0 ∧ fld w 23 2 = 0 then some (.fqBind (fin8 w 20) (fin64 w 14))
    else none
  else if fld w 25 7 = 67 then
    if fld w 1 7 = 0 ∧ fld w 20 5 = 0 then some (.pegRd (fin64 w 14) (fin64 w 8) (bit w 0))
    else none
  else if fld w 25 7 = 68 then
    if fld w 5 3 = 0 ∧ fld w 24 1 = 0 then some (.rld (fin16 w 20) (fin64 w 14) (fin64 w 8) (bit w 4) (bit w 3) (fin8 w 0))
    else none
  else if fld w 25 7 = 69 then
    if fld w 3 1 = 0 ∧ fld w 5 3 = 0 ∧ fld w 24 1 = 0 then some (.rst (fin16 w 20) (fin64 w 14) (fin64 w 8) (bit w 4) (fin8 w 0))
    else none
  else if fld w 25 7 = 70 then
    if fld w 7 1 = 0 ∧ fld w 24 1 = 0 then (AmoOp.ofCode (fld w 0 4)).bind fun o => some (.ramo o (fin4 w 4) (bit w 6) (fin16 w 20) (fin64 w 14) (fin64 w 8))
    else none
  else if fld w 25 7 = 71 then
    if fld w 0 8 = 0 ∧ fld w 20 5 = 0 then some (.rwinReg (fin64 w 14) (fin64 w 8))
    else if fld w 4 3 = 0 ∧ fld w 8 17 = 4096 then some (.rwinAdd (bit w 7) (fin4 w 2) (fin4 w 0))
    else if fld w 0 8 = 0 ∧ fld w 20 5 = 2 then some (.rwinPread (fin64 w 14) (fin64 w 8))
    else if fld w 0 14 = 0 ∧ fld w 20 5 = 3 then some (.rwinAbort (fin64 w 14))
    else none
  else if fld w 25 7 = 72 then
    if fld w 2 6 = 0 ∧ fld w 24 1 = 0 ∧ (bit w 0 = true ∨ fld w 20 4 = 0) then
      some (.chase (fin16 w 20) (fin64 w 14) (fin64 w 8) (bit w 1) (bit w 0))
    else none
  else if fld w 25 7 = 73 then
    if fld w 1 13 = 0 ∧ fld w 24 1 = 0 then some (.capld (fin16 w 20) (fin64 w 14) (bit w 0))
    else none
  else if fld w 25 7 = 74 then
    if fld w 1 13 = 0 ∧ fld w 24 1 = 0 then some (.capst (fin16 w 20) (fin64 w 14) (bit w 0))
    else none
  else if fld w 25 7 = 75 then
    if fld w 0 14 = 0 ∧ fld w 24 1 = 0 then some (.capmkNew (fin16 w 20) (fin64 w 14))
    else if fld w 0 8 = 1 ∧ fld w 12 2 = 0 ∧ fld w 24 1 = 0 then some (.capmkDer (fin16 w 20) (fin64 w 14) (fin16 w 8))
    else if fld w 0 14 = 2 ∧ fld w 20 5 = 0 then some (.capmkRev (fin64 w 14))
    else none
  else if fld w 25 7 = 76 then
    if fld w 6 2 = 0 ∧ fld w 24 1 = 0 then (AccKind.ofCode (fld w 0 3)).bind fun x => some (.capchk (fin16 w 20) (fin64 w 14) (fin64 w 8) (fin8 w 3) x)
    else none
  else if fld w 25 7 = 80 then
    if fld w 1 7 = 0 ∧ fld w 24 1 = 0 then some (.rmaPut (fin16 w 20) (fin64 w 14) (fin64 w 8) (bit w 0))
    else none
  else if fld w 25 7 = 81 then
    if fld w 0 8 = 0 ∧ fld w 24 1 = 0 then some (.rmaGet (fin16 w 20) (fin64 w 14) (fin64 w 8))
    else none
  else if fld w 25 7 = 82 then
    if fld w 0 8 = 0 ∧ fld w 24 1 = 0 then some (.rmaFlag (fin16 w 20) (fin64 w 14) (fin64 w 8))
    else none
  else if fld w 25 7 = 83 then
    if fld w 0 25 = 0 then some .rmaFlush
    else none
  else if fld w 25 7 = 84 then
    if fld w 0 14 = 0 ∧ fld w 24 1 = 0 then some (.rmaReg (fin16 w 20) (fin64 w 14))
    else none
  else if fld w 25 7 = 85 then
    if fld w 0 20 = 0 ∧ fld w 24 1 = 0 then some (.rmaRev (fin16 w 20))
    else none
  else none

/-- Keep an instruction whose field values the encodings allow (R85, R95). -/
def keepWf : Option Instr → Option Instr
  | some i => if wellFormed i then some i else none
  | none => none

/-- The instruction a word stands for in a slot class; none for an illegal encoding (R95). -/
def decode (c : SlotClass) (w : Nat) : Option Instr :=
  match c with
  | .pfx => keepWf (rawPfx w)
  | .x => keepWf (rawX w)
  | .br => keepWf (rawBr w)
  | .v => keepWf (rawV w)
  | .mm => keepWf (rawMm w)
  | .en => keepWf (rawEn w)

/-- The slot class whose map holds an instruction; nop stands in every map and is listed with the scalar one. -/
def slotClass : Instr → Option SlotClass
  | .bundleIssue _ => none
  | .sdoneSignal _ _ => none
  | .resultWriteback _ => none
  | .loadReturn _ _ => none
  | .starvationTrap _ => none
  | .accessReport _ _ => none
  | .pendingTrapTaken _ => none
  | .trapBetweenTasks _ => none
  | .softErrorRerun _ _ => none
  | .stagedTaskStart _ => none
  | .coreTaskChoice _ => none
  | .taskRecordDecrement _ _ => none
  | .readyOverflowMove _ => none
  | .launchBackoffExpiry _ => none
  | .superstepAdvance _ => none
  | .launchCompletion _ => none
  | .barrierArrivalApplied _ => none
  | .barrierDeferredCompletion _ _ => none
  | .accessPerform _ _ => none
  | .airedFaultResolve _ => none
  | .pageCompressorSweep => none
  | .vbusRetrainStart _ => none
  | .vbusRetrainForced _ => none
  | .vbusRetrainEnd _ => none
  | .engineOpFire _ _ => none
  | .engineOpComplete _ _ _ => none
  | .tlAcqSatisfied _ _ => none
  | .landingMove _ => none
  | .requestInject _ _ => none
  | .slotStart => none
  | .frameResendTimeout _ _ => none
  | .storeFrame _ _ => none
  | .sendFrame _ _ => none
  | .sendlFrame _ _ => none
  | .fifoFrame _ _ => none
  | .contribFrame _ _ => none
  | .wpartFrame _ _ => none
  | .mopFrame _ _ => none
  | .loadFrame _ _ => none
  | .atomicFrame _ _ => none
  | .chaseFrame _ _ => none
  | .dataFrame _ _ => none
  | .doneFrame _ _ => none
  | .chresFrame _ _ => none
  | .bounceFrame _ _ => none
  | .chaseReinject _ => none
  | .faultFrame _ _ => none
  | .fqcredFrame _ _ => none
  | .winackFrame _ _ => none
  | .pegretFrame _ _ => none
  | .nakFrame _ _ => none
  | .arriveFrame _ _ => none
  | .expectFrame _ _ => none
  | .sstepFrame _ _ => none
  | .violFrame _ _ => none
  | .darnFrame _ _ => none
  | .winregFrame _ _ => none
  | .seamDeadlineFlush _ => none
  | .windowDeadline _ => none
  | .retuneStart _ _ => none
  | .retuneEnd _ _ => none
  | .uncorrectableDrift _ _ => none
  | .lineFailure _ _ => none
  | .modulatorLaneDeath _ _ => none
  | .passbandShift _ => none
  | .peerSilent _ _ => none
  | .darningCompute => none
  | .darnTableSwap => none
  | .slotTableSwap _ => none
  | .relabelApply => none
  | .tlenChangeApply => none
  | .fqUnbindComplete _ _ => none
  | .put _ => none
  | .getreq _ => none
  | .getdata _ => none
  | .flag _ => none
  | .drtFlagPlace _ => none
  | .flushreq _ => none
  | .flushdone _ => none
  | .ack _ => none
  | .nack _ => none
  | .drtPacketResend _ => none
  | .drtMessageLost _ => none
  | .registrationDrained _ => none
  | .doorbell _ _ => none
  | .managementDoorbell _ => none
  | .queueDescriptorEnable _ => none
  | .hostControlPageWrite _ _ => none
  | .fcpGrant => none
  | .preempt _ => none
  | .restore _ _ => none
  | .resume _ _ _ => none
  | .gate _ => none
  | .relabel _ _ _ => none
  | .abort _ => none
  | .setpeg _ _ _ _ => none
  | .table _ _ _ => none
  | .tlen _ _ => none
  | .attest _ _ => none
  | .create _ => none
  | .destroy _ => none
  | .boot => none
  | .wdogWrite _ => none
  | .fpcsrWrite _ => none
  | .parkcfgWrite _ => none
  | .resvcfgWrite _ => none
  | .drtcfgWrite _ => none
  | .drtstWrite _ => none
  | .eqstWrite _ => none
  | .controlRegisterWrite _ _ => none
  | .bnkLock _ _ => some .pfx
  | .loopm _ _ _ => some .pfx
  | .nop => some .x
  | .add _ _ _ _ => some .x
  | .sub _ _ _ _ => some .x
  | .addi _ _ _ => some .x
  | .mul _ _ _ _ => some .x
  | .mulh _ _ _ => some .x
  | .mulhu _ _ _ => some .x
  | .mad _ _ _ => some .x
  | .div _ _ _ => some .x
  | .divu _ _ _ => some .x
  | .rem _ _ _ => some .x
  | .remu _ _ _ => some .x
  | .and _ _ _ => some .x
  | .or _ _ _ => some .x
  | .xor _ _ _ => some .x
  | .andn _ _ _ => some .x
  | .shl _ _ _ _ => some .x
  | .shr _ _ _ _ => some .x
  | .sra _ _ _ _ => some .x
  | .shli _ _ _ => some .x
  | .shri _ _ _ => some .x
  | .srai _ _ _ => some .x
  | .min _ _ _ => some .x
  | .max _ _ _ => some .x
  | .minu _ _ _ => some .x
  | .maxu _ _ _ => some .x
  | .cmp _ _ _ _ => some .x
  | .cmpi _ _ _ _ => some .x
  | .sel _ _ _ _ => some .x
  | .movi _ _ => some .x
  | .movhi _ _ _ => some .x
  | .clz _ _ => some .x
  | .popc _ _ => some .x
  | .bfx _ _ _ _ _ => some .x
  | .bfi _ _ _ _ => some .x
  | .addr _ _ _ _ _ => some .x
  | .pand _ _ _ => some .x
  | .por _ _ _ => some .x
  | .pxor _ _ _ => some .x
  | .pandn _ _ _ => some .x
  | .pnot _ _ => some .x
  | .shw _ _ _ => some .x
  | .br _ _ _ => some .br
  | .bp _ _ _ => some .br
  | .call _ _ _ => some .br
  | .ret => some .br
  | .jr _ _ => some .br
  | .loopx _ => some .br
  | .tend => some .br
  | .trap _ _ => some .br
  | .eret => some .br
  | .bkpt _ => some .br
  | .csrr _ _ => some .br
  | .csrw _ _ => some .br
  | .csrx _ _ _ => some .br
  | .vpark _ => some .br
  | .vunpark _ => some .br
  | .vadd _ _ _ _ _ _ _ => some .v
  | .vsub _ _ _ _ _ _ _ => some .v
  | .vmul _ _ _ _ _ _ _ => some .v
  | .vfma _ _ _ _ _ _ _ => some .v
  | .vmin _ _ _ _ _ => some .v
  | .vmax _ _ _ _ _ => some .v
  | .vabs _ _ _ _ _ => some .v
  | .vadds _ _ _ _ _ _ => some .v
  | .vmuls _ _ _ _ _ _ => some .v
  | .vfmas _ _ _ _ _ _ => some .v
  | .vdiv _ _ _ _ _ _ => some .v
  | .vsqrt _ _ _ _ _ => some .v
  | .vcmp _ _ _ _ _ _ => some .v
  | .vsel _ _ _ _ => some .v
  | .vand _ _ _ _ => some .v
  | .vor _ _ _ _ => some .v
  | .vxor _ _ _ _ => some .v
  | .vandn _ _ _ _ => some .v
  | .vshl _ _ _ _ _ => some .v
  | .vshr _ _ _ _ _ => some .v
  | .vsra _ _ _ _ _ => some .v
  | .vshli _ _ _ _ _ => some .v
  | .vshri _ _ _ _ _ => some .v
  | .vsrai _ _ _ _ _ => some .v
  | .vrcp _ _ _ => some .v
  | .vrsq _ _ _ => some .v
  | .vexp2 _ _ _ => some .v
  | .vlog2 _ _ _ => some .v
  | .vcvt _ _ _ _ _ _ _ => some .v
  | .vbxi _ _ _ => some .v
  | .vcvt8 _ _ _ _ _ _ _ => some .v
  | .vpack _ _ _ _ _ _ => some .v
  | .vunpack _ _ _ _ _ => some .v
  | .vperm _ _ _ _ _ => some .v
  | .vrot _ _ _ _ _ _ => some .v
  | .vbcast _ _ _ _ => some .v
  | .vext _ _ _ _ _ => some .v
  | .vred _ _ _ _ _ _ _ => some .v
  | .vscan _ _ _ _ _ _ _ => some .v
  | .vdot4 _ _ _ _ _ _ => some .v
  | .vmovi _ _ _ _ => some .v
  | .ld _ _ _ _ _ _ _ => some .mm
  | .st _ _ _ _ _ _ => some .mm
  | .vld _ _ _ _ _ _ => some .mm
  | .vldS _ _ _ _ _ _ _ => some .mm
  | .vst _ _ _ _ _ _ => some .mm
  | .vgath _ _ _ _ _ _ _ => some .mm
  | .vscat _ _ _ _ _ _ _ => some .mm
  | .tlook _ _ => some .mm
  | .tset _ _ => some .mm
  | .tinv _ _ => some .mm
  | .mop _ _ _ _ _ _ => some .mm
  | .amo _ _ _ _ _ _ => some .mm
  | .fence _ _ => some .mm
  | .tfence _ => some .mm
  | .semSig _ _ => some .en
  | .semSet _ _ => some .en
  | .arrive _ => some .en
  | .arriveRlx _ => some .en
  | .expect _ _ => some .en
  | .barInit _ _ => some .en
  | .tlRd _ _ => some .en
  | .tlInc _ _ => some .en
  | .tlAcq _ _ _ => some .en
  | .taskDec _ => some .en
  | .taskPost _ _ => some .en
  | .bkOpen _ _ => some .en
  | .bkClose _ => some .en
  | .bkGive _ _ => some .en
  | .bkInit _ _ => some .en
  | .cpGo _ _ _ => some .en
  | .cpGath _ _ _ => some .en
  | .cpScat _ _ _ _ => some .en
  | .cpFill _ _ _ => some .en
  | .cpChk _ _ _ _ => some .en
  | .cpTabwL _ _ => some .en
  | .cpTabwR _ _ => some .en
  | .cpTabrL _ _ _ => some .en
  | .cpTabrR _ _ => some .en
  | .mxCfg _ _ => some .en
  | .mxGo _ _ _ => some .en
  | .mxWload _ _ => some .en
  | .mxDrain _ _ _ => some .en
  | .mxAcc _ _ _ => some .en
  | .mxHad _ _ => some .en
  | .mxFmt _ _ => some .en
  | .mxZero _ => some .en
  | .mxRd _ _ => some .en
  | .vpFwd _ _ => some .en
  | .vpBwd _ _ => some .en
  | .vpMerge _ _ => some .en
  | .vpRd _ _ _ => some .en
  | .eqUnite _ _ _ => some .en
  | .eqUniteNew _ _ => some .en
  | .eqFind _ _ _ => some .en
  | .eqRelab _ _ _ _ => some .en
  | .eqSnap _ => some .en
  | .eqUndo _ => some .en
  | .eqCommit _ _ => some .en
  | .eqSize _ _ _ => some .en
  | .fsSend _ _ _ => some .en
  | .fsPost _ _ _ _ => some .en
  | .fqBind _ _ => some .en
  | .pegRd _ _ _ => some .en
  | .rld _ _ _ _ _ _ => some .en
  | .rst _ _ _ _ _ => some .en
  | .ramo _ _ _ _ _ _ => some .en
  | .rwinReg _ _ => some .en
  | .rwinAdd _ _ _ => some .en
  | .rwinPread _ _ => some .en
  | .rwinAbort _ => some .en
  | .chase _ _ _ _ _ => some .en
  | .capld _ _ _ => some .en
  | .capst _ _ _ => some .en
  | .capmkNew _ _ => some .en
  | .capmkDer _ _ _ => some .en
  | .capmkRev _ => some .en
  | .capchk _ _ _ _ _ => some .en
  | .rmaPut _ _ _ _ => some .en
  | .rmaGet _ _ _ => some .en
  | .rmaFlag _ _ _ => some .en
  | .rmaFlush => some .en
  | .rmaReg _ _ => some .en
  | .rmaRev _ => some .en
  | .frameCrcFailure _ _ => none
  | .reservedKindFrame _ _ => none
  | .drtPacketBadCrc => none
  | .translationInvalidation _ _ _ => none
  | .invalidationAcknowledgement _ _ => none
  | .seamPartialDiscard _ => none
  | .sramBankRetirement _ _ => none
  | .hbmChannelRetirement _ => none

/-- The word of an instruction (R83, R84, R96 to R100); 0 for an event, which has none. -/
def encode : Instr → Nat
  | .bundleIssue _ => 0
  | .sdoneSignal _ _ => 0
  | .resultWriteback _ => 0
  | .loadReturn _ _ => 0
  | .starvationTrap _ => 0
  | .accessReport _ _ => 0
  | .pendingTrapTaken _ => 0
  | .trapBetweenTasks _ => 0
  | .softErrorRerun _ _ => 0
  | .stagedTaskStart _ => 0
  | .coreTaskChoice _ => 0
  | .taskRecordDecrement _ _ => 0
  | .readyOverflowMove _ => 0
  | .launchBackoffExpiry _ => 0
  | .superstepAdvance _ => 0
  | .launchCompletion _ => 0
  | .barrierArrivalApplied _ => 0
  | .barrierDeferredCompletion _ _ => 0
  | .accessPerform _ _ => 0
  | .airedFaultResolve _ => 0
  | .pageCompressorSweep => 0
  | .vbusRetrainStart _ => 0
  | .vbusRetrainForced _ => 0
  | .vbusRetrainEnd _ => 0
  | .engineOpFire _ _ => 0
  | .engineOpComplete _ _ _ => 0
  | .tlAcqSatisfied _ _ => 0
  | .landingMove _ => 0
  | .requestInject _ _ => 0
  | .slotStart => 0
  | .frameResendTimeout _ _ => 0
  | .storeFrame _ _ => 0
  | .sendFrame _ _ => 0
  | .sendlFrame _ _ => 0
  | .fifoFrame _ _ => 0
  | .contribFrame _ _ => 0
  | .wpartFrame _ _ => 0
  | .mopFrame _ _ => 0
  | .loadFrame _ _ => 0
  | .atomicFrame _ _ => 0
  | .chaseFrame _ _ => 0
  | .dataFrame _ _ => 0
  | .doneFrame _ _ => 0
  | .chresFrame _ _ => 0
  | .bounceFrame _ _ => 0
  | .chaseReinject _ => 0
  | .faultFrame _ _ => 0
  | .fqcredFrame _ _ => 0
  | .winackFrame _ _ => 0
  | .pegretFrame _ _ => 0
  | .nakFrame _ _ => 0
  | .arriveFrame _ _ => 0
  | .expectFrame _ _ => 0
  | .sstepFrame _ _ => 0
  | .violFrame _ _ => 0
  | .darnFrame _ _ => 0
  | .winregFrame _ _ => 0
  | .seamDeadlineFlush _ => 0
  | .windowDeadline _ => 0
  | .retuneStart _ _ => 0
  | .retuneEnd _ _ => 0
  | .uncorrectableDrift _ _ => 0
  | .lineFailure _ _ => 0
  | .modulatorLaneDeath _ _ => 0
  | .passbandShift _ => 0
  | .peerSilent _ _ => 0
  | .darningCompute => 0
  | .darnTableSwap => 0
  | .slotTableSwap _ => 0
  | .relabelApply => 0
  | .tlenChangeApply => 0
  | .fqUnbindComplete _ _ => 0
  | .put _ => 0
  | .getreq _ => 0
  | .getdata _ => 0
  | .flag _ => 0
  | .drtFlagPlace _ => 0
  | .flushreq _ => 0
  | .flushdone _ => 0
  | .ack _ => 0
  | .nack _ => 0
  | .drtPacketResend _ => 0
  | .drtMessageLost _ => 0
  | .registrationDrained _ => 0
  | .doorbell _ _ => 0
  | .managementDoorbell _ => 0
  | .queueDescriptorEnable _ => 0
  | .hostControlPageWrite _ _ => 0
  | .fcpGrant => 0
  | .preempt _ => 0
  | .restore _ _ => 0
  | .resume _ _ _ => 0
  | .gate _ => 0
  | .relabel _ _ _ => 0
  | .abort _ => 0
  | .setpeg _ _ _ _ => 0
  | .table _ _ _ => 0
  | .tlen _ _ => 0
  | .attest _ _ => 0
  | .create _ => 0
  | .destroy _ => 0
  | .boot => 0
  | .wdogWrite _ => 0
  | .fpcsrWrite _ => 0
  | .parkcfgWrite _ => 0
  | .resvcfgWrite _ => 0
  | .drtcfgWrite _ => 0
  | .drtstWrite _ => 0
  | .eqstWrite _ => 0
  | .controlRegisterWrite _ _ => 0
  | .bnkLock a n => 0x02000000 + a.val * 0x2000 + n.val * 0x200
  | .loopm a i s => 0x04000000 + a.val * 0x2000 + i.val * 0x200 + s.val * 0x40
  | .nop => 0x00000000
  | .add d a b w => 0x02000000 + d.val * 0x80000 + a.val * 0x2000 + b.val * 0x80 + w.toNat
  | .sub d a b w => 0x04000000 + d.val * 0x80000 + a.val * 0x2000 + b.val * 0x80 + w.toNat
  | .addi d a i => 0x06000000 + d.val * 0x80000 + a.val * 0x2000 + i.toNat
  | .mul d a b w => 0x08000000 + d.val * 0x80000 + a.val * 0x2000 + b.val * 0x80 + w.toNat
  | .mulh d a b => 0x0A000000 + d.val * 0x80000 + a.val * 0x2000 + b.val * 0x80
  | .mulhu d a b => 0x0C000000 + d.val * 0x80000 + a.val * 0x2000 + b.val * 0x80
  | .mad d a b => 0x0E000000 + d.val * 0x80000 + a.val * 0x2000 + b.val * 0x80
  | .div d a b => 0x10000000 + d.val * 0x80000 + a.val * 0x2000 + b.val * 0x80
  | .divu d a b => 0x12000000 + d.val * 0x80000 + a.val * 0x2000 + b.val * 0x80
  | .rem d a b => 0x14000000 + d.val * 0x80000 + a.val * 0x2000 + b.val * 0x80
  | .remu d a b => 0x16000000 + d.val * 0x80000 + a.val * 0x2000 + b.val * 0x80
  | .and d a b => 0x18000000 + d.val * 0x80000 + a.val * 0x2000 + b.val * 0x80
  | .or d a b => 0x1A000000 + d.val * 0x80000 + a.val * 0x2000 + b.val * 0x80
  | .xor d a b => 0x1C000000 + d.val * 0x80000 + a.val * 0x2000 + b.val * 0x80
  | .andn d a b => 0x1E000000 + d.val * 0x80000 + a.val * 0x2000 + b.val * 0x80
  | .shl d a b w => 0x20000000 + d.val * 0x80000 + a.val * 0x2000 + b.val * 0x80 + w.toNat
  | .shr d a b w => 0x22000000 + d.val * 0x80000 + a.val * 0x2000 + b.val * 0x80 + w.toNat
  | .sra d a b w => 0x24000000 + d.val * 0x80000 + a.val * 0x2000 + b.val * 0x80 + w.toNat
  | .shli d a c => 0x26000000 + d.val * 0x80000 + a.val * 0x2000 + c.val
  | .shri d a c => 0x28000000 + d.val * 0x80000 + a.val * 0x2000 + c.val
  | .srai d a c => 0x2A000000 + d.val * 0x80000 + a.val * 0x2000 + c.val
  | .min d a b => 0x2C000000 + d.val * 0x80000 + a.val * 0x2000 + b.val * 0x80
  | .max d a b => 0x2E000000 + d.val * 0x80000 + a.val * 0x2000 + b.val * 0x80
  | .minu d a b => 0x30000000 + d.val * 0x80000 + a.val * 0x2000 + b.val * 0x80
  | .maxu d a b => 0x32000000 + d.val * 0x80000 + a.val * 0x2000 + b.val * 0x80
  | .cmp c p a b => 0x34000000 + c.code + p.val * 0x80000 + a.val * 0x2000 + b.val * 0x80
  | .cmpi c p a i => 0x36000000 + c.code * 0x400000 + p.val * 0x80000 + a.val * 0x2000 + i.toNat
  | .sel d n a b => 0x38000000 + d.val * 0x80000 + n.val + a.val * 0x2000 + b.val * 0x80
  | .movi d i => 0x3A000000 + d.val * 0x80000 + i.toNat
  | .movhi d q h => 0x3C000000 + d.val * 0x80000 + q.val * 0x10000 + h.toNat
  | .clz d a => 0x3E000000 + d.val * 0x80000 + a.val * 0x2000
  | .popc d a => 0x40000000 + d.val * 0x80000 + a.val * 0x2000
  | .bfx d a s w p => 0x42000000 + d.val * 0x80000 + a.val * 0x2000 + s.toNat * 0x1000 + w.val * 0x40 + p.val
  | .bfi d a w p => 0x44000000 + d.val * 0x80000 + a.val * 0x2000 + w.val * 0x40 + p.val
  | .addr d a b l s => 0x46000000 + d.val * 0x80000 + a.val * 0x2000 + b.val * 0x80 + l.toNat * 0x8 + s.val
  | .pand d a b => 0x50000000 + d.val * 0x80000 + a.val * 0x2000 + b.val * 0x80
  | .por d a b => 0x52000000 + d.val * 0x80000 + a.val * 0x2000 + b.val * 0x80
  | .pxor d a b => 0x54000000 + d.val * 0x80000 + a.val * 0x2000 + b.val * 0x80
  | .pandn d a b => 0x56000000 + d.val * 0x80000 + a.val * 0x2000 + b.val * 0x80
  | .pnot d a => 0x58000000 + d.val * 0x80000 + a.val * 0x2000
  | .shw h n a => 0x60000000 + h.val * 0x80000 + n.val + a.val * 0x2000
  | .br p n o => 0x02000000 + p.val * 0x400000 + n.toNat * 0x200000 + o.toNat
  | .bp p n o => 0x04000000 + p.val * 0x400000 + n.toNat * 0x200000 + o.toNat
  | .call p n o => 0x06000000 + p.val * 0x400000 + n.toNat * 0x200000 + o.toNat
  | .ret => 0x08000000
  | .jr d a => 0x0A000000 + d.val * 0x80000 + a.val * 0x2000
  | .loopx a => 0x0C000000 + a.val * 0x2000
  | .tend => 0x10000000
  | .trap c a => 0x12000000 + c.toNat + a.val * 0x2000
  | .eret => 0x14000000
  | .bkpt c => 0x16000000 + c.toNat
  | .csrr d c => 0x20000000 + d.val * 0x80000 + c.toNat
  | .csrw c a => 0x22000000 + c.toNat + a.val * 0x2000
  | .csrx d c a => 0x24000000 + d.val * 0x80000 + c.toNat + a.val * 0x2000
  | .vpark v => 0x30000000 + v.val * 0x2000
  | .vunpark v => 0x32000000 + v.val * 0x80000
  | .vadd t d a b p r s => 0x02000000 + t.code * 0x10 + d.val * 0x100000 + a.val * 0x8000 + b.val * 0x400 + p.val * 0x80 + r.code * 0x2 + s.toNat
  | .vsub t d a b p r s => 0x04000000 + t.code * 0x10 + d.val * 0x100000 + a.val * 0x8000 + b.val * 0x400 + p.val * 0x80 + r.code * 0x2 + s.toNat
  | .vmul t d a b p r s => 0x06000000 + t.code * 0x10 + d.val * 0x100000 + a.val * 0x8000 + b.val * 0x400 + p.val * 0x80 + r.code * 0x2 + s.toNat
  | .vfma t d a b p r n => 0x08000000 + t.code * 0x10 + d.val * 0x100000 + a.val * 0x8000 + b.val * 0x400 + p.val * 0x80 + r.code * 0x2 + n.toNat
  | .vmin t d a b p => 0x0A000000 + t.code * 0x10 + d.val * 0x100000 + a.val * 0x8000 + b.val * 0x400 + p.val * 0x80
  | .vmax t d a b p => 0x0C000000 + t.code * 0x10 + d.val * 0x100000 + a.val * 0x8000 + b.val * 0x400 + p.val * 0x80
  | .vabs t d a p s => 0x0E000000 + t.code * 0x10 + d.val * 0x100000 + a.val * 0x8000 + p.val * 0x80 + s.toNat
  | .vadds t d a g p r => 0x10000000 + t.code * 0x8 + d.val * 0x100000 + a.val * 0x8000 + g.val * 0x200 + p.val * 0x40 + r.code
  | .vmuls t d a g p r => 0x12000000 + t.code * 0x8 + d.val * 0x100000 + a.val * 0x8000 + g.val * 0x200 + p.val * 0x40 + r.code
  | .vfmas t d a g p r => 0x14000000 + t.code * 0x8 + d.val * 0x100000 + a.val * 0x8000 + g.val * 0x200 + p.val * 0x40 + r.code
  | .vdiv t d a b p r => 0x18000000 + t.code * 0x10 + d.val * 0x100000 + a.val * 0x8000 + b.val * 0x400 + p.val * 0x80 + r.code * 0x2
  | .vsqrt t d a p r => 0x1A000000 + t.code * 0x10 + d.val * 0x100000 + a.val * 0x8000 + p.val * 0x80 + r.code * 0x2
  | .vcmp c t d a b p => 0x20000000 + c.code + t.code * 0x10 + d.val * 0x100000 + a.val * 0x8000 + b.val * 0x400 + p.val * 0x80
  | .vsel d n a b => 0x22000000 + d.val * 0x100000 + n.val * 0x80 + a.val * 0x8000 + b.val * 0x400
  | .vand d a b p => 0x24000000 + d.val * 0x100000 + a.val * 0x8000 + b.val * 0x400 + p.val * 0x80
  | .vor d a b p => 0x26000000 + d.val * 0x100000 + a.val * 0x8000 + b.val * 0x400 + p.val * 0x80
  | .vxor d a b p => 0x28000000 + d.val * 0x100000 + a.val * 0x8000 + b.val * 0x400 + p.val * 0x80
  | .vandn d a b p => 0x2A000000 + d.val * 0x100000 + a.val * 0x8000 + b.val * 0x400 + p.val * 0x80
  | .vshl t d a b p => 0x2C000000 + t.code * 0x10 + d.val * 0x100000 + a.val * 0x8000 + b.val * 0x400 + p.val * 0x80
  | .vshr t d a b p => 0x2E000000 + t.code * 0x10 + d.val * 0x100000 + a.val * 0x8000 + b.val * 0x400 + p.val * 0x80
  | .vsra t d a b p => 0x30000000 + t.code * 0x10 + d.val * 0x100000 + a.val * 0x8000 + b.val * 0x400 + p.val * 0x80
  | .vshli t d a p i => 0x32000000 + t.code * 0x200 + d.val * 0x100000 + a.val * 0x8000 + p.val * 0x1000 + i.toNat
  | .vshri t d a p i => 0x34000000 + t.code * 0x200 + d.val * 0x100000 + a.val * 0x8000 + p.val * 0x1000 + i.toNat
  | .vsrai t d a p i => 0x36000000 + t.code * 0x200 + d.val * 0x100000 + a.val * 0x8000 + p.val * 0x1000 + i.toNat
  | .vrcp d a p => 0x40000020 + d.val * 0x100000 + a.val * 0x8000 + p.val * 0x80
  | .vrsq d a p => 0x42000020 + d.val * 0x100000 + a.val * 0x8000 + p.val * 0x80
  | .vexp2 d a p => 0x44000020 + d.val * 0x100000 + a.val * 0x8000 + p.val * 0x80
  | .vlog2 d a p => 0x46000020 + d.val * 0x100000 + a.val * 0x8000 + p.val * 0x80
  | .vcvt t u d a p r h => 0x50000000 + t.code * 0x10 + u.code * 0x400 + d.val * 0x100000 + a.val * 0x8000 + p.val * 0x80 + r.code * 0x2 + h.toNat
  | .vbxi d a e => 0x52000030 + d.val * 0x100000 + a.val * 0x8000 + e.toNat
  | .vcvt8 d a x q p r f => 0x54000020 + d.val * 0x100000 + a.val * 0x8000 + x.toNat * 0x1000 + q.val * 0x400 + p.val * 0x80 + r.code * 0x2 + f.toNat
  | .vpack t d a b p c => 0x60000000 + t.code * 0x10 + d.val * 0x100000 + a.val * 0x8000 + b.val * 0x400 + p.val * 0x80 + c.toNat
  | .vunpack t d a p h => 0x62000000 + t.code * 0x10 + d.val * 0x100000 + a.val * 0x8000 + p.val * 0x80 + h.toNat
  | .vperm t d a b p => 0x64000000 + t.code * 0x10 + d.val * 0x100000 + a.val * 0x8000 + b.val * 0x400 + p.val * 0x80
  | .vrot t d a p s n => 0x66000000 + t.code * 0x200 + d.val * 0x100000 + a.val * 0x8000 + p.val * 0x1000 + s.toNat * 0x100 + n.toNat
  | .vbcast t d g p => 0x68000000 + t.code * 0x8 + d.val * 0x100000 + g.val * 0x200 + p.val * 0x40
  | .vext t g a x y => 0x6A000000 + t.code * 0x8 + g.val * 0x200 + a.val * 0x8000 + x.val * 0x100000 + y.val
  | .vred t o d a p r s => 0x6C000000 + t.code * 0x10 + o.code * 0x400 + d.val * 0x100000 + a.val * 0x8000 + p.val * 0x80 + r.code * 0x2 + s.toNat
  | .vscan t o d a p r s => 0x6E000000 + t.code * 0x10 + o.code * 0x400 + d.val * 0x100000 + a.val * 0x8000 + p.val * 0x80 + r.code * 0x2 + s.toNat
  | .vdot4 t d a b p s => 0x70000000 + t.code * 0x10 + d.val * 0x100000 + a.val * 0x8000 + b.val * 0x400 + p.val * 0x80 + s.toNat
  | .vmovi t d p i => 0x72000000 + t.code * 0x200 + d.val * 0x100000 + p.val * 0x1000 + i.toNat
  | .ld s z r x d a o => 0x02000000 + s.toNat * 0x800 + z.val * 0x200 + r.toNat * 0x100 + x.toNat * 0x80 + d.val * 0x80000 + a.val * 0x2000 + o.toNat
  | .st s z r d a o => 0x04000000 + s.toNat * 0x800 + z.val * 0x200 + r.toNat * 0x100 + d.val * 0x80000 + a.val * 0x2000 + o.toNat
  | .vld s e r p d a => 0x06000000 + s.toNat * 0x40 + e.code + r.toNat * 0x4 + p.val * 0x8 + d.val * 0x100000 + a.val * 0x4000
  | .vldS s e r p d a g => 0x08000000 + s.toNat * 0x40 + e.code + r.toNat * 0x4 + p.val * 0x8 + d.val * 0x100000 + a.val * 0x4000 + g.val * 0x100
  | .vst s e r p d a => 0x0A000000 + s.toNat * 0x40 + e.code + r.toNat * 0x4 + p.val * 0x8 + d.val * 0x100000 + a.val * 0x4000
  | .vgath s e r p d a b => 0x0C000000 + s.toNat * 0x40 + e.code + r.toNat * 0x4 + p.val * 0x8 + d.val * 0x100000 + a.val * 0x4000 + b.val * 0x100
  | .vscat s e r p d a b => 0x0E000000 + s.toNat * 0x40 + e.code + r.toNat * 0x4 + p.val * 0x8 + d.val * 0x100000 + a.val * 0x4000 + b.val * 0x100
  | .tlook d a => 0x10000E00 + d.val * 0x80000 + a.val * 0x2000
  | .tset d a => 0x12000E00 + d.val * 0x80000 + a.val * 0x2000
  | .tinv a m => 0x14000E00 + a.val * 0x2000 + m.toNat
  | .mop o y z s d a => 0x18000400 + o.code + y.code * 0x8 + z.toNat * 0x200 + s.toNat * 0x800 + d.val * 0x80000 + a.val * 0x2000
  | .amo o q z s d a => 0x1A000400 + o.code + q.val * 0x10 + z.toNat * 0x200 + s.toNat * 0x800 + d.val * 0x80000 + a.val * 0x2000
  | .fence c f => 0x20000000 + c.val * 0x4 + f.code
  | .tfence c => 0x22000000 + c.val * 0x4
  | .semSig a n => 0x02000000 + a.val * 0x4000 + n.val
  | .semSet a b => 0x04000000 + a.val * 0x4000 + b.val * 0x100
  | .arrive a => 0x06000000 + a.val * 0x4000
  | .arriveRlx a => 0x08000000 + a.val * 0x4000
  | .expect a b => 0x0A000000 + a.val * 0x4000 + b.val * 0x100
  | .barInit a b => 0x0C000000 + a.val * 0x4000 + b.val * 0x100
  | .tlRd a f => 0x0E000000 + a.val * 0x4000 + f.val
  | .tlInc a f => 0x0E100000 + a.val * 0x4000 + f.val
  | .tlAcq d a f => 0x10000000 + d.val * 0x100 + a.val * 0x4000 + f.val
  | .taskDec a => 0x12000000 + a.val * 0x4000
  | .taskPost a b => 0x14000000 + a.val * 0x4000 + b.val * 0x100
  | .bkOpen a x => 0x16000000 + a.val * 0x4000 + x.toNat
  | .bkClose a => 0x18000000 + a.val * 0x4000
  | .bkGive a b => 0x1A000000 + a.val * 0x4000 + b.val * 0x100
  | .bkInit a b => 0x1C000000 + a.val * 0x4000 + b.val * 0x100
  | .cpGo h c w => 0x20000000 + h.val * 0x400000 + c.val * 0x100000 + w.toNat * 0x80
  | .cpGath h c w => 0x22000000 + h.val * 0x400000 + c.val * 0x100000 + w.toNat * 0x80
  | .cpScat h c w x => 0x24000000 + h.val * 0x400000 + c.val * 0x100000 + w.toNat * 0x80 + x.toNat
  | .cpFill h c w => 0x26000000 + h.val * 0x400000 + c.val * 0x100000 + w.toNat * 0x80
  | .cpChk h c w x => 0x28000000 + h.val * 0x400000 + c.val * 0x100000 + w.toNat * 0x80 + x.toNat
  | .cpTabwL a b => 0x2A000000 + a.val * 0x4000 + b.val * 0x100
  | .cpTabwR a b => 0x2A100000 + a.val * 0x4000 + b.val * 0x100
  | .cpTabrL a b h => 0x2C000000 + a.val * 0x4000 + b.val * 0x100 + h.toNat
  | .cpTabrR a b => 0x2C100000 + a.val * 0x4000 + b.val * 0x100
  | .mxCfg a b => 0x40000000 + a.val * 0x4000 + b.val * 0x100
  | .mxGo h w g => 0x42000000 + h.val * 0x100000 + w.toNat * 0x80 + g.toNat
  | .mxWload h w => 0x44000000 + h.val * 0x100000 + w.toNat * 0x80
  | .mxDrain h a w => 0x46000000 + h.val * 0x100000 + a.val * 0x4000 + w.toNat * 0x80
  | .mxAcc a b i => 0x48000000 + a.val * 0x4000 + b.val * 0x100 + i.toNat
  | .mxHad a i => 0x4A000000 + a.val * 0x4000 + i.toNat
  | .mxFmt a b => 0x4C000000 + a.val * 0x4000 + b.val * 0x100
  | .mxZero a => 0x4E000000 + a.val * 0x4000
  | .mxRd v a => 0x50000000 + v.val * 0x100000 + a.val * 0x4000
  | .vpFwd h w => 0x60000000 + h.val * 0x100000 + w.toNat * 0x80
  | .vpBwd h w => 0x62000000 + h.val * 0x100000 + w.toNat * 0x80
  | .vpMerge a b => 0x64000000 + a.val * 0x4000 + b.val * 0x100
  | .vpRd v a i => 0x66000000 + v.val * 0x100000 + a.val * 0x4000 + i.toNat
  | .eqUnite h w f => 0x70000000 + h.val * 0x100000 + w.toNat * 0x80 + f.val
  | .eqUniteNew a f => 0x70000004 + a.val * 0x4000 + f.val
  | .eqFind h w f => 0x72000000 + h.val * 0x100000 + w.toNat * 0x80 + f.val
  | .eqRelab h w o f => 0x74000000 + h.val * 0x100000 + w.toNat * 0x80 + o.code * 0x4 + f.val
  | .eqSnap f => 0x76000000 + f.val
  | .eqUndo f => 0x78000000 + f.val
  | .eqCommit x f => 0x7A000000 + x.toNat * 0x4 + f.val
  | .eqSize a b f => 0x7C000000 + a.val * 0x4000 + b.val * 0x100 + f.val
  | .fsSend h c w => 0x80000000 + h.val * 0x400000 + c.val * 0x100000 + w.toNat * 0x80
  | .fsPost h c b w => 0x82000000 + h.val * 0x400000 + c.val * 0x100000 + b.val * 0x100 + w.toNat * 0x80
  | .fqBind i a => 0x84000000 + i.val * 0x100000 + a.val * 0x4000
  | .pegRd a b r => 0x86000000 + a.val * 0x4000 + b.val * 0x100 + r.toNat
  | .rld k a b r x z => 0x88000000 + k.val * 0x100000 + a.val * 0x4000 + b.val * 0x100 + r.toNat * 0x10 + x.toNat * 0x8 + z.val
  | .rst k a b r z => 0x8A000000 + k.val * 0x100000 + a.val * 0x4000 + b.val * 0x100 + r.toNat * 0x10 + z.val
  | .ramo o q z k a b => 0x8C000000 + o.code + q.val * 0x10 + z.toNat * 0x40 + k.val * 0x100000 + a.val * 0x4000 + b.val * 0x100
  | .rwinReg a b => 0x8E000000 + a.val * 0x4000 + b.val * 0x100
  | .rwinAdd w h c => 0x8E100000 + w.toNat * 0x80 + h.val * 0x4 + c.val
  | .rwinPread a b => 0x8E200000 + a.val * 0x4000 + b.val * 0x100
  | .rwinAbort a => 0x8E300000 + a.val * 0x4000
  | .chase k a b t c => 0x90000000 + k.val * 0x100000 + a.val * 0x4000 + b.val * 0x100 + t.toNat * 0x2 + c.toNat
  | .capld k a s => 0x92000000 + k.val * 0x100000 + a.val * 0x4000 + s.toNat
  | .capst k a s => 0x94000000 + k.val * 0x100000 + a.val * 0x4000 + s.toNat
  | .capmkNew k a => 0x96000000 + k.val * 0x100000 + a.val * 0x4000
  | .capmkDer k a s => 0x96000001 + k.val * 0x100000 + a.val * 0x4000 + s.val * 0x100
  | .capmkRev a => 0x96000002 + a.val * 0x4000
  | .capchk k a b z x => 0x98000000 + k.val * 0x100000 + a.val * 0x4000 + b.val * 0x100 + z.val * 0x8 + x.code
  | .rmaPut k a b t => 0xA0000000 + k.val * 0x100000 + a.val * 0x4000 + b.val * 0x100 + t.toNat
  | .rmaGet k a b => 0xA2000000 + k.val * 0x100000 + a.val * 0x4000 + b.val * 0x100
  | .rmaFlag k a b => 0xA4000000 + k.val * 0x100000 + a.val * 0x4000 + b.val * 0x100
  | .rmaFlush => 0xA6000000
  | .rmaReg k a => 0xA8000000 + k.val * 0x100000 + a.val * 0x4000
  | .rmaRev k => 0xAA000000 + k.val * 0x100000
  | .frameCrcFailure _ _ => 0
  | .reservedKindFrame _ _ => 0
  | .drtPacketBadCrc => 0
  | .translationInvalidation _ _ _ => 0
  | .invalidationAcknowledgement _ _ => 0
  | .seamPartialDiscard _ => 0
  | .sramBankRetirement _ _ => 0
  | .hbmChannelRetirement _ => 0

/-- Bits 32k + 31 down to 32k of a bundle: part k in the order header, X0, X1, BR, VA, VB, MM, EN (R76). -/
def bundlePart (b : Bundle) (k : Nat) : Nat := b.toNat / 2 ^ (32 * k) % 2 ^ 32

/-- Where a bare word is tried, in this order: the maps whose formats reserve the most bits come first [6]. -/
def classOrder : List SlotClass := [.en, .mm, .br, .v, .x, .pfx]

/-- The first slot class that reads a bare word, and the instruction it reads [6]. -/
def decodeWord (w : Nat) : Option (SlotClass × Instr) :=
  classOrder.firstM fun c => (decode c w).map fun i => (c, i)

/-- The bundle that holds one syllable of the given class and nops elsewhere (R76, R83). -/
def bundleOf (c : SlotClass) (w : Nat) : Bundle :=
  match c with
  | .pfx => BitVec.ofNat 256 (2 ^ 31 + w % 2 ^ 32 * 2 ^ 32)
  | .x => BitVec.ofNat 256 (w % 2 ^ 32 * 2 ^ 32)
  | .br => BitVec.ofNat 256 (w % 2 ^ 32 * 2 ^ 96)
  | .v => BitVec.ofNat 256 (w % 2 ^ 32 * 2 ^ 128)
  | .mm => BitVec.ofNat 256 (w % 2 ^ 32 * 2 ^ 192)
  | .en => BitVec.ofNat 256 (w % 2 ^ 32 * 2 ^ 224)

/-- The instruction that a word of the opcode table stands for: 32 bits are one syllable, up to 256 a whole bundle. -/
def decodeTableWord (nbits w : Nat) : Option Instr :=
  if nbits ≤ 32 then (decodeWord (w % 2 ^ 32)).map Prod.snd
  else if nbits ≤ 256 then some (.bundleIssue [BitVec.ofNat 256 w])
  else none

end Sys2Proof
end

