-- ==== Sys2Proof/Machine/State.lean ====
section
/-! DEFINITION. The state of one Kyura K2 die: its cores, engines, contexts, die units, memories and fabric port, and
the inputs it has still to take. Plain data only.

A core record belongs to one context and one logical core (R24, R235); its key is 512 * context + core. Tables are
`SMap`s whose unlisted entries hold the creation value of R397. -/

namespace Sys2Proof.Machine

/-- Why the machine stops. -/
inductive Fault where
  /-- Raised by a host frame with CTX 0xFFFF (R393) whose physical address names neither HBM of the die nor the
  control page, mirror or catalogue windows. Safe: the machine stops where no storage exists. -/
  | absentPhysical (addr : Nat)
  deriving DecidableEq, Repr

/-- Why an instruction has no meaning. -/
inductive Refusal where
  /-- Raised by an arm of Dispatch.lean that has no meaning yet. Safe: the machine stops. -/
  | notModelled (mnemonic : String)
  deriving DecidableEq, Repr

/-! ### Results, accesses and engine operations of a core -/

/-- Where a result goes: physical registers (R127), the handler bank (R228), a FIFO (R89), a shape field (R246). -/
inductive Dest where
  | none
  | g (i : Nat)
  | hb (i : Nat)
  | p (i : Nat)
  | v (i : Nat)
  | k (i : Nat)
  | fo (i : Nat)
  | shape (h f : Nat)
  deriving DecidableEq, Repr

/-- A result's value. -/
inductive Val where
  | s (x : Word)
  | v (x : VWord)
  | k (x : BitVec 128) (tag : Bool)
  deriving DecidableEq, Repr

/-- A fixed-latency result in flight (R91): it lands at the end of issue cycle `land - 1`, that is, once the core's
issue-cycle count has reached `land`. -/
structure Exposed where
  dest  : Dest
  val   : Val
  land  : Nat
  flags : BitVec 5
  /-- Order of issue (R93): twice the id of the load it comes from, or one more than twice the core's count of accesses
  and engine operations when it was issued. -/
  ord   : Nat
  /-- The source operands of its operation, and the other core's value when a checked pair disagrees about it (R237). -/
  src   : List Val := []
  second : Option Val := none
  deriving DecidableEq, Repr

/-- One element, lane or record of an access (R197): its space, address, element index and operation. -/
structure Elem where
  sp   : Bool
  addr : Word
  ix   : Nat
  op   : MemOp
  deriving DecidableEq, Repr

/-- How a load's bytes become the register value. -/
inductive LoadFmt where
  | none
  | scalar (n : Nat) (sx : Bool)
  | vector (w : Nat)
  | cap
  deriving DecidableEq, Repr

/-- What an entry of the access queue does (R165). -/
inductive AccOp where
  /-- Loads, stores, atomics, bank-side operations and task-record operations, element by element. -/
  | mem (els : List Elem) (fmt : LoadFmt) (order : Nat)
  | fence (scope : Nat) (kind : FenceKind)
  | tfence (scope : Nat) (waiting : List Nat) (sent : Bool)
  | arrive (name : Word) (rlx : Bool)
  | expect (name : Word) (n : Nat)
  | tlInc (t : Nat)
  | tlAcq (t : Nat) (n : Word)
  | bkClose (b next : Nat)
  /-- A scalar access through a capability (R323 to R326): target, generation. -/
  | remote (el : Elem) (fmt : LoadFmt) (order : Nat) (gen : Option (BitVec 8))
  /-- rwin.reg (R328): the descriptor's address, the slot taken, the seams that have not answered. -/
  | rwinReg (addr : Word) (slot : Option Nat) (waiting : List Nat)
  deriving DecidableEq, Repr

/-- An entry of the access queue: an unperformed access of the core (R165). -/
structure Access where
  id     : Nat
  op     : AccOp
  dest   : Dest
  /-- A later write has superseded the register write (R93). -/
  dead   : Bool
  /-- Issue-cycle count at which a scratchpad load's result lands (R92); 0 for an interlocked result. -/
  land   : Nat
  /-- Entries of the queue it takes (R165). -/
  ents   : Nat
  /-- Loads: the image gathered so far, from the value the register held at issue. -/
  img    : VWord
  /-- Its head element has been sent to another die and is awaited. -/
  sent   : Bool
  /-- Landing slots of the task stream it holds (R314). -/
  slots  : Nat
  who    : Who
  epc    : Word
  /-- Slot, stage and word of its syllable (R226, R235). -/
  slot   : Nat := 0
  stg    : Nat := 0
  syl    : BitVec 32 := 0
  /-- A `.rx` load that the port has found uncovered: it goes to its owner (R173). -/
  via    : Bool := false
  /-- A release: the cycle from which it may take effect, the one after all it awaits was done; 0 until then (R170). -/
  ripe   : Nat := 0
  /-- The address its image entry gives: that of a scalar access, or the base of a vector form (R235). -/
  base   : Word := 0
  /-- The 64 indices of a gather or scatter (R235). -/
  idx    : VWord := 0
  /-- A scratchpad load that yields, should it come back past its latency, to an interlocked result issued after it (R93). -/
  yields : Bool := false
  deriving DecidableEq, Repr

/-- An interlocked result that has been performed and returns next (R93). -/
structure Return where
  id   : Nat
  dest : Dest
  dead : Bool
  val  : Val
  deriving DecidableEq, Repr

/-- An engine operation's kind with its operands (R241, R311, R371). -/
inductive EngKind where
  | cpGo | cpGath | cpScat (add : Bool) | cpFill | cpChk (cmp : Bool)
  | mxGo (go : Bool) | mxWload | mxDrain (t e : Nat) | mxAcc (d s : Nat) (f : BitVec 32) (i32 : Bool)
  | mxHad (t : Nat) (i32 : Bool) | mxZero (mask : Nat) | mxRd (d : Dest) (t p : Nat)
  | fsSend | fsPost (bar : Word) | rwinAdd
  | rldBlk (addr : Word) (gen : Option (BitVec 8)) (off n : Nat) (rx : Bool)
  | rstBlk (addr : Word) (gen : Option (BitVec 8)) (off n : Nat) (rx : Bool)
  | rwinPread (slot : Nat) (dst : Word) | rwinAbort (slot : Nat)
  | chase (p : ChasePkt)
  | vpFwd | vpBwd | vpMerge (a b : Nat) | vpRd (d : Dest) (a : Nat) (ix : Bool)
  | eqUnite (fs : Nat) | eqNew (fs : Nat) (a : Word) | eqFind (fs : Nat) | eqRelab (fs : Nat) (o : RelabOp)
  | eqSnap (fs : Nat) | eqUndo (fs : Nat) | eqCommit (fs : Nat) (free : Bool) | eqSize (fs : Nat) (d : Dest) (a : Word)
  | rmaPut (cap : BitVec 128) (off : Word) (src : Word) (len : Nat) (tg : Bool)
  | rmaGet (cap : BitVec 128) (off : Word) (dst : Word) (len : Nat)
  | rmaFlag (cap : BitVec 128) (off : Word) (v : Word)
  | rmaFlush | rmaRev (slot : Nat)
  deriving DecidableEq, Repr

/-- An operation in an engine's queue with the values captured at issue (R243) and its saved position (R245). -/
structure EngOp where
  n      : Nat
  kind   : EngKind
  shape  : List Word
  loops  : List (BitVec 128)
  fmt    : List (BitVec 32)
  /-- Static fields of the ring-table entries it names: (ring, entry) pairs. -/
  rings  : List (Nat × Word)
  fp8sat : Bool
  q      : Nat
  epc    : Word
  /-- Slot and stage of its syllable (R226). -/
  slot   : Nat := 0
  stg    : Nat := 0
  /-- Order of issue across the core's queues (R381). -/
  order  : Nat
  /-- The accesses of its task before it have been performed (R170). -/
  given  : Bool := false
  /-- The cycle from which that is so: the operation fires no earlier. -/
  from_  : Nat := 0
  /-- The granules that those of them performed since its issue have touched, each with the agent and the time (R170, R175). -/
  edge   : List (Nat × Nat × Nat) := []
  /-- The cycle in which it may complete, the one after its last effect; 0 until then (R170). -/
  ripe   : Nat := 0
  fired  : Bool
  ended  : Bool
  /-- A later write has superseded its register write (R93). -/
  dead   : Bool
  inB    : List Nat
  outB   : List Nat
  pos    : Nat
  /-- What the operation carries from one step to the next (checksum, running state). -/
  aux    : List Word
  /-- What the accesses that the present step has already made gave, in order, with their poison marks: a step that stopped
  goes on from the access at which it stopped (R245). -/
  log    : List (List Byte × Bool) := []
  /-- The answer to its block request to another die. -/
  replies : List (List Byte)
  /-- Landing slots it holds, runs and replies still awaited (R314, R320). -/
  slots  : Nat
  /-- 0: it may go on; 1: a reply is awaited; 2: it faulted and waits for the resume (R245). -/
  await  : Nat
  deriving DecidableEq, Repr

/-- A named barrier (R42, R216). -/
structure Barrier where
  base  : Nat
  extra : Nat
  arr   : Nat
  ph    : Nat
  rlen  : Nat
  rlist : Word
  sem   : Option Nat
  deriving DecidableEq, Repr

/-- A barrier event of the current cycle (R43): `from` 0 the local core, 1 remote, 2 an expectation of `n`. -/
structure BarEvent where
  bar  : Nat
  from_ : Nat
  n    : Nat
  /-- The rank and request that await a DONE word for the arrival (R321). -/
  ret  : Option (Nat × Ret)
  deriving DecidableEq, Repr

/-- A semaphore change of the current cycle (R210). -/
inductive SemOp where
  | set (i v : Nat)
  | take (i n : Nat)
  | inc (i n : Nat)
  deriving DecidableEq, Repr

/-- A tag-table entry (R158). -/
structure TagEntry where
  block  : Nat
  basket : Nat
  deriving DecidableEq, Repr

/-- Where a parked register image lies (R136): a column pair of a tile, or the spill basket. -/
inductive ParkLoc where
  | col (tile pair : Nat)
  | spill (off : Nat)
  deriving DecidableEq, Repr

/-- A spill-map entry (R133): the physical register and where its image lies. -/
structure Parked where
  idx   : Nat
  loc   : ParkLoc
  deriving DecidableEq, Repr

/-- A fabric FIFO pair (R316, R317): binding (peer rank, core, pair), words, the credits the peer has given. -/
structure Fifo where
  peer  : Option (Nat × Nat × Nat)
  fi    : List Word
  fo    : List Word
  /-- Entries of fo reserved at issue by results in flight (R89). -/
  resv  : Nat
  cred  : Nat
  /-- Credits that others have given, by giver: a binding to one of them finds them (R316). -/
  gifts : List ((Nat × Nat × Nat) × Nat)
  owed  : Nat
  unbinding : Bool
  deriving DecidableEq, Repr

/-- An owed SDONE signal (R208, R235): the accesses, results and operation its bundle still waits for. -/
structure Owed where
  sem  : Nat
  inc  : Nat
  accs : List Nat
  land : Nat
  op   : Option (Nat × Nat)
  deriving DecidableEq, Repr

/-- The modulo sequencer (R129). -/
structure Sequencer where
  active : Bool
  n      : Nat
  ii     : Nat
  sc     : Nat
  body   : Word
  j      : Nat
  k      : Nat
  rho    : Nat
  deriving DecidableEq, Repr

/-- A bank lock (R222): the mask, the bundles still to issue under it. -/
structure BankLock where
  mask : BitVec 32
  left : Nat
  deriving DecidableEq, Repr

/-- An R21 condition and its object (R22, R409), and the slot and stage of the syllable or header it holds (R226). -/
structure Hold where
  sub : Nat
  obj : Nat
  tl  : Nat
  slot : Nat := 0
  stg : Nat := 0
  deriving DecidableEq, Repr

/-- An entry of the ready queue (R37, R39), or of an overflow list. -/
structure Ready where
  ctx  : Nat
  addr : Word
  prio : Nat
  lw   : Nat
  lh   : Nat
  x0   : Nat
  y0   : Nat
  at_  : Nat
  q    : Nat
  deriving DecidableEq, Repr

/-- A task at its start (R33, R37): its context, entry, preloaded g1 to g8, acquire time and origin. -/
structure Task where
  ctx    : Nat
  entry  : Word
  regs   : List Word
  q      : Nat
  /-- A walker iteration's launch and ordinal. -/
  launch : Option (Nat × Nat)
  /-- A record task's ready entry, as it was dispatched (R38, R48). -/
  record : Option Ready
  done   : Word
  prio   : Nat
  deriving DecidableEq, Repr

/-- A trap the core stopped on (R230): its class code and the reissue rule (R224). -/
structure Stop where
  code : Nat
  between : Bool
  /-- The local pages that the faulting access needs (R168). -/
  need : List Nat := []
  deriving DecidableEq, Repr

/-- What follows the commit of the bundle now issuing (R25, R82, R124, R229): the next bundle, a taken branch, a
loop, the task's end, or the return from the handler. A core keeps `tend` while the task's last loads are awaited, and
`eret` while the handler's last operations are. -/
inductive After where
  | next
  | branch (target : Word)
  /-- A loopm prefix: its body or the bundle after it, with no branch cycles (R124). -/
  | loop (target : Word)
  | tend
  | eret
  deriving DecidableEq, Repr

/-- The snapshot of the exposed pipeline (R232), with the sequencer state saved beside it (R228), what the bundle at the
boundary still awaited, and the owed signals that wait for the snapshot's results. -/
structure Snapshot where
  results : List Exposed
  icycle  : Nat
  accs    : List Access
  rets    : List Return
  seq     : Sequencer
  lock    : Option BankLock
  pc      : Word
  issued  : Nat
  after   : After
  sdone   : List Owed
  deriving DecidableEq, Repr

/-- The control registers of a core's context (addresses in the docstrings of Machine/Csr.lean). -/
structure Csrs where
  wdog    : Word
  fpcsr   : Word
  mxst    : Word
  parkcfg : Word
  syncst  : Word
  gxcfg   : Word
  gxoob   : Word
  tcause  : Word
  epc     : Word
  tval    : Word
  tinfo   : Word
  tvec    : Word
  tdeleg  : Word
  cpoob   : List Word
  resvcfg : Word
  drtcfg  : Word
  drtst   : Word
  fqst    : Word
  eqst    : Word
  deriving DecidableEq, Repr

/-- What a trap says about its cause (R226, R409). -/
structure Cause where
  code  : Nat
  sub   : Nat
  slot  : Nat
  stg   : Nat
  obj   : Nat
  tl    : Nat
  eng   : Bool
  asy   : Bool
  tval  : Word
  tinfo : Word
  /-- The local pages the faulting access needs (R168). -/
  need  : List Nat := []
  /-- The owner that is told of a failed capability or window check, and the capability it was made on (R299). -/
  viol  : Option (Nat × BitVec 128) := none
  deriving DecidableEq, Repr

/-- The tests an instruction's own rules give it: illegal operands, alignment, domain or capability (R197, R312), and
the R21 condition that its operands name. -/
structure Tests where
  opnd  : Option Cause
  align : Option Cause
  dom   : Option Cause
  hold  : Option Hold
  /-- Entries of the access queue it needs (R165). -/
  ents  : Nat
  /-- Landing slots of the task stream that its request needs (R294). -/
  slots : Nat := 0
  deriving DecidableEq, Repr

/-- How the syllables of a core meet their tests [13]: each on its own; collected for the bundle that issues, none having
any effect; or run, the bundle's tests having passed (R80). -/
inductive Phase where
  | alone
  | test
  | run
  deriving DecidableEq, Repr

/-- The state of one context on one logical core (R12, R24, R235). -/
structure Core where
  task    : Option Task
  /-- The running task's first bundle has issued. -/
  begun   : Bool
  staged  : Option Task
  stop    : Option Stop
  /-- Its context has been restored and the core has yet to resume: its gangs are being re-acquired, or another context's
  task runs on the hardware (R26, R49, R236). -/
  waits   : Bool
  serial  : Nat
  pc      : Word
  g       : List Word
  hbank   : List Word
  p       : List Word
  v       : List VWord
  k       : List (BitVec 128 × Bool)
  q       : Nat
  /-- The die's epoch when the task started (R163). -/
  epoch   : Nat
  /-- The latest acquire time of the values the task's relaxed atomics have read (R175). -/
  relq    : Nat
  icycle  : Nat
  /-- Branch cycles still to pass (R81). -/
  idle    : Nat
  issued  : Nat
  results : List Exposed
  pops    : List Nat
  /-- Set and cleared inside a bundle's own step [13]. -/
  phase   : Phase
  /-- The tests its syllables have posed: slot, stage, syllable, tests. -/
  posed   : List (Nat × Nat × Instr × Tests)
  /-- The slot (R226) and the loopm stage (R125, 0 outside composites) of the syllable now issuing. -/
  slot    : Nat
  stg     : Nat
  after   : After
  accs    : List Access
  rets    : List Return
  csrws   : List (Nat × Word)
  seq     : Sequencer
  lock    : Option BankLock
  held    : Nat
  hold    : Option Hold
  csr     : Csrs
  sems    : SMap Nat
  semOps  : List SemOp
  /-- Completion time of the latest barrier phase whose signal a semaphore's count includes (R44, R175). -/
  semq    : SMap Nat
  bars    : SMap Barrier
  barEvs  : List BarEvent
  tl      : SMap Word
  tlOps   : SMap Nat
  tlTimes : SMap Nat
  baskets : SMap Word
  /-- Pod time of a basket's last transition into full or free (R159, R175). -/
  bkTimes : SMap Nat
  tags    : SMap (Option TagEntry)
  spill   : List Parked
  fmtTab  : SMap (BitVec 32)
  loopTab : SMap (BitVec 128)
  ringTab : SMap Word
  mxTab   : SMap (BitVec 128)
  active  : SMap Word
  shadow  : SMap Word
  tiles   : SMap (BitVec 32)
  /-- The weight buffer's bytes that have been loaded; the others read 0 (R397). -/
  wbuf    : SMap Byte
  /-- R381: the bytes not listed are unspecified since this stamp [8]. -/
  wfree   : Option Nat
  alloc   : List (Nat × Nat)
  engs    : SMap (List EngOp)
  sdone   : List Owed
  fifos   : SMap Fifo
  landing : SMap Nat
  inH     : Bool
  snap    : Option Snapshot
  reports : List Report
  asyncs  : List Report
  livelock : Option (Word × Nat × Nat × Nat)
  /-- Consecutive mismatches and the EPC they occurred at (R238), lane-parity errors at this bundle, and the tile and K block
  of the last residue failure (R240). -/
  mismatch : Nat
  missPc  : Word
  parity  : Nat
  residue : Option (Nat × Nat × Nat)
  /-- A physical fault that the next conversion of this timeline's tile and K block will meet (R68). -/
  faulty  : Option (Nat × Nat × Nat)
  deriving DecidableEq, Repr

/-! ### Contexts, launches and the ready queue -/

/-- A context (R47, R234, R397). -/
structure Ctx where
  checked  : Bool
  service  : Bool
  resident : Bool
  status   : Nat
  area     : Nat
  members  : List Nat
  zsize    : Nat
  ncore    : Nat
  layout   : Nat
  launch   : Nat
  fifoimg  : Nat
  tring    : Nat
  thead    : Nat
  ptroot   : Nat
  wintab   : Nat
  grptab   : Nat
  trapSeq  : Nat
  /-- R40: multi-die launches started so far, per group. -/
  multi    : SMap Nat
  deriving DecidableEq, Repr

/-- Where a launch stands (R31, R32). -/
inductive LaunchPhase where
  | reserving
  | backoff (until_ : Nat)
  | committed
  /-- Its gang is released (R41); its DONEREC's decrement is 0 still to be made, 1 sent and not answered, 2 made. -/
  | finishing (st : Nat)
  deriving DecidableEq, Repr

/-- A started launch (R27 to R41). -/
structure Launch where
  seq     : Nat
  ctx     : Nat
  record  : BitVec 512
  recAddr : Word
  phase   : LaunchPhase
  held    : List Nat
  k       : Nat
  step    : Nat
  ord     : Nat
  last    : Nat
  given   : List Nat
  running : Nat
  start   : Nat
  kth     : Nat
  told    : Bool
  queue   : Option Nat
  /-- It held its gang when its context was pre-empted (R48, R49). -/
  had     : Bool
  deriving DecidableEq, Repr

/-! ### Front-end command processor -/

/-- An open loop level of a step program (R360): first step, count, counter. -/
structure LoopLevel where
  first : Nat
  count : Nat
  c     : Nat
  deriving DecidableEq, Repr

/-- A collective instance (R358, R365, R370): its program, SEQ, step, loops and position in the step. -/
structure Instance_ where
  prog  : List Word
  seq   : Nat
  step  : Nat
  loops : List LoopLevel
  /-- Slots of the current step sent and taken, blocks consumed, and bytes taken that are not yet consumed. -/
  out   : Nat
  inn   : Nat
  blocks : Nat
  data  : List Byte
  /-- The header of the transfer being taken. -/
  head  : List Byte
  ovf   : Bool
  start : Nat
  /-- The status it fails with at its next grant, after a fault reported by another die. -/
  bad   : Nat
  /-- The adds that its last grant has still to make: peer, counter, amount (R365); they wait for a page of this die (R353). -/
  adds  : List (Nat × Nat × Nat)
  deriving DecidableEq, Repr

/-- An accepted command (R352, R394, R395). -/
structure Cmd where
  words : BitVec 512
  addr  : Nat
  num   : Nat
  jseq  : Nat
  ridx  : Nat
  started : Bool
  inst  : Option Instance_
  deriving DecidableEq, Repr

/-- The FCP (R349 to R370). -/
structure Fcp where
  cmds    : SMap (List Cmd)
  /-- The cycle from which a queue's next command may start: the one after the completion before it (R170, R349). -/
  readyAt : SMap Nat
  lastQ   : SMap Nat
  dt      : SMap Word
  dtOps   : SMap Nat
  dtDone  : SMap (List Nat)
  dtTimes : SMap Nat
  seq     : Nat
  launches : List Launch
  ready   : List Ready
  overflow : List Ready
  sstep   : List (Nat × Nat × Nat × Nat × Nat)
  /-- Decrements and STATE changes of records whose page is being brought back (R37, R167): context, address, STATE. -/
  pendDec : List (Nat × Word)
  pendMark : List (Nat × Word × Nat)
  underflow : Nat
  refusals  : Nat
  deriving DecidableEq, Repr

/-! ### CP, EQE, regions, registrations -/

/-- Host control page registers (R393). -/
structure Page where
  qdbase  : Word
  mring   : Word
  msize   : Word
  chunk   : Word
  lowmark : Word
  airbase : Word
  airsize : Word
  chkbase : Word
  npm1    : Word
  drtpfx  : Word
  jbase   : Word
  jlog    : Word
  jnext   : Nat
  secnt   : List Nat
  bootst  : Word
  deriving DecidableEq, Repr

/-- What the CP logs (R37, R178, R216, R299, R308, R410): a kind, two words. -/
structure LogEntry where
  kind : Nat
  a    : Nat
  b    : Nat
  time : Nat
  /-- A failed race check of a die unit: the recorded agent and its time (R178). -/
  agent : Nat := 0
  seen  : Nat := 0
  deriving DecidableEq, Repr

/-- What a die unit has still to do in memory: a write, an entry of a release list, the decrement of a record that such an entry
has named, the completion of a timeline's operation that follows them (R216, R306). -/
inductive UnitOp where
  | write (a : Word) (bs : List Byte)
  | release (a : Word)
  | dec (a : Word)
  | complete (q n : Nat)
  deriving DecidableEq, Repr

/-- An operation of a die unit for a context, with its acquire time. Jobs of one lane keep their order. -/
structure UnitJob where
  lane : Nat
  ctx  : Nat
  unit : Nat
  q    : Nat
  op   : UnitOp
  deriving DecidableEq, Repr

/-- The CP (R396, R399): management ring, journal mirror, log; and the memory operations that die units have waiting, for a
page, a bank lock or a landing slot (R167, R222, R294). -/
structure Cp where
  mhead  : Nat
  mtail  : Nat
  /-- The accepted management commands that have not been served. -/
  mcmds  : List Cmd
  mirror : SMap (BitVec 512)
  log    : List LogEntry
  jobs   : List UnitJob
  deriving DecidableEq, Repr

/-- An EQE forest slot (R383, R384, R390). -/
structure Forest where
  owner : Nat
  n     : Nat
  back  : Word
  log   : Word
  open_ : Option Nat
  deriving DecidableEq, Repr

/-- A region-table entry (R299, R339). -/
structure Region where
  base : Nat
  len  : Nat
  gen  : BitVec 8
  ctx  : Nat
  deriving DecidableEq, Repr

/-- A DRT registration (R344, R345). -/
structure Registration where
  base : Nat
  len  : Nat
  perms : BitVec 6
  gen  : BitVec 8
  ctx  : Nat
  closing : Bool
  started : Nat
  /-- The rma.rev waiting for it: core key, operation number. -/
  waiter : Option (Nat × Nat)
  deriving DecidableEq, Repr

/-- Layer gating, retirement and shape (R5, R7, R16, R402, R404). -/
structure Shape where
  gate    : Nat
  meshW   : Nat
  meshH   : Nat
  hbmCh   : Nat
  lanesSh : Nat
  lanesCl : Nat
  spares  : List Nat
  retired : List (Nat × Nat)
  /-- HBM channels retired since boot (R403). -/
  badCh   : List Nat
  records : List (Nat × List Nat)
  stored  : Nat
  /-- The sequence number of the last record applied, and the losses that found the store full (R402, R408). -/
  applied : Nat
  unkept  : List (List Nat)
  catalogue : List Byte
  deriving DecidableEq, Repr

/-- An aired page (R167): its bytes, its tagged 16-byte granules (R297) and, with epoch and offset, what its bytes held before stores
that fetch may not see yet (R163). -/
structure Aired where
  bytes : List Byte
  tags  : List Nat
  prior : List (Nat × Nat × Byte)
  deriving DecidableEq, Repr

/-- Airing (R167): the aired pages by record index, the next record index, the clock hand, the zone's bytes in use, the frames
that airing has freed. -/
structure Airing where
  zone : SMap Aired
  next : Nat
  hand : Nat
  used : Nat
  free : List Nat
  deriving DecidableEq, Repr

/-! ### Fabric port and DRT -/

/-- A reduction window at its home (R303, R306, R328). It exists under its name once `active`, from the OK result of its registration on;
`waiting` are the seams that have not answered the registration. Status 4 is the model's own: the registration was refused. -/
structure Window where
  desc    : BitVec 256
  members : List Nat
  status  : Nat
  active  : Bool
  waiting : List Nat
  parts   : SMap (List Word)
  merged  : SMap (List Nat)
  late    : Nat
  ovf     : Bool
  ctx     : Nat
  core    : Nat
  opNum   : Nat
  aborter : Option (Nat × Nat)
  /-- Seams that have been told that the window is over and have not acknowledged it (R328, R331). -/
  told    : List Nat := []
  deriving DecidableEq, Repr

/-- A seam's partial (R304): window name, members of its shelf, partials and contributors per frame. -/
structure Seam where
  name    : Word
  desc    : BitVec 256
  members : List Nat
  ctx     : Nat
  parts   : SMap (List Word)
  merged  : SMap (List Nat)
  sent    : List Nat
  deriving DecidableEq, Repr

/-- A frame in a transmit queue or in the replay store (R284, R291). -/
structure Sent where
  link  : Link
  frame : Frame
  /-- When it was last sent; none in the replay store for a frame that waits to be sent again. -/
  sentAt : Option Nat
  tries : Nat
  /-- The receive slot, by link, channel and SEQ, that is freed when this frame is sent: the slot of the frame it forwards, or of the
  request it answers (R292). -/
  frees : Option (Link × Nat × Nat) := none
  /-- A frame passing an in-plane relay: it keeps the SEQ, pegs and replay copy of its sender (R309). -/
  transit : Bool := false
  deriving DecidableEq, Repr

/-- A store of this die that its owner has not answered: context, owner rank, request, address, bytes; `last` when its answer
ends a run (R173, R320). -/
structure OutStore where
  ctx  : Nat
  rank : Nat
  ret  : Ret
  addr : Word
  data : List (Option Byte)
  last : Bool
  deriving DecidableEq, Repr

/-- The Bamlux port (R272 to R310). -/
structure Port where
  rank    : Nat
  pod     : Nat
  pos     : Nat × Nat
  relabel : SMap (Option (Nat × Nat))
  relabelAt : List (Nat × Nat × Option (Nat × Nat))
  dead    : List (Nat × Nat)
  tlen    : Nat
  tlenAt  : Option (Nat × Nat)
  slotBase : Nat × Nat
  nextSlot : Nat
  tables  : List (List (BitVec 128))
  shadowT : List (Option (Nat × List (BitVec 128)))
  lanesDown : List (Plane × Nat)
  linesDown : List (Plane × Nat)
  /-- Lines being retuned: plane, line, the first slot without it, and when the retune began (R307, R308). -/
  retuning : List (Plane × Nat × Nat × Nat)
  darn    : Bool
  /-- A service-mode test runs, in which slot tables may hold shift 0 (R275, R282). -/
  svcTest : Bool
  /-- The slot at which SLOTINFO.DARN becomes 1, and the planes with a loss that is not yet repaired (R309). -/
  darnFrom : Nat
  lossOn  : List Plane
  /-- Announced swaps: their slot, and the plane that this die repairs; none for another die's (R309). -/
  darnAt  : List (Nat × Option Plane)
  lost    : Bool
  relays  : List (Plane × Nat × Nat)
  pegs    : List (Link × Nat × Nat)
  pool    : List (Link × Nat × Nat)
  /-- Sizes of the receive pools at the far ends of the links that their hosts have changed (R290): given from outside. -/
  farPool : List (Link × Nat × Nat)
  outSeq  : List (Link × Nat × Nat)
  inSeq   : List (Link × Nat × Nat)
  queue   : List Sent
  replay  : List Sent
  /-- Stores on their way to their owners, the newest last (R173). -/
  outst   : List OutStore
  /-- Landing slots that the die units hold: FCP 0, CP 1 (R294). -/
  units   : SMap Nat
  pseqOut : SMap Nat
  pseqIn  : SMap Nat
  heard   : List (Link × Nat)
  /-- Frames in their receive slots whose access is held (R292), and arrivals that await VC2 frames (R293). -/
  waiting : List (Link × Frame)
  /-- Receive slots held until a queued frame has been sent (R292). -/
  inHand  : List (Link × Nat × Nat)
  later   : List Frame
  landing : List Frame
  bounced : List ChasePkt
  windows : SMap (Option Window)
  /-- The window that last ended in each slot: later contributions count in its LATE (R306, R331). -/
  ended   : SMap (Option Window)
  /-- First frames of partials whose second has not come: source, window, frame, elements (R305). -/
  halves  : List (Nat × Word × Nat × List Word)
  seams   : List Seam
  dropped : Nat
  deriving DecidableEq, Repr

/-- An outstanding DRT message (R342): its packets not yet acknowledged. -/
structure Message where
  mid   : Nat
  core  : Nat
  opNum : Nat
  kind  : Nat
  dst   : Nat
  packets : List Packet
  sentAt : Nat
  start : Nat
  need  : Nat
  gotBytes : Nat
  localAddr : Word
  deriving DecidableEq, Repr

/-- A packet on its way out: the DRT port, the destination UDP port, the IPv6 destination and the packet (R341). -/
structure Datagram where
  port   : Nat
  udp    : Nat
  addr   : BitVec 128
  packet : Packet
  deriving DecidableEq, Repr

/-- The DRT ports (R341 to R347). -/
structure Drt where
  /-- Messages so far by core, target and sort: puts and flags, or others [3]. -/
  counts  : List ((Nat × Nat × Bool) × Nat)
  msgs    : List Message
  /-- Answers of this die that their requester has not acknowledged: GETDATA and FLUSHDONE packets (R342). -/
  serving : List Message
  out     : List Datagram
  /-- De-duplication window (R342): source, message, packet, time. -/
  seen    : List (Nat × Nat × Nat × Nat)
  /-- At the target: packets placed of a message still incomplete (source, message, packets, total or 0), flagged messages
  placed (source, message) and failed (source, message, CODE), and the FLAG and FLUSHREQ packets that wait (R347). -/
  parts   : List (Nat × Nat × Nat × Nat)
  placed  : List (Nat × Nat)
  failed  : List (Nat × Nat × Nat)
  flags   : List Packet
  /-- Puts of a core per target since its last flag: core, target, count. -/
  seqs    : List (Nat × Nat × Nat)
  unflushed : List (Nat × Nat)
  gen     : BitVec 8
  regs    : SMap (Option Registration)
  dups    : Nat
  badCrc  : Nat
  nacks   : Nat
  deriving DecidableEq, Repr

/-- A vertical bus's retraining (R406): when it is due, and when a running retrain ends. -/
structure Vbus where
  due  : Nat
  ends : Option Nat
  deriving DecidableEq, Repr

/-- The die, with what it has still to take from outside. `stage` and `todo` are the model's own: the part of the cycle
under way and the events of that part still to be tried [4]. -/
structure State where
  time    : Nat
  tick    : Nat
  agenda  : List Instr
  stage   : Nat
  todo    : List Instr
  turn    : List Nat
  cur     : Nat
  hbm     : Memory
  sram    : Memory
  capTags : List Nat
  rtags   : SMap (BitVec 128)
  poison  : List Nat
  /-- tfences of die scope or wider that have reached this die, and what bytes held before a store of that epoch: the
  instruction fetch of a task sees only stores of epochs before its own (R163). -/
  epoch   : Nat
  prior   : List (Nat × Nat × Byte)
  tlb     : List (Nat × Nat × Word)
  ctxs    : SMap (Option Ctx)
  cores   : SMap Core
  fcp     : Fcp
  page    : Page
  cp      : Cp
  shape   : Shape
  airing  : Airing
  forests : SMap (Option Forest)
  regions : List Region
  regGen  : BitVec 8
  port    : Port
  drt     : Drt
  vbus    : SMap Vbus
  deriving DecidableEq, Repr

/-! ### Creation and reset values -/

/-- The control registers at their reset values (R397). -/
def Csrs.init : Csrs where
  wdog := 0x10000
  fpcsr := 0x1000
  mxst := 0
  parkcfg := 0
  syncst := 0
  gxcfg := 0xFFFFFFFF
  gxoob := 0
  tcause := 0xF000000000
  epc := 0
  tval := 0
  tinfo := 0
  tvec := 0
  tdeleg := 0
  cpoob := [0, 0, 0, 0]
  resvcfg := 8
  drtcfg := 0
  drtst := 0
  fqst := 0
  eqst := 0

/-- The sequencer outside loops (R397). -/
def Sequencer.init : Sequencer where
  active := false
  n := 0
  ii := 0
  sc := 0
  body := 0
  j := 0
  k := 0
  rho := 0

/-- An unbound FIFO pair (R397). -/
def Fifo.init : Fifo where
  peer := none
  fi := []
  fo := []
  resv := 0
  cred := 0
  gifts := []
  owed := 0
  unbinding := false

/-- A barrier with no SEM and no RLIST (R397). -/
def Barrier.init : Barrier where
  base := 0
  extra := 0
  arr := 0
  ph := 0
  rlen := 0
  rlist := 0
  sem := none

/-- A core record in its creation state (R397). -/
def Core.init : Core where
  task := none
  begun := false
  staged := none
  stop := none
  waits := false
  serial := 0
  pc := 0
  g := List.replicate 64 0
  hbank := List.replicate 8 0
  p := List.replicate 8 0
  v := List.replicate 32 0
  k := List.replicate 16 (0, false)
  q := 0
  epoch := 0
  relq := 0
  icycle := 0
  idle := 0
  issued := 0
  results := []
  pops := []
  phase := .alone
  posed := []
  slot := 0
  stg := 0
  after := .next
  accs := []
  rets := []
  csrws := []
  seq := Sequencer.init
  lock := none
  held := 0
  hold := none
  csr := Csrs.init
  sems := []
  semOps := []
  semq := []
  bars := []
  barEvs := []
  tl := []
  tlOps := []
  tlTimes := []
  baskets := []
  bkTimes := []
  tags := []
  spill := []
  fmtTab := []
  loopTab := []
  ringTab := []
  mxTab := []
  active := []
  shadow := []
  tiles := []
  wbuf := []
  wfree := none
  alloc := []
  engs := []
  sdone := []
  fifos := []
  landing := []
  inH := false
  snap := none
  reports := []
  asyncs := []
  livelock := none
  mismatch := 0
  missPc := 0
  parity := 0
  residue := none
  faulty := none

/-- The FCP after reset. -/
def Fcp.reset : Fcp where
  cmds := []
  readyAt := []
  lastQ := []
  dt := []
  dtOps := []
  dtDone := []
  dtTimes := []
  seq := 0
  launches := []
  ready := []
  overflow := []
  sstep := []
  pendDec := []
  pendMark := []
  underflow := 0
  refusals := 0

/-- The host control page after reset: JNEXT 1 (R398), CHUNK 64 KiB (R350), BOOTST stage 0 (R407), the rest 0 [2]. -/
def Page.reset : Page where
  qdbase := 0
  mring := 0
  msize := 0
  chunk := 16
  lowmark := 0
  airbase := 0
  airsize := 0
  chkbase := 0
  npm1 := 0
  drtpfx := 0
  jbase := 0
  jlog := 0
  jnext := 1
  secnt := List.replicate 8 0
  bootst := 0

/-- The Bamlux port after reset: TLEN 128 (R280), rank 0 of pod 0 at position (0, 0) [2]; tables arrive at boot. -/
def Port.reset : Port where
  rank := 0
  pod := 0
  pos := (0, 0)
  relabel := []
  relabelAt := []
  dead := []
  tlen := 128
  tlenAt := none
  slotBase := (0, 0)
  nextSlot := 0
  tables := [[], []]
  shadowT := [none, none]
  lanesDown := []
  linesDown := []
  retuning := []
  darn := false
  svcTest := false
  darnFrom := 0
  lossOn := []
  darnAt := []
  lost := false
  relays := []
  pegs := []
  pool := []
  farPool := []
  outSeq := []
  inSeq := []
  queue := []
  replay := []
  outst := []
  units := []
  pseqOut := []
  pseqIn := []
  heard := []
  waiting := []
  inHand := []
  later := []
  landing := []
  bounced := []
  windows := []
  ended := []
  halves := []
  seams := []
  dropped := 0

/-- The DRT ports after reset. -/
def Drt.reset : Drt where
  counts := []
  msgs := []
  serving := []
  out := []
  seen := []
  parts := []
  placed := []
  failed := []
  flags := []
  seqs := []
  unflushed := []
  gen := 0
  regs := []
  dups := 0
  badCrc := 0
  nacks := 0

/-- The shape after reset: all layers, rows and columns, channels and lanes. The retirement store is append-only
(R402) and the manual gives it no contents at reset: the model starts with an empty store, so boot finds the full
shape (DESIGN CHOICE [2]). -/
def Shape.reset : Shape where
  gate := 0
  meshW := 16
  meshH := 16
  hbmCh := 256
  lanesSh := 16
  lanesCl := 16
  spares := List.replicate 16 16
  retired := []
  badCh := []
  records := []
  stored := 0
  applied := 0
  unkept := []
  catalogue := []

/-- The die right after reset: no context, no task, firmware not yet started (R407, R397, R398). -/
def State.reset : State where
  time := 0
  tick := 0
  agenda := []
  stage := 0
  todo := []
  turn := []
  cur := 0
  hbm := []
  sram := []
  capTags := []
  rtags := []
  poison := []
  epoch := 0
  prior := []
  tlb := []
  ctxs := []
  cores := []
  fcp := Fcp.reset
  page := Page.reset
  cp := { mhead := 0, mtail := 0, mcmds := [], mirror := [], log := [], jobs := [] }
  shape := Shape.reset
  airing := { zone := [], next := 0, hand := 0, used := 0, free := [] }
  forests := []
  regions := []
  regGen := 0
  port := Port.reset
  drt := Drt.reset
  vbus := []

end Sys2Proof.Machine
end

