-- ==== Sys2Proof/Machine/Ops.lean ====
section
/-! DEFINITION. The named operations of the machine: sparse tables, bytes, memory, core records, registers,
translation (R152 to R166), race detection (R175 to R178), performing an access (R160, R169, R205, R206), taking a
trap and returning from one (R224 to R232). -/

namespace Sys2Proof.Machine

/-! ### Tables and bytes -/

/-- Entry `i` of a table with default `d`. -/
def mget {α : Type} (d : α) : SMap α → Nat → α
  | [], _ => d
  | (k, x) :: r, i => if i = k then x else mget d r i

/-- Set entry `i`, keeping the keys in rising order. -/
def mset {α : Type} : SMap α → Nat → α → SMap α
  | [], i, x => [(i, x)]
  | (k, y) :: r, i, x =>
    if i < k then (i, x) :: (k, y) :: r else if i = k then (i, x) :: r else (k, y) :: mset r i x

/-- Set entry `i`; an entry equal to the default is not listed. -/
def mput {α : Type} [DecidableEq α] (d : α) : SMap α → Nat → α → SMap α
  | [], i, x => if x = d then [] else [(i, x)]
  | (k, y) :: r, i, x =>
    if i < k then (if x = d then (k, y) :: r else (i, x) :: (k, y) :: r)
    else if i = k then (if x = d then r else (i, x) :: r)
    else (k, y) :: mput d r i x

/-- The keys of a table rise strictly from above `lo`, and no listed byte is zero. -/
def memWfFrom : Option Nat → Memory → Bool
  | _, [] => true
  | lo, (k, x) :: r => (match lo with | none => true | some l => decide (l < k)) && x != 0 && memWfFrom (some k) r

end Sys2Proof.Machine

namespace Sys2Proof

/-- Memory in canonical form: addresses strictly rising, no byte equal to what an unlisted address reads as. -/
def Memory.wf (m : Memory) : Bool := Machine.memWfFrom none m

end Sys2Proof

namespace Sys2Proof.Machine

/-- What an unlisted address reads as [1]. -/
def unlistedByte : Byte := 0

/-- One byte of memory. -/
def readByte (m : Memory) (a : Nat) : Byte := mget unlistedByte m a

/-- Store one byte. -/
def writeByte (m : Memory) (a : Nat) (x : Byte) : Memory := mput unlistedByte m a x

/-- `n` bytes from address `a` upwards. -/
def readBytes (m : Memory) (a n : Nat) : List Byte := (List.range n).map fun i => readByte m (a + i)

/-- Store bytes from address `a` upwards. -/
def writeBytes (m : Memory) : Nat → List Byte → Memory
  | _, [] => m
  | a, x :: r => writeBytes (writeByte m a x) (a + 1) r

/-- The number a little-endian byte string holds (R2). -/
def leNat : List Byte → Nat
  | [] => 0
  | x :: r => x.toNat + 256 * leNat r

/-- `n` little-endian bytes of a number (R2). -/
def leBytes : Nat → Nat → List Byte
  | 0, _ => []
  | n + 1, x => BitVec.ofNat 8 x :: leBytes n (x / 256)

/-- Read an n-byte little-endian number. -/
def readNat (m : Memory) (a n : Nat) : Nat := leNat (readBytes m a n)

/-- Store an n-byte little-endian number. -/
def writeNat (m : Memory) (a n x : Nat) : Memory := writeBytes m a (leBytes n x)

/-- Bits lo + n - 1 down to lo of a 64-bit word, as a number. -/
def bits (x : Word) (lo n : Nat) : Nat := x.toNat / 2 ^ lo % 2 ^ n

/-- Replace bits lo + n - 1 down to lo of a 64-bit word. -/
def setBits (x : Word) (lo n v : Nat) : Word :=
  BitVec.ofNat 64 (x.toNat - bits x lo n * 2 ^ lo + v % 2 ^ n * 2 ^ lo)

/-- Bits of a 512-bit record. -/
def rbits {w : Nat} (x : BitVec w) (lo n : Nat) : Nat := x.toNat / 2 ^ lo % 2 ^ n

/-- The low n bits of a number read as two's complement. -/
def sextNat (n x : Nat) : Int :=
  let m := x % 2 ^ n
  if n = 0 then 0 else if m < 2 ^ (n - 1) then (m : Int) else (m : Int) - (2 : Int) ^ n

/-- An integer modulo 2^64. -/
def wordOfInt (i : Int) : Word := BitVec.ofInt 64 i

/-- Replace the entry at a list index. -/
def listSet {α : Type} (l : List α) (i : Nat) (x : α) : List α := l.set i x

/-- Remove the entry at a list index. -/
def listDrop {α : Type} (l : List α) (i : Nat) : List α := l.eraseIdx i

/-! ### Core records -/

/-- The key of a core record. -/
def coreKey (ctx n : Nat) : Nat := 512 * ctx + n

/-- The context of a core key. -/
def keyCtx (c : Nat) : Nat := c / 512

/-- The logical core number of a core key. -/
def keyCore (c : Nat) : Nat := c % 512

/-- The record of a core. -/
def coreAt (s : State) (c : Nat) : Core := mget Core.init s.cores c

/-- Replace the record of a core. -/
def setCore (s : State) (c : Nat) (x : Core) : State := { s with cores := mset s.cores c x }

/-- Change the record of a core. -/
def onCore (s : State) (c : Nat) (f : Core → Core) : State := setCore s c (f (coreAt s c))

/-- The record of the core that issues. -/
def curCore (s : State) : Core := coreAt s s.cur

/-- Change the record of the core that issues. -/
def onCur (s : State) (f : Core → Core) : State := onCore s s.cur f

/-- A context that does not exist, for lookups. -/
def Ctx.absent : Ctx where
  checked := false
  service := false
  resident := false
  status := 0
  area := 0
  members := []
  zsize := 0
  ncore := 0
  layout := 0
  launch := 0
  fifoimg := 0
  tring := 0
  thead := 0
  ptroot := 0
  wintab := 0
  grptab := 0
  trapSeq := 0
  multi := []

/-- Context `x`, if it exists. -/
def ctxAt? (s : State) (x : Nat) : Option Ctx := mget none s.ctxs x

/-- Context `x`. -/
def ctxAt (s : State) (x : Nat) : Ctx := (ctxAt? s x).getD Ctx.absent

/-- Replace context `x`. -/
def setCtx (s : State) (x : Nat) (y : Ctx) : State := { s with ctxs := mset s.ctxs x (some y) }

/-- The context of the issuing core. -/
def curCtx (s : State) : Ctx := ctxAt s (keyCtx s.cur)

/-! ### Positions and banks (R5, R9, R156) -/

/-- U powered (R5). -/
def uOn (s : State) : Bool := s.shape.gate < 2

/-- S1 powered (R5). -/
def s1On (s : State) : Bool := s.shape.gate % 2 == 0

/-- Logical cores at one position (R9, R28): 2 for an independent context with U powered, else 1. -/
def perPos (s : State) (checked : Bool) : Nat := if !checked && uOn s then 2 else 1

/-- The position 16y + x of logical core n (R9). -/
def corePos (s : State) (checked : Bool) (n : Nat) : Nat := n / perPos s checked

/-- The banks a logical core owns, in ascending order (R9, R156). -/
def ownedBanks (s : State) (checked : Bool) (n : Nat) : List Nat :=
  (List.range 32).filter fun b =>
    (perPos s checked == 1 || b / 16 == n % 2) && (s1On s || b % 2 == 0)

/-- Scratchpad bytes per logical core (R9, R156). -/
def zBytes (s : State) (checked : Bool) : Nat := 65536 * (ownedBanks s checked 0).length

/-- The number of logical cores of the die under a mode. -/
def coreCount (s : State) (checked : Bool) : Nat := 256 * perPos s checked

/-- Whether logical core n lies in the logical mesh (R7, R154). -/
def coreExists (s : State) (checked : Bool) (n : Nat) : Bool :=
  n < coreCount s checked && corePos s checked n % 16 < s.shape.meshW && corePos s checked n / 16 < s.shape.meshH

/-- A byte of storage: in the scratchpad banks or in HBM. -/
structure Phys where
  sp : Bool
  a  : Nat
  deriving DecidableEq, Repr

/-- Where a scratchpad offset lies: in its bank while the context is resident, else in the context area (R156, R235). -/
def spPhys (s : State) (c o : Nat) : Phys :=
  let x := ctxAt s (keyCtx c)
  let n := keyCore c
  if x.resident then
    { sp := true
      a := corePos s x.checked n * 0x200000 + (ownedBanks s x.checked n).getD (o / 65536) 0 * 65536 + o % 65536 }
  else { sp := false, a := x.area + 0x1000 + n * (0x70000 + x.zsize) + 0x70000 + o }

/-- The storage a location lies in. -/
def store (s : State) (sp : Bool) : Memory := if sp then s.sram else s.hbm

/-- Read bytes at a location. -/
def physRead (s : State) (p : Phys) (n : Nat) : List Byte := readBytes (store s p.sp) p.a n

/-- The key of a 16-byte or 128-byte granule of a location. -/
def granKey (p : Phys) (size : Nat) : Nat := p.a / size * 2 + p.sp.toNat

/-- Whether a granule key (16-byte granules) names a granule that [p, p + n) touches. -/
def touches (p : Phys) (n g : Nat) : Bool :=
  g % 2 == p.sp.toNat && p.a / 16 ≤ g / 2 && g / 2 * 16 < p.a + n

/-- Whether a byte key names a byte of [p, p + n). -/
def within (p : Phys) (n k : Nat) : Bool := k % 2 == p.sp.toNat && p.a ≤ k / 2 && k / 2 < p.a + n

/-- Store bytes at a location. The capability tags of the granules written are cleared (R297), and the bytes are no
longer poisoned (R240). -/
def physWrite (s : State) (p : Phys) (bs : List Byte) : State :=
  let t := s.capTags.filter fun g => !touches p bs.length g
  let q := s.poison.filter fun k => !within p bs.length k
  if p.sp then { s with sram := writeBytes s.sram p.a bs, capTags := t, poison := q }
  else { s with hbm := writeBytes s.hbm p.a bs, capTags := t, poison := q }

/-! ### Code (R163)

A store to code is seen by fetch only in tasks that start after a tfence that follows it: `State.prior` keeps, per epoch, what a byte
held before its first store of that epoch. -/

/-- Note what the bytes of [p, p + n) hold before a store. -/
def notePrior (s : State) (p : Phys) (n : Nat) : State :=
  let have_ := (s.prior.filter fun o => o.1 == s.epoch && within p n o.2.1).map fun o => o.2.1
  let new := ((List.range n).map fun i => ((p.a + i) * 2 + p.sp.toNat, readByte (store s p.sp) (p.a + i))).filter fun e => !have_.contains e.1
  { s with prior := new.map (fun e => (s.epoch, e)) ++ s.prior }

/-- Forget it: the bytes have been set from outside, or have moved. -/
def dropPrior (s : State) (p : Phys) (n : Nat) : State := { s with prior := s.prior.filter fun o => !within p n o.2.1 }

/-- The bytes that fetch sees in a task of epoch e. -/
def codeRead (s : State) (e : Nat) (p : Phys) (n : Nat) : List Byte :=
  let old := (s.prior.filter fun o => decide (e ≤ o.1) && within p n o.2.1).reverse
  if old.isEmpty then physRead s p n
  else (List.range n).map fun i =>
    match old.find? fun o => o.2.1 == (p.a + i) * 2 + p.sp.toNat with
    | some o => o.2.2
    | none => readByte (store s p.sp) (p.a + i)

/-- A tfence has reached this die: tasks that start from now on see every store made so far. What no task can see goes. -/
def nextEpoch (s : State) : State :=
  let alive := s.cores.filterMap fun c => if c.2.task.isSome then some c.2.epoch else none
  { s with epoch := s.epoch + 1, prior := s.prior.filter fun o => alive.any fun e => decide (e ≤ o.1) }

/-- Set or clear the capability tag of a granule (R297). -/
def setTag (s : State) (p : Phys) (tag : Bool) : State :=
  let g := granKey p 16
  { s with capTags := if tag then (if s.capTags.contains g then s.capTags else g :: s.capTags)
                      else s.capTags.filter (· != g) }

/-- Whether every offset of [o, o + n) lies inside an allocated range, following adjacent ranges at most `k` times. -/
def coveredBy (alloc : List (Nat × Nat)) : Nat → Nat → Nat → Bool
  | 0, _, _ => false
  | k + 1, o, n =>
    match alloc.find? fun r => decide (r.1 ≤ o ∧ o < r.1 + r.2) with
    | some r => decide (o + n ≤ r.1 + r.2) || coveredBy alloc k (r.1 + r.2) (o + n - (r.1 + r.2))
    | none => false

/-- Whether the offsets [o, o + n) lie inside one allocated range, below Z (R157, R221). -/
def oneRange (s : State) (c o n : Nat) : Bool :=
  decide (o + n ≤ zBytes s (ctxAt s (keyCtx c)).checked) && (coreAt s c).alloc.any fun r => decide (r.1 ≤ o ∧ o + n ≤ r.1 + r.2)

/-- Whether the offsets [o, o + n) are allocated and below Z (R157). A core has at most 16 ranges. -/
def allocated (s : State) (c o n : Nat) : Bool :=
  decide (o + n ≤ zBytes s (ctxAt s (keyCtx c)).checked) && coveredBy (coreAt s c).alloc 17 o n

/-! ### Translation (R153, R154, R161 to R164) -/

/-- Kinds of memory access, with the permission they need (R162). -/
inductive Kind where
  | load | store | atomic | fetch
  deriving DecidableEq, Repr

/-- The code of a kind in a report. -/
def Kind.code : Kind → Nat
  | .load => 0
  | .store => 1
  | .atomic => 2
  | .fetch => 3

/-- The owner rank of a global address (R153). -/
def ownerOf (a : Word) : Nat := bits a 47 10

/-- The local virtual address of a global address (R153). -/
def localOf (a : Word) : Nat := bits a 0 47

/-- Bits 63:57 are zero (R153). -/
def canonical (a : Word) : Bool := bits a 57 7 == 0

/-- loc(A, d): the offset stays inside the 47-bit local address (R196). -/
def locAddr (a d : Word) : Word := setBits a 0 47 (a.toNat + d.toNat)

/-- The levels of the table: shift, entries, node bytes, whether a leaf is allowed, whether only a leaf is (R161). -/
def levels : List (Nat × Nat × Nat × Bool × Bool) :=
  [(38, 512, 4096, false, false), (28, 1024, 8192, true, false), (21, 128, 1024, true, false), (15, 64, 512, true, true)]

/-- HBM bytes of the die: 1.5 GiB per active channel (R14). -/
def hbmBytes (s : State) : Nat := s.shape.hbmCh * 0x60000000

/-- Walk the table from a node (R161, R162): the leaf's address, the leaf, and the bits of the page offset; or a
translation-fault kind (R224). A node or a page outside the die's physical address map (`top`, R14) has no kind of its own in
the manual: MALFORMED (DESIGN CHOICE [28]). An entry with V = 0 is not present whatever its reserved bits hold (DESIGN CHOICE [119]). -/
def walk (m : Memory) (top va : Nat) : List (Nat × Nat × Nat × Bool × Bool) → Nat → Except Nat (Nat × Word × Nat)
  | [], _ => .error 4
  | (sh, n, size, leafOk, leafOnly) :: r, node =>
    if node % max size 1024 ≠ 0 ∨ top < node + size then .error 4
    else
      let ea := node + 8 * (va / 2 ^ sh % n)
      let e : Word := BitVec.ofNat 64 (readNat m ea 8)
      if bits e 0 1 = 0 then .error (if bits e 9 1 = 1 then 2 else 1)
      else if bits e 52 12 ≠ 0 then .error 4
      else if bits e 1 1 = 1 then
        if leafOk = false then .error 4
        else if bits e 10 42 * 1024 % 2 ^ sh ≠ 0 then .error 4
        else .ok (ea, e, sh)
      else if leafOnly then .error 4
      else if bits e 2 8 ≠ 0 then .error 4
      else walk m top va r (bits e 10 42 * 1024)

/-- Whether a leaf permits an access (R162). -/
def permits (e : Word) : Kind → Bool
  | .load => true
  | .store => bits e 2 1 == 1
  | .atomic => bits e 3 1 == 1
  | .fetch => bits e 4 1 == 1

/-- The cached leaf for a 32 KiB page of a context, with PA narrowed to that page (R163). -/
def tlbLookup (s : State) (x page : Nat) : Option Word :=
  (s.tlb.find? fun t => t.1 == x && t.2.1 == page).map fun t => t.2.2

/-- Translate a local virtual address of context x for one access (R161 to R163): the physical address, whether the
page is checked, and the state with REF and DTY set and the translation cached. -/
def translate (s : State) (x va : Nat) (k : Kind) : Except Nat (Nat × Bool × State) :=
  let page := va / 32768
  let use (e : Word) (s : State) : Except Nat (Nat × Bool × State) :=
    if (bits e 5 1 = 1 ∧ s.page.chkbase = 0) ∨ hbmBytes s < bits e 10 42 * 1024 + 32768 then .error 4
    else if permits e k then .ok (bits e 10 42 * 1024 + va % 32768, bits e 5 1 == 1, s)
    else .error 3
  let fresh : Except Nat (Nat × Bool × State) :=
    match walk s.hbm (hbmBytes s) va levels (ctxAt s x).ptroot with
    | .error f => .error f
    | .ok (ea, e, sh) =>
      if permits e k = false then .error 3
      else
        let e1 := setBits e 6 1 1
        let e2 := if k = .store ∨ k = .atomic then setBits e1 7 1 1 else e1
        let c := setBits e2 10 42 ((bits e 10 42 * 1024 + va % 2 ^ sh / 32768 * 32768) / 1024)
        let t := (x, page, c) :: s.tlb.filter fun t => !(t.1 == x && t.2.1 == page)
        use c { s with hbm := writeNat s.hbm ea 8 e2.toNat, tlb := t }
  match tlbLookup s x page with
  | none => fresh
  | some e => if (k = .store ∨ k = .atomic) ∧ bits e 7 1 = 0 ∧ permits e k then fresh else use e s

/-- Where the bytes of one access of context x at a local virtual address lie, and whether they carry race tags.
`n` bytes that do not cross a 32 KiB boundary (R154, R157, R175). -/
def locate (s : State) (x va n : Nat) (k : Kind) : Except Nat (Phys × Bool × State) :=
  if va / 2 ^ 30 = 0x1FFFF then
    let c := coreKey x (va / 2 ^ 21 % 512)
    let o := va % 2 ^ 21
    if coreExists s (ctxAt s x).checked (keyCore c) && allocated s c o n then .ok (spPhys s c o, true, s) else .error 6
  else
    match translate s x va k with
    | .error f => .error f
    | .ok (pa, chk, s') => .ok ({ sp := false, a := pa }, chk, s')

/-- Cut [a, a + n) at 32 KiB boundaries, in ascending order. -/
def pieces (a n : Nat) : List (Nat × Nat) :=
  let first := 32768 - a % 32768
  if n ≤ first then (if n = 0 then [] else [(a, n)])
  else (a, first) :: ((List.range ((n - first + 32767) / 32768)).map fun i =>
    (a + first + i * 32768, min 32768 (n - first - i * 32768)))

/-- The first piece of an access that cannot be located: its first byte's local address. -/
def failsAt (s : State) (x : Nat) (k : Kind) : List (Nat × Nat) → Option Nat
  | [] => none
  | (a, n) :: r =>
    match locate s x a n k with
    | .error _ => some a
    | .ok (_, _, s1) => failsAt s1 x k r

/-- Locate every piece of an access at a pod-global address of this die. -/
def locateAll (s : State) (x : Nat) (k : Kind) : List (Nat × Nat) → Except Nat (List (Phys × Nat × Bool) × State)
  | [] => .ok ([], s)
  | (a, n) :: r =>
    match locate s x a n k with
    | .error f => .error f
    | .ok (p, chk, s1) =>
      match locateAll s1 x k r with
      | .error f => .error f
      | .ok (ps, s2) => .ok ((p, n, chk) :: ps, s2)

/-- Locate every piece of an own-scratchpad access (R152, R157). -/
def locateSp (s : State) (c o n : Nat) : Except Nat (List (Phys × Nat × Bool) × State) :=
  if allocated s c o n then .ok ((pieces o n).map fun q => (spPhys s c q.1, q.2, true), s) else .error 6

/-! ### Race detection (R175 to R178) -/

/-- The agent identifier of R176. -/
def agentId (kind rank unit serial : Nat) : BitVec 25 :=
  BitVec.ofNat 25 (kind % 4 * 2 ^ 23 + rank % 1024 * 2 ^ 13 + unit % 512 * 16 + serial % 16)

/-- Fields of a race tag (R176). -/
def tagRk (t : BitVec 128) : Nat := rbits t 126 2
def tagRid (t : BitVec 128) : Nat := rbits t 101 25
def tagRtime (t : BitVec 128) : Nat := rbits t 64 37
def tagWv (t : BitVec 128) : Bool := rbits t 63 1 == 1
def tagWa (t : BitVec 128) : Bool := rbits t 62 1 == 1
def tagWid (t : BitVec 128) : Nat := rbits t 37 25
def tagWtime (t : BitVec 128) : Nat := rbits t 0 37

/-- A race tag from its fields (R176). -/
def mkTag (rk rid rtime : Nat) (wv wa : Bool) (wid wtime : Nat) : BitVec 128 :=
  BitVec.ofNat 128 (rk * 2 ^ 126 + rid % 2 ^ 25 * 2 ^ 101 + rtime % 2 ^ 37 * 2 ^ 64 + wv.toNat * 2 ^ 63 +
    wa.toNat * 2 ^ 62 + wid % 2 ^ 25 * 2 ^ 37 + wtime % 2 ^ 37)

/-- The agents compared by the check: on a core's own scratchpad the serials of its tasks count as zero (R176). -/
def sameAgent (own : Bool) (a b : Nat) : Bool :=
  if own && a / 2 ^ 23 == 0 && b / 2 ^ 23 == 0 then a / 16 == b / 16 else a == b

/-- cov(id, t) of R177. -/
def covered (own : Bool) (b : Nat) (q now : Nat) (id : Option Nat) (t : Nat) : Bool :=
  (match id with | some i => sameAgent own i b | none => false) ||
    decide (2 ^ 36 ≤ (now + 2 ^ 37 - t % 2 ^ 37) % 2 ^ 37) ||
    (let d := (q + 2 ^ 37 - t % 2 ^ 37) % 2 ^ 37; decide (1 ≤ d ∧ d ≤ 2 ^ 36 - 1))

/-- The race check of R177 on one granule: the new tag, or the recorded agent and time of the exception. -/
def raceCheck (t : BitVec 128) (own atomic writes : Bool) (b q now : Nat) : Except (Nat × Nat) (BitVec 128) :=
  let cov := covered own b q now
  if tagWv t && !cov (some (tagWid t)) (tagWtime t) && !(atomic && tagWa t) then .error (tagWid t, tagWtime t)
  else if writes then
    if tagRk t == 1 && !cov (some (tagRid t)) (tagRtime t) then .error (tagRid t, tagRtime t)
    else if tagRk t == 2 && !cov none (tagRtime t) then .error (tagRid t, tagRtime t)
    else .ok (mkTag 0 (tagRid t) (tagRtime t) true atomic b now)
  else
    let rk := if tagRk t == 0 || sameAgent own (tagRid t) b || cov (some (tagRid t)) (tagRtime t) then 1 else 2
    .ok (mkTag rk b now (tagWv t) (tagWa t) (tagWid t) (tagWtime t))

/-- An edge covers an access of agent `id` at time t to granule g (R170). -/
def edgeCovers (edge : List (Nat × Nat × Nat)) (g id t : Nat) : Bool :=
  edge.any fun e => e.1 == g && e.2.1 == id && decide ((e.2.2 + 2 ^ 37 - t % 2 ^ 37) % 2 ^ 37 < 2 ^ 36)

/-- A granule's tag, its records that an edge covers as if the accessing agent had made them. -/
def edgeTag (edge : List (Nat × Nat × Nat)) (b g : Nat) (t : BitVec 128) : BitVec 128 :=
  if edge.isEmpty then t
  else
    mkTag (tagRk t) (if edgeCovers edge g (tagRid t) (tagRtime t) then b else tagRid t) (tagRtime t) (tagWv t) (tagWa t)
      (if edgeCovers edge g (tagWid t) (tagWtime t) then b else tagWid t) (tagWtime t)

/-- The check of one granule (R177) with the edges that the agent has beside its acquire time: a read leaves the write record. -/
def raceGranule (own atomic writes : Bool) (w : Who) (now g : Nat) (t : BitVec 128) : Except (Nat × Nat) (BitVec 128) :=
  (raceCheck (edgeTag w.edge w.agent.toNat g t) own atomic writes w.agent.toNat w.q now).map fun u =>
    if writes then u else mkTag (tagRk u) (tagRid u) (tagRtime u) (tagWv t) (tagWa t) (tagWid t) (tagWtime t)

/-- Check and update the tags of granules, given by key and address (R177); nothing is updated when one fails (R178). -/
def raceGranules (own atomic writes : Bool) (w : Who) (now : Nat) :
    List (Nat × Word) → SMap (BitVec 128) → Except (Word × Nat × Nat) (SMap (BitVec 128))
  | [], m => .ok m
  | (g, a) :: r, m =>
    match raceGranule own atomic writes w now g (mget 0 m g) with
    | .error (id, t) => .error (a, id, t)
    | .ok t => raceGranules own atomic writes w now r (mput 0 m g t)

/-- The 128-byte granules of a located access at `addr`, with their addresses; `l` bytes lie before these pieces. -/
def granulesOf (addr : Word) : Nat → List (Phys × Nat × Bool) → List (Nat × Word)
  | _, [] => []
  | l, (p, n, chk) :: r =>
    (if chk then
      (List.range ((p.a % 128 + n + 127) / 128)).map fun i =>
        (granKey { p with a := p.a + i * 128 } 128, locAddr addr (BitVec.ofNat 64 (l + i * 128) - BitVec.ofNat 64 (p.a % 128)))
     else []) ++ granulesOf addr (l + n) r

/-! ### Performing an access -/

/-- The kind of a memory operation (R162). -/
def memKind : MemOp → Kind
  | .load _ _ => .load
  | .store _ _ => .store
  | .storeM _ => .store
  | .atomic _ _ _ _ => .atomic
  | .mop _ _ _ _ _ => .atomic
  | .fetchAdd _ _ => .atomic
  | .taskDec => .atomic
  | .taskPost _ => .atomic

/-- The bytes a memory operation touches at its address. -/
def memLen : MemOp → Nat
  | .load n _ => n
  | .store d _ => d.length
  | .storeM d => d.length
  | .atomic _ n _ _ => n
  | .mop .saxpy _ _ x _ => 4 * (x.toNat / 2 ^ 32)
  | .mop _ _ n _ _ => n
  | .fetchAdd n _ => n
  | .taskDec => 64
  | .taskPost _ => 64

/-- The byte ranges an operation touches: its own, and the x vector of a saxpy (R205). -/
def opRanges (addr : Word) (op : MemOp) : List (Word × Nat) :=
  match op with
  | .mop .saxpy _ _ x y => [(addr, memLen op), (y, 4 * (x.toNat / 2 ^ 32))]
  | _ => [(addr, memLen op)]

/-- The local 32 KiB pages an operation needs (R168). -/
def opPages (addr : Word) (op : MemOp) : List Nat :=
  (opRanges addr op).flatMap fun r =>
    (List.range ((localOf r.1 % 32768 + max 1 r.2 + 32767) / 32768)).map fun i => localOf r.1 / 32768 + i

/-- An access failed: trap class code, SUB and, for a race, the granule's address, the recorded agent and time. -/
structure Bad where
  code  : Nat
  sub   : Nat
  gran  : Nat
  agent : Nat
  time  : Nat
  /-- Where the access failed, if that is not its own address: the first byte of the failing page, or the x vector. -/
  at_   : Option Word := none
  /-- It failed as a read, whatever the operation: the x vector of a saxpy. -/
  rd    : Bool := false
  deriving DecidableEq, Repr

/-- A translation fault of a kind (R224). -/
def Bad.trans (k : Nat) : Bad := { code := 3, sub := k, gran := 0, agent := 0, time := 0 }

/-- Check the race tags of located bytes for one access (R177). -/
def raceAll (s : State) (own : Bool) (who : Who) (atomic writes : Bool) (addr : Word) (ps : List (Phys × Nat × Bool)) :
    Except Bad State :=
  if who.rx then .ok s
  else
    match raceGranules own atomic writes who s.time (granulesOf addr 0 ps) s.rtags with
    | .error (g, id, t) =>
      .error { code := 5, sub := if who.agent.toNat / 2 ^ 23 = 1 then 2 else 1, gran := g.toNat, agent := id, time := t }
    | .ok m => .ok { s with rtags := m }

/-- Read located bytes. -/
def readPieces (s : State) : List (Phys × Nat × Bool) → List Byte
  | [] => []
  | (p, n, _) :: r => physRead s p n ++ readPieces s r

/-- Note what located bytes hold before a store. -/
def notePieces : List (Phys × Nat × Bool) → State → State
  | [], s => s
  | (p, n, _) :: r, s => notePieces r (notePrior s p n)

/-- Write located bytes. -/
def writePieces (s : State) : List (Phys × Nat × Bool) → List Byte → State
  | [], _ => s
  | (p, n, _) :: r, bs => writePieces (physWrite s p (bs.take n)) r (bs.drop n)

/-- Write the bytes of a sector that a store has (R173). -/
def writeMasked (s : State) (p : Phys) : Nat → List (Option Byte) → State
  | _, [] => s
  | i, none :: r => writeMasked s p (i + 1) r
  | i, some x :: r => writeMasked (physWrite s { p with a := p.a + i } [x]) p (i + 1) r

/-- Where an access of a core's context to its own scratchpad or to this die's memory lies. -/
def locateAny (s : State) (c : Nat) (sp : Bool) (addr : Word) (n : Nat) (k : Kind) :
    Except Nat (List (Phys × Nat × Bool) × State) :=
  if sp then (if addr.toNat < 2 ^ 22 then locateSp s c addr.toNat n else .error 6)
  else if canonical addr then locateAll s (keyCtx c) k (pieces (localOf addr) n)
  else .error 5

/-- Count an event of kind i (R393, R403). -/
def countErr (s : State) (i : Nat) : State :=
  { s with page := { s.page with secnt := listSet s.page.secnt i (s.page.secnt.getD i 0 + 1) } }

/-- Whether bytes were marked poisoned by an uncorrectable error (R182, R240). -/
def poisoned (s : State) (ps : List (Phys × Nat × Bool)) : Bool :=
  !s.poison.isEmpty &&
    ps.any fun p => (List.range p.2.1).any fun i => s.poison.contains ((p.1.a + i) * 2 + p.1.sp.toNat)

/-! ### The sequencer (R124, R129) -/

/-- The sequencer after composite C(j, k): the next composite, or none at the loop's end. -/
def seqStep (q : Sequencer) : Option Sequencer :=
  if q.k + 1 < q.ii then some { q with k := q.k + 1 }
  else if q.j + 1 + 2 ≤ q.n + q.sc then some { q with j := q.j + 1, k := 0, rho := (q.rho + 15) % 16 }
  else none

/-- Move a core past the bundle or composite it has just issued. -/
def advance (x : Core) : Core :=
  if x.seq.active then
    match seqStep x.seq with
    | some q => { x with seq := q, pc := x.seq.body + BitVec.ofNat 64 (32 * q.k) }
    | none => { x with seq := { x.seq with active := false }, pc := x.seq.body + BitVec.ofNat 64 (32 * x.seq.ii * x.seq.sc) }
  else { x with pc := x.pc + 32 }

/-! ### Taking a trap and returning from it (R224 to R232) -/

/-- A precise trap of a class and subkind at a slot. -/
def Cause.precise (code sub slot : Nat) : Cause where
  code := code
  sub := sub
  slot := slot
  stg := 0
  obj := 0
  tl := 15
  eng := false
  asy := false
  tval := 0
  tinfo := 0

/-- TCAUSE of a cause (R226). -/
def causeWord (k : Cause) (pend : Bool) : Word :=
  BitVec.ofNat 64 (k.code % 256 + k.sub % 256 * 2 ^ 16 + k.slot % 8 * 2 ^ 27 + pend.toNat * 2 ^ 30 + k.asy.toNat * 2 ^ 31 +
    k.eng.toNat * 2 ^ 32 + k.stg % 8 * 2 ^ 33 + k.tl % 16 * 2 ^ 36 + k.obj % 65536 * 2 ^ 48)

/-- The delegable class codes (R224). -/
def delegable (code : Nat) : Bool := [0x01, 0x02, 0x05, 0x06, 0x07, 0x0A, 0x0B, 0x0D, 0x0F, 0x10].contains code

/-- A trap of this class goes to the task handler (R227, R228). -/
def toHandler (s : State) (x : Core) (code : Nat) : Bool :=
  delegable code && x.csr.tdeleg.getLsbD code && x.csr.tvec.getLsbD 0 && bits x.csr.tvec 47 10 == s.port.rank

/-- The handler entry address (R227). -/
def handlerEntry (x : Core) : Word := BitVec.ofNat 64 (bits x.csr.tvec 6 51 * 64)

/-- The snapshot of a core's exposed pipeline and unperformed accesses (R165, R228, R232). -/
def snapshotOf (x : Core) : Snapshot where
  results := x.results
  icycle := x.icycle
  accs := x.accs
  rets := x.rets
  seq := x.seq
  lock := x.lock
  pc := x.pc
  issued := x.issued
  after := x.after
  sdone := x.sdone.filter fun o => decide (x.icycle < o.land)

/-- Freeze a core: results in flight, accesses and the signals that wait for those results go into the snapshot, the bank
lock ends (R222, R228). The watchdog count of the bundle that was held starts again from zero, also where the CP resolves
the trap and the bundle is held again (R22 names only the issue of a bundle and R224 the starvation trap: DESIGN CHOICE
[22]). -/
def freeze (x : Core) : Core :=
  match x.snap with
  | some _ => { x with held := 0, hold := none, pops := [] }
  | none =>
    { x with snap := some (snapshotOf x), results := [], accs := [], rets := [], lock := none, held := 0, hold := none,
             pops := [], after := .next, sdone := x.sdone.filter fun o => decide (o.land ≤ x.icycle) }

/-- Write the cause registers (R226). -/
def writeCause (x : Core) (k : Cause) (epc : Word) : Core :=
  let pend := (x.snap.map fun n => !n.accs.isEmpty || !n.rets.isEmpty).getD false
  { x with csr := { x.csr with tcause := causeWord k pend, epc := epc, tval := k.tval, tinfo := k.tinfo } }

/-- The 64-byte trap record (R231). -/
def trapRecord (s : State) (c : Nat) (x : Core) (resolved : Bool) (seq : Nat) : List Byte :=
  leBytes 8 x.csr.tcause.toNat ++ leBytes 8 x.csr.epc.toNat ++ leBytes 8 x.csr.tval.toNat ++
    leBytes 8 x.csr.tinfo.toNat ++ leBytes 2 (keyCore c) ++ leBytes 2 (keyCtx c) ++ leBytes 1 resolved.toNat ++
    leBytes 3 0 ++ leBytes 8 s.time ++ leBytes 8 seq ++ leBytes 8 0

/-- The CP writes a trap record and then increments THEAD (R231). -/
def recordTrap (s : State) (c : Nat) (resolved : Bool) : State :=
  let y := ctxAt s (keyCtx c)
  let rec_ := trapRecord s c (coreAt s c) resolved (y.trapSeq + 1)
  let m := writeBytes s.hbm (y.tring + 64 * (y.thead % 4096)) rec_
  let m := writeNat m (y.area + 0x40) 8 (y.thead + 1)
  setCtx { s with hbm := m } (keyCtx c) { y with thead := y.thead + 1, trapSeq := y.trapSeq + 1 }

/-- Branch cycles from a taken branch on: the cycle that ends and the two in which nothing issues (R81). -/
def branchIdle : Nat := 3

/-- Enter handler state (R228): freeze, write the cause, fetch at TVEC.ENTRY after two branch cycles. -/
def enterHandler (s : State) (c : Nat) (k : Cause) : State :=
  onCore s c fun x =>
    let y := writeCause (freeze x) k x.pc
    { y with inH := true, seq := Sequencer.init, pc := handlerEntry x, idle := branchIdle }

/-- Whether the CP resolves a trap of this cause itself (R224): an AIRED page. -/
def cpResolves (k : Cause) : Bool := k.code == 3 && k.sub == 2

/-- Put a core into the stopped state (R230) with its trap record (R231). -/
def stopCore (s : State) (c : Nat) (k : Cause) (between : Bool) (epc : Word) : State :=
  recordTrap
    (onCore s c fun x => { writeCause (freeze x) k epc with stop := some { code := k.code, between := between, need := k.need } })
    c (cpResolves k)

/-- Take a trap at a bundle boundary of a core with a running task (R225, R228 to R230). In handler state it is a
double trap. -/
def takeTrap (s : State) (c : Nat) (k : Cause) : State :=
  let x := coreAt s c
  if x.inH then stopCore s c { k with code := 0x11, sub := k.code } false x.pc
  else if toHandler s x k.code then enterHandler s c k
  else stopCore s c k false x.pc

/-- Engine operations that faulted continue after a resume, once their report has been taken (R245). -/
def wakeEngines (x : Core) : Core :=
  { x with engs := x.engs.map fun e => (e.1, e.2.map fun o =>
      if o.await = 2 ∧ !(x.reports.any fun r => r.eng && r.tl == e.1) then { o with await := 0 } else o) }

/-- A landing count moved from the count at the freeze to the present one: the issue cycles left stay the same (R232). -/
def rebase (old now land : Nat) : Nat := now + (land - old)

/-- An access given back at a resume: a scratchpad load keeps the issue cycles it had left (R92, R232). -/
def rebaseAccess (old now : Nat) (a : Access) : Access := if a.land = 0 then a else { a with land := rebase old now a.land }

/-- Reload the exposed pipeline from the snapshot (R229, R232): results land after the issue cycles they had left. -/
def thaw (y : Core) : Core :=
  let x := wakeEngines y
  match x.snap with
  | none => { x with stop := none }
  | some n =>
    { x with
      results := (n.results.map fun r => { r with land := rebase n.icycle x.icycle r.land }) ++ x.results
      accs := n.accs.map (rebaseAccess n.icycle x.icycle) ++ x.accs
      sdone := (n.sdone.map fun o => { o with land := rebase n.icycle x.icycle o.land }) ++ x.sdone
      after := n.after
      rets := n.rets ++ x.rets
      seq := n.seq
      lock := n.lock
      pc := n.pc
      snap := none
      stop := none
      inH := false
      held := 0
      hold := none }

/-- Resume after a trap (R224): re-issue or continue at the boundary, or (`next`) at the next bundle. A tend that was taken
back before it retired and is passed over does not end the task (R230). -/
def resumeCore (x : Core) (next : Bool) : Core := if next then { advance (thaw x) with after := .next } else thaw x

/-- A trap whose cause the CP retries at once (R238, R240): its record says that the core runs again. In handler state it
is a double trap. -/
def retryTrap (s : State) (c : Nat) (k : Cause) : State :=
  let x := coreAt s c
  if x.inH then takeTrap s c k
  else
    let s := onCore s c fun x => { writeCause (freeze x) k x.pc with stop := some { code := k.code, between := false } }
    onCore (recordTrap s c true) c fun x => resumeCore x false

/-- The resume rule of a class (R224): breakpoint and software trap resume at the next bundle. -/
def resumesNext (code : Nat) : Bool := code == 0x0F || code == 0x10

end Sys2Proof.Machine
end

