-- ==== Sys2Proof/Machine/Flags.lean ====
section
/-! DEFINITION. Floating-point formats, rounding and flags (R51 to R54), the transcendental algorithms (R57 to R61),
block formats, residue channels and accumulation (R64 to R73).

Every operation converts its operands to exact values, computes exactly, and rounds once at the end. -/

namespace Sys2Proof.Machine

/-! ### Formats and exact values -/

/-- A floating-point format: fraction bits, exponent bits, bias, and the magnitude code above every finite one. -/
structure Fmt where
  frac : Nat
  exp  : Nat
  bias : Nat
  top  : Nat
  deriving DecidableEq, Repr

/-- fp32, bf16, e4m3 and e5m2 (R51). -/
def fp32 : Fmt := { frac := 23, exp := 8, bias := 127, top := 0x7F800000 }
def bf16 : Fmt := { frac := 7, exp := 8, bias := 127, top := 0x7F80 }
def e4m3 : Fmt := { frac := 3, exp := 4, bias := 7, top := 0x7F }
def e5m2 : Fmt := { frac := 2, exp := 5, bias := 15, top := 0x7C }

/-- A datum: a NaN (signalling or not), an infinity, or (-1)^neg × m × 2^e. -/
inductive FVal where
  | nan (sig : Bool)
  | inf (neg : Bool)
  | fin (neg : Bool) (m : Nat) (e : Int)
  deriving DecidableEq, Repr

/-- Sign bit weight of a format. -/
def Fmt.signW (f : Fmt) : Nat := 2 ^ (f.frac + f.exp)

/-- The canonical NaN of a format (R52, R53). -/
def Fmt.qnan (f : Fmt) : Nat :=
  if f = e4m3 then 0x7F else if f = e5m2 then 0x7E else f.top + 2 ^ (f.frac - 1)

/-- The datum a bit pattern stands for (R51). -/
def Fmt.decode (f : Fmt) (x : Nat) : FVal :=
  let mag := x % f.signW
  let neg := x / f.signW % 2 == 1
  let ex := mag / 2 ^ f.frac
  let fr := mag % 2 ^ f.frac
  if f = e4m3 then
    if mag = 0x7F then .nan false
    else if ex = 0 then .fin neg fr (-9) else .fin neg (8 + fr) ((ex : Int) - 10)
  else if ex = 2 ^ f.exp - 1 then
    if fr = 0 then .inf neg else .nan (fr < 2 ^ (f.frac - 1))
  else if ex = 0 then .fin neg fr (1 - (f.bias : Int) - f.frac)
  else .fin neg (2 ^ f.frac + fr) ((ex : Int) - f.bias - f.frac)

/-- Flags (R55): invalid, division by zero, overflow, underflow, inexact. -/
def fNV : BitVec 5 := 16
def fDZ : BitVec 5 := 8
def fOF : BitVec 5 := 4
def fUF : BitVec 5 := 2
def fIX : BitVec 5 := 1

/-- A rounded result: bit pattern and flags. -/
abbrev FRes := Nat × BitVec 5

/-- Whether a magnitude's last place is rounded up in a mode, from the remainder below it. -/
def roundUp (r : Rm) (neg : Bool) (low rem half : Nat) : Bool :=
  match r with
  | .rne | .dyn => half < rem || (rem == half && low % 2 == 1)
  | .rtz => false
  | .rup => !neg && rem != 0
  | .rdn => neg && rem != 0

/-- Divide m by 2^sh with one rounding: the result and whether it is inexact. -/
def shiftRound (r : Rm) (neg : Bool) (m : Nat) (sh : Int) : Nat × Bool :=
  if sh ≤ 0 then (m * 2 ^ sh.natAbs, false)
  else
    let d := 2 ^ sh.toNat
    let q := m / d
    let rem := m % d * 2
    ((if roundUp r neg q rem d then q + 1 else q), rem != 0)

/-- Round (-1)^neg × m × 2^e to a format (R52, R53), with tininess detected after rounding. `m` carries at least three
bits below the result's last place, or is exact. -/
def Fmt.round (f : Fmt) (r : Rm) (neg : Bool) (m : Nat) (e : Int) : FRes :=
  let sg := if neg then f.signW else 0
  if m = 0 then (sg, 0)
  else
    let emin : Int := 1 - (f.bias : Int)
    let ex : Int := (Nat.log2 m : Int) + e
    let ex' := max ex emin
    let (q, ix) := shiftRound r neg m (ex' - f.frac - e)
    let code := q + (ex' - emin).toNat * 2 ^ f.frac
    if f.top ≤ code then
      let toInf := match r with | .rne | .dyn => true | .rtz => false | .rup => !neg | .rdn => neg
      (sg + (if toInf then f.top else f.top - 1), fOF ||| fIX)
    else
      let (q', _) := shiftRound r neg m (ex - f.frac - e)
      let tiny := decide (ex < emin) && !(decide (ex = emin - 1) && q' == 2 ^ (f.frac + 1))
      (sg + code, (if ix then fIX else 0) ||| (if tiny && ix then fUF else 0))

/-- R54: a subnormal result is flushed under FTZ. -/
def Fmt.flush (f : Fmt) (ftz : Bool) (x : FRes) : FRes :=
  let mag := x.1 % f.signW
  if ftz && decide (0 < mag ∧ mag < 2 ^ f.frac) then (x.1 - mag, x.2 ||| fUF) else x

/-- R54: a subnormal input reads as zero under FTZ. -/
def Fmt.input (f : Fmt) (ftz : Bool) (x : Nat) : FVal :=
  let mag := x % f.signW
  if ftz && decide (0 < mag ∧ mag < 2 ^ f.frac) then f.decode (x - mag) else f.decode x

/-- Whether a datum is a signalling NaN. -/
def FVal.sig : FVal → Bool
  | .nan b => b
  | .inf _ | .fin _ _ _ => false

/-- Whether a datum is a NaN. -/
def FVal.isNan : FVal → Bool
  | .nan _ => true
  | .inf _ | .fin _ _ _ => false

/-- Whether a datum is zero. -/
def FVal.isZero : FVal → Bool
  | .fin _ m _ => m == 0
  | .nan _ | .inf _ => false

/-- Whether a datum is finite. -/
def FVal.isFin : FVal → Bool
  | .fin _ _ _ => true
  | .nan _ | .inf _ => false

/-- Sign of a datum. -/
def FVal.neg : FVal → Bool
  | .fin n _ _ => n
  | .inf n => n
  | .nan _ => false

/-- Change a datum's sign when asked. -/
def FVal.negIf (b : Bool) : FVal → FVal
  | .fin n m e => .fin (n != b) m e
  | .inf n => .inf (n != b)
  | .nan s => .nan s

/-- The signed significand of a finite datum. -/
def FVal.int : FVal → Int
  | .fin n m _ => if n then -(m : Int) else m
  | .nan _ | .inf _ => 0

/-- The exponent of a finite datum. -/
def FVal.expo : FVal → Int
  | .fin _ _ e => e
  | .nan _ | .inf _ => 0

/-- The canonical NaN with flags. -/
def Fmt.nanRes (f : Fmt) (nv : Bool) : FRes := (f.qnan, if nv then fNV else 0)

/-- An infinity of a format. -/
def Fmt.infRes (f : Fmt) (neg : Bool) (fl : BitVec 5) : FRes := ((if neg then f.signW else 0) + f.top, fl)

/-- Round an exact sum m × 2^e; an exact zero takes the sign that IEEE 754 gives for the mode. -/
def Fmt.roundSum (f : Fmt) (r : Rm) (zeroNeg : Bool) (m : Int) (e : Int) : FRes :=
  if m = 0 then ((if zeroNeg then f.signW else 0), 0) else f.round r (m < 0) m.natAbs e

/-- Sum of two data with one rounding (R53). -/
def Fmt.add (f : Fmt) (r : Rm) (a b : FVal) : FRes :=
  match a, b with
  | .nan s, y => f.nanRes (s || y.sig)
  | x, .nan s => f.nanRes (s || x.sig)
  | .inf n, .inf k => if n == k then f.infRes n 0 else f.nanRes true
  | .inf n, .fin _ _ _ => f.infRes n 0
  | .fin _ _ _, .inf n => f.infRes n 0
  | .fin n m e, .fin k l d =>
    let lo := min e d
    let s := (FVal.fin n m e).int * 2 ^ (e - lo).toNat + (FVal.fin k l d).int * 2 ^ (d - lo).toNat
    f.roundSum r (if m = 0 ∧ l = 0 ∧ n = k then n else r == .rdn) s lo

/-- Product of two data with one rounding. -/
def Fmt.mul (f : Fmt) (r : Rm) (a b : FVal) : FRes :=
  match a, b with
  | .nan s, y => f.nanRes (s || y.sig)
  | x, .nan s => f.nanRes (s || x.sig)
  | .inf n, y => if y.isZero then f.nanRes true else f.infRes (n != y.neg) 0
  | x, .inf n => if x.isZero then f.nanRes true else f.infRes (n != x.neg) 0
  | .fin n m e, .fin k l d => f.round r (n != k) (m * l) (e + d)

/-- a × b + c with one rounding (R53, R139). Zero times infinity plus a quiet NaN raises NV: IEEE 754 leaves that case to the
implementation and the manual does not name it (DESIGN CHOICE [36]). -/
def Fmt.fma (f : Fmt) (r : Rm) (a b c : FVal) : FRes :=
  let bad := (match a, b with
    | .inf _, y => y.isZero
    | x, .inf _ => x.isZero
    | _, _ => false)
  if a.isNan || b.isNan || c.isNan then f.nanRes (a.sig || b.sig || c.sig || bad)
  else if bad then f.nanRes true
  else
    let pn := a.neg != b.neg
    match a, b, c with
    | .fin _ m e, .fin _ l d, .fin k o g =>
      let lo := min (e + d) g
      let p : Int := if pn then -((m * l : Nat) : Int) else (m * l : Nat)
      let s := p * 2 ^ (e + d - lo).toNat + (FVal.fin k o g).int * 2 ^ (g - lo).toNat
      f.roundSum r (if m * l = 0 ∧ o = 0 ∧ pn = k then k else r == .rdn) s lo
    | .fin _ _ _, .fin _ _ _, .inf k => f.infRes k 0
    | _, _, .inf k => if pn == k then f.infRes k 0 else f.nanRes true
    | _, _, _ => f.infRes pn 0

/-- Quotient, correctly rounded (R139). -/
def Fmt.div (f : Fmt) (r : Rm) (a b : FVal) : FRes :=
  match a, b with
  | .nan s, y => f.nanRes (s || y.sig)
  | x, .nan s => f.nanRes (s || x.sig)
  | .inf _, .inf _ => f.nanRes true
  | .inf n, .fin k _ _ => f.infRes (n != k) 0
  | .fin n _ _, .inf k => ((if n != k then f.signW else 0), 0)
  | .fin n m e, .fin k l d =>
    if l = 0 then (if m = 0 then f.nanRes true else f.infRes (n != k) fDZ)
    else
      let t := m * 2 ^ 64
      f.round r (n != k) (t / l * 2 + (if t % l = 0 then 0 else 1)) (e - d - 65)

/-- The largest s below 2^k above `acc` with s² ≤ n, bit by bit. -/
def isqrtFrom (n : Nat) : Nat → Nat → Nat
  | 0, acc => acc
  | k + 1, acc => let t := acc + 2 ^ k; isqrtFrom n k (if t * t ≤ n then t else acc)

/-- Integer square root. -/
def isqrt (n : Nat) : Nat := isqrtFrom n (Nat.log2 n / 2 + 1) 0

/-- Square root, correctly rounded (R139). -/
def Fmt.sqrt (f : Fmt) (r : Rm) (a : FVal) : FRes :=
  match a with
  | .nan s => f.nanRes s
  | .inf n => if n then f.nanRes true else f.infRes false 0
  | .fin n m e =>
    if m = 0 then ((if n then f.signW else 0), 0)
    else if n then f.nanRes true
    else
      let (m, e) := if e % 2 = 0 then (m, e) else (m * 2, e - 1)
      let t := m * 2 ^ 80
      let s := isqrt t
      f.round r false (s * 2 + (if s * s = t then 0 else 1)) (e / 2 - 41)

/-- Order of two non-NaN data: a < b. -/
def FVal.lt : FVal → FVal → Bool
  | .nan _, _ => false
  | _, .nan _ => false
  | .inf n, .inf k => n && !k
  | .inf n, .fin _ _ _ => n
  | .fin _ _ _, .inf k => !k
  | .fin n m e, .fin k l d =>
    let lo := min e d
    decide ((FVal.fin n m e).int * 2 ^ (e - lo).toNat < (FVal.fin k l d).int * 2 ^ (d - lo).toNat)

/-- Equality of two non-NaN data as values; zeros are equal. -/
def FVal.eqv (a b : FVal) : Bool := !a.isNan && !b.isNan && !a.lt b && !b.lt a

/-- Re-encode an exact datum of a format. -/
def Fmt.encode (f : Fmt) : FVal → Nat
  | .nan _ => f.qnan
  | .inf n => (f.infRes n 0).1
  | .fin n m e => (f.round .rne n m e).1

/-- Minimum (`mx` false) or maximum: the number when one operand is a NaN, -0 below +0 (R53). -/
def Fmt.minmax (f : Fmt) (mx : Bool) (a b : FVal) : FRes :=
  let fl : BitVec 5 := if a.sig || b.sig then fNV else 0
  if a.isNan && b.isNan then (f.qnan, fl)
  else if a.isNan then (f.encode b, fl)
  else if b.isNan then (f.encode a, fl)
  else
    let less := a.lt b || (a.eqv b && a.neg && !b.neg)
    ((f.encode (if less != mx then a else b)), fl)

/-- Round a finite datum to an integer in a mode: the integer and whether it is inexact. -/
def FVal.toInt (r : Rm) : FVal → Int × Bool
  | .fin n m e =>
    let (q, ix) := shiftRound r n m (-e)
    ((if n then -(q : Int) else q), ix)
  | .nan _ | .inf _ => (0, false)

/-- fp32 or bf16 to an integer of range [lo, hi] (R52). -/
def toIntSat (r : Rm) (lo hi : Int) (a : FVal) : Int × BitVec 5 :=
  match a with
  | .nan _ => (0, fNV)
  | .inf n => ((if n then lo else hi), fNV)
  | .fin n m e =>
    let (q, ix) := (FVal.fin n m e).toInt r
    if q < lo then (lo, fNV) else if hi < q then (hi, fNV) else (q, if ix then fIX else 0)

/-- Convert to a format with the overflow rules of R52 (`sat` is FPCSR.FP8SAT; it concerns e4m3 and e5m2 only). -/
def Fmt.conv (f : Fmt) (r : Rm) (sat : Bool) (a : FVal) : FRes :=
  match a with
  | .nan s => f.nanRes s
  | .inf n =>
    if f = e4m3 then (if sat then ((if n then f.signW else 0) + 0x7E, fOF ||| fIX) else (0x7F, fNV))
    else f.infRes n 0
  | .fin n m e =>
    let x := f.round r n m e
    if (f = e4m3 ∨ f = e5m2) ∧ x.2 &&& fOF ≠ 0 then
      if sat then ((if n then f.signW else 0) + f.top - 1, fOF ||| fIX)
      else if f = e4m3 then (0x7F, fOF ||| fIX) else x
    else x

/-! ### Transcendentals (R57 to R61) -/

/-- fp32 operations that round to nearest even and raise nothing (R57). -/
def sfma (a b c : Nat) : Nat := (fp32.fma .rne (fp32.decode a) (fp32.decode b) (fp32.decode c)).1
def smul (a b : Nat) : Nat := (fp32.mul .rne (fp32.decode a) (fp32.decode b)).1
def sadd (a b : Nat) : Nat := (fp32.add .rne (fp32.decode a) (fp32.decode b)).1
def sneg (a : Nat) : Nat := if a < 2 ^ 31 then a + 2 ^ 31 else a - 2 ^ 31

/-- The fp32 nearest a rational num / den (T of R57). -/
def tRat (num den : Nat) : Nat :=
  let t := num * 2 ^ 96
  (fp32.round .rne false (t / den * 2 + (if t % den = 0 then 0 else 1)) (-97)).1

/-- The fp32 nearest a fixed-point number x / 2^200 whose last bits are not exact. -/
def tFix (x : Nat) : Nat := (fp32.round .rne false (x * 2 + 1) (-201)).1

/-- Terms of the series of artanh: sum over k of z^(2k+1) / (2k+1), z and the result scaled by 2^200. -/
def artanhFrom (z2 : Nat) : Nat → Nat → Nat → Nat
  | 0, _, _ => 0
  | n + 1, k, p => p / (2 * k + 1) + artanhFrom z2 n (k + 1) (p * z2 / 2 ^ 200)

/-- ln(num / den) × 2^200 for 1 ≤ num / den ≤ 2, by 2 artanh((num - den) / (num + den)). -/
def lnFix (num den : Nat) : Nat :=
  let z := (num - den) * 2 ^ 200 / (num + den)
  2 * artanhFrom (z * z / 2 ^ 200) 70 0 z

/-- ln 2 × 2^200. -/
def ln2Fix : Nat := lnFix 2 1

/-- TR[i] (R58). -/
def tabTR (i : Nat) : Nat := tRat 512 (513 + 2 * i)

/-- The significand m in [1, 2) as an fp32, its 256-fold table index and its exponent (R57). -/
def split (m : Nat) (e : Int) : Nat × Nat × Int :=
  let l := Nat.log2 m
  let fr := m * 2 ^ (23 - l) - 2 ^ 23
  (0x3F800000 + fr, fr / 2 ^ 15, e + l)

/-- vrcp (R58). -/
def rcp32 (ftz : Bool) (x : Nat) : FRes :=
  match fp32.input ftz x with
  | .nan s => fp32.nanRes s
  | .inf n => ((if n then 2 ^ 31 else 0), 0)
  | .fin n m e =>
    if m = 0 then fp32.infRes n fDZ
    else
      let (mm, i, ex) := split m e
      let y0 := tabTR i
      let y1 := sfma y0 (sfma (sneg mm) y0 0x3F800000) y0
      let y2 := sfma y1 (sfma (sneg mm) y1 0x3F800000) y1
      match fp32.decode y2 with
      | .fin k q d => fp32.flush ftz (fp32.round .rne (n != k) q (d - ex))
      | .inf k => fp32.infRes (n != k) 0
      | .nan _ => fp32.nanRes false

/-- TS[j] (R59): 1 / sqrt((1 + (j mod 128 + 0.5) / 128) × 2^(j / 128)). -/
def tabTS (j : Nat) : Nat :=
  let den := (257 + 2 * (j % 128)) * 2 ^ (j / 128)
  let num := 256 * 2 ^ 160
  let s := isqrt (num / den)
  (fp32.round .rne false (s * 2 + (if s * s * den = num then 0 else 1)) (-81)).1

/-- One step of vrsq (R59). -/
def rsqStep (mm y : Nat) : Nat :=
  let h := smul y 0x3F000000
  sfma h (sfma (sneg mm) (smul y y) 0x3F800000) y

/-- vrsq (R59). -/
def rsq32 (ftz : Bool) (x : Nat) : FRes :=
  match fp32.input ftz x with
  | .nan s => fp32.nanRes s
  | .inf n => if n then fp32.nanRes true else (0, 0)
  | .fin n m e =>
    if m = 0 then fp32.infRes n fDZ
    else if n then fp32.nanRes true
    else
      let (m1, _, ex) := split m e
      let q : Nat := (ex % 2).toNat
      let mm := m1 + q * 0x00800000
      let j := q * 128 + (m1 - 0x3F800000) / 2 ^ 16
      let y := rsqStep mm (rsqStep mm (tabTS j))
      match fp32.decode y with
      | .fin k o d => ((fp32.round .rne k o (d - (ex - q) / 2)).1, 0)
      | .inf k => fp32.infRes k 0
      | .nan _ => fp32.nanRes false

/-- The largest r below 2^k above `acc` with r^256 ≤ n, bit by bit. -/
def root256From (n : Nat) : Nat → Nat → Nat
  | 0, acc => acc
  | k + 1, acc => let t := acc + 2 ^ k; root256From n k (if t ^ 256 ≤ n then t else acc)

/-- TE[i] (R60): 2^(i / 256). -/
def tabTE (i : Nat) : Nat :=
  let n := 2 ^ (i + 256 * 40)
  let r := root256From n 42 0
  (fp32.round .rne false (r * 2 + (if r ^ 256 = n then 0 else 1)) (-41)).1

/-- c1, c2, c3 (R60). -/
def cExp1 : Nat := tFix ln2Fix
def cExp2 : Nat := tFix (ln2Fix * ln2Fix / 2 ^ 201)
def cExp3 : Nat := tFix (ln2Fix * ln2Fix / 2 ^ 200 * ln2Fix / (6 * 2 ^ 200))

/-- vexp2 (R60); g is exact. -/
def exp2_32 (ftz : Bool) (x : Nat) : FRes :=
  match fp32.input ftz x with
  | .nan s => fp32.nanRes s
  | .inf n => if n then (0, 0) else fp32.infRes false 0
  | .fin n m e =>
    let v : FVal := .fin n m e
    if !(v.lt (.fin false 128 0)) then fp32.infRes false (fOF ||| fIX)
    else if v.lt (.fin true 150 0) then (0, fUF ||| fIX)
    else
      -- x as an integer multiple of 2^-160
      let fx : Int := v.int * 2 ^ (e + 160).toNat
      let nn : Int := fx / 2 ^ 160
      let f : Nat := (fx - nn * 2 ^ 160).toNat
      let i := f * 256 / 2 ^ 160
      let g : FVal := .fin false (f - i * 2 ^ 152) (-160)
      let te := tabTE i
      let p := (fp32.fma .rne (fp32.decode cExp3) g (fp32.decode cExp2)).1
      let q := (fp32.fma .rne (fp32.decode p) g (fp32.decode cExp1)).1
      let w := (fp32.mul .rne (fp32.decode q) g).1
      match fp32.decode (sfma te w te) with
      | .fin k o d => fp32.flush ftz (fp32.round .rne k o (d + nn))
      | .inf k => fp32.infRes k 0
      | .nan _ => fp32.nanRes false

/-- TL[i] (R61): -log2(TR[i]). -/
def tabTL (i : Nat) : Nat :=
  match fp32.decode (tabTR i) with
  | .fin _ m e => tFix (lnFix (2 ^ (-e).toNat) m * 2 ^ 200 / ln2Fix)
  | .inf _ | .nan _ => 0

/-- d1, d2, d3 (R61). -/
def dLog1 : Nat := tFix (2 ^ 400 / ln2Fix)
def dLog2 : Nat := sneg (tFix (2 ^ 399 / ln2Fix))
def dLog3 : Nat := tFix (2 ^ 400 / (3 * ln2Fix))

/-- An integer as an fp32, rounded in a mode. -/
def intToF (f : Fmt) (r : Rm) (i : Int) : FRes := f.round r (i < 0) i.natAbs 0

/-- vlog2 (R61). -/
def log2_32 (ftz : Bool) (x : Nat) : FRes :=
  match fp32.input ftz x with
  | .nan s => fp32.nanRes s
  | .inf n => if n then fp32.nanRes true else fp32.infRes false 0
  | .fin n m e =>
    if m = 0 then fp32.infRes true fDZ
    else if n then fp32.nanRes true
    else
      let (mm, i, ex) := split m e
      let fe := (intToF fp32 .rne ex).1
      if mm = 0x3F800000 then (fe, 0)
      else
        let z := sfma mm (tabTR i) 0xBF800000
        let q := sfma (sfma dLog3 z dLog2) z dLog1
        let y := sfma q z (tabTL i)
        fp32.flush ftz (fp32.add .rne (fp32.decode fe) (fp32.decode y))

/-! ### Blocks (R64, R65, R72) -/

/-- A block: scale byte and signed mantissas (R64). -/
structure Block where
  scale : Nat
  mant  : List Int
  deriving DecidableEq, Repr

/-- BF16 import (R65) of 64 bf16 patterns. -/
def importBlock (xs : List Nat) : Block :=
  let zero : List Int := xs.map fun _ => 0
  if xs.any fun x => x % 2 ^ 15 / 128 == 255 then { scale := 0xFF, mant := zero }
  else
    let emax := xs.foldl (fun a x => max a (x % 2 ^ 15 / 128)) 0
    if emax = 0 then { scale := 0, mant := zero }
    else
      let sc := emax - 14
      { scale := sc
        mant := xs.map fun x =>
          if x % 2 ^ 15 / 128 = 0 then 0
          else match bf16.decode x with
            | .fin n m e => ((FVal.fin n m (e + 127 - sc)).toInt .rne).1
            | .inf _ | .nan _ => 0 }

/-- The BX8 block of 64 fp32 patterns and whether an element was clamped (R72). -/
def bx8Block (xs : List Nat) : Block × Bool :=
  let vs := xs.map fp32.decode
  if vs.any fun v => !v.isFin then ({ scale := 0xFF, mant := xs.map fun _ => -128 }, false)
  else
    let amax := xs.foldl (fun a x => max a (x % 2 ^ 31)) 0
    match fp32.decode amax with
    | .fin _ m e =>
      if m = 0 then ({ scale := 0, mant := xs.map fun _ => 0 }, false)
      else
        let sc : Nat := ((Nat.log2 m : Int) + e + 121).toNat
        let qs := vs.map fun v => match v with
          | .fin n m e => ((FVal.fin n m (e + 127 - sc)).toInt .rne).1
          | .inf _ | .nan _ => 0
        ({ scale := sc, mant := qs.map fun q => max (-127) (min 127 q) }, qs.any fun q => decide (127 < q.natAbs))
    | .inf _ | .nan _ => ({ scale := 0xFF, mant := xs.map fun _ => -128 }, false)

/-- Operand formats of the array (R74): BX8, BX4, BX16, BF16. -/
inductive OpFmt where
  | bx8 | bx4 | bx16 | bf16
  deriving DecidableEq, Repr

/-- The operand format of a code (R74). -/
def OpFmt.ofCode : Nat → OpFmt
  | 0 => .bx8
  | 1 => .bx4
  | 2 => .bx16
  | _ => .bf16

/-- The element NaN marker of a format (R64). -/
def OpFmt.marker : OpFmt → Int
  | .bx8 => -128
  | .bx4 => -8
  | .bx16 | .bf16 => -32768

/-- Mantissa bytes of a block (R64, R264). -/
def OpFmt.bytes : OpFmt → Nat
  | .bx8 => 64
  | .bx4 => 32
  | .bx16 | .bf16 => 128

/-- A NaN block (R69). -/
def Block.isNan (b : Block) (f : OpFmt) : Bool := b.scale == 0xFF || b.mant.contains f.marker

/-- One residue channel: the sum of products of residues (R66). -/
def residue (m : Nat) (xs ys : List Int) : Nat :=
  (List.zipWith (fun a b => (a % (m : Int)).toNat * (b % (m : Int)).toNat) xs ys).foldl (fun s p => (s + p) % m) 0

/-- The boundary converter: reconstruction by the Chinese remainder theorem, and the mod-251 check (R68). -/
def reconstruct (r253 r255 r256 r251 : Nat) : Option Int :=
  let x := (r253 * 13774080 + r255 * 8225536 + r256 * 11032065) % 16515840
  let s : Int := if 8257920 ≤ x then (x : Int) - 16515840 else x
  if (s % 251).toNat = r251 then some s else none

/-- The block sum of one pair of limb lists through the channels (R66, R68). -/
def limbSum (xs ys : List Int) : Option Int :=
  reconstruct (residue 253 xs ys) (residue 255 xs ys) (residue 256 xs ys) (residue 251 xs ys)

/-- The block sum S of two blocks (R66 to R68). -/
def blockSum (fa fb : OpFmt) (a b : Block) : Option Int :=
  let wide (f : OpFmt) : Bool := f == .bx16 || f == .bf16
  if wide fa || wide fb then do
    let ah := a.mant.map (· / 256)
    let al := a.mant.map (· % 256)
    let bh := b.mant.map (· / 256)
    let bl := b.mant.map (· % 256)
    let hh ← limbSum ah bh
    let hl ← limbSum ah bl
    let lh ← limbSum al bh
    let ll ← limbSum al bl
    some (hh * 65536 + (hl + lh) * 256 + ll)
  else limbSum a.mant b.mant

/-- Clamp to i32 (R70). -/
def sat32 (x : Int) : Int := max (-2147483648) (min 2147483647 x)

/-- An i32 pattern as an integer. -/
def i32Of (x : Nat) : Int := sextNat 32 x

/-- The pattern of an integer modulo 2^32. -/
def patOf (x : Int) : Nat := (x % 4294967296).toNat

/-- A tile element after an update, with the SAT and NAN bits it raises (R70). -/
structure TileRes where
  x   : Nat
  sat : Bool
  nan : Bool
  deriving DecidableEq, Repr

/-- The fp32 NaN with the NAN bit. -/
def TileRes.qnan : TileRes := { x := 0x7FC00000, sat := false, nan := true }

/-- One block's contribution to an accumulator element (R70). -/
def accumulate (isI32 : Bool) (acc : Nat) (nanBlock : Bool) (sum : Int) (ex : Int) : TileRes :=
  if isI32 then
    if nanBlock then { x := 2147483648, sat := false, nan := true }
    else
      let c := ((FVal.fin (sum < 0) sum.natAbs ex).toInt .rne).1
      let t := i32Of acc + c
      { x := patOf (sat32 t), sat := sat32 t != t, nan := false }
  else if nanBlock then .qnan
  else
    match fp32.decode acc with
    | .nan _ => { x := 0x7FC00000, sat := false, nan := false }
    | v =>
      let y := fp32.add .rne v (.fin (sum < 0) sum.natAbs ex)
      { x := y.1, sat := y.2 &&& fOF != 0, nan := false }

/-- A fade (R263): g × acc. -/
def fadeElem (isI32 : Bool) (g acc : Nat) : TileRes :=
  if isI32 then
    let a := i32Of acc
    match fp32.decode g with
    | .nan _ => { x := 2147483648, sat := false, nan := true }
    | .inf n =>
      if a = 0 then { x := 2147483648, sat := false, nan := true }
      else { x := patOf (if (n != decide (a < 0)) then -2147483648 else 2147483647), sat := true, nan := false }
    | .fin n m e =>
      let t := ((FVal.fin (n != decide (a < 0)) (m * a.natAbs) e).toInt .rne).1
      { x := patOf (sat32 t), sat := sat32 t != t, nan := false }
  else
    match fp32.decode acc with
    | .nan _ => { x := 0x7FC00000, sat := false, nan := false }
    | v =>
      let y := fp32.mul .rne (fp32.decode g) v
      if (fp32.decode y.1).isNan then .qnan else { x := y.1, sat := y.2 &&& fOF != 0, nan := false }

/-- mx.acc on one element (R270): g × d + s. -/
def accElem (isI32 : Bool) (g d s : Nat) : TileRes :=
  if isI32 then
    let a := i32Of d
    match fp32.decode g with
    | .nan _ => { x := 2147483648, sat := false, nan := true }
    | .inf n =>
      if a = 0 then { x := 2147483648, sat := false, nan := true }
      else { x := patOf (if (n != decide (a < 0)) then -2147483648 else 2147483647), sat := true, nan := false }
    | .fin n m e =>
      let p : Int := (if n then -(m : Int) else m) * a
      let lo := min e 0
      let t : Int := p * 2 ^ (e - lo).toNat + i32Of s * 2 ^ (-lo).toNat
      let r := ((FVal.fin (t < 0) t.natAbs lo).toInt .rne).1
      { x := patOf (sat32 r), sat := sat32 r != r, nan := false }
  else
    let y := fp32.fma .rne (fp32.decode g) (fp32.decode d) (fp32.decode s)
    if (fp32.decode y.1).isNan then .qnan else { x := y.1, sat := y.2 &&& fOF != 0, nan := false }

/-- The drain converter on one element, target code of R74 (not BX8): pattern and whether DSAT is raised (R72). -/
def drainElem (isI32 fp8sat : Bool) (scale : Nat) (target x : Nat) : Nat × Bool :=
  let clamp8 (v : FVal) : Nat × Bool :=
    match v with
    | .nan _ => (0, true)
    | .inf n => ((if n then 0x80 else 0x7F), true)
    | .fin n m e =>
      let q := ((FVal.fin n m e).toInt .rne).1
      if q < -128 then (0x80, true) else if 127 < q then (0x7F, true) else ((q % 256).toNat, false)
  if isI32 then
    match target with
    | 4 => ((intToF fp32 .rne (i32Of x)).1, false)
    | 6 => clamp8 (fp32.decode (smul (intToF fp32 .rne (i32Of x)).1 scale))
    | _ => (x, false)
  else
    match target with
    | 5 => ((bf16.conv .rne true (fp32.decode x)).1, false)
    | 6 => clamp8 (fp32.decode (smul x scale))
    | 7 => let y := e4m3.conv .rne fp8sat (fp32.decode x); (y.1, fp8sat && y.2 &&& fOF != 0)
    | 8 => let y := e5m2.conv .rne fp8sat (fp32.decode x); (y.1, fp8sat && y.2 &&& fOF != 0)
    | _ => (x, false)

/-! ### Checks: CRC-32C (R258) and SHA-256 (R398) -/

/-- One bit of the reflected CRC-32C. -/
def crcBit (c : Nat) : Nat := if c % 2 = 1 then (c / 2) ^^^ 0x82F63B78 else c / 2

/-- One byte of the reflected CRC-32C. -/
def crcByte (c : Nat) (x : Byte) : Nat :=
  crcBit (crcBit (crcBit (crcBit (crcBit (crcBit (crcBit (crcBit (c ^^^ x.toNat))))))))

/-- CRC-32C over bytes. -/
def crc32c (bs : List Byte) : Nat := bs.foldl crcByte 0xFFFFFFFF ^^^ 0xFFFFFFFF

/-- Rotate a 32-bit word right. -/
def rotr (n x : Nat) : Nat := (x / 2 ^ n) ||| (x * 2 ^ (32 - n) % 2 ^ 32)

/-- The round constants of SHA-256. -/
def shaK : List Nat :=
  [0x428A2F98, 0x71374491, 0xB5C0FBCF, 0xE9B5DBA5, 0x3956C25B, 0x59F111F1, 0x923F82A4, 0xAB1C5ED5] ++
  [0xD807AA98, 0x12835B01, 0x243185BE, 0x550C7DC3, 0x72BE5D74, 0x80DEB1FE, 0x9BDC06A7, 0xC19BF174] ++
  [0xE49B69C1, 0xEFBE4786, 0x0FC19DC6, 0x240CA1CC, 0x2DE92C6F, 0x4A7484AA, 0x5CB0A9DC, 0x76F988DA] ++
  [0x983E5152, 0xA831C66D, 0xB00327C8, 0xBF597FC7, 0xC6E00BF3, 0xD5A79147, 0x06CA6351, 0x14292967] ++
  [0x27B70A85, 0x2E1B2138, 0x4D2C6DFC, 0x53380D13, 0x650A7354, 0x766A0ABB, 0x81C2C92E, 0x92722C85] ++
  [0xA2BFE8A1, 0xA81A664B, 0xC24B8B70, 0xC76C51A3, 0xD192E819, 0xD6990624, 0xF40E3585, 0x106AA070] ++
  [0x19A4C116, 0x1E376C08, 0x2748774C, 0x34B0BCB5, 0x391C0CB3, 0x4ED8AA4A, 0x5B9CCA4F, 0x682E6FF3] ++
  [0x748F82EE, 0x78A5636F, 0x84C87814, 0x8CC70208, 0x90BEFFFA, 0xA4506CEB, 0xBEF9A3F7, 0xC67178F2]

/-- The message schedule: `n` more words after the sixteen of a block, newest first. -/
def shaSchedule : Nat → List Nat → List Nat
  | 0, w => w
  | n + 1, w =>
    let x := w.getD 14 0
    let y := w.getD 1 0
    let s0 := rotr 7 x ^^^ rotr 18 x ^^^ (x / 2 ^ 3)
    let s1 := rotr 17 y ^^^ rotr 19 y ^^^ (y / 2 ^ 10)
    shaSchedule n ((w.getD 15 0 + s0 + w.getD 6 0 + s1) % 2 ^ 32 :: w)

/-- One round of SHA-256 on the eight working words. -/
def shaRound (h : List Nat) (kw : Nat × Nat) : List Nat :=
  match h with
  | [a, b, c, d, e, f, g, hh] =>
    let s1 := rotr 6 e ^^^ rotr 11 e ^^^ rotr 25 e
    let ch := (e &&& f) ^^^ ((4294967295 - e) &&& g)
    let t1 := hh + s1 + ch + kw.1 + kw.2
    let s0 := rotr 2 a ^^^ rotr 13 a ^^^ rotr 22 a
    let mj := (a &&& b) ^^^ (a &&& c) ^^^ (b &&& c)
    [(t1 + s0 + mj) % 2 ^ 32, a, b, c, (d + t1) % 2 ^ 32, e, f, g]
  | l => l

/-- One block of sixteen words. -/
def shaBlock (h : List Nat) (w : List Nat) : List Nat :=
  let ws := (shaSchedule 48 w.reverse).reverse
  List.zipWith (fun x y => (x + y) % 2 ^ 32) h ((shaK.zip ws).foldl shaRound h)

/-- The big-endian 32-bit words of a byte string. -/
def beWords : List Byte → List Nat
  | a :: b :: c :: d :: r => (((a.toNat * 256 + b.toNat) * 256 + c.toNat) * 256 + d.toNat) :: beWords r
  | _ => []

/-- Blocks of sixteen words, at most `n`. -/
def shaBlocks : Nat → List Nat → List Nat → List Nat
  | 0, h, _ => h
  | n + 1, h, ws => if ws.length < 16 then h else shaBlocks n (shaBlock h (ws.take 16)) (ws.drop 16)

/-- SHA-256 of a byte string, its 32 bytes in order. -/
def sha256 (bs : List Byte) : List Byte :=
  let n := bs.length
  let pad := bs ++ [0x80#8] ++ List.replicate ((119 - n % 64) % 64) 0 ++ (leBytes 8 (8 * n)).reverse
  (shaBlocks (pad.length / 64) [0x6A09E667, 0xBB67AE85, 0x3C6EF372, 0xA54FF53A, 0x510E527F, 0x9B05688C, 0x1F83D9AB, 0x5BE0CD19] (beWords pad)).flatMap
    fun w => (leBytes 4 w).reverse

end Sys2Proof.Machine
end

