-- ==== Sys2Proof/Machine/Operands.lean ====
section
/-! DEFINITION. Operand forms: the registers a syllable names (R79, R87, R89, R127), reading them at issue, putting a
result in flight (R91 to R93), element views of vector registers (R85, R88), predicates, and control-register reads. -/

namespace Sys2Proof.Machine

/-- The registers a syllable names: scalars, vectors and capabilities it reads at issue, and scalars, vectors,
predicates and capabilities it writes (R79, R120, R122). -/
structure Uses where
  rg : List Nat
  wg : List Nat
  rv : List Nat
  wv : List Nat
  wp : List Nat
  rk : List Nat
  wk : List Nat
  deriving DecidableEq, Repr

/-- The registers of each syllable; events name none. A vcvt or vcvt8 under p0 reads vd even where it replaces all of it (DESIGN CHOICE
[47]). -/
def uses : Instr → Uses
  | .bundleIssue _ => ⟨[], [], [], [], [], [], []⟩
  | .sdoneSignal _ _ => ⟨[], [], [], [], [], [], []⟩
  | .resultWriteback _ => ⟨[], [], [], [], [], [], []⟩
  | .loadReturn _ _ => ⟨[], [], [], [], [], [], []⟩
  | .starvationTrap _ => ⟨[], [], [], [], [], [], []⟩
  | .accessReport _ _ => ⟨[], [], [], [], [], [], []⟩
  | .pendingTrapTaken _ => ⟨[], [], [], [], [], [], []⟩
  | .trapBetweenTasks _ => ⟨[], [], [], [], [], [], []⟩
  | .stagedTaskStart _ => ⟨[], [], [], [], [], [], []⟩
  | .coreTaskChoice _ => ⟨[], [], [], [], [], [], []⟩
  | .taskRecordDecrement _ _ => ⟨[], [], [], [], [], [], []⟩
  | .readyOverflowMove _ => ⟨[], [], [], [], [], [], []⟩
  | .launchBackoffExpiry _ => ⟨[], [], [], [], [], [], []⟩
  | .superstepAdvance _ => ⟨[], [], [], [], [], [], []⟩
  | .launchCompletion _ => ⟨[], [], [], [], [], [], []⟩
  | .barrierArrivalApplied _ => ⟨[], [], [], [], [], [], []⟩
  | .barrierDeferredCompletion _ _ => ⟨[], [], [], [], [], [], []⟩
  | .accessPerform _ _ => ⟨[], [], [], [], [], [], []⟩
  | .airedFaultResolve _ => ⟨[], [], [], [], [], [], []⟩
  | .vbusRetrainStart _ => ⟨[], [], [], [], [], [], []⟩
  | .vbusRetrainForced _ => ⟨[], [], [], [], [], [], []⟩
  | .vbusRetrainEnd _ => ⟨[], [], [], [], [], [], []⟩
  | .engineOpFire _ _ => ⟨[], [], [], [], [], [], []⟩
  | .engineOpComplete _ _ _ => ⟨[], [], [], [], [], [], []⟩
  | .tlAcqSatisfied _ _ => ⟨[], [], [], [], [], [], []⟩
  | .landingMove _ => ⟨[], [], [], [], [], [], []⟩
  | .requestInject _ _ => ⟨[], [], [], [], [], [], []⟩
  | .frameResendTimeout _ _ => ⟨[], [], [], [], [], [], []⟩
  | .chaseReinject _ => ⟨[], [], [], [], [], [], []⟩
  | .seamDeadlineFlush _ => ⟨[], [], [], [], [], [], []⟩
  | .windowDeadline _ => ⟨[], [], [], [], [], [], []⟩
  | .slotTableSwap _ => ⟨[], [], [], [], [], [], []⟩
  | .fqUnbindComplete _ _ => ⟨[], [], [], [], [], [], []⟩
  | .drtFlagPlace _ => ⟨[], [], [], [], [], [], []⟩
  | .drtPacketResend _ => ⟨[], [], [], [], [], [], []⟩
  | .drtMessageLost _ => ⟨[], [], [], [], [], [], []⟩
  | .registrationDrained _ => ⟨[], [], [], [], [], [], []⟩
  | .preempt _ => ⟨[], [], [], [], [], [], []⟩
  | .restore _ _ => ⟨[], [], [], [], [], [], []⟩
  | .resume _ _ _ => ⟨[], [], [], [], [], [], []⟩
  | .gate _ => ⟨[], [], [], [], [], [], []⟩
  | .relabel _ _ _ => ⟨[], [], [], [], [], [], []⟩
  | .abort _ => ⟨[], [], [], [], [], [], []⟩
  | .setpeg _ _ _ _ => ⟨[], [], [], [], [], [], []⟩
  | .table _ _ _ => ⟨[], [], [], [], [], [], []⟩
  | .tlen _ _ => ⟨[], [], [], [], [], [], []⟩
  | .attest _ _ => ⟨[], [], [], [], [], [], []⟩
  | .create _ => ⟨[], [], [], [], [], [], []⟩
  | .destroy _ => ⟨[], [], [], [], [], [], []⟩
  | .wdogWrite _ => ⟨[], [], [], [], [], [], []⟩
  | .fpcsrWrite _ => ⟨[], [], [], [], [], [], []⟩
  | .parkcfgWrite _ => ⟨[], [], [], [], [], [], []⟩
  | .resvcfgWrite _ => ⟨[], [], [], [], [], [], []⟩
  | .drtcfgWrite _ => ⟨[], [], [], [], [], [], []⟩
  | .drtstWrite _ => ⟨[], [], [], [], [], [], []⟩
  | .eqstWrite _ => ⟨[], [], [], [], [], [], []⟩
  | .controlRegisterWrite _ _ => ⟨[], [], [], [], [], [], []⟩
  | .bnkLock a _ => ⟨[a.val], [], [], [], [], [], []⟩
  | .loopm a _ _ => ⟨[a.val], [], [], [], [], [], []⟩
  | .add d a b _ => ⟨[a.val, b.val], [d.val], [], [], [], [], []⟩
  | .sub d a b _ => ⟨[a.val, b.val], [d.val], [], [], [], [], []⟩
  | .addi d a _ => ⟨[a.val], [d.val], [], [], [], [], []⟩
  | .mul d a b _ => ⟨[a.val, b.val], [d.val], [], [], [], [], []⟩
  | .mulh d a b => ⟨[a.val, b.val], [d.val], [], [], [], [], []⟩
  | .mulhu d a b => ⟨[a.val, b.val], [d.val], [], [], [], [], []⟩
  | .mad d a b => ⟨[a.val, b.val, d.val], [d.val], [], [], [], [], []⟩
  | .div d a b => ⟨[a.val, b.val], [d.val], [], [], [], [], []⟩
  | .divu d a b => ⟨[a.val, b.val], [d.val], [], [], [], [], []⟩
  | .rem d a b => ⟨[a.val, b.val], [d.val], [], [], [], [], []⟩
  | .remu d a b => ⟨[a.val, b.val], [d.val], [], [], [], [], []⟩
  | .and d a b => ⟨[a.val, b.val], [d.val], [], [], [], [], []⟩
  | .or d a b => ⟨[a.val, b.val], [d.val], [], [], [], [], []⟩
  | .xor d a b => ⟨[a.val, b.val], [d.val], [], [], [], [], []⟩
  | .andn d a b => ⟨[a.val, b.val], [d.val], [], [], [], [], []⟩
  | .shl d a b _ => ⟨[a.val, b.val], [d.val], [], [], [], [], []⟩
  | .shr d a b _ => ⟨[a.val, b.val], [d.val], [], [], [], [], []⟩
  | .sra d a b _ => ⟨[a.val, b.val], [d.val], [], [], [], [], []⟩
  | .shli d a _ => ⟨[a.val], [d.val], [], [], [], [], []⟩
  | .shri d a _ => ⟨[a.val], [d.val], [], [], [], [], []⟩
  | .srai d a _ => ⟨[a.val], [d.val], [], [], [], [], []⟩
  | .min d a b => ⟨[a.val, b.val], [d.val], [], [], [], [], []⟩
  | .max d a b => ⟨[a.val, b.val], [d.val], [], [], [], [], []⟩
  | .minu d a b => ⟨[a.val, b.val], [d.val], [], [], [], [], []⟩
  | .maxu d a b => ⟨[a.val, b.val], [d.val], [], [], [], [], []⟩
  | .cmp _ p a b => ⟨[a.val, b.val], [], [], [], [p.val], [], []⟩
  | .cmpi _ p a _ => ⟨[a.val], [], [], [], [p.val], [], []⟩
  | .sel d _ a b => ⟨[a.val, b.val], [d.val], [], [], [], [], []⟩
  | .movi d _ => ⟨[], [d.val], [], [], [], [], []⟩
  | .movhi d _ _ => ⟨[d.val], [d.val], [], [], [], [], []⟩
  | .clz d a => ⟨[a.val], [d.val], [], [], [], [], []⟩
  | .popc d a => ⟨[a.val], [d.val], [], [], [], [], []⟩
  | .bfx d a _ _ _ => ⟨[a.val], [d.val], [], [], [], [], []⟩
  | .bfi d a _ _ => ⟨[a.val, d.val], [d.val], [], [], [], [], []⟩
  | .addr d a b _ _ => ⟨[a.val, b.val], [d.val], [], [], [], [], []⟩
  | .pand d _ _ => ⟨[], [], [], [], [d.val], [], []⟩
  | .por d _ _ => ⟨[], [], [], [], [d.val], [], []⟩
  | .pxor d _ _ => ⟨[], [], [], [], [d.val], [], []⟩
  | .pandn d _ _ => ⟨[], [], [], [], [d.val], [], []⟩
  | .pnot d _ => ⟨[], [], [], [], [d.val], [], []⟩
  | .shw _ _ a => ⟨[a.val], [], [], [], [], [], []⟩
  | .br _ _ _ => ⟨[], [], [], [], [], [], []⟩
  | .bp _ _ _ => ⟨[], [], [], [], [], [], []⟩
  | .call _ _ _ => ⟨[], [55], [], [], [], [], []⟩
  | .jr d a => ⟨[a.val], [d.val], [], [], [], [], []⟩
  | .loopx _ => ⟨[], [], [], [], [], [], []⟩
  | .trap _ a => ⟨[a.val], [], [], [], [], [], []⟩
  | .bkpt _ => ⟨[], [], [], [], [], [], []⟩
  | .csrr d _ => ⟨[], [d.val], [], [], [], [], []⟩
  | .csrw _ a => ⟨[a.val], [], [], [], [], [], []⟩
  | .csrx d _ a => ⟨[a.val], [d.val], [], [], [], [], []⟩
  | .vpark v => ⟨[], [], [v.val], [], [], [], []⟩
  | .vunpark v => ⟨[], [], [], [v.val], [], [], []⟩
  | .vadd _ d a b p _ _ => ⟨[], [], [a.val, b.val] ++ (if p == 0 then [] else [d.val]), [d.val], [], [], []⟩
  | .vsub _ d a b p _ _ => ⟨[], [], [a.val, b.val] ++ (if p == 0 then [] else [d.val]), [d.val], [], [], []⟩
  | .vmul _ d a b p _ _ => ⟨[], [], [a.val, b.val] ++ (if p == 0 then [] else [d.val]), [d.val], [], [], []⟩
  | .vfma _ d a b _ _ _ => ⟨[], [], [a.val, b.val, d.val], [d.val], [], [], []⟩
  | .vmin _ d a b p => ⟨[], [], [a.val, b.val] ++ (if p == 0 then [] else [d.val]), [d.val], [], [], []⟩
  | .vmax _ d a b p => ⟨[], [], [a.val, b.val] ++ (if p == 0 then [] else [d.val]), [d.val], [], [], []⟩
  | .vabs _ d a p _ => ⟨[], [], [a.val] ++ (if p == 0 then [] else [d.val]), [d.val], [], [], []⟩
  | .vadds _ d a g p _ => ⟨[g.val], [], [a.val] ++ (if p == 0 then [] else [d.val]), [d.val], [], [], []⟩
  | .vmuls _ d a g p _ => ⟨[g.val], [], [a.val] ++ (if p == 0 then [] else [d.val]), [d.val], [], [], []⟩
  | .vfmas _ d a g _ _ => ⟨[g.val], [], [a.val, d.val], [d.val], [], [], []⟩
  | .vdiv _ d a b p _ => ⟨[], [], [a.val, b.val] ++ (if p == 0 then [] else [d.val]), [d.val], [], [], []⟩
  | .vsqrt _ d a p _ => ⟨[], [], [a.val] ++ (if p == 0 then [] else [d.val]), [d.val], [], [], []⟩
  | .vcmp _ _ d a b _ => ⟨[], [], [a.val, b.val], [], [d.val], [], []⟩
  | .vsel d _ a b => ⟨[], [], [a.val, b.val], [d.val], [], [], []⟩
  | .vand d a b p => ⟨[], [], [a.val, b.val] ++ (if p == 0 then [] else [d.val]), [d.val], [], [], []⟩
  | .vor d a b p => ⟨[], [], [a.val, b.val] ++ (if p == 0 then [] else [d.val]), [d.val], [], [], []⟩
  | .vxor d a b p => ⟨[], [], [a.val, b.val] ++ (if p == 0 then [] else [d.val]), [d.val], [], [], []⟩
  | .vandn d a b p => ⟨[], [], [a.val, b.val] ++ (if p == 0 then [] else [d.val]), [d.val], [], [], []⟩
  | .vshl _ d a b p => ⟨[], [], [a.val, b.val] ++ (if p == 0 then [] else [d.val]), [d.val], [], [], []⟩
  | .vshr _ d a b p => ⟨[], [], [a.val, b.val] ++ (if p == 0 then [] else [d.val]), [d.val], [], [], []⟩
  | .vsra _ d a b p => ⟨[], [], [a.val, b.val] ++ (if p == 0 then [] else [d.val]), [d.val], [], [], []⟩
  | .vshli _ d a p _ => ⟨[], [], [a.val] ++ (if p == 0 then [] else [d.val]), [d.val], [], [], []⟩
  | .vshri _ d a p _ => ⟨[], [], [a.val] ++ (if p == 0 then [] else [d.val]), [d.val], [], [], []⟩
  | .vsrai _ d a p _ => ⟨[], [], [a.val] ++ (if p == 0 then [] else [d.val]), [d.val], [], [], []⟩
  | .vrcp d a p => ⟨[], [], [a.val] ++ (if p == 0 then [] else [d.val]), [d.val], [], [], []⟩
  | .vrsq d a p => ⟨[], [], [a.val] ++ (if p == 0 then [] else [d.val]), [d.val], [], [], []⟩
  | .vexp2 d a p => ⟨[], [], [a.val] ++ (if p == 0 then [] else [d.val]), [d.val], [], [], []⟩
  | .vlog2 d a p => ⟨[], [], [a.val] ++ (if p == 0 then [] else [d.val]), [d.val], [], [], []⟩
  | .vcvt _ _ d a _ _ _ => ⟨[], [], [a.val, d.val], [d.val], [], [], []⟩
  | .vbxi d a _ => ⟨[], [], [a.val], [d.val], [], [], []⟩
  | .vcvt8 d a _ _ _ _ _ => ⟨[], [], [a.val, d.val], [d.val], [], [], []⟩
  | .vpack _ d a b p _ => ⟨[], [], [a.val, b.val] ++ (if p == 0 then [] else [d.val]), [d.val], [], [], []⟩
  | .vunpack _ d a p _ => ⟨[], [], [a.val] ++ (if p == 0 then [] else [d.val]), [d.val], [], [], []⟩
  | .vperm _ d a b p => ⟨[], [], [a.val, b.val] ++ (if p == 0 then [] else [d.val]), [d.val], [], [], []⟩
  | .vrot _ d a p _ _ => ⟨[], [], [a.val] ++ (if p == 0 then [] else [d.val]), [d.val], [], [], []⟩
  | .vbcast _ d g p => ⟨[g.val], [], (if p == 0 then [] else [d.val]), [d.val], [], [], []⟩
  | .vext _ g a _ _ => ⟨[], [g.val], [a.val], [], [], [], []⟩
  | .vred _ _ d a _ _ _ => ⟨[], [], [a.val], [d.val], [], [], []⟩
  | .vscan _ _ d a p _ _ => ⟨[], [], [a.val] ++ (if p == 0 then [] else [d.val]), [d.val], [], [], []⟩
  | .vdot4 _ d a b _ _ => ⟨[], [], [a.val, b.val, d.val], [d.val], [], [], []⟩
  | .vmovi _ d p _ => ⟨[], [], (if p == 0 then [] else [d.val]), [d.val], [], [], []⟩
  | .ld _ _ _ _ d a _ => ⟨[a.val], [d.val], [], [], [], [], []⟩
  | .st _ _ _ d a _ => ⟨[a.val, d.val], [], [], [], [], [], []⟩
  | .vld _ _ _ p d a => ⟨[a.val], [], (if p == 0 then [] else [d.val]), [d.val], [], [], []⟩
  | .vldS _ _ _ p d a g => ⟨[a.val, g.val], [], (if p == 0 then [] else [d.val]), [d.val], [], [], []⟩
  | .vst _ _ _ _ d a => ⟨[a.val], [], [d.val], [], [], [], []⟩
  | .vgath _ e _ p d a b => ⟨[a.val], [], [b.val] ++ (if p == 0 && e == .w4 then [] else [d.val]), [d.val], [], [], []⟩
  | .vscat _ _ _ _ d a b => ⟨[a.val], [], [d.val, b.val], [], [], [], []⟩
  | .tlook d a => ⟨[a.val], [d.val], [], [], [], [], []⟩
  | .tset d a => ⟨[a.val, d.val], [], [], [], [], [], []⟩
  | .tinv a _ => ⟨[a.val], [], [], [], [], [], []⟩
  | .mop o _ _ _ d a => ⟨[a.val] ++ (if o == .cas || o == .saxpy then [d.val, d.val + 1] else [d.val]), [], [], [], [], [], []⟩
  | .amo o _ _ _ d a => ⟨[a.val] ++ (if o == .cas then [d.val, d.val + 1] else [d.val]), [d.val], [], [], [], [], []⟩
  | .fence _ _ => ⟨[], [], [], [], [], [], []⟩
  | .tfence _ => ⟨[], [], [], [], [], [], []⟩
  | .semSig a _ => ⟨[a.val], [], [], [], [], [], []⟩
  | .semSet a b => ⟨[a.val, b.val], [], [], [], [], [], []⟩
  | .arrive a => ⟨[a.val], [], [], [], [], [], []⟩
  | .arriveRlx a => ⟨[a.val], [], [], [], [], [], []⟩
  | .expect a b => ⟨[a.val, b.val], [], [], [], [], [], []⟩
  | .barInit a b => ⟨[a.val, b.val, b.val + 1], [], [], [], [], [], []⟩
  | .tlRd a _ => ⟨[], [a.val], [], [], [], [], []⟩
  | .tlInc a _ => ⟨[], [a.val], [], [], [], [], []⟩
  | .tlAcq d a _ => ⟨[a.val], [d.val], [], [], [], [], []⟩
  | .taskDec a => ⟨[a.val], [], [], [], [], [], []⟩
  | .taskPost a b => ⟨[a.val, b.val], [], [], [], [], [], []⟩
  | .bkOpen a _ => ⟨[a.val], [], [], [], [], [], []⟩
  | .bkClose a => ⟨[a.val], [], [], [], [], [], []⟩
  | .bkGive a b => ⟨[a.val, b.val], [], [], [], [], [], []⟩
  | .bkInit a b => ⟨[a.val, b.val], [], [], [], [], [], []⟩
  | .cpGo _ _ _ => ⟨[], [], [], [], [], [], []⟩
  | .cpGath _ _ _ => ⟨[], [], [], [], [], [], []⟩
  | .cpScat _ _ _ _ => ⟨[], [], [], [], [], [], []⟩
  | .cpFill _ _ _ => ⟨[], [], [], [], [], [], []⟩
  | .cpChk _ _ _ _ => ⟨[], [], [], [], [], [], []⟩
  | .cpTabwL a b => ⟨[a.val, b.val, b.val + 1], [], [], [], [], [], []⟩
  | .cpTabwR a b => ⟨[a.val, b.val], [], [], [], [], [], []⟩
  | .cpTabrL a b _ => ⟨[a.val], [b.val], [], [], [], [], []⟩
  | .cpTabrR a b => ⟨[a.val], [b.val], [], [], [], [], []⟩
  | .mxCfg a b => ⟨[a.val, b.val, b.val + 1], [], [], [], [], [], []⟩
  | .mxGo _ _ _ => ⟨[], [], [], [], [], [], []⟩
  | .mxWload _ _ => ⟨[], [], [], [], [], [], []⟩
  | .mxDrain _ a _ => ⟨[a.val], [], [], [], [], [], []⟩
  | .mxAcc a b _ => ⟨[a.val, b.val], [], [], [], [], [], []⟩
  | .mxHad a _ => ⟨[a.val], [], [], [], [], [], []⟩
  | .mxFmt a b => ⟨[a.val, b.val], [], [], [], [], [], []⟩
  | .mxZero a => ⟨[a.val], [], [], [], [], [], []⟩
  | .mxRd v a => ⟨[a.val], [], [], [v.val], [], [], []⟩
  | .vpFwd _ _ => ⟨[], [], [], [], [], [], []⟩
  | .vpBwd _ _ => ⟨[], [], [], [], [], [], []⟩
  | .vpMerge a b => ⟨[a.val, b.val], [], [], [], [], [], []⟩
  | .vpRd v a _ => ⟨[a.val], [], [], [v.val], [], [], []⟩
  | .eqUnite _ _ _ => ⟨[], [], [], [], [], [], []⟩
  | .eqUniteNew a _ => ⟨[a.val], [], [], [], [], [], []⟩
  | .eqFind _ _ _ => ⟨[], [], [], [], [], [], []⟩
  | .eqRelab _ _ _ _ => ⟨[], [], [], [], [], [], []⟩
  | .eqSnap _ => ⟨[], [], [], [], [], [], []⟩
  | .eqUndo _ => ⟨[], [], [], [], [], [], []⟩
  | .eqCommit _ _ => ⟨[], [], [], [], [], [], []⟩
  | .eqSize a b _ => ⟨[a.val], [b.val], [], [], [], [], []⟩
  | .fsSend _ _ _ => ⟨[], [], [], [], [], [], []⟩
  | .fsPost _ _ b _ => ⟨[b.val], [], [], [], [], [], []⟩
  | .fqBind _ a => ⟨[a.val], [], [], [], [], [], []⟩
  | .pegRd a b _ => ⟨[a.val], [b.val], [], [], [], [], []⟩
  | .rld k a b _ _ z => ⟨[a.val] ++ (if z.val < 4 then [] else [b.val]), (if z.val < 4 then [b.val] else []), [], [], [], [k.val], []⟩
  | .rst k a b _ _ => ⟨[a.val, b.val], [], [], [], [], [k.val], []⟩
  | .ramo o _ _ k a b => ⟨[a.val] ++ (if o == .cas then [b.val, b.val + 1] else [b.val]), [b.val], [], [], [], [k.val], []⟩
  | .rwinReg a b => ⟨[a.val], [b.val], [], [], [], [], []⟩
  | .rwinAdd _ _ _ => ⟨[], [], [], [], [], [], []⟩
  | .rwinPread a b => ⟨[a.val, b.val], [], [], [], [], [], []⟩
  | .rwinAbort a => ⟨[a.val], [], [], [], [], [], []⟩
  | .chase k a b _ c => ⟨[a.val, b.val], [], [], [], [], (if c then [k.val] else []), []⟩
  | .capld k a _ => ⟨[a.val], [], [], [], [], [], [k.val]⟩
  | .capst k a _ => ⟨[a.val], [], [], [], [], [k.val], []⟩
  | .capmkNew k a => ⟨[a.val, a.val + 1], [], [], [], [], [], [k.val]⟩
  | .capmkDer k a s => ⟨[a.val, a.val + 1], [], [], [], [], [s.val], [k.val]⟩
  | .capmkRev a => ⟨[a.val], [], [], [], [], [], []⟩
  | .capchk k a b _ _ => ⟨[a.val], [b.val], [], [], [], [k.val], []⟩
  | .rmaPut k a b _ => ⟨[a.val, b.val, b.val + 1], [], [], [], [], [k.val], []⟩
  | .rmaGet k a b => ⟨[a.val, b.val, b.val + 1], [], [], [], [], [k.val], []⟩
  | .rmaFlag k a b => ⟨[a.val, b.val], [], [], [], [], [k.val], []⟩
  | .rmaReg k a => ⟨[a.val, a.val + 1], [], [], [], [], [], [k.val]⟩
  | .rmaRev k => ⟨[], [], [], [], [], [k.val], []⟩
  | .translationInvalidation _ _ _ => ⟨[], [], [], [], [], [], []⟩
  | .invalidationAcknowledgement _ _ => ⟨[], [], [], [], [], [], []⟩
  | .seamPartialDiscard _ => ⟨[], [], [], [], [], [], []⟩
  | .softErrorRerun _ _ => ⟨[], [], [], [], [], [], []⟩
  | .storeFrame _ _ => ⟨[], [], [], [], [], [], []⟩
  | .sendFrame _ _ => ⟨[], [], [], [], [], [], []⟩
  | .sendlFrame _ _ => ⟨[], [], [], [], [], [], []⟩
  | .fifoFrame _ _ => ⟨[], [], [], [], [], [], []⟩
  | .contribFrame _ _ => ⟨[], [], [], [], [], [], []⟩
  | .wpartFrame _ _ => ⟨[], [], [], [], [], [], []⟩
  | .mopFrame _ _ => ⟨[], [], [], [], [], [], []⟩
  | .loadFrame _ _ => ⟨[], [], [], [], [], [], []⟩
  | .atomicFrame _ _ => ⟨[], [], [], [], [], [], []⟩
  | .chaseFrame _ _ => ⟨[], [], [], [], [], [], []⟩
  | .dataFrame _ _ => ⟨[], [], [], [], [], [], []⟩
  | .doneFrame _ _ => ⟨[], [], [], [], [], [], []⟩
  | .chresFrame _ _ => ⟨[], [], [], [], [], [], []⟩
  | .bounceFrame _ _ => ⟨[], [], [], [], [], [], []⟩
  | .faultFrame _ _ => ⟨[], [], [], [], [], [], []⟩
  | .fqcredFrame _ _ => ⟨[], [], [], [], [], [], []⟩
  | .winackFrame _ _ => ⟨[], [], [], [], [], [], []⟩
  | .pegretFrame _ _ => ⟨[], [], [], [], [], [], []⟩
  | .nakFrame _ _ => ⟨[], [], [], [], [], [], []⟩
  | .arriveFrame _ _ => ⟨[], [], [], [], [], [], []⟩
  | .expectFrame _ _ => ⟨[], [], [], [], [], [], []⟩
  | .sstepFrame _ _ => ⟨[], [], [], [], [], [], []⟩
  | .violFrame _ _ => ⟨[], [], [], [], [], [], []⟩
  | .darnFrame _ _ => ⟨[], [], [], [], [], [], []⟩
  | .winregFrame _ _ => ⟨[], [], [], [], [], [], []⟩
  | .retuneStart _ _ => ⟨[], [], [], [], [], [], []⟩
  | .retuneEnd _ _ => ⟨[], [], [], [], [], [], []⟩
  | .uncorrectableDrift _ _ => ⟨[], [], [], [], [], [], []⟩
  | .lineFailure _ _ => ⟨[], [], [], [], [], [], []⟩
  | .modulatorLaneDeath _ _ => ⟨[], [], [], [], [], [], []⟩
  | .passbandShift _ => ⟨[], [], [], [], [], [], []⟩
  | .peerSilent _ _ => ⟨[], [], [], [], [], [], []⟩
  | .put _ => ⟨[], [], [], [], [], [], []⟩
  | .getreq _ => ⟨[], [], [], [], [], [], []⟩
  | .getdata _ => ⟨[], [], [], [], [], [], []⟩
  | .flag _ => ⟨[], [], [], [], [], [], []⟩
  | .flushreq _ => ⟨[], [], [], [], [], [], []⟩
  | .flushdone _ => ⟨[], [], [], [], [], [], []⟩
  | .ack _ => ⟨[], [], [], [], [], [], []⟩
  | .nack _ => ⟨[], [], [], [], [], [], []⟩
  | .doorbell _ _ => ⟨[], [], [], [], [], [], []⟩
  | .managementDoorbell _ => ⟨[], [], [], [], [], [], []⟩
  | .queueDescriptorEnable _ => ⟨[], [], [], [], [], [], []⟩
  | .hostControlPageWrite _ _ => ⟨[], [], [], [], [], [], []⟩
  | .frameCrcFailure _ _ => ⟨[], [], [], [], [], [], []⟩
  | .reservedKindFrame _ _ => ⟨[], [], [], [], [], [], []⟩
  | .sramBankRetirement _ _ => ⟨[], [], [], [], [], [], []⟩
  | .hbmChannelRetirement _ => ⟨[], [], [], [], [], [], []⟩
  | .pageCompressorSweep => ⟨[], [], [], [], [], [], []⟩
  | .slotStart => ⟨[], [], [], [], [], [], []⟩
  | .darningCompute => ⟨[], [], [], [], [], [], []⟩
  | .darnTableSwap => ⟨[], [], [], [], [], [], []⟩
  | .relabelApply => ⟨[], [], [], [], [], [], []⟩
  | .tlenChangeApply => ⟨[], [], [], [], [], [], []⟩
  | .fcpGrant => ⟨[], [], [], [], [], [], []⟩
  | .boot => ⟨[], [], [], [], [], [], []⟩
  | .nop => ⟨[], [], [], [], [], [], []⟩
  | .ret => ⟨[55], [], [], [], [], [], []⟩
  | .tend => ⟨[], [], [], [], [], [], []⟩
  | .eret => ⟨[], [], [], [], [], [], []⟩
  | .rmaFlush => ⟨[], [], [], [], [], [], []⟩
  | .drtPacketBadCrc => ⟨[], [], [], [], [], [], []⟩

/-! ### Names and physical registers (R127, R228) -/

/-- The physical scalar register of a rotating or fixed name (R127). -/
def physG (c : Core) (i : Nat) : Nat := if 32 ≤ i ∧ i < 48 then 32 + (i - 32 + c.seq.rho) % 16 else i

/-- The physical vector register of a name (R127). -/
def physV (c : Core) (i : Nat) : Nat := if 16 ≤ i ∧ i < 32 then 16 + (i - 16 + c.seq.rho) % 16 else i

/-- FIFO pair i of a core. -/
def fifoAt (c : Core) (i : Nat) : Fifo := mget Fifo.init c.fifos i

/-- Replace FIFO pair i. -/
def setFifo (c : Core) (i : Nat) (f : Fifo) : Core := { c with fifos := mset c.fifos i f }

/-- The value a scalar name reads at issue (R87, R89, R228): g0 is zero, g56 to g63 show the next FIFO word. -/
def readG (c : Core) (i : Nat) : Word :=
  if i = 0 then 0
  else if 56 ≤ i then ((fifoAt c (i - 56)).fi.head?).getD 0
  else if c.inH ∧ 48 ≤ i then c.hbank.getD (i - 48) 0
  else c.g.getD (physG c i) 0

/-- The place a scalar name writes (R87, R89, R228). -/
def destG (c : Core) (i : Nat) : Dest :=
  if i = 0 then .none
  else if 56 ≤ i then .fo (i - 56)
  else if c.inH ∧ 48 ≤ i then .hb (i - 48)
  else .g (physG c i)

/-- The value of a predicate name; p0 reads all ones (R87). -/
def readP (c : Core) (i : Nat) : Word := if i = 0 then BitVec.allOnes 64 else c.p.getD i 0

/-- The place a predicate name writes; a write of p0 is discarded (R87). -/
def destP (i : Nat) : Dest := if i = 0 then .none else .p i

/-- The value of a vector name. -/
def readV (c : Core) (i : Nat) : VWord := c.v.getD (physV c i) 0

/-- The place a vector name writes. -/
def destV (c : Core) (i : Nat) : Dest := .v (physV c i)

/-- A capability register and its tag. -/
def readK (c : Core) (i : Nat) : BitVec 128 × Bool := c.k.getD i (0, false)

/-- All bits alike, as a scalar result is written to a predicate (R87). -/
def predOf (b : Bool) : Word := if b then BitVec.allOnes 64 else 0

/-! ### Results -/

/-- The scalar value of a result. -/
def Val.word : Val → Word
  | .s x => x
  | .v x => x.truncate 64
  | .k x _ => x.truncate 64

/-- The vector value of a result. -/
def Val.vword : Val → VWord
  | .s x => x.zeroExtend 2048
  | .v x => x
  | .k x _ => x.zeroExtend 2048

/-- The capability value of a result. -/
def Val.cap : Val → BitVec 128 × Bool
  | .s x => (x.zeroExtend 128, false)
  | .v x => (x.truncate 128, false)
  | .k x t => (x, t)

/-- Write a result to its place (R87, R89). -/
def writeDest (c : Core) (d : Dest) (v : Val) : Core :=
  match d with
  | .none => c
  | .g i => { c with g := listSet c.g i v.word }
  | .hb i => { c with hbank := listSet c.hbank i v.word }
  | .p i => { c with p := listSet c.p i v.word }
  | .v i => { c with v := listSet c.v i v.vword }
  | .k i => { c with k := listSet c.k i v.cap }
  | .fo i =>
    let f := fifoAt c i
    setFifo c i { f with fo := f.fo ++ [v.word], resv := f.resv - 1 }
  | .shape h f => { c with shadow := mput 0 c.shadow (h * 16 + f) v.word }

/-- R89: a result for fo i reserves an entry at issue. -/
def reserve (c : Core) : Dest → Core
  | .fo i => let f := fifoAt c i; setFifo c i { f with resv := f.resv + 1 }
  | .none | .g _ | .hb _ | .p _ | .v _ | .k _ | .shape _ _ => c

/-- Put a fixed-latency result of latency `l` in flight (R91). -/
def pushResult (c : Core) (d : Dest) (v : Val) (l : Nat) (fl : BitVec 5) : Core :=
  let c := reserve c d
  { c with results := c.results ++ [{ dest := d, val := v, land := c.icycle + l, flags := fl, ord := 2 * c.issued + 1 }] }

/-- The place an engine operation will write (R93). -/
def engDest : EngKind → Dest
  | .mxRd d _ _ => d
  | .vpRd d _ _ => d
  | .eqSize _ d _ => d
  | _ => .none

/-- A place that keeps every word written to it, or takes none. -/
def Dest.keeps : Dest → Bool
  | .none | .fo _ => true
  | .g _ | .hb _ | .p _ | .v _ | .k _ | .shape _ _ => false

/-- A load still to return is interlocked (R21): every load but a scratchpad load within its latency (R92, R207). From when a
scratchpad load that a fence holds is a pending load the manual leaves open: from the end of its latency on (DESIGN CHOICE
[110]). -/
def interlocked (c : Core) (a : Access) : Bool := a.land == 0 || decide (a.land ≤ c.icycle)

/-- An operation of the present task or handler: in handler state, one that was not issued before the boundary (R228). -/
def present (c : Core) (order : Nat) : Bool :=
  match c.snap with
  | some n => decide (n.issued < order)
  | none => true

/-- R93: interlocked results still to come for a register no longer write it. -/
def supersede (c : Core) (d : Dest) : Core :=
  if d.keeps then c
  else
    { c with
      accs := c.accs.map fun a => if a.dest = d ∧ interlocked c a then { a with dead := true } else a
      rets := c.rets.map fun r => if r.dest = d then { r with dead := true } else r
      engs := c.engs.map fun e => (e.1, e.2.map fun o =>
        if engDest o.kind = d ∧ present c o.order then { o with dead := true } else o) }

/-- R93: an interlocked result is issued for a register: those still to come for it no longer write it, and a scratchpad load
still within its latency yields to it should it come back later than that. -/
def overtake (c : Core) (d : Dest) : Core :=
  if d.keeps then supersede c d
  else { supersede c d with accs := (supersede c d).accs.map fun a => if a.dest = d then { a with yields := true } else a }

/-- R120, R89: note the FIFO aliases a syllable reads; the bundle pops one word of each when it commits. -/
def notePops (c : Core) (names : List Nat) : Core :=
  { c with pops := (c.pops ++ (names.filter (56 ≤ ·)).map (· - 56)).dedup }

/-- Pop the noted FIFO words (R79, R89); each pop owes the peer a credit (R317). -/
def applyPops (c : Core) : Core :=
  let c' := c.pops.foldl (fun c i =>
    let f := fifoAt c i
    setFifo c i { f with fi := f.fi.tail, owed := f.owed + 1 }) c
  { c' with pops := [] }

/-! ### Elements (R85, R88) -/

/-- Element e of width w bits. -/
def elem (w : Nat) (x : VWord) (e : Nat) : Nat := x.toNat / 2 ^ (w * e) % 2 ^ w

/-- A register image from its n elements of w bits. -/
def fromElems (w : Nat) (xs : List Nat) : VWord :=
  BitVec.ofNat 2048 (xs.foldr (fun x acc => acc * 2 ^ w + x % 2 ^ w) 0)

/-- Bit (e mod 64) of a governing predicate. -/
def lane (p : Word) (e : Nat) : Bool := p.getLsbD (e % 64)

/-- An element read as an integer of its type. -/
def intElem (t : ElTy) (x : Nat) : Int := if t.isSigned then sextNat t.bits x else (x % 2 ^ t.bits : Nat)

/-- Limits of an integer type (R50). -/
def tyMin (t : ElTy) : Int := if t.isSigned then -(2 : Int) ^ (t.bits - 1) else 0
def tyMax (t : ElTy) : Int := if t.isSigned then (2 : Int) ^ (t.bits - 1) - 1 else (2 : Int) ^ t.bits - 1

/-- wrap_T and sat_T as element patterns (R113). -/
def wrapT (t : ElTy) (i : Int) : Nat := (i % (2 : Int) ^ t.bits).toNat
def satT (t : ElTy) (i : Int) : Nat := wrapT t (max (tyMin t) (min (tyMax t) i))

/-- The floating-point format of a type. -/
def fmtOf (t : ElTy) : Fmt := if t = .bf16 then bf16 else fp32

/-- FPCSR fields (R55). -/
def ftz (c : Core) : Bool := bits c.csr.fpcsr 11 1 == 1
def fp8sat (c : Core) : Bool := bits c.csr.fpcsr 12 1 == 1

/-- The rounding mode a selector names (R53, R85). -/
def rounding (c : Core) (r : Rm) : Rm :=
  match r with
  | .dyn => (match bits c.csr.fpcsr 8 2 with | 0 => .rne | 1 => .rtz | 2 => .rup | _ => .rdn)
  | .rne => .rne
  | .rtz => .rtz
  | .rup => .rup
  | .rdn => .rdn

end Sys2Proof.Machine
end

