-- ==== Sys2Proof/Machine/Fabric.lean ====
section
/-! DEFINITION. The Bamlux port: positions and routes (R272 to R279), transmit queues, pegs and sequence numbers (R284,
R290, R291), landing slots (R294). -/

namespace Sys2Proof.Machine

/-- The position of a pod rank, none when absent (R274). -/
def rankPos (s : State) (r : Nat) : Option (Nat × Nat) :=
  mget (some (r / 32 % 32, r % 32)) s.port.relabel r

/-- Whether a rank's entry names a position (R274). -/
def named (s : State) (p : Nat × Nat) : Bool :=
  (p.2 < 32 && rankPos s (32 * p.1 + p.2) == some p) || s.port.relabel.any fun e => e.2 == some p

/-- A live die (R274, R308). -/
def live (s : State) (p : Nat × Nat) : Bool := !s.port.dead.contains p && (named s p || p.2 == 32)

/-- ρ of R277. -/
def rho (s : State) (sa sb : Nat) : Option Nat :=
  (List.range 32).find? fun p => live s (sa, p) && live s (sb, p)

/-- The hops of the route from die a to die b (R277), each with the plane and the position where it ends. -/
def route (s : State) (a b : Nat × Nat) : Option (List (Plane × (Nat × Nat))) :=
  if a = b then some []
  else if a.1 = b.1 then some [(.shelf, b)]
  else if a.2 = b.2 then some [(.column, b)]
  else if a.2 ≠ 32 ∧ b.2 ≠ 32 ∧ live s (a.1, b.2) then some [(.shelf, (a.1, b.2)), (.column, b)]
  else
    match rho s a.1 b.1 with
    | none => none
    | some r =>
      some ((if r = a.2 then [] else [(Plane.shelf, (a.1, r))]) ++ [(Plane.column, (b.1, r))] ++
        (if r = b.2 then [] else [(Plane.shelf, b)]))

/-- The hops from a die to the host bridge of a shelf (R277). -/
def routeHost (a : Nat × Nat) (hs : Nat) : List (Plane × (Nat × Nat)) :=
  (if a.1 = hs then [] else [(Plane.column, (hs, a.2))]) ++ [(Plane.shelf, (hs, 33))]

/-- The grating port of a position on a plane (R273). -/
def portOn (pl : Plane) (p : Nat × Nat) : Nat := match pl with | .shelf => p.2 | .column => p.1

/-- The route of this die to a rank, none when the rank is absent, dead or unreachable (R279). -/
def routeTo (s : State) (r : Nat) : Option (List (Plane × (Nat × Nat))) :=
  match rankPos s r with
  | none => none
  | some b => if live s b then route s s.port.pos b else none

/-- The port that the lane of a plane hop to port j sends to: j, or the in-plane relay that darning has put before it (R309). A relay
passes a frame on as it is: SEQ, pegs and acknowledgements stay those of the hop to j, so that they hold across the swap (R310; DESIGN
CHOICE [38]). -/
def relayPort (s : State) (pl : Plane) (j : Nat) : Nat :=
  match s.port.relays.find? fun e => e.1 == pl && e.2.1 == j with
  | some e => e.2.2
  | none => j

/-- The link of the first hop toward a destination; none when there is no hop or no route. -/
def linkTo (s : State) (dh : Bool) (dst : Nat) : Option Link :=
  (if dh then some (routeHost s.port.pos dst) else routeTo s dst).bind fun hs =>
    hs.head?.map fun h => { plane := h.1, port := portOn h.1 h.2 }

/-- Optical hops of the route to a rank (R278, R334), with the in-plane relay that this die has put before its own hop; those of other
dies it does not know [38]. -/
def hopsTo (s : State) (r : Nat) : Nat :=
  match routeTo s r with
  | some (h :: t) => t.length + (if relayPort s h.1 (portOn h.1 h.2) = portOn h.1 h.2 then 1 else 2)
  | _ => 0

/-- The position at the far end of a link. -/
def portPosition (s : State) (l : Link) : Nat × Nat :=
  match l.plane with
  | .shelf => (s.port.pos.1, l.port)
  | .column => (l.port, s.port.pos.2)

/-- The plane hops of a frame's route, from its source, each with the position where it starts (R277): a host bridge's begin with the
shelf hop. -/
def routeOf (s : State) (f : Frame) : List ((Nat × Nat) × Plane × (Nat × Nat)) :=
  let from_ (a : Nat × Nat) (hs : List (Plane × (Nat × Nat))) := (a :: hs.map Prod.snd).zip hs
  if f.sh then
    match rankPos s f.dst with
    | some b => from_ (f.src, 33) ((.shelf, (f.src, b.2)) :: (if f.src = b.1 then [] else [(.column, b)]))
    | none => []
  else
    match rankPos s f.src with
    | none => []
    | some a => from_ a (if f.dh then routeHost a f.dst else ((rankPos s f.dst).bind (route s a)).getD [])

/-- The hop by which a frame has come on a link, and those after it. -/
def hopsFrom (s : State) (l : Link) (f : Frame) : List ((Nat × Nat) × Plane × (Nat × Nat)) :=
  (routeOf s f).dropWhile fun h => !(h.2.1 == l.plane && h.1 == portPosition s l)

/-- The link that a frame passing this die as an in-plane relay goes on by: its plane hop ends elsewhere (R278, R309). -/
def relayLink (s : State) (l : Link) (f : Frame) : Option Link :=
  match hopsFrom s l f with
  | h :: _ => if h.2.2 = s.port.pos then none else some { plane := h.2.1, port := portOn h.2.1 h.2.2 }
  | [] => none

/-- The link of a frame's next plane hop, by the route from its source (R277, R278); by the route from here where a change of the live
map has taken this die off it. -/
def nextLink (s : State) (l : Link) (f : Frame) : Option Link :=
  match hopsFrom s l f with
  | _ :: n :: _ => some { plane := n.2.1, port := portOn n.2.1 n.2.2 }
  | _ => linkTo s f.dh f.dst

/-- A count kept per link and virtual channel. -/
def lget (d : Nat) (m : List (Link × Nat × Nat)) (l : Link) (v : Nat) : Nat :=
  match m.find? fun e => e.1 == l && e.2.1 == v with
  | some e => e.2.2
  | none => d

/-- Set a count kept per link and virtual channel. -/
def lput (m : List (Link × Nat × Nat)) (l : Link) (v x : Nat) : List (Link × Nat × Nat) :=
  (l, v, x) :: m.filter fun e => !(e.1 == l && e.2.1 == v)

/-- Default peg count of a virtual channel (R290). -/
def pegDefault (v : Nat) : Nat := if v = 2 then 16 else 8

/-- The size of the receive pool at the far end of a link, where the sender's peg count starts (R290). -/
def farPool (s : State) (l : Link) (v : Nat) : Nat := lget (pegDefault v) s.port.farPool l v

/-- The sender's peg count toward a next hop on a virtual channel (R290). -/
def pegsOf (s : State) (l : Link) (v : Nat) : Nat := lget (farPool s l v) s.port.pegs l v

/-- Receive pool size for a sender and virtual channel (R290). -/
def poolOf (s : State) (l : Link) (v : Nat) : Nat := lget (pegDefault v) s.port.pool l v

/-- A store on its way to its owner, for the `.rx` loads of this die (R173). -/
def outStore (ctx dst : Nat) (b : Body) : List OutStore :=
  match b with
  | .mem _ ret _ addr (.store d _) => [{ ctx := ctx, rank := dst, ret := ret, addr := addr, data := d.map some, last := true }]
  | .mem _ ret _ addr (.storeM d) => [{ ctx := ctx, rank := dst, ret := ret, addr := addr, data := d, last := true }]
  | .send last _ ret _ addr d => [{ ctx := ctx, rank := dst, ret := ret, addr := addr, data := d.map some, last := last }]
  | _ => []

/-- The store answers an out-store of a request: it goes, with those of its run before it (R173, R320). -/
def settleRun (ctx rank : Nat) (ret : Ret) : List OutStore → List OutStore
  | [] => []
  | o :: r =>
    if o.ctx = ctx ∧ o.rank = rank ∧ o.ret = ret then (if o.last then r else settleRun ctx rank ret r)
    else o :: settleRun ctx rank ret r

/-- The completion word of a request has come from its owner. -/
def settleStores (s : State) (ctx rank : Nat) (ret : Ret) : State :=
  { s with port := { s.port with outst := settleRun ctx rank ret s.port.outst } }

/-- A store of a request has faulted at its owner: it is no longer on its way, nor is its run when it ended one. -/
def dropStore (s : State) (ctx rank : Nat) (ret : Ret) (a : Word) : State :=
  let hit (o : OutStore) : Bool :=
    o.ctx == ctx && o.rank == rank && o.ret == ret && decide (o.addr.toNat ≤ a.toNat ∧ a.toNat < o.addr.toNat + max 1 o.data.length)
  if (s.port.outst.find? hit).any OutStore.last then settleStores s ctx rank ret
  else { s with port := { s.port with outst := s.port.outst.filter fun o => !hit o } }

/-- Queue a frame of this die for its next hop (R284); none when no route can be formed (R279). VC2 frames take the
next end-to-end sequence number to their destination, and VC3 arrivals carry the last one (R286). -/
def sendBody (s : State) (ctx : Nat) (vc : Fin 4) (dh : Bool) (dst : Nat) (b : Body) : Option State :=
  (linkTo s dh dst).map fun l =>
    let n := mget 0 s.port.pseqOut dst
    let n' := if vc = 2 then n + 1 else n
    let f : Frame := { ctx := ctx, vc := vc, sh := false, src := s.port.rank, dh := dh, dst := dst, hops := 1, seq := 0,
                       pseq := n' % 65536, resv := false, body := b }
    { s with port := { s.port with
        pseqOut := mset s.port.pseqOut dst n'
        outst := s.port.outst ++ outStore ctx dst b
        queue := s.port.queue ++ [{ link := l, frame := f, sentAt := none, tries := 0 }] } }

/-- Queue a frame, or drop it when it has no route. -/
def sendOrDrop (s : State) (ctx : Nat) (vc : Fin 4) (dh : Bool) (dst : Nat) (b : Body) : State :=
  (sendBody s ctx vc dh dst b).getD s

/-- Landing slots a stream of a core holds (R294). -/
def slotsHeld (c : Core) (stream : Nat) : Nat := mget 0 c.landing stream

/-- Landing slots held by every stream of the die: the store holds 8,192 (R294). -/
def landingUsed (s : State) : Nat :=
  s.cores.foldl (fun a c => c.2.landing.foldl (fun b e => b + e.2) a) (s.port.units.foldl (fun b e => b + e.2) 0)

/-- Take landing slots for a stream (R294); none when its pool or the die's store has too few. -/
def takeSlots (s : State) (c stream n : Nat) : Option State :=
  let x := coreAt s c
  let held := slotsHeld x stream
  if held + n ≤ bits x.csr.resvcfg 0 7 ∧ landingUsed s + n ≤ 8192 then
    some (setCore s c { x with landing := mput 0 x.landing stream (held + n) })
  else none

/-- Take a landing slot for a die unit, whose pool has 64 (R294). -/
def takeUnit (s : State) (unit : Nat) : Option State :=
  let held := mget 0 s.port.units unit
  if held + 1 ≤ 64 ∧ landingUsed s + 1 ≤ 8192 then
    some { s with port := { s.port with units := mput 0 s.port.units unit (held + 1) } }
  else none

/-- A die unit's response has landed. -/
def freeUnit (s : State) (unit : Nat) : State :=
  { s with port := { s.port with units := mput 0 s.port.units unit (mget 0 s.port.units unit - 1) } }

/-- Free landing slots of a stream (R294). -/
def freeSlots (s : State) (c stream n : Nat) : State :=
  onCore s c fun x => { x with landing := mput 0 x.landing stream (slotsHeld x stream - n) }

end Sys2Proof.Machine
end

