-- ==== Sys2Proof/Machine/Access.lean ====
section
/-! DEFINITION. Memory operations at the memory side: loads, stores, atomics (R206), bank-side operations (R205),
dependence decrements and posts of task records (R36 to R39, R219). -/

namespace Sys2Proof.Machine

/-- Log a failed race check of a die unit: the granule, the recorded agent and time, and the unit (R178). -/
def logRace (s : State) (b : Bad) (who : Who) : State :=
  { s with cp := { s.cp with log := s.cp.log ++
      [{ kind := 5, a := b.gran, b := who.agent.toNat, time := s.time, agent := b.agent, seen := b.time }] } }

/-- Log an event with the CP. -/
def logCp (s : State) (kind a b : Nat) : State :=
  { s with cp := { s.cp with log := s.cp.log ++ [{ kind := kind, a := a, b := b, time := s.time }] } }

/-- Add a report to a core's (R165). A translation fault that repeats the last one in address, access kind and fault
kind for the third time becomes a translation livelock. -/
def addReport (c : Core) (r : Report) : Core :=
  if r.code = 3 then
    let n := match c.livelock with
      | some (a, kd, fk, n) => if a = r.addr ∧ kd = r.kind ∧ fk = r.sub then n + 1 else 1
      | none => 1
    let r' := if 3 ≤ n then { r with code := 4 } else r
    { c with reports := c.reports ++ [r'], livelock := some (r.addr, r.kind, r.sub, n) }
  else { c with reports := c.reports ++ [r] }

/-- The performing of the faulting access, which covers [addr, addr + n), resets the livelock count (R165). -/
def clearLivelock (c : Core) (addr : Word) (n kind : Nat) : Core :=
  match c.livelock with
  | some (a, k, _, _) => if addr.toNat ≤ a.toNat ∧ a.toNat < addr.toNat + max 1 n ∧ k = kind then { c with livelock := none } else c
  | none => c

/-- It covers the ranges of a memory operation. The x vector of a saxpy is loaded. -/
def clearLivelockOp (c : Core) (addr : Word) (op : MemOp) : Core :=
  ((opRanges addr op).drop 1).foldl (fun c r => clearLivelock c r.1 r.2 0) (clearLivelock c addr (memLen op) (memKind op).code)

/-- An n-byte operand as a signed integer. -/
def signedN (n x : Nat) : Int := sextNat (8 * n) x

/-- The new value an atomic stores (R206); operands are the low n bytes. -/
def atomicNew (op : AmoOp) (n : Nat) (x y old : Nat) : Nat :=
  let w := 2 ^ (8 * n)
  let x := x % w
  match op with
  | .swap => x
  | .add => (old + x) % w
  | .and => old &&& x
  | .or => old ||| x
  | .xor => old ^^^ x
  | .max => if signedN n old < signedN n x then x else old
  | .min => if signedN n x < signedN n old then x else old
  | .maxu => max old x
  | .minu => min old x
  | .cas => if old = x then y % w else old
  | .fadd => (fp32.add .rne (fp32.decode old) (fp32.decode x)).1

/-- The new value a bank-side operation stores (R205); `y` is the exchange value of cas. -/
def mopNew (op : MopOp) (t : MopTy) (n : Nat) (x y old : Nat) : Nat :=
  let w := 2 ^ (8 * n)
  let x := x % w
  match op, t with
  | .add, .flt => (fp32.add .rne (fp32.decode old) (fp32.decode x)).1
  | .add, _ => (old + x) % w
  | .max, .flt => (fp32.minmax true (fp32.decode old) (fp32.decode x)).1
  | .max, .int => if signedN n old < signedN n x then x else old
  | .max, .nat => max old x
  | .min, .flt => (fp32.minmax false (fp32.decode old) (fp32.decode x)).1
  | .min, .int => if signedN n x < signedN n old then x else old
  | .min, .nat => min old x
  | .cas, _ => if old = x then y % w else old
  | .saxpy, _ => old

/-- Element k of one saxpy: y(k) := a × x(k) + y(k), one rounding (R205). An element may read what an earlier one wrote. -/
def saxpyElem (a : Nat) (px py : Phys) (s : State) (k : Nat) : State :=
  let x := leNat (physRead s { px with a := px.a + 4 * k } 4)
  let y := leNat (physRead s { py with a := py.a + 4 * k } 4)
  physWrite s { py with a := py.a + 4 * k }
    (leBytes 4 (fp32.fma .rne (fp32.decode (a % 2 ^ 32)) (fp32.decode x) (fp32.decode y)).1)

/-! ### Task records -/

/-- The rectangle of a record or launch is aligned and inside the logical mesh (R28). -/
def rectOk (s : State) (lw lh x0 y0 : Nat) : Bool :=
  lw ≤ 4 && lh ≤ 4 && x0 % 2 ^ lw == 0 && y0 % 2 ^ lh == 0 &&
    x0 + 2 ^ lw ≤ s.shape.meshW && y0 + 2 ^ lh ≤ s.shape.meshH

/-- Append an entry to the ready queue, or to its level's overflow list when the queue holds 65,536 or earlier entries of the
level are still in that list (R39). -/
def enqueueReady (s : State) (r : Ready) : State :=
  if s.fcp.ready.length < 65536 ∧ !(s.fcp.overflow.any fun e => e.prio == r.prio) then { s with fcp := { s.fcp with ready := s.fcp.ready ++ [r] } }
  else { s with fcp := { s.fcp with overflow := s.fcp.overflow ++ [r] } }

/-- Set the STATE byte of a task record (R36). -/
def setRecState (s : State) (p : Phys) (st : Nat) : State := physWrite s { p with a := p.a + 29 } [BitVec.ofNat 8 st]

/-- Make a record ready: STATE, the fields read at enqueue, the queue entry; or rejected (R37). -/
def makeReady (s : State) (p : Phys) (addr : Word) (q : Nat) : State :=
  let r : BitVec 512 := BitVec.ofNat 512 (leNat (physRead s p 64))
  let cid := rbits r 240 16
  if (ctxAt? s cid).isSome && rectOk s (rbits r 180 3) (rbits r 177 3) (rbits r 173 4) (rbits r 169 4) then
    enqueueReady (setRecState s p 1)
      { ctx := cid, addr := addr, prio := rbits r 184 8, lw := rbits r 180 3, lh := rbits r 177 3,
        x0 := rbits r 173 4, y0 := rbits r 169 4, at_ := s.time, q := q }
  else logCp (setRecState s p 5) 1 addr.toNat cid

/-- One dependence decrement at the memory side (R37); `q` is the acquire time of the entry that it may make. -/
def decRecordAt (s : State) (p : Phys) (addr : Word) (q : Nat) : State :=
  let dep := leNat (physRead s { p with a := p.a + 16 } 4)
  if dep = 0 then { s with fcp := { s.fcp with underflow := s.fcp.underflow + 1 } }
  else
    let s1 := physWrite s { p with a := p.a + 16 } (leBytes 4 (dep - 1))
    if dep = 1 then makeReady s1 p addr q else s1

/-- The acquire time of a record task (R175): the time of the decrement, or of the phase completion that a release list stands for, whose
agent is unit 1 and carries it. -/
def decTime (w : Who) (now : Nat) : Nat :=
  if w.agent.toNat / 2 ^ 23 = 2 ∧ w.agent.toNat / 16 % 512 = 1 then w.q else now

/-- task.post at the memory side (R219). -/
def postRecordAt (s : State) (p : Phys) (addr : Word) (b : Nat) : State :=
  let dep := leNat (physRead s { p with a := p.a + 16 } 4)
  let st := leNat (physRead s { p with a := p.a + 29 } 1)
  if st = 4 ∨ st = 5 ∨ (st = 0 ∧ dep = 0) then
    let s1 := setRecState (physWrite s { p with a := p.a + 16 } (leBytes 4 b)) p 0
    if b % 2 ^ 32 = 0 then makeReady s1 p addr s.time else s1
  else logCp { s with fcp := { s.fcp with refusals := s.fcp.refusals + 1 } } 2 addr.toNat dep

/-! ### One access -/

/-- What an access returns: its bytes, a capability tag, whether the bytes were poisoned, and the time an acquiring
atomic acquires (R175). -/
structure Got where
  bytes  : List Byte
  tag    : Bool
  poison : Bool
  acq    : Nat
  deriving DecidableEq, Repr

/-- The time an acquiring atomic acquires from the tag it finds (R175). -/
def acquireTime (s : State) (ps : List (Phys × Nat × Bool)) : Nat :=
  match ps with
  | (p, _, true) :: _ =>
    let t := mget 0 s.rtags (granKey p 128)
    if tagWv t then s.time - (s.time + 2 ^ 37 - tagWtime t) % 2 ^ 37 else s.time
  | _ => s.time

/-- A translation fault of an access that starts at `addr`, with the first byte of the piece that failed (R165). -/
def faultOf (s : State) (c : Nat) (sp : Bool) (addr : Word) (n : Nat) (k : Kind) (f : Nat) : Bad :=
  if sp || !canonical addr then Bad.trans f
  else
    match failsAt s (keyCtx c) k (pieces (localOf addr) n) with
    | some a => if a = localOf addr then Bad.trans f else { Bad.trans f with at_ := some (setBits addr 0 47 a) }
    | none => Bad.trans f

/-- A fault on the x vector of a saxpy names the x address (R165). -/
def atX (y : Word) (b : Bad) : Bad := { b with at_ := some (b.at_.getD y), rd := true }

/-- Perform one memory operation of context and core `c` on this die (R160, R169, R177, R205, R206). A task record's decrement or
post is an ordinary access of its 64 bytes: R177 does not count it among the atomic ones. -/
def performMem (s : State) (c : Nat) (who : Who) (sp : Bool) (addr : Word) (op : MemOp) :
    Except Bad (State × Got) :=
  match locateAny s c sp addr (memLen op) (memKind op) with
  | .error f => .error (faultOf s c sp addr (memLen op) (memKind op) f)
  | .ok (ps, s1) =>
    let atomic := (match op with | .atomic _ _ _ _ | .mop _ _ _ _ _ | .fetchAdd _ _ => true | _ => false)
    let writes := (match op with | .load _ _ => false | _ => true)
    let p0 := (ps.head?.map Prod.fst).getD { sp := sp, a := 0 }
    let old := readPieces s1 ps
    let bad := poisoned s1 ps
    let got : Got := { bytes := old, tag := s1.capTags.contains (granKey p0 16), poison := bad, acq := acquireTime s1 ps }
    match raceAll s1 sp who atomic writes addr ps with
    | .error b => .error b
    | .ok s2 =>
      let s2 := if writes then notePieces ps s2 else s2
      match op with
      | .load _ _ => .ok (s2, got)
      | .store d t =>
        let s3 := writePieces s2 ps d
        .ok ((if t then setTag s3 p0 true else s3), got)
      | .storeM d => .ok (writeMasked s2 p0 0 d, got)
      | .atomic o n x y =>
        .ok (writePieces s2 ps (leBytes n (atomicNew o n x.toNat y.toNat (leNat old))), got)
      | .mop .saxpy _ _ x y =>
        let n := x.toNat / 2 ^ 32
        match locateAny s2 c sp y (4 * n) .load with
        | .error f => .error (atX y (faultOf s2 c sp y (4 * n) .load f))
        | .ok (xs, s3) =>
          match raceAll s3 sp who false false y xs with
          | .error b => .error (atX y b)
          | .ok s4 =>
            let px := (xs.head?.map Prod.fst).getD { sp := sp, a := 0 }
            .ok ((List.range n).foldl (saxpyElem x.toNat px p0) s4, got)
      | .mop o t n x y => .ok (writePieces s2 ps (leBytes n (mopNew o t n x.toNat y.toNat (leNat old))), got)
      | .fetchAdd n x => .ok (writePieces s2 ps (leBytes n (leNat old + x.toNat)), got)
      | .taskDec => .ok (decRecordAt s2 p0 addr (decTime who s.time), got)
      | .taskPost b => .ok (postRecordAt s2 p0 addr b, got)

/-- The FCP as an agent, with an acquire time. -/
def fcpAgent (s : State) (q : Nat) (rx : Bool) : Who := { agent := agentId 2 s.port.rank 0 0, q := q, rx := rx }

/-- A decrement of a record by the part itself has failed: it is skipped and logged (R37, R41, R44, R178, R216). -/
def decFailed (s : State) (who : Who) (addr : Word) (b : Bad) : State :=
  if b.code = 5 then logRace s b who else logCp s 3 addr.toNat b.sub

/-- A decrement that has to wait: for its page, or for a landing slot (R37, R167, R294). -/
def keepDec (s : State) (x : Nat) (addr : Word) : State := { s with fcp := { s.fcp with pendDec := s.fcp.pendDec ++ [(x, addr)] } }

/-- Send a decrement to the record's owner. -/
def sendDec (s : State) (x : Nat) (addr : Word) : State :=
  match takeUnit s 0 with
  | none => keepDec s x addr
  | some t =>
    match sendBody t x 2 false (ownerOf addr) (.mem (fcpAgent s s.time false) { core := coreKey x 0, stream := 16, id := 0 } none addr .taskDec) with
    | some s' => s'
    | none => logCp s 3 addr.toNat 12

/-- A decrement of a record by the part itself, named by its global address: performed when it can be reached, kept until its page
is back when that is AIRED (R37, R41). The manual gives the decrement no acquire time of its own: its present time (DESIGN CHOICE [30]). -/
def decRecord (s : State) (x : Nat) (addr : Word) : State :=
  if ownerOf addr = s.port.rank then
    match performMem s (coreKey x 0) (fcpAgent s s.time false) false addr .taskDec with
    | .ok (s', _) => s'
    | .error b =>
      if b.code = 3 ∧ b.sub = 2 then keepDec s x addr
      else decFailed s (fcpAgent s s.time false) addr b
  else sendDec s x addr

end Sys2Proof.Machine
end

