-- ==== Sys2Proof/Machine/Issue.lean ====
section
/-! DEFINITION. Issuing one syllable: the tests made at issue in the order of R80, R197 and R312, the conditions of R21
that hold a bundle, and the common shape of every syllable's meaning.

A meaning reads its operands at issue and leaves its result in flight (R79, R91). FIFO pops, branches, task ends and
control-register writes take effect when the bundle commits (Machine/Bundle.lean) [13]. -/

namespace Sys2Proof.Machine

/-- Slot numbers of TCAUSE.SLOT (R226). -/
def slotX0 : Nat := 0
def slotX1 : Nat := 1
def slotBR : Nat := 2
def slotVA : Nat := 3
def slotVB : Nat := 4
def slotMM : Nat := 5
def slotEN : Nat := 6
def slotHdr : Nat := 7

/-- The outcome of the tests of a bundle or syllable at issue. -/
inductive Check where
  | ok
  | trap (k : Cause)
  | hold (h : Hold)
  deriving DecidableEq, Repr

/-- No test beyond the encoding. -/
def noTests : Tests := { opnd := none, align := none, dom := none, hold := none, ents := 0 }

/-- An illegal operand (R197, R224). -/
def illegal (slot : Nat) : Cause := Cause.precise 0x01 2 slot

/-- A test that fails when `b` holds. -/
def failIf (b : Bool) (k : Cause) : Option Cause := if b then some k else none

/-- The first failing test of a list. -/
def firstFail : List (Option Cause) → Option Cause
  | [] => none
  | some k :: _ => some k
  | none :: r => firstFail r

/-- The timeline of the engine operation that will write a place, if one will (R409). -/
def engWriter (c : Core) (d : Dest) : Option Nat :=
  (c.engs.find? fun e => e.2.any fun o => engDest o.kind == d && present c o.order).map Prod.fst

/-- An interlocked result is still to come for a place (R21, R93). A scratchpad load is interlocked only when an
ordering rule has held it past its latency (R207). -/
def pendingAt (c : Core) (d : Dest) : Bool :=
  d != .none && ((c.accs.any fun a => a.dest == d && interlocked c a) || (c.rets.any fun r => r.dest == d) || (engWriter c d).isSome)

/-- The hold on a pending register (R21, R409): OBJ names the register. -/
def pendingHold (c : Core) (obj : Nat) (d : Dest) : Option Hold :=
  if pendingAt c d then some { sub := 4, obj := obj, tl := (engWriter c d).getD 15 } else none

/-- The first hold of a list. -/
def firstHold : List (Option Hold) → Option Hold
  | [] => none
  | some h :: _ => some h
  | none :: r => firstHold r

/-- A FIFO alias names an unbound pair (R89): illegal instruction, SUB 3, OBJ the pair. -/
def unboundFail (c : Core) (slot : Nat) (u : Uses) : Option Cause :=
  ((u.rg ++ u.wg).find? fun i => decide (56 ≤ i) && (fifoAt c (i - 56)).peer.isNone).map fun i =>
    { Cause.precise 0x01 3 slot with obj := i - 56 }

/-- Registers read while a result is pending, empty and full FIFOs (R21, R89). -/
def regHolds (c : Core) (u : Uses) : Option Hold :=
  firstHold ((u.rg.map fun i => if 56 ≤ i then
      (if (fifoAt c (i - 56)).fi.isEmpty then some { sub := 3, obj := i - 56, tl := 15 } else none)
      else pendingHold c i (destG c i)) ++
    (u.wg.map fun i => if 56 ≤ i then
      (let f := fifoAt c (i - 56)
       if 16 ≤ f.fo.length + f.resv then some { sub := 3, obj := i - 56, tl := 15 } else none) else none) ++
    (u.rv.map fun i => pendingHold c (0x40 + i) (destV c i)) ++
    (u.rk.map fun i => pendingHold c (0x60 + i) (.k i)))

/-- Entries of the access queue in use (R165). -/
def entsUsed (c : Core) : Nat := c.accs.foldl (fun n a => n + a.ents) 0

/-- Syllables reaching issue together: slot, loopm stage, instruction, its tests. -/
abbrev Group := List (Nat × Nat × Instr × Tests)

/-- Give a cause the stage of its syllable (R125, R226). -/
def withStage (stg : Nat) (k : Cause) : Cause := { k with stg := stg }

/-- Give a hold the slot and stage of its syllable (R226). -/
def holdAt (slot stg : Nat) (h : Hold) : Hold := { h with slot := slot, stg := stg }

/-- The syllable whose entries the access queue has no room for: the first at which the running count passes 48 (R165). -/
def fullAt : Nat → Group → Option Hold
  | _, [] => none
  | n, x :: r =>
    if 48 < n + x.2.2.2.ents then some (holdAt x.1 x.2.1 { sub := 4, obj := 0x101, tl := 15 }) else fullAt (n + x.2.2.2.ents) r

/-- The tests of the syllables of one bundle after its encoding and header tests (R21, R79, R80, R165, R197): unbound
FIFOs, register and FIFO holds, illegal operands, alignment, domain and capability, the operand's own hold, and room
in the access queue. -/
def checkGroup (c : Core) (g : Group) : Check :=
  match firstFail (g.map fun x => (unboundFail c x.1 (uses x.2.2.1)).map (withStage x.2.1)) with
  | some k => .trap k
  | none =>
    match firstHold (g.map fun x => (regHolds c (uses x.2.2.1)).map (holdAt x.1 x.2.1)) with
    | some h => .hold h
    | none =>
      match firstFail (g.map (fun x => x.2.2.2.opnd.map (withStage x.2.1)) ++
          g.map (fun x => x.2.2.2.align.map (withStage x.2.1)) ++
          g.map (fun x => x.2.2.2.dom.map (withStage x.2.1))) with
      | some k => .trap k
      | none =>
        match firstHold (g.map fun x => x.2.2.2.hold.map (holdAt x.1 x.2.1)) with
        | some h => .hold h
        | none =>
          match fullAt (entsUsed c) g with
          | some h => .hold h
          | none => .ok

/-- A held bundle: the condition is noted and the watchdog counts the cycle (R22). An eret's hold lets the
fixed-latency results go on landing (R91, R229). -/
def noteHold (s : State) (h : Hold) : State :=
  onCur s fun c =>
    { c with held := c.held + 1, hold := some h, icycle := if h.obj = 0x105 then c.icycle + 1 else c.icycle }

/-- The outcome of the tests of one syllable, none when its bundle's tests have passed already (R80). -/
def checkOne (s : State) (slot : Nat) (i : Instr) (t : Tests) : Check :=
  if (curCore s).phase = .run then .ok else checkGroup (curCore s) [(slot, 0, i, t)]

/-- The meaning of a syllable: its tests, then its effect. A failing test takes the trap it names; a hold leaves the
bundle waiting. While a bundle's tests are collected the syllable only poses its own. -/
def issue (s : State) (slot : Nat) (i : Instr) (t : Tests) (f : State → State) :
    Host.Outcome State Fault Refusal :=
  if (curCore s).phase = .test then .next (onCur s fun c => { c with posed := c.posed ++ [(slot, c.stg, i, t)] })
  else
    match checkOne s slot i t with
    | .trap k => .next (takeTrap s s.cur k)
    | .hold h => .next (noteHold s h)
    | .ok => .next (f s)

/-- The pod-time acquire of the issuing task, and its agent (R175, R176). -/
def taskWho (s : State) (rx : Bool) : Who :=
  let c := curCore s
  { agent := agentId 0 s.port.rank (keyCore s.cur) c.serial, q := c.q, rx := rx }

/-- Append an access to the queue of the issuing core; later-issued interlocked loads supersede earlier ones to the
same register (R93), and fo entries are reserved at issue (R89). -/
def pushAccess (s : State) (a : Access) : State :=
  onCur s fun c =>
    let c := reserve (if a.land = 0 then overtake c a.dest else c) a.dest
    { c with accs := c.accs ++ [{ a with id := c.issued + 1 }], issued := c.issued + 1 }

/-- A new access of the issuing task. -/
def newAccess (s : State) (op : AccOp) (dest : Dest) (ents : Nat) (rx : Bool) : Access where
  id := 0
  op := op
  dest := dest
  dead := false
  land := 0
  ents := ents
  img := 0
  sent := false
  slots := 0
  who := taskWho s rx
  epc := (curCore s).pc
  slot := (curCore s).slot
  stg := (curCore s).stg

/-- Note the FIFO words an instruction's operands pop when its bundle commits. -/
def popsOf (s : State) (i : Instr) : State := onCur s fun c => notePops c (uses i).rg

/-- Whether the own rank is a domain member's rank (R153): the owner of a global address lies in the domain. -/
def inDomain (s : State) (a : Word) : Bool := (curCtx s).members.contains (ownerOf a)

/-- A global access whose owner is not in the domain (R153): capability and window violation, SUB 7. -/
def domainFail (s : State) (slot : Nat) (a : Word) : Option Cause :=
  failIf (canonical a && !inDomain s a) { Cause.precise 0x07 7 slot with tval := a }

/-- An unaligned address (R155): alignment trap, SUB 1. -/
def alignFail (slot : Nat) (a : Word) (n : Nat) : Option Cause :=
  failIf (a.toNat % n != 0) { Cause.precise 0x02 1 slot with tval := a }

/-! ### Landing slots of the task stream (R294, R314) -/

/-- The elements an entry still has to perform. -/
def elemsOf : AccOp → List Elem
  | .mem els _ _ => els
  | .remote el _ _ _ => [el]
  | .rwinReg a _ _ => [{ sp := false, addr := a, ix := 0, op := .load 32 false }]
  | .fence _ _ | .tfence _ _ _ | .arrive _ _ | .expect _ _ | .tlInc _ | .tlAcq _ _ | .bkClose _ _ => []

/-- Whether an element lies on this die. -/
def elemHere (s : State) (e : Elem) : Bool := e.sp || !canonical e.addr || ownerOf e.addr == s.port.rank

/-- A global address of another die: its access is a request that draws a response. -/
def farAddr (s : State) (sp : Bool) (a : Word) : Bool := !sp && canonical a && ownerOf a != s.port.rank

/-- An entry of the access queue whose request has yet to obtain its landing slot. -/
def wantsSlot (s : State) (a : Access) : Bool := a.slots == 0 && (elemsOf a.op).any fun e => farAddr s e.sp e.addr

/-- Landing slots that the task stream has still to take: for its waiting requests and for the earlier syllables of the bundle. -/
def slotsWanted (s : State) : Nat :=
  ((curCore s).accs.filter (wantsSlot s)).length + ((curCore s).posed.map fun x => x.2.2.2.slots).sum

/-- A reservation that cannot be made holds the bundle as a pending load (R294, R314, R409). -/
def slotHold (s : State) (far : Bool) : Option Hold :=
  let n := slotsWanted s + 1
  if far && !decide (slotsHeld (curCore s) 13 + n ≤ bits (curCore s).csr.resvcfg 0 7 ∧ landingUsed s + n ≤ 8192) then
    some { sub := 4, obj := 0x104, tl := 15 }
  else none

/-- A scalar-class instruction that puts one value in flight to a scalar name (R113, R115). -/
def scalarOp (s : State) (slot : Nat) (i : Instr) (d : Nat) (l : Nat) (f : Core → Word) :
    Host.Outcome State Fault Refusal :=
  issue s slot i noTests fun s => popsOf (onCur s fun c => pushResult c (destG c d) (.s (f c)) l 0) i

/-- An instruction that puts one value in flight to a predicate name (R118, R121). -/
def predOp (s : State) (i : Instr) (d : Nat) (f : Core → Word) : Host.Outcome State Fault Refusal :=
  issue s slotX0 i noTests fun s => popsOf (onCur s fun c => pushResult c (destP d) (.s (f c)) 1 0) i

/-- The image of a lane-wise result (R138): element e of type t takes f e where its bit governs and raises f's flags;
the others keep what vd held at issue. -/
def laneImage (t : ElTy) (pr : Word) (old : VWord) (f : Nat → FRes) : VWord × BitVec 5 :=
  let rs := (List.range t.count).map fun e => if lane pr e then f e else (elem t.bits old e, 0)
  (fromElems t.bits (rs.map Prod.fst), rs.foldl (fun a r => a ||| r.2) 0)

/-- A vector instruction whose elements are computed lane by lane under a governing predicate (R138). -/
def laneOp (s : State) (i : Instr) (t : ElTy) (d p : Nat) (l : Nat) (f : Core → Nat → FRes) :
    Host.Outcome State Fault Refusal :=
  issue s slotVA i noTests fun s => popsOf (onCur s fun c =>
    let r := laneImage t (readP c p) (readV c d) (f c)
    pushResult c (destV c d) (.v r.1) l r.2) i

/-- A vector instruction that writes its whole destination. -/
def wholeOp (s : State) (i : Instr) (d : Nat) (l : Nat) (f : Core → VWord × BitVec 5) :
    Host.Outcome State Fault Refusal :=
  issue s slotVA i noTests fun s => popsOf (onCur s fun c =>
    let r := f c
    pushResult c (destV c d) (.v r.1) l r.2) i

end Sys2Proof.Machine
end

