-- ==== Sys2Proof/Machine/Csr.lean ====
section
/-! DEFINITION. The control registers (R90, R130): DEVSHAPE 0x010 (R16), WDOG 0x011 (R23), FPCSR 0x012 (R55), MXST
0x013 (R71), PARKCFG 0x014 and PARKST 0x015 (R134, R135), ACQT 0x016 and PODTIME 0x017 (R184), SYNCST 0x018 (R212),
GXCFG 0x019 and GXOOB 0x01A (R203), TCAUSE, EPC, TVAL, TINFO 0x020 to 0x023 (R226), TVEC 0x024 and TDELEG 0x025
(R227), TSTAT 0x026 (R228), CPOOB0 to CPOOB3 0x030 to 0x033 (R259), SLOTINFO 0x040 (R285), RESVCFG 0x041 (R294), DRTCFG
0x042 and DRTST 0x043 (R343), FQST 0x044 (R317), EQST 0x048 (R391). -/

namespace Sys2Proof.Machine

/-- A parked image lies in an accumulator column (R136). -/
def ParkLoc.isCol : ParkLoc → Bool
  | .col _ _ => true
  | .spill _ => false

/-- COLN and SPN of R135. -/
def parkedCols (c : Core) : Nat := (c.spill.filter fun p => p.loc.isCol).length
def parkedSpill (c : Core) : Nat := (c.spill.filter fun p => !p.loc.isCol).length

/-- Cycles per slot (R280). -/
def slotCycles (s : State) : Nat := 16 * max 1 s.port.tlen

/-- The current slot number (R280): `slotBase` is the pod time and the number of the slot from which the present TLEN
holds. -/
def slotNow (s : State) : Nat := s.port.slotBase.2 + (s.time - s.port.slotBase.1) / slotCycles s

/-- DEVSHAPE as core `c`'s context reads it (R16). -/
def devshape (s : State) (checked : Bool) : Word :=
  BitVec.ofNat 64 (2 + checked.toNat * 2 ^ 4 + s.shape.meshW % 32 * 2 ^ 6 + s.shape.meshH % 32 * 2 ^ 11 +
    (uOn s).toNat * 2 ^ 24 + (s1On s).toNat * 2 ^ 25 + (uOn s).toNat * 2 ^ 26 + s.shape.lanesCl % 32 * 2 ^ 29 +
    s.shape.lanesSh % 32 * 2 ^ 34 + s.shape.hbmCh % 512 * 2 ^ 39)

/-- SLOTINFO (R285). -/
def slotInfo (s : State) (svc : Bool) : Word :=
  BitVec.ofNat 64 (svc.toNat * 2 + (s.port.darn && decide (s.port.darnFrom ≤ slotNow s)).toNat * 4 + ((s.port.tables.getD 1 []).length - 1) % 64 * 2 ^ 10 +
    ((s.port.tables.getD 0 []).length - 1) % 64 * 2 ^ 16 + s.port.tlen % 1024 * 2 ^ 22 + slotNow s % 2 ^ 32 * 2 ^ 32)

/-- Bound FIFO pairs as a bit mask (R317). -/
def boundMask (c : Core) : Nat :=
  (List.range 8).foldl (fun m i => m + (if (fifoAt c i).peer.isSome then 2 ^ i else 0)) 0

/-- DRTCFG as read (R343): MODE reads 1 with 17 pods or more. -/
def drtcfgWord (s : State) (c : Core) : Word :=
  let n := s.page.npm1.toNat % 256
  BitVec.ofNat 64 (n * 2 + (if 16 ≤ n then 1 else bits c.csr.drtcfg 0 1))

/-- The value a control register reads as, for the core at key `k`; none for an unassigned address (R90). -/
def csrRead (s : State) (k : Nat) (a : Nat) : Option Word :=
  let c := coreAt s k
  let x := ctxAt s (keyCtx k)
  match a with
  | 0x010 => some (devshape s x.checked)
  | 0x011 => some c.csr.wdog
  | 0x012 => some c.csr.fpcsr
  | 0x013 => some c.csr.mxst
  | 0x014 => some c.csr.parkcfg
  | 0x015 => some (BitVec.ofNat 64 (parkedCols c + parkedSpill c * 2 ^ 16))
  | 0x016 => some (BitVec.ofNat 64 (c.q % 2 ^ 37))
  | 0x017 => some (BitVec.ofNat 64 s.time)
  | 0x018 => some c.csr.syncst
  | 0x019 => some c.csr.gxcfg
  | 0x01A => some c.csr.gxoob
  | 0x020 => some c.csr.tcause
  | 0x021 => some c.csr.epc
  | 0x022 => some c.csr.tval
  | 0x023 => some c.csr.tinfo
  | 0x024 => some c.csr.tvec
  | 0x025 => some c.csr.tdeleg
  | 0x026 => some (BitVec.ofNat 64 (c.inH.toNat + (!c.asyncs.isEmpty).toNat * 2))
  | 0x030 => some (c.csr.cpoob.getD 0 0)
  | 0x031 => some (c.csr.cpoob.getD 1 0)
  | 0x032 => some (c.csr.cpoob.getD 2 0)
  | 0x033 => some (c.csr.cpoob.getD 3 0)
  | 0x040 => some (slotInfo s x.service)
  | 0x041 => some (BitVec.ofNat 64 (bits c.csr.resvcfg 0 7 + slotsHeld c 13 % 128 * 2 ^ 32))
  | 0x042 => some (drtcfgWord s c)
  | 0x043 => some c.csr.drtst
  | 0x044 => some (BitVec.ofNat 64 (bits c.csr.fqst 0 32 + boundMask c * 2 ^ 32))
  | 0x048 => some c.csr.eqst
  | _ => none

/-- The writable control registers (R90). -/
def csrWritable (a : Nat) : Bool :=
  [0x011, 0x012, 0x013, 0x014, 0x018, 0x019, 0x01A, 0x024, 0x025, 0x030, 0x031, 0x032, 0x033, 0x041, 0x042, 0x043,
    0x044, 0x048].contains a

/-- A PARKCFG write that R134 refuses: it clears the bit of a tile that holds an image, moves the spill basket or
clears SPEN while images lie there. -/
def parkcfgRefused (c : Core) (v : Word) : Bool :=
  (c.spill.any fun p => match p.loc with | .col t _ => !v.getLsbD t | .spill _ => false) ||
    (decide (0 < parkedSpill c) && (bits v 16 8 != bits c.csr.parkcfg 16 8 || !v.getLsbD 25))

/-- Illegal instruction, SUB 7: a control-register access (R90, R134, R224). -/
def csrFail (b : Bool) : Option Cause := failIf b (Cause.precise 0x01 7 slotBR)

/-- Tests of csrr, and of csrw and csrx with the value they write (R90, R134). The manual does not place this test (SUB 7)
among those of R80 and R197: it is made with the illegal operands, after the header wait and the register holds (DESIGN
CHOICE [18]). -/
def csrReadTests (s : State) (a : Nat) : Tests := { noTests with opnd := csrFail (csrRead s s.cur a).isNone }
def csrWriteTests (s : State) (a : Nat) (v : Word) : Tests :=
  { noTests with opnd := csrFail (!csrWritable a || (a == 0x014 && parkcfgRefused (curCore s) v)) }

/-! ### Writes -/

/-- WDOG stores at least 0x400 (R23). -/
def wdogValue (v : Word) : Word := BitVec.ofNat 64 (max 0x400 (bits v 0 32))

/-- FPCSR: the writable fields (R55). -/
def fpcsrValue (v : Word) : Word := v &&& 0x1B1F

/-- PARKCFG: the writable fields (R134). -/
def parkcfgValue (v : Word) : Word := v &&& 0x2FFFFFF

/-- RESVCFG.POOL is kept within 1 to 64 (R294). -/
def resvcfgValue (v : Word) : Word := BitVec.ofNat 64 (max 1 (min 64 (bits v 0 7)))

/-- DRTCFG.MODE: with 17 pods or more a write of 0 is ignored (R343). -/
def drtcfgValue (npm1 : Nat) (old v : Word) : Word := if 16 ≤ npm1 ∧ bits v 0 1 = 0 then old else v &&& 1

/-- DRTST: NFAIL of 0 clears everything, another value is stored alone (R343). -/
def drtstValue (old v : Word) : Word := if bits v 0 16 = 0 then 0 else setBits old 0 16 (bits v 0 16)

/-- EQST: OOB of 0 clears OOB and ERR, another value is stored alone (R391). -/
def eqstValue (old v : Word) : Word := if bits v 32 32 = 0 then 0 else setBits old 32 32 (bits v 32 32)

/-- A write of a control register without behaviour of its own: the writable fields are stored (R3, R130). -/
def csrStore (c : Csrs) (a : Nat) (v : Word) : Csrs :=
  match a with
  | 0x013 => { c with mxst := v &&& 0x1FFFFFFFF }
  | 0x018 => { c with syncst := (c.syncst &&& ~~~(3 : Word)) ||| (v &&& 3) }
  | 0x019 => { c with gxcfg := v }
  | 0x01A => { c with gxoob := v &&& 0xFFFFFFFF }
  | 0x024 => { c with tvec := v &&& 0x1FFFFFFFFFFFFC1 }
  | 0x025 => { c with tdeleg := v &&& 0x1ACE6 }
  | 0x030 => { c with cpoob := listSet c.cpoob 0 (v &&& 0xFFFFFFFF) }
  | 0x031 => { c with cpoob := listSet c.cpoob 1 (v &&& 0xFFFFFFFF) }
  | 0x032 => { c with cpoob := listSet c.cpoob 2 (v &&& 0xFFFFFFFF) }
  | 0x033 => { c with cpoob := listSet c.cpoob 3 (v &&& 0xFFFFFFFF) }
  | 0x044 => { c with fqst := v &&& 0xFFFFFFFF }
  | _ => c

/-- Change the control registers of the issuing core and drop the pending write of register `a`. -/
def applyCsr (s : State) (a : Nat) (f : Csrs → Csrs) : State :=
  onCur s fun c => { c with csr := f c.csr, csrws := c.csrws.eraseP fun w => w.1 == a }

/-- WDOG_WRITE (R23). -/
def execWdogWrite (v : Word) (s : State) : Host.Outcome State Fault Refusal :=
  .next (applyCsr s 0x011 fun c => { c with wdog := wdogValue v })

/-- FPCSR_WRITE (R56): the write lands before the same cycle's writebacks, whose flags are ORed into it. -/
def execFpcsrWrite (v : Word) (s : State) : Host.Outcome State Fault Refusal :=
  .next (applyCsr s 0x012 fun c => { c with fpcsr := fpcsrValue v })

/-- PARKCFG_WRITE (R134). -/
def execParkcfgWrite (v : Word) (s : State) : Host.Outcome State Fault Refusal :=
  .next (applyCsr s 0x014 fun c => { c with parkcfg := parkcfgValue v })

/-- RESVCFG_WRITE (R294). -/
def execResvcfgWrite (v : Word) (s : State) : Host.Outcome State Fault Refusal :=
  .next (applyCsr s 0x041 fun c => { c with resvcfg := resvcfgValue v })

/-- DRTCFG_WRITE (R343). -/
def execDrtcfgWrite (v : Word) (s : State) : Host.Outcome State Fault Refusal :=
  .next (applyCsr s 0x042 fun c => { c with drtcfg := drtcfgValue (s.page.npm1.toNat % 256) c.drtcfg v })

/-- DRTST_WRITE (R343). -/
def execDrtstWrite (v : Word) (s : State) : Host.Outcome State Fault Refusal :=
  .next (applyCsr s 0x043 fun c => { c with drtst := drtstValue c.drtst v })

/-- EQST_WRITE (R391). -/
def execEqstWrite (v : Word) (s : State) : Host.Outcome State Fault Refusal :=
  .next (applyCsr s 0x048 fun c => { c with eqst := eqstValue c.eqst v })

/-- CONTROL_REGISTER_WRITE (R130). -/
def execControlRegisterWrite (a : BitVec 12) (v : Word) (s : State) : Host.Outcome State Fault Refusal :=
  .next (applyCsr s a.toNat fun c => csrStore c a.toNat v)

/-- The write event of a pending control-register write. -/
def csrEvent (w : Nat × Word) : Instr :=
  match w.1 with
  | 0x011 => .wdogWrite w.2
  | 0x012 => .fpcsrWrite w.2
  | 0x014 => .parkcfgWrite w.2
  | 0x041 => .resvcfgWrite w.2
  | 0x042 => .drtcfgWrite w.2
  | 0x043 => .drtstWrite w.2
  | 0x048 => .eqstWrite w.2
  | a => .controlRegisterWrite (BitVec.ofNat 12 a) w.2

/-- The control registers after one pending write. -/
def csrAfter (npm1 : Nat) (c : Csrs) (w : Nat × Word) : Csrs :=
  match w.1 with
  | 0x011 => { c with wdog := wdogValue w.2 }
  | 0x012 => { c with fpcsr := fpcsrValue w.2 }
  | 0x014 => { c with parkcfg := parkcfgValue w.2 }
  | 0x041 => { c with resvcfg := resvcfgValue w.2 }
  | 0x042 => { c with drtcfg := drtcfgValue npm1 c.drtcfg w.2 }
  | 0x043 => { c with drtst := drtstValue c.drtst w.2 }
  | 0x048 => { c with eqst := eqstValue c.eqst w.2 }
  | a => csrStore c a w.2

/-- Make every pending write of core k, as when its context is pre-empted (R130, R233). -/
def flushCsrs (s : State) (k : Nat) : State :=
  onCore s k fun c => { c with csr := c.csrws.foldl (csrAfter (s.page.npm1.toNat % 256)) c.csr, csrws := [] }

/-! ### The image of a context that is not resident (R49, R235) -/

/-- Where core n's record lies. -/
def recordAddr (x : Ctx) (n : Nat) : Nat := x.area + 0x1000 + n * (0x70000 + x.zsize)

/-- What work for a non-resident context changes in control register a of core k goes into its image too (R49): `s` before, `t` after. -/
def keepCsr (s t : State) (k a : Nat) : State :=
  let v := (csrRead t k a).getD 0
  if (ctxAt t (keyCtx k)).resident ∨ v = (csrRead s k a).getD 0 then t
  else { t with hbm := writeNat t.hbm (recordAddr (ctxAt t (keyCtx k)) (keyCore k) + 0x400 + 8 * (a - 0x10)) 8 v.toNat }

end Sys2Proof.Machine
end

