-- ==== Sys2Proof/Machine/Image.lean ====
section
/-! DEFINITION. What a core record in a context area holds beside the tables the manual lays out byte by byte (R235): the
sequencer, the spill map, the unperformed accesses, the snapshot, the named barriers, the signals owed and the progress of the
engines. A field is an offset in the record, a number of bytes and a value; each table has a writer, a list of fields, and a
reader, which gives the core what the host may have edited (R236). The places of fields inside an entry are the model's own
where the manual names only the entry [11]. -/

namespace Sys2Proof.Machine

/-! ### Fields -/

/-- Replace the bytes of [a, a + n) by listed ones; those not listed become what an unlisted address reads as. -/
def blit (m : Memory) (a n : Nat) (es : List (Nat × Byte)) : Memory :=
  m.filter (fun e => decide (e.1 < a)) ++
    (es.foldl (fun l e => writeByte l e.1 e.2) []).filter (fun e => decide (a ≤ e.1 ∧ e.1 < a + n)) ++
    m.filter fun e => decide (a + n ≤ e.1)

/-- The nonzero bytes of a little-endian field. -/
def fieldBytes (a n v : Nat) : List (Nat × Byte) :=
  ((List.range n).map fun i => (a + i, BitVec.ofNat 8 (v / 256 ^ i))).filter fun e => e.2 != 0

/-! ### Accesses -/

/-- What an operation on element `ix` has in the 256 data bytes of its entry. -/
def elemData (op : MemOp) (ix : Nat) : Nat :=
  match op with
  | .store d _ => leNat d * 256 ^ (ix * d.length)
  | .storeM d => leNat (d.map fun b => b.getD 0) * 256 ^ (ix * d.length)
  | .atomic _ _ x y | .mop _ _ _ x y => x.toNat + y.toNat * 2 ^ 64
  | .fetchAdd _ x => x.toNat
  | .taskPost n => n
  | .load _ _ | .taskDec => 0

/-- The operation with its data read back from the 256 bytes. -/
def elemFrom (op : MemOp) (ix v : Nat) : MemOp :=
  match op with
  | .store d t => .store (leBytes d.length (v / 256 ^ (ix * d.length))) t
  | .storeM d => .storeM ((d.zip (leBytes d.length (v / 256 ^ (ix * d.length)))).map fun e => e.1.map fun _ => e.2)
  | .atomic o n _ _ => .atomic o n (BitVec.ofNat 64 v) (BitVec.ofNat 64 (v / 2 ^ 64))
  | .mop o t n _ _ => .mop o t n (BitVec.ofNat 64 v) (BitVec.ofNat 64 (v / 2 ^ 64))
  | .fetchAdd n _ => .fetchAdd n (BitVec.ofNat 64 v)
  | .taskPost _ => .taskPost v
  | .load n c => .load n c
  | .taskDec => .taskDec

/-- The 32-bit lane an element lies in. -/
def elemLane (e : Elem) : Nat := e.ix * (memLen e.op % 256) / 4

/-- The kind of an entry, from 1 up; 0 marks an entry that is not valid. -/
def opCode : MemOp → Nat
  | .load _ _ => 1
  | .store _ _ | .storeM _ => 2
  | .atomic _ _ _ _ => 3
  | .mop _ _ _ _ _ => 4
  | .fetchAdd _ _ => 5
  | .taskDec => 6
  | .taskPost _ => 7

/-- Kind, size and element width, space and `.rx`, ordering, scope of an entry, a byte each; and its address, mask and data. -/
structure Entry where
  kind : Nat
  size : Nat
  sp   : Bool
  order : Nat
  scope : Nat
  addr : Nat
  mask : Nat
  data : Nat
  rx : Bool := false
  deriving DecidableEq, Repr

/-- What the entry of an operation on elements holds. -/
def elemsEntry (els : List Elem) (order base : Nat) (img : VWord) : Entry :=
  let op := match els.head? with | some e => e.op | none => .load 0 false
  { kind := opCode op, size := memLen op, sp := (els.head?.map Elem.sp).getD false, order := order, scope := 0, addr := base
    mask := (els.map elemLane).dedup.foldl (fun m l => m + 2 ^ l) 0
    data := match op with
      | .load _ _ => img.toNat
      | _ => els.foldl (fun v e => v + elemData e.op e.ix) 0 }

/-- What an access has in its entry. -/
def entryOf (a : Access) : Entry :=
  let plain (kind : Nat) : Entry := { kind := kind, size := 0, sp := false, order := 0, scope := 0, addr := 0, mask := 0, data := 0 }
  match a.op with
  | .mem els _ o => { elemsEntry els o a.base.toNat a.img with rx := a.who.rx }
  | .remote el _ o g =>
    { elemsEntry [el] o el.addr.toNat a.img with scope := (match g with | some v => v.toNat + 256 | none => 0), rx := a.who.rx }
  | .fence sc k => { plain 8 with scope := sc, order := (match k with | .full => 3 | .acq => 1 | .rel => 2) }
  | .tfence sc _ _ => { plain 9 with scope := sc }
  | .arrive w r => { plain 10 with addr := w.toNat, order := r.toNat }
  | .expect w n => { plain 11 with addr := w.toNat, data := n }
  | .tlInc t => { plain 12 with addr := t }
  | .tlAcq t n => { plain 13 with addr := t, data := n.toNat }
  | .bkClose b n => { plain 14 with addr := b, data := n }
  | .rwinReg w _ _ => { plain 15 with addr := w.toNat }

/-- The access with what its entry reads back: lanes no longer owed are gone, addresses move with the base, data are replaced. -/
def entryBack (a : Access) (e : Entry) : Access :=
  let a := { a with who := { a.who with rx := e.rx } }
  let moved (x : Elem) : Elem := { x with addr := x.addr + (BitVec.ofNat 64 e.addr - a.base), op := elemFrom x.op x.ix e.data }
  let w := BitVec.ofNat 64 e.addr
  match a.op with
  | .mem els f o =>
    { a with op := .mem ((els.filter fun x => e.mask.testBit (elemLane x)).map moved) f o, base := w,
             img := if e.kind = 1 then BitVec.ofNat 2048 e.data else a.img }
  | .remote el f o g => { a with op := .remote { el with addr := w, op := elemFrom el.op el.ix e.data } f o g }
  | .fence _ k => { a with op := .fence e.scope k }
  | .tfence _ l st => { a with op := .tfence e.scope l st }
  | .arrive _ r => { a with op := .arrive w r }
  | .expect _ _ => { a with op := .expect w e.data }
  | .tlInc _ => { a with op := .tlInc e.addr }
  | .tlAcq _ _ => { a with op := .tlAcq e.addr (BitVec.ofNat 64 e.data) }
  | .bkClose _ _ => { a with op := .bkClose e.addr e.data }
  | .rwinReg _ s l => { a with op := .rwinReg w s l }

/-- Accesses with the number of their first entry, from entry n on; a gather or scatter has two. -/
def placed : Nat → List Access → List (Nat × Access)
  | _, [] => []
  | n, a :: r => (n, a) :: placed (n + max 1 a.ents) r

/-- The accesses of the snapshot, then those of the queue, with their entries. -/
def snapPlaced (c : Core) : List (Nat × Access) := placed 0 ((c.snap.map Snapshot.accs).getD [])
def livePlaced (c : Core) : List (Nat × Access) :=
  placed (((c.snap.map Snapshot.accs).getD []).foldl (fun n a => n + max 1 a.ents) 0) c.accs

/-- The fields of entry n of the access table. -/
def entryFields (n : Nat) (y : Nat) (slot stg : Nat) (e : Entry) : List (Nat × Nat × Nat) :=
  let b := 0x6000 + 320 * n
  [(b, 4, y), (b + 4, 1, slot), (b + 5, 1, stg), (b + 8, 8, e.addr), (b + 16, 1, e.kind), (b + 17, 1, e.size), (b + 18, 1, e.sp.toNat),
   (b + 19, 1, e.order), (b + 20, 2, e.scope), (b + 22, 1, e.rx.toNat), (b + 24, 8, e.mask), (b + 32, 256, e.data)]

/-- Entry n read back. -/
def entryRead (rd : Nat → Nat → Nat) (n : Nat) : Entry :=
  let b := 0x6000 + 320 * n
  { kind := rd (b + 16) 1, size := rd (b + 17) 1, sp := rd (b + 18) 1 % 2 == 1, order := rd (b + 19) 1, scope := rd (b + 20) 2
    addr := rd (b + 8) 8, mask := rd (b + 24) 8, data := rd (b + 32) 256, rx := rd (b + 22) 1 % 2 == 1 }

/-- The second entry of a gather or scatter: its 64 indices. -/
def indexFields (n : Nat) (a : Access) : List (Nat × Nat × Nat) :=
  if a.ents < 2 then [] else [(0x6000 + 320 * (n + 1), 256, a.idx.toNat)]

/-- A displacement from a base address, in a space (R196). -/
def placeAt (sp : Bool) (a d : Word) : Word := if sp then a + d else locAddr a d

/-- The indices read back: the addresses of the elements still owed follow them. -/
def indexBack (rd : Nat → Nat → Nat) (n : Nat) (a : Access) : Access :=
  let x := BitVec.ofNat 2048 (rd (0x6000 + 320 * (n + 1)) 256)
  match a.op with
  | .mem els f o => if a.ents < 2 then a else
      { a with idx := x
               op := .mem (els.map fun e => { e with addr := placeAt e.sp a.base (BitVec.ofNat 64 (elem 32 x e.ix * memLen e.op)) }) f o }
  | _ => a

/-- The access table has 48 entries (R165). -/
def fits (e : Nat × Access) : Bool := decide (e.1 + max 1 e.2.ents ≤ 48)

/-- The fields of accesses with their entries. -/
def accFields (l : List (Nat × Access)) : List (Nat × Nat × Nat) :=
  (l.filter fits).flatMap fun e => entryFields e.1 e.2.syl.toNat e.2.slot e.2.stg (entryOf e.2) ++ indexFields e.1 e.2

/-- The accesses read back: one whose entry is no longer valid is gone. -/
def accBack (rd : Nat → Nat → Nat) (l : List (Nat × Access)) : List Access :=
  l.filterMap fun e =>
    if !fits e then some e.2
    else if rd (0x6010 + 320 * e.1) 1 = 0 then none
    else some (indexBack rd e.1 (entryBack e.2 (entryRead rd e.1)))

/-! ### The snapshot: results in flight -/

/-- A destination as kind, index, field. -/
def destCode : Dest → Nat × Nat × Nat
  | .none => (0, 0, 0)
  | .g i => (1, i, 0)
  | .hb i => (2, i, 0)
  | .p i => (3, i, 0)
  | .v i => (4, i, 0)
  | .k i => (5, i, 0)
  | .fo i => (6, i, 0)
  | .shape h f => (7, h, f)

/-- A destination read back. -/
def destFrom (kind i f : Nat) : Dest :=
  match kind with
  | 1 => .g i
  | 2 => .hb i
  | 3 => .p i
  | 4 => .v i
  | 5 => .k i
  | 6 => .fo i
  | 7 => .shape i f
  | _ => .none

/-- A value as kind and number; a capability's tag is in bit 128. -/
def valCode : Val → Nat × Nat
  | .s x => (0, x.toNat)
  | .v x => (1, x.toNat)
  | .k x t => (2, x.toNat + t.toNat * 2 ^ 128)

/-- A value read back. -/
def valFrom (kind x : Nat) : Val :=
  match kind with
  | 0 => .s (BitVec.ofNat 64 x)
  | 1 => .v (BitVec.ofNat 2048 x)
  | _ => .k (BitVec.ofNat 128 x) (x.testBit 128)

/-- Entry n: valid in bit 0, of the snapshot in bit 1, a returning load in bit 2; cycles left from issue cycle `ic` (R232). -/
def resFields (n : Nat) (mark ic : Nat) (r : Exposed) : List (Nat × Nat × Nat) :=
  let b := 0xA000 + 272 * n
  let d := destCode r.dest
  let v := valCode r.val
  [(b, 1, mark), (b + 1, 1, d.1), (b + 2, 1, d.2.1), (b + 3, 1, d.2.2), (b + 4, 2, r.land - ic), (b + 6, 1, r.flags.toNat),
   (b + 7, 1, v.1), (b + 8, 8, r.ord), (b + 16, 256, v.2)]

/-- The values of an entry read back into a result. -/
def resBack (rd : Nat → Nat → Nat) (n ic : Nat) (r : Exposed) : Option Exposed :=
  let b := 0xA000 + 272 * n
  if rd b 1 % 2 = 0 then none
  else some { r with
    dest := destFrom (rd (b + 1) 1) (rd (b + 2) 1) (rd (b + 3) 1), val := valFrom (rd (b + 7) 1) (rd (b + 16) 256)
    land := ic + rd (b + 4) 2, flags := BitVec.ofNat 5 (rd (b + 6) 1), ord := rd (b + 8) 8 }

/-- A load that returns next, as a result (R93). -/
def retResult (r : Return) : Exposed := { dest := if r.dead then .none else r.dest, val := r.val, land := 0, flags := 0, ord := 2 * r.id }

/-- Results with their entries, from entry n on, and the issue cycle they count from. -/
def numbered {α : Type} (n : Nat) (l : List α) : List (Nat × α) := ((List.range l.length).map (n + ·)).zip l

/-- The fields of the snapshot table: the snapshot's results and returns, then those in flight; 128 entries (R232). -/
def flightFields (c : Core) : List (Nat × Nat × Nat) :=
  let sr := (c.snap.map Snapshot.results).getD []
  let st := (c.snap.map Snapshot.rets).getD []
  let ic := (c.snap.map Snapshot.icycle).getD 0
  let all := sr.map (fun r n => resFields n 3 ic r) ++ st.map (fun r n => resFields n 7 0 (retResult r)) ++
    c.results.map (fun r n => resFields n 1 c.icycle r) ++ c.rets.map fun r n => resFields n 5 0 (retResult r)
  ((numbered 0 all).filter fun e => decide (e.1 < 128)).flatMap fun e => e.2 e.1

/-- Results read back from entry n on. -/
def resultsBack (rd : Nat → Nat → Nat) (n ic : Nat) (l : List Exposed) : List Exposed :=
  (numbered n l).filterMap fun e => if e.1 < 128 then resBack rd e.1 ic e.2 else some e.2

/-- Returns read back from entry n on. -/
def returnsBack (rd : Nat → Nat → Nat) (n : Nat) (l : List Return) : List Return :=
  (numbered n l).filterMap fun e =>
    if e.1 < 128 then (resBack rd e.1 0 (retResult e.2)).map fun x => { e.2 with dest := if e.2.dead then e.2.dest else x.dest, val := x.val }
    else some e.2

/-! ### The sequencer, the bank lock and what follows the last bundle -/

/-- What follows the last bundle, as a number and a target. -/
def afterCode : After → Nat × Nat
  | .next => (0, 0)
  | .branch w => (1, w.toNat)
  | .loop w => (2, w.toNat)
  | .tend => (3, 0)
  | .eret => (4, 0)

/-- It read back. -/
def afterFrom (n w : Nat) : After :=
  match n with
  | 1 => .branch (BitVec.ofNat 64 w)
  | 2 => .loop (BitVec.ofNat 64 w)
  | 3 => .tend
  | 4 => .eret
  | _ => .next

/-- Sequencer, lock mask, pc and continuation from offset b, 128 bytes. -/
def seqFields (b : Nat) (q : Sequencer) (l : Option BankLock) (pc : Word) (a : After) : List (Nat × Nat × Nat) :=
  [(b, 1, q.active.toNat), (b + 8, 8, q.n), (b + 16, 8, q.ii), (b + 24, 8, q.sc), (b + 32, 8, q.body.toNat), (b + 40, 8, q.j),
   (b + 48, 8, q.k), (b + 56, 8, q.rho), (b + 64, 8, pc.toNat), (b + 72, 4, (l.map fun x => x.mask.toNat).getD 0),
   (b + 76, 4, (l.map BankLock.left).getD 0), (b + 80, 8, (afterCode a).1), (b + 88, 8, (afterCode a).2)]

/-- The sequencer read back. -/
def seqBack (rd : Nat → Nat → Nat) (b : Nat) : Sequencer where
  active := rd b 1 % 2 == 1
  n := rd (b + 8) 8
  ii := rd (b + 16) 8
  sc := rd (b + 24) 8
  body := BitVec.ofNat 64 (rd (b + 32) 8)
  j := rd (b + 40) 8
  k := rd (b + 48) 8
  rho := rd (b + 56) 8

/-- A lock read back with its count. -/
def lockBack (rd : Nat → Nat → Nat) (b left : Nat) : Option BankLock :=
  if left = 0 then none else some { mask := BitVec.ofNat 32 (rd (b + 72) 4), left := left }

/-! ### Spill map, barriers, owed signals, engines -/

/-- A spill-map entry: valid in bit 63, the spill basket in bit 62, the register in 47:32, the place below [11]. -/
def parkedWord (p : Parked) : Nat :=
  2 ^ 63 + p.idx % 2 ^ 16 * 2 ^ 32 + match p.loc with | .col t j => t % 256 * 256 + j % 256 | .spill o => 2 ^ 62 + o % 2 ^ 32

/-- The spill map read back: entries end at the first that is not valid. -/
def parkedBack (w : Word) : Option Parked :=
  if w.getLsbD 63 then
    some { idx := bits w 32 16, loc := if w.getLsbD 62 then .spill (bits w 0 32) else .col (bits w 8 8) (bits w 0 8) }
  else none

/-- The 512 entries of the spill map. -/
def spillFields (c : Core) : List (Nat × Nat × Nat) := (numbered 0 c.spill).map fun e => (0x2000 + 8 * e.1, 8, parkedWord e.2)
def spillBack (rd : Nat → Nat → Nat) : List Parked :=
  (((List.range 512).map fun i => parkedBack (BitVec.ofNat 64 (rd (0x2000 + 8 * i) 8))).takeWhile Option.isSome).reduceOption

/-- Barrier b of a record [11]. -/
def barrierFields (b : Nat) (x : Barrier) : List (Nat × Nat × Nat) :=
  let o := 0x14000 + 32 * b
  [(o, 2, x.base), (o + 2, 2, x.extra), (o + 4, 2, x.arr), (o + 6, 2, x.ph), (o + 8, 1, x.rlen), (o + 9, 1, x.sem.isSome.toNat),
   (o + 10, 1, x.sem.getD 0), (o + 16, 8, x.rlist.toNat)]

/-- It read back. -/
def barrierBack (rd : Nat → Nat → Nat) (b : Nat) : Barrier :=
  let o := 0x14000 + 32 * b
  { base := rd o 2, extra := rd (o + 2) 2, arr := rd (o + 4) 2, ph := rd (o + 6) 2, rlen := rd (o + 8) 1
    rlist := BitVec.ofNat 64 (rd (o + 16) 8), sem := if rd (o + 9) 1 % 2 = 1 then some (rd (o + 10) 1) else none }

/-- Owed signal n (R235); `at_` are the accesses of its queue with their entries, `ic` the issue cycle its results count from. -/
def owedFields (at_ : List (Nat × Access)) (ic n : Nat) (o : Owed) : List (Nat × Nat × Nat) :=
  let b := 0xC00 + 32 * n
  [(b, 1, o.sem), (b + 1, 1, o.inc % 8 + 128), (b + 2, 1, (match o.op with | some (t, _) => t % 16 | none => 15)),
   (b + 4, 2, o.land - ic), (b + 8, 8, (match o.op with | some (_, n) => n | none => 0)),
   (b + 16, 8, (at_.filter fun e => o.accs.contains e.2.id).foldl (fun m e => m + 2 ^ e.1) 0)]

/-- It read back; what its entry does not show stays. -/
def owedBack (rd : Nat → Nat → Nat) (at_ : List (Nat × Access)) (ic n : Nat) (o : Owed) : Option Owed :=
  let b := 0xC00 + 32 * n
  if rd (b + 1) 1 < 128 then none
  else some {
    sem := rd b 1, inc := rd (b + 1) 1 % 8, land := ic + rd (b + 4) 2
    accs := (o.accs.filter fun id => !at_.any fun e => fits e && e.2.id == id) ++
      (at_.filter fun e => fits e && (rd (b + 16) 8).testBit e.1).map fun e => e.2.id
    op := if rd (b + 2) 1 % 16 = 15 then none else some (rd (b + 2) 1 % 16, rd (b + 8) 8) }

/-- The owed signals: the snapshot's, then the queue's; 32 entries. -/
def owedTable (c : Core) : List (Nat × Nat × Nat) :=
  let s := (c.snap.map Snapshot.sdone).getD []
  let all := s.map (fun o n => owedFields (snapPlaced c) ((c.snap.map Snapshot.icycle).getD 0) n o) ++
    c.sdone.map fun o n => owedFields (livePlaced c) c.icycle n o
  ((numbered 0 all).filter fun e => decide (e.1 < 32)).flatMap fun e => e.2 e.1

/-- Owed signals read back from entry n on. -/
def owedTableBack (rd : Nat → Nat → Nat) (at_ : List (Nat × Access)) (ic n : Nat) (l : List Owed) : List Owed :=
  (numbered n l).filterMap fun e => if e.1 < 32 then owedBack rd at_ ic e.1 e.2 else some e.2

/-- The engine operations with their timelines: those that have started first. -/
def listedOps (c : Core) : List (Nat × EngOp) :=
  let all_ := c.engs.flatMap fun e => e.2.map fun o => (e.1, o)
  all_.filter (fun e => e.2.fired) ++ all_.filter fun e => !e.2.fired

/-- What an operation carries and the values its command captured (R243), as 64-bit words. -/
def opWords (o : EngOp) : List Nat :=
  o.aux.map BitVec.toNat ++ o.shape.map BitVec.toNat ++ o.loops.flatMap (fun x => [x.toNat % 2 ^ 64, x.toNat / 2 ^ 64]) ++
    o.fmt.map BitVec.toNat ++ o.rings.map fun x => x.2.toNat

/-- The operation with its words replaced, the others being as they were. -/
def opWordsBack (w : Nat → Nat) (o : EngOp) : EngOp :=
  let n1 := o.aux.length
  let n2 := n1 + o.shape.length
  let n3 := n2 + 2 * o.loops.length
  let n4 := n3 + o.fmt.length
  { o with
    aux := (numbered 0 o.aux).map fun e => BitVec.ofNat 64 (w e.1)
    shape := (numbered n1 o.shape).map fun e => BitVec.ofNat 64 (w e.1)
    loops := (numbered 0 o.loops).map fun e => BitVec.ofNat 128 (w (n2 + 2 * e.1) + w (n2 + 2 * e.1 + 1) * 2 ^ 64)
    fmt := (numbered n3 o.fmt).map fun e => BitVec.ofNat 32 (w e.1)
    rings := (numbered n4 o.rings).map fun e => (e.2.1, BitVec.ofNat 64 (w e.1)) }

/-- Entries of 64 bytes that an operation takes: five words in the first, eight in each other. -/
def opEntries (o : EngOp) : Nat := 1 + ((opWords o).length + 2) / 8

/-- Operations with the number of their first entry; those that find no room among the 216 are left out, and stay in the core's
record alone [11]. -/
def placedOps : Nat → List (Nat × EngOp) → List (Nat × Nat × EngOp)
  | _, [] => []
  | n, (t, o) :: r => if 216 < n + opEntries o then placedOps n r else (n, t, o) :: placedOps (n + opEntries o) r

/-- Where word i of the operation at entry n lies. -/
def opWordAt (n i : Nat) : Nat := 0x1C900 + 64 * n + 24 + 8 * i

/-- The progress of an operation from entry n on: timeline, state, number, position in the operation, words [11]. -/
def progressFields (n t : Nat) (o : EngOp) : List (Nat × Nat × Nat) :=
  let b := 0x1C900 + 64 * n
  [(b, 1, t), (b + 1, 1, 128 + o.ended.toNat + 2 * o.fired.toNat), (b + 2, 1, o.await), (b + 8, 8, o.n), (b + 16, 8, o.pos)] ++
    (numbered 0 (opWords o)).map fun e => (opWordAt n e.1, 8, e.2)

/-- The progress read back into an operation. -/
def progressBack (rd : Nat → Nat → Nat) (n : Nat) (o : EngOp) : EngOp :=
  { opWordsBack (fun i => rd (opWordAt n i) 8) o with pos := rd (0x1C900 + 64 * n + 16) 8 }

/-- The engine operations of the record. -/
def engineFields (c : Core) : List (Nat × Nat × Nat) :=
  (placedOps 0 (listedOps c)).flatMap fun e => progressFields e.1 e.2.1 e.2.2

/-- An operation read back, if it has an entry. Those of t11 and t12 go on without the context (R348). -/
def engineBack (rd : Nat → Nat → Nat) (at_ : List (Nat × Nat × EngOp)) (t : Nat) (o : EngOp) : EngOp :=
  if t == 11 || t == 12 then o
  else
    match at_.find? fun e => e.2.1 == t && e.2.2.n == o.n with
    | some (i, _, _) => if 128 ≤ rd (0x1C900 + 64 * i + 1) 1 then progressBack rd i o else o
    | none => o

/-! ### The running task -/

/-- The task of the core in the last 256 bytes of the engine state [11]: the entry, what it started with, its origin. -/
def taskFields (c : Core) : List (Nat × Nat × Nat) :=
  match c.task with
  | none => []
  | some t =>
    let b := 0x1FF00
    [(b, 1, 1 + 2 * c.begun.toNat), (b + 1, 1, t.prio), (b + 8, 8, t.entry.toNat), (b + 16, 8, t.q), (b + 24, 8, t.done.toNat)] ++
      (numbered 0 t.regs).map (fun e => (b + 64 + 8 * e.1, 8, e.2.toNat)) ++
      (match t.launch with | some (n, o) => [(b + 2, 1, 1), (b + 32, 8, n), (b + 40, 8, o)] | none => []) ++
      match t.record with
      | some e => [(b + 3, 1, 1), (b + 128, 8, e.addr.toNat), (b + 136, 1, e.prio), (b + 144, 8, e.lw), (b + 152, 8, e.lh),
          (b + 160, 8, e.x0), (b + 168, 8, e.y0), (b + 176, 8, e.at_), (b + 184, 8, e.q)]
      | none => []

/-- The task read back. -/
def taskBack (rd : Nat → Nat → Nat) (t : Task) : Task :=
  let b := 0x1FF00
  { t with
    prio := rd (b + 1) 1, entry := BitVec.ofNat 64 (rd (b + 8) 8), q := rd (b + 16) 8, done := BitVec.ofNat 64 (rd (b + 24) 8)
    regs := (numbered 0 t.regs).map fun e => BitVec.ofNat 64 (rd (b + 64 + 8 * e.1) 8)
    launch := t.launch.map fun _ => (rd (b + 32) 8, rd (b + 40) 8)
    record := t.record.map fun e => { e with
      addr := BitVec.ofNat 64 (rd (b + 128) 8), prio := rd (b + 136) 1, lw := rd (b + 144) 8, lh := rd (b + 152) 8
      x0 := rd (b + 160) 8, y0 := rd (b + 168) 8, at_ := rd (b + 176) 8, q := rd (b + 184) 8 } }

/-! ### The whole record -/

/-- The flags word (R235). -/
def flagWord (c : Core) : Nat := 1 + c.stop.isSome.toNat * 2 + c.inH.toNat * 4 + (!c.asyncs.isEmpty).toNat * 8

/-- The lock count: the running lock's, or that of the snapshot (R223). -/
def lockCount (c : Core) : Nat :=
  match c.lock with
  | some l => l.left
  | none => ((c.snap.bind Snapshot.lock).map BankLock.left).getD 0

/-- Flags, lock count, q; sequencer; spill map; owed signals; accesses; snapshot; barriers; engine progress. -/
def runFields (c : Core) : List (Nat × Nat × Nat) :=
  [(0, 8, flagWord c), (8, 8, lockCount c), (16, 8, c.q)] ++ seqFields 0xA00 c.seq c.lock c.pc c.after ++
    (match c.snap with | some n => seqFields 0xA80 n.seq n.lock n.pc n.after | none => []) ++ owedTable c ++ spillFields c ++
    accFields (snapPlaced c) ++ accFields (livePlaced c) ++ flightFields c ++ c.bars.flatMap (fun e => barrierFields e.1 e.2) ++
    engineFields c ++ taskFields c

/-- The snapshot read back: its accesses first, its results and returns first in their table. -/
def snapBack (rd : Nat → Nat → Nat) (c : Core) (n : Snapshot) : Snapshot :=
  { n with
    results := resultsBack rd 0 n.icycle n.results, rets := returnsBack rd n.results.length n.rets
    accs := accBack rd (snapPlaced c), sdone := owedTableBack rd (snapPlaced c) n.icycle 0 n.sdone
    seq := seqBack rd 0xA80, pc := BitVec.ofNat 64 (rd 0xAC0 8), after := afterFrom (rd 0xAD0 8) (rd 0xAD8 8)
    lock := lockBack rd 0xA80 (if c.lock.isSome then rd 0xACC 4 else rd 8 8) }

/-- What the record's running state reads back as (R236); `bs` are the barriers with a byte that is not 0. A stopped flag that the host sets stops a core with no fault of its own. -/
def runBack (rd : Nat → Nat → Nat) (bs : List Nat) (c : Core) : Core :=
  let f := rd 0 8
  let ns := ((c.snap.map Snapshot.sdone).getD []).length
  let nr := ((c.snap.map Snapshot.results).getD []).length + ((c.snap.map Snapshot.rets).getD []).length
  { c with
    stop := if f.testBit 1 then some (c.stop.getD { code := 0, between := false }) else none
    inH := f.testBit 2
    asyncs := if f.testBit 3 then c.asyncs else []
    q := rd 16 8
    seq := seqBack rd 0xA00, pc := BitVec.ofNat 64 (rd 0xA40 8), after := afterFrom (rd 0xA50 8) (rd 0xA58 8)
    lock := if c.lock.isSome ∨ c.snap.isNone then lockBack rd 0xA00 (rd 8 8) else none
    spill := spillBack rd
    sdone := owedTableBack rd (livePlaced c) c.icycle ns c.sdone
    accs := accBack rd (livePlaced c)
    results := resultsBack rd nr c.icycle c.results
    rets := returnsBack rd (nr + c.results.length) c.rets
    snap := c.snap.map (snapBack rd c)
    bars := bs.foldl (fun m b => mput Barrier.init m b (barrierBack rd b)) []
    engs := c.engs.map fun e => (e.1, e.2.map (engineBack rd (placedOps 0 (listedOps c)) e.1))
    task := c.task.map (taskBack rd), begun := if c.task.isSome then (rd 0x1FF00 1).testBit 1 else c.begun }

/-! ### Barriers of a context that is not resident (R49) -/

/-- The record of core k reads as. -/
def recordRead (s : State) (k o n : Nat) : Nat := readNat s.hbm (recordAddr (ctxAt s (keyCtx k)) (keyCore k) + o) n

/-- Take barriers from the image, which holds them while the context is not resident. -/
def takeBars (s : State) (k : Nat) (bs : List Nat) : State :=
  if (ctxAt s (keyCtx k)).resident then s
  else onCore s k fun c => { c with bars := bs.foldl (fun m b => mput Barrier.init m b (barrierBack (recordRead s k) b)) c.bars }

/-- Write the fields of a record at its place. -/
def writeFields (s : State) (a : Nat) (l : List (Nat × Nat × Nat)) : State :=
  l.foldl (fun s f => physWrite s { sp := false, a := a + f.1 } (leBytes f.2.1 f.2.2)) s

/-- Whether a key lies in a range. -/
def keyIn (p : Phys) (n size g : Nat) : Bool := g % 2 == p.sp.toNat && decide (p.a ≤ g / 2 * size ∧ g / 2 * size < p.a + n)

/-- A write of n bytes at a of HBM leaves no capability tag, poison mark or earlier code there (R163, R240, R297). -/
def clearMarks (s : State) (a n : Nat) : State :=
  let p : Phys := { sp := false, a := a }
  { s with capTags := s.capTags.filter fun g => !keyIn p n 16 g, poison := s.poison.filter fun g => !keyIn p n 1 g
           prior := s.prior.filter fun o => !keyIn p n 1 o.2.1 }

/-- Where the fields of the running state lie in a record: offset and length. -/
def runRegions : List (Nat × Nat) :=
  [(0, 24), (0xA00, 256), (0xC00, 1024), (0x2000, 4096), (0x6000, 16384), (0xA000, 40960), (0x14000, 32768), (0x1C900, 0x3700)]

/-- Something happens to core k's running state: for a context that is not resident its image is read, changed and written (R49). -/
def onImage (s : State) (k : Nat) (f : State → State) : State :=
  if (ctxAt s (keyCtx k)).resident then f s
  else
    let a := recordAddr (ctxAt s (keyCtx k)) (keyCore k)
    let bs := ((s.hbm.filter fun e => decide (a + 0x14000 ≤ e.1 ∧ e.1 < a + 0x1C000)).map fun e => (e.1 - (a + 0x14000)) / 32).dedup
    let t := f (onCore s k (runBack (recordRead s k) bs))
    let es := (runFields (coreAt t k)).flatMap fun x => fieldBytes (a + x.1) x.2.1 x.2.2
    let t := runRegions.foldl (fun t r => clearMarks t (a + r.1) r.2) t
    { t with hbm := runRegions.foldl (fun m r => blit m (a + r.1) r.2 es) t.hbm }

/-- Put barriers into the image. -/
def keepBars (s : State) (k : Nat) (bs : List Nat) : State :=
  if (ctxAt s (keyCtx k)).resident then s
  else writeFields s (recordAddr (ctxAt s (keyCtx k)) (keyCore k)) (bs.flatMap fun b => barrierFields b (mget Barrier.init (coreAt s k).bars b))

/-- Timeline t of core k in the image of a context that is not resident (R49, R348). -/
def keepTl (s : State) (k t : Nat) : State :=
  if (ctxAt s (keyCtx k)).resident then s
  else writeFields s (recordAddr (ctxAt s (keyCtx k)) (keyCore k)) [(0x380 + 8 * t, 8, (mget 0 (coreAt s k).tl t).toNat)]

end Sys2Proof.Machine
end

