-- ==== Sys2Proof/Machine/Engine.lean ====
section
/-! DEFINITION. What the engines of a core share (R241 to R251): command queues and numbered operations, shape
registers, layout records, rings, and an engine's memory accesses.

An engine operation runs as a sequence of small steps. A step that faults or has to ask another die stops the
operation there, and it continues from that step (R245). -/

namespace Sys2Proof.Machine

/-! ### Command queues (R242, R243) -/

/-- The queue of timeline t. -/
def queueOf (c : Core) (t : Nat) : List EngOp := mget [] c.engs t

/-- Replace the queue of timeline t. -/
def setQueue (c : Core) (t : Nat) (q : List EngOp) : Core := { c with engs := mset c.engs t q }

/-- Replace operation n in the queue of timeline t. -/
def setOp (c : Core) (t : Nat) (o : EngOp) : Core :=
  setQueue c t ((queueOf c t).map fun p => if p.n = o.n then o else p)

/-- The hold of a full queue (R242, R313, R372). -/
def fullHold (c : Core) (t : Nat) : Option Hold :=
  if 16 ≤ (queueOf c t).length then some { sub := 4, obj := 0x100, tl := t } else none

/-- The 16 fields of a shape register's active copy, by the code of R86. -/
def shapeOf (m : SMap Word) (h : Nat) : List Word := (List.range 16).map fun n => mget 0 m (16 * h + n)

/-- The copy a command captures: the shadow copy when it swaps (R243). -/
def capturedShape (c : Core) (h : Nat) (sw : Bool) : List Word := shapeOf (if sw then c.shadow else c.active) h

/-- Exchange the active and shadow copies of a shape register (R243). -/
def swapShape (c : Core) (h : Nat) (sw : Bool) : Core :=
  if sw then
    let put (m : SMap Word) (xs : List Word) : SMap Word :=
      (List.range 16).foldl (fun m n => mput 0 m (16 * h + n) (xs.getD n 0)) m
    { c with active := put c.active (shapeOf c.shadow h), shadow := put c.shadow (shapeOf c.active h) }
  else c

/-- Format-table entry i (R75, R397). -/
def fmtEntry (c : Core) (i : Nat) : BitVec 32 := mget 0x00404000 c.fmtTab i

/-- The whole format table. -/
def fmtAll (c : Core) : List (BitVec 32) := (List.range 16).map (fmtEntry c)

/-- Ring-table entry i (R249). -/
def ringEntry (c : Core) (i : Nat) : Word := mget 0 c.ringTab i

/-- A basket's entry at creation: RING 0xFF, HOLD 15, NEXT 14 (R220). -/
def basketInit : Word := BitVec.ofNat 64 (0xFF * 2 ^ 54 + 15 * 2 ^ 50 + 14 * 2 ^ 46)

/-- Basket-table entry b (R220). -/
def basket (c : Core) (b : Nat) : Word := mget basketInit c.baskets b

/-- Replace basket-table entry b. -/
def setBasket (c : Core) (b : Nat) (w : Word) : Core := { c with baskets := mset c.baskets b w }

/-- Fields of a basket-table entry (R220). -/
def bkOff (w : Word) : Nat := bits w 0 22
def bkSize (w : Word) : Nat := bits w 22 22
def bkSt (w : Word) : Nat := bits w 44 2
def bkNext (w : Word) : Nat := bits w 46 4
def bkHold (w : Word) : Nat := bits w 50 4
def bkRing (w : Word) : Nat := bits w 54 8

/-- A basket with new ST, HOLD and NEXT. -/
def bkMove (w : Word) (st hold next : Nat) : Word := setBits (setBits (setBits w 44 2 st) 50 4 hold) 46 4 next

/-- The next free operation number of timeline t (R217). -/
def nextOp (c : Core) (t : Nat) : Nat := mget 0 c.tlOps t + 1

/-- Queue a numbered operation with its captured values (R243); it takes the timeline's next number. -/
def pushOp (s : State) (t : Nat) (k : EngKind) (shape : List Word) (loops : List (BitVec 128)) (rings : List Nat) :
    State :=
  onCur s fun c =>
    let c := overtake c (engDest k)
    let o : EngOp := { n := nextOp c t, kind := k, shape := shape, loops := loops, fmt := fmtAll c
                       rings := rings.map fun i => (i, ringEntry c i), fp8sat := fp8sat c, q := s.time, epc := c.pc, slot := c.slot, stg := c.stg
                       order := c.issued + 1, fired := false, ended := false, dead := false, inB := [], outB := [], pos := 0, aux := []
                       replies := [], slots := 0, await := 0 }
    { setQueue c t (queueOf c t ++ [o]) with tlOps := mset c.tlOps t o.n, issued := c.issued + 1 }

/-! ### Layout records (R247, R248) -/

/-- A layout record. -/
structure Layout where
  base   : Word
  spitch : Nat
  sp     : Nat
  ew     : Nat
  bax    : Nat
  resv   : Nat
  pitch  : Nat
  vh     : Nat
  vw     : Nat
  row0   : Int
  col0   : Int
  fill   : Nat
  soff   : Int
  deriving DecidableEq, Repr

/-- The layout record in fields f to f + 3. -/
def layoutAt (sh : List Word) (f : Nat) : Layout :=
  let l0 := sh.getD f 0
  let l1 := sh.getD (f + 1) 0
  let l2 := sh.getD (f + 2) 0
  let l3 := sh.getD (f + 3) 0
  { base := l0, spitch := bits l1 48 16, sp := bits l1 46 2, ew := bits l1 44 2, bax := bits l1 43 1
    resv := bits l1 40 3, pitch := bits l1 0 40, vh := bits l2 48 16, vw := bits l2 32 16
    row0 := sextNat 16 (bits l2 16 16), col0 := sextNat 16 (bits l2 0 16), fill := bits l3 32 32
    soff := sextNat 32 (bits l3 0 32) }

/-- Bytes of an element; EW 0 shares a byte between two elements. -/
def Layout.eb (l : Layout) : Nat := match l.ew with | 0 => 1 | 1 => 1 | 2 => 2 | _ => 4

/-- A reserved field of a layout record is set: L1 42:40, or SP 3. -/
def Layout.bad (l : Layout) : Bool := l.resv != 0 || l.sp == 3

/-- BASE and PITCH are multiples of the element width (R247). -/
def Layout.aligned (l : Layout) : Bool := l.ew == 0 || (l.base.toNat % l.eb == 0 && l.pitch % l.eb == 0)

/-- (R, C) lies inside the view (R248). -/
def Layout.inside (l : Layout) (r c : Int) : Bool := 0 ≤ r && r < l.vh && 0 ≤ c && c < l.vw

/-- The byte address of element (R, C), exact (R248). -/
def Layout.addr (l : Layout) (r c : Int) : Word :=
  wordOfInt (l.base.toInt + r * l.pitch + (if l.ew = 0 then c / 2 else c * l.eb))

/-- The address of the scale byte of the block that holds (R, C) (R248). -/
def Layout.scaleAddr (l : Layout) (r c : Int) : Word :=
  if l.bax = 0 then wordOfInt (l.base.toInt + l.soff + r * l.spitch + c / 64)
  else wordOfInt (l.base.toInt + l.soff + r / 64 * l.spitch + c)

/-- The fill constant of an element outside the view (R248). -/
def Layout.fillElem (l : Layout) : Nat := if l.ew = 0 then l.fill % 16 else l.fill % 2 ^ (8 * l.eb)

/-- An alignment failure of layouts (R244): SUB 1. -/
def layoutAlign (ls : List Layout) : Option Cause :=
  match ls.find? fun l => !l.aligned with
  | some l => some { Cause.precise 0x02 1 slotEN with tval := l.base }
  | none => none

/-- An illegal operand of an engine command: SUB 2, or SUB 6 for a format-table entry (R244). -/
def engIllegal (b : Bool) : Option Cause := failIf b (illegal slotEN)
def engBadFmt (b : Bool) : Option Cause := failIf b (Cause.precise 0x01 6 slotEN)

/-! ### Rings (R249 to R251) -/

/-- Fields of a ring-table entry (R249). -/
def rgV (w : Word) : Bool := bits w 0 1 == 1
def rgEsem (w : Word) : Nat := bits w 16 8
def rgFsem (w : Word) : Nat := bits w 24 8
def rgFirst (w : Word) : Nat := bits w 32 8
def rgLen (w : Word) : Nat := bits w 40 8
def rgPcur (w : Word) : Nat := bits w 48 8
def rgCcur (w : Word) : Nat := bits w 56 8

/-- One half of a ring field is legal (R250). -/
def ringHalfOk (c : Core) (ring count : Nat) : Bool :=
  if ring = 0xFF then count == 0
  else ring < 32 && rgV (ringEntry c ring) && 1 ≤ count && count ≤ 8 && count ≤ rgLen (ringEntry c ring)

/-- The ring field is legal, and every basket-set layout has its ring (R250). -/
def ringOk (c : Core) (f : Word) (ins outs : List Layout) : Bool :=
  bits f 32 32 == 0 && ringHalfOk c (bits f 0 8) (bits f 8 8) && ringHalfOk c (bits f 16 8) (bits f 24 8) &&
    (bits f 0 8 != 0xFF || ins.all fun l => l.sp != 2) && (bits f 16 8 != 0xFF || outs.all fun l => l.sp != 2)

/-- The rings a ring field names. -/
def ringsNamed (f : Word) : List Nat :=
  (if bits f 0 8 < 32 then [bits f 0 8] else []) ++ (if bits f 16 8 < 32 then [bits f 16 8] else [])

/-- A ring entry is named by a queued or running operation (R249). -/
def ringBusy (c : Core) (i : Nat) : Bool := c.engs.any fun e => e.2.any fun o => o.rings.any (·.1 == i)

/-- The baskets from a cursor onward, modulo the ring's length (R251). -/
def ringBaskets (e : Word) (cur n : Nat) : List Nat :=
  (List.range n).map fun k => rgFirst e + (cur + k) % max 1 (rgLen e)

/-- A semaphore's count (R208). -/
def semAt (c : Core) (i : Nat) : Nat := mget 0 c.sems i

/-- Note a semaphore change of this cycle (R210). -/
def semOp (c : Core) (o : SemOp) : Core := { c with semOps := c.semOps ++ [o] }

/-- The rings of an operation with their input and output counts, from its ring field. -/
def ringField (k : EngKind) (sh : List Word) : Word :=
  match k with
  | .cpGo | .cpGath | .cpScat _ | .cpFill | .cpChk _ => sh.getD 13 0
  | .mxGo _ | .mxWload | .mxDrain _ _ => sh.getD 15 0
  | .fsSend | .fsPost _ | .rwinAdd => sh.getD 13 0
  | _ => 0xFF00FF

/-- Takes already noted this cycle from semaphore i, which leave less for another. -/
def takesNoted (c : Core) (i : Nat) : Nat :=
  c.semOps.foldl (fun n o => match o with | .take j k => if j = i then n + k else n | .set _ _ | .inc _ _ => n) 0

/-- A fire's ring conditions hold: the counts, and every basket to take in its expected state with NEXT permitting the
holder (R251). -/
def ringsReady (c : Core) (t : Nat) (o : EngOp) : Bool :=
  let f := ringField o.kind o.shape
  let half (r n st : Nat) (sem cur : Word → Nat) : Bool :=
    r == 0xFF ||
      (let e := ringEntry c r
       decide (n + takesNoted c (sem e) ≤ semAt c (sem e)) &&
         (ringBaskets e (cur e) n).all fun b => bkSt (basket c b) == st && (bkNext (basket c b) == t || bkNext (basket c b) == 14))
  half (bits f 0 8) (bits f 8 8) 2 rgFsem rgCcur && half (bits f 16 8) (bits f 24 8) 0 rgEsem rgPcur

/-- Fire: take the counts and the baskets, set their holder, move the cursors (R251). Taking a basket acquires its
last transition (R159, R175); the operation's q is at least its issue time. -/
def fireRings (s : State) (k t : Nat) (o : EngOp) : State × EngOp :=
  let f := ringField o.kind o.shape
  let takeHalf (c : Core) (r n st : Nat) (sem cur : Word → Nat) (lo : Nat) : Core × List Nat :=
    if r = 0xFF then (c, [])
    else
      let e := ringEntry c r
      let bs := ringBaskets e (cur e) n
      let c := bs.foldl (fun c b => setBasket c b (bkMove (basket c b) st t 14)) (semOp c (.take (sem e) n))
      ({ c with ringTab := mset c.ringTab r (setBits e lo 8 ((cur e + n) % max 1 (rgLen e))) }, bs)
  let c0 := coreAt s k
  let (c1, ins) := takeHalf c0 (bits f 0 8) (bits f 8 8) 3 rgFsem rgCcur 56
  let (c2, outs) := takeHalf c1 (bits f 16 8) (bits f 24 8) 1 rgEsem rgPcur 48
  let q := (ins ++ outs).foldl (fun q b => max q (mget 0 c0.bkTimes b)) o.q
  let o := { o with fired := true, inB := ins, outB := outs, q := q }
  (setCore s k (setOp c2 t o), o)

/-- A basket transition by its holder: full when it was filling, free when it was draining; the ring's semaphore
follows (R159, R220). -/
def closeBasket (now : Nat) (c : Core) (b next : Nat) : Core :=
  let w := basket c b
  let filling := bkSt w == 1
  let c := setBasket c b (bkMove w (if filling then 2 else 0) 15 next)
  let c := { c with bkTimes := mset c.bkTimes b now }
  if bkRing w = 0xFF then c
  else
    let e := ringEntry c (bkRing w)
    semOp c (.inc (if filling then rgFsem e else rgEsem e) 1)

/-! ### Accesses of an engine -/

/-- Why an operation's step stopped. -/
inductive Halt where
  /-- An access of a kind has failed (R165). -/
  | fault (b : Bad) (addr : Word) (kind : Nat)
  /-- A request has gone to another die and its reply is awaited. -/
  | ask
  /-- A bank lock or a retraining bus holds the access (R222, R406), or a frame has no landing slot. -/
  | wait
  /-- The boundary converter's residue check has failed for a tile at a K block (R68). -/
  | residue (tile block : Nat)
  deriving DecidableEq, Repr

/-- The run of one step: the state, what its accesses gave before it last stopped and have still to give again, what they
have given so far (the latest first), why it stopped. -/
structure Run where
  s    : State
  todo : List (List Byte × Bool)
  log  : List (List Byte × Bool)
  stop : Option Halt
  deriving DecidableEq, Repr

/-- The lanes a vertical bus is due on, before it has run (R406). -/
def vbusAt (s : State) (p : Nat) : Vbus := mget { due := p * 125000, ends := none } s.vbus p

/-- A bank lock of a core other than `own` names the bank of a scratchpad byte, or the position's bus is retraining
(R222, R406). -/
def bankHeld (s : State) (own : Option Nat) (p : Phys) : Bool :=
  p.sp &&
    ((vbusAt s (p.a / 0x200000)).ends.isSome ||
      s.cores.any fun e =>
        some e.1 != own && (match e.2.lock with
          | some l =>
            let x := ctxAt s (keyCtx e.1)
            x.resident && corePos s x.checked (keyCore e.1) == p.a / 0x200000 &&
              (List.range 32).any fun i => l.mask.getLsbD i &&
                (ownedBanks s x.checked (keyCore e.1))[i]? == some (p.a % 0x200000 / 65536)
          | none => false))

/-- Some located byte of an access is held (R222, R406). -/
def accessHeld (s : State) (own : Option Nat) (k : Nat) (sp : Bool) (addr : Word) (op : MemOp) : Bool :=
  match locateAny s k sp addr (memLen op) (memKind op) with
  | .ok (ps, _) => ps.any fun p => bankHeld s own p.1
  | .error _ => false

/-- The agent of an engine's accesses (R176). -/
def engWho (s : State) (k t : Nat) (o : EngOp) : Who :=
  { agent := agentId 1 s.port.rank (keyCore k) t, q := o.q, rx := false, edge := o.edge }

/-- The agent of an engine's accesses at other dies, whose tags know nothing of what its task did here: where the command's edge came
after its issue, its acquire time there is that of the edge (R170, R175; DESIGN CHOICE [31]). -/
def farWho (s : State) (k t : Nat) (o : EngOp) : Who :=
  { engWho s k t o with q := if o.from_ ≤ o.q + 1 then o.q else max o.q o.from_, edge := [] }

/-- The channel of a request by its operation (R289, R315). -/
def vcOf : MemOp → Fin 4
  | .load _ _ => 0
  | .atomic _ _ _ _ => 0
  | .store _ _ => 2
  | .storeM _ => 2
  | .mop _ _ _ _ _ => 2
  | .fetchAdd _ _ => 0
  | .taskDec => 2
  | .taskPost _ => 2

/-- The reply stream of an engine's own element accesses: 20 + t. -/
def engStream (t : Nat) : Nat := 20 + t

/-- A landing slot for the response to an engine's own access of another die (R294): from the pool of its stream, which for the
equivalence engine is that of the die unit. The manual names the streams of t5 to t8, t11 and t12 only: those of the other timelines have
a pool of the same size (DESIGN CHOICE [112]). -/
def takeEngine (s : State) (k t : Nat) : Option State := if t = 10 then takeUnit s 2 else takeSlots s k t 1

/-- The slot is free again: the response has landed. -/
def freeEngine (s : State) (k t : Nat) : State := if t = 10 then freeUnit s 2 else freeSlots s k t 1

/-- An access of core k's engines has been performed: it resets the livelock count of its own fault (R165). -/
def performedAt (s : State) (k : Nat) (addr : Word) (op : MemOp) : State :=
  onCore s k fun c => clearLivelockOp c addr op

/-- A run in which an operation's step begins, or goes on. -/
def Run.start (s : State) (o : EngOp) : Run := { s := s, todo := o.log, log := [], stop := none }

/-- What the step's accesses have given, for the operation that keeps it. -/
def Run.kept (r : Run) : List (List Byte × Bool) := r.log.reverse ++ r.todo

/-- Stop a run, unless it has stopped already. -/
def Run.halt (r : Run) (h : Halt) : Run := if r.stop.isSome then r else { r with stop := some h }

/-- An access of the step has been performed. -/
def Run.got (r : Run) (s : State) (x : List Byte × Bool) : Run := { r with s := s, log := x :: r.log }

/-- One access of an engine operation to a scratchpad offset or a global address (R245): its bytes and whether they
were poisoned. What the step has already accessed is not accessed again. -/
def engAccess (r : Run) (k t : Nat) (o : EngOp) (sp : Bool) (addr : Word) (op : MemOp) : Run × List Byte × Bool :=
  let none_ : List Byte := List.replicate (memLen op) 0
  if r.stop.isSome then (r, none_, false)
  else
    let fail (b : Bad) : Run × List Byte × Bool := ({ r with stop := some (.fault b addr (memKind op).code) }, none_, false)
    let here : Run × List Byte × Bool :=
      if accessHeld r.s none k sp addr op then ({ r with stop := some .wait }, none_, false)
      else
        match performMem r.s k (engWho r.s k t o) sp addr op with
        | .error b => fail b
        | .ok (s', g) =>
          let bs := if g.poison then (List.range g.bytes.length).map fun i => Config.poisonByte (addr.toNat + i) else g.bytes
          (r.got (performedAt s' k addr op) (bs, g.poison), bs, g.poison)
    match r.todo with
    | x :: rest => ({ r with s := performedAt r.s k addr op, todo := rest, log := x :: r.log }, x)
    | [] =>
      if sp then here
      else if !canonical addr then fail (Bad.trans 5)
      else if !(ctxAt r.s (keyCtx k)).members.contains (ownerOf addr) then
        fail { code := 7, sub := 7, gran := 0, agent := 0, time := 0 }
      else if ownerOf addr = r.s.port.rank then here
      else
        match takeEngine r.s k t with
        | none => ({ r with stop := some .wait }, none_, false)
        | some s =>
          match sendBody s (keyCtx k) (vcOf op) false (ownerOf addr)
              (.mem (farWho s k t o) { core := k, stream := engStream t, id := o.n } none addr op) with
          | some s' => ({ r with s := s', stop := some .ask }, none_, false)
          | none => fail { code := 7, sub := 12, gran := 0, agent := 0, time := 0 }

/-- Where a layout's byte address lies: a scratchpad offset or a global address; none outside the basket set (R251). -/
def layoutPlace (c : Core) (bs : List Nat) (l : Layout) (a : Word) : Option (Bool × Word) :=
  if l.sp = 0 then some (false, a)
  else if l.sp = 1 then some (true, a)
  else
    let size := bkSize (basket c (bs.headD 0))
    match bs[a.toNat / max 1 size]? with
    | some b => if size = 0 then none else some (true, BitVec.ofNat 64 (bkOff (basket c b) + a.toNat % size))
    | none => none

/-- One access of an operation through a layout (R248, R251). -/
def layoutAccess (r : Run) (k t : Nat) (o : EngOp) (bs : List Nat) (l : Layout) (a : Word) (op : MemOp) :
    Run × List Byte × Bool :=
  match layoutPlace (coreAt r.s k) bs l a with
  | some (sp, x) => engAccess r k t o sp x op
  | none =>
    if r.stop.isSome then (r, List.replicate (memLen op) 0, false)
    else ({ r with stop := some (.fault (Bad.trans 6) a (memKind op).code) }, List.replicate (memLen op) 0, false)

/-- Read element (R, C) of a layout (R248): its pattern and whether it was poisoned. -/
def readElem (r : Run) (k t : Nat) (o : EngOp) (bs : List Nat) (l : Layout) (y x : Int) : Run × Nat × Bool :=
  if l.inside y x then
    let (r, b, p) := layoutAccess r k t o bs l (l.addr y x) (.load l.eb false)
    let v := leNat b
    (r, if l.ew = 0 then (if x % 2 = 0 then v % 16 else v / 16) else v, p)
  else (r, l.fillElem, false)

/-- Write element (R, C) of a layout; one outside the view is not written (R248). -/
def writeElem (r : Run) (k t : Nat) (o : EngOp) (bs : List Nat) (l : Layout) (y x : Int) (v : Nat) : Run :=
  if l.inside y x then
    if l.ew = 0 then
      let (r, b, _) := layoutAccess r k t o bs l (l.addr y x) (.load 1 false)
      let w := leNat b
      let w := if x % 2 = 0 then w / 16 * 16 + v % 16 else w % 16 + v % 16 * 16
      (layoutAccess r k t o bs l (l.addr y x) (.store (leBytes 1 w) false)).1
    else (layoutAccess r k t o bs l (l.addr y x) (.store (leBytes l.eb v) false)).1
  else r

/-- Add to element (R, C) at the memory side, as mop.add (R205, R257, R267). -/
def addElemAt (r : Run) (k t : Nat) (o : EngOp) (bs : List Nat) (l : Layout) (y x : Int) (flt : Bool) (v : Nat) : Run :=
  if l.inside y x then
    (layoutAccess r k t o bs l (l.addr y x) (.mop .add (if flt then .flt else .nat) 4 (BitVec.ofNat 64 v) 0)).1
  else r

/-- The 64 elements from (R, C) along the block axis lie outside the view. -/
def blockOutside (l : Layout) (y x : Int) : Bool :=
  (List.range 64).all fun j => !(if l.bax = 0 then l.inside y (x + j) else l.inside (y + j) x)

/-- The scale byte of the block at (R, C): 0 when the whole block lies outside the view (R248). -/
def readScale (r : Run) (k t : Nat) (o : EngOp) (bs : List Nat) (l : Layout) (y x : Int) : Run × Nat :=
  if blockOutside l y x then (r, 0)
  else
    let (r, b, _) := layoutAccess r k t o bs l (l.scaleAddr y x) (.load 1 false)
    (r, leNat b)

/-- Write the scale byte of the block at (R, C). -/
def writeScale (r : Run) (k t : Nat) (o : EngOp) (bs : List Nat) (l : Layout) (y x : Int) (v : Nat) : Run :=
  if blockOutside l y x then r else (layoutAccess r k t o bs l (l.scaleAddr y x) (.store (leBytes 1 v) false)).1

/-- Read n elements along a row or a column. -/
def readSpan (k t : Nat) (o : EngOp) (bs : List Nat) (l : Layout) (y x : Int) (down : Bool) :
    Nat → Run → Run × List Nat
  | 0, r => (r, [])
  | n + 1, r =>
    let (r, v, _) := readElem r k t o bs l y x
    let (r, vs) := readSpan k t o bs l (if down then y + 1 else y) (if down then x else x + 1) down n r
    (r, v :: vs)

/-- Write elements along a row. -/
def writeSpan (k t : Nat) (o : EngOp) (bs : List Nat) (l : Layout) (y x : Int) : List Nat → Run → Run
  | [], r => r
  | v :: vs, r => writeSpan k t o bs l y (x + 1) vs (writeElem r k t o bs l y x v)

/-- The exception or fault of an engine operation as a report to its core (R165, R178, R245). -/
def engReport (s : State) (k t : Nat) (o : EngOp) (b : Bad) (addr : Word) (kind : Nat) : State :=
  onCore s k fun c =>
    let a := if b.code = 5 then BitVec.ofNat 64 b.gran else b.at_.getD addr
    addReport c { code := b.code, sub := b.sub, addr := a, agent := BitVec.ofNat 25 b.agent, time := b.time, eng := true, tl := t, obj := 0, epc := o.epc, kind := kind
                  slot := o.slot, stg := o.stg, need := if b.code = 3 then [localOf addr / 32768, localOf a / 32768].dedup else [] }

/-- A residue check has failed (R68, R240): OBJ names the tile, TVAL the K block. The CP re-runs the operation from that block
once; a second failure at the same tile and block is forwarded. -/
def residueStop (s : State) (k t : Nat) (o : EngOp) (tile block : Nat) : State :=
  onCore (countErr s 2) k fun c =>
    let again := c.residue == some (t, tile, block)
    { c with
      residue := if again then none else some (t, tile, block)
      faulty := none
      reports := c.reports ++ [{ code := 8, sub := 1, addr := BitVec.ofNat 64 block, agent := 0, time := 0, eng := true, tl := t
                                 obj := tile, epc := o.epc, kind := 0, slot := o.slot, stg := o.stg, retry := !again }] }

/-- Run an operation's steps from its position to `total` (R245): `step` runs one, and gives the carried words. The
operation is saved at the access that stops it; it has ended when none does. -/
def runSteps (k t : Nat) (step : EngOp → Run → Run × List Word) : Nat → State → EngOp → State
  | 0, s, o => onCore s k fun c => setOp c t { o with ended := true }
  | n + 1, s, o =>
    let (r, aux) := step o (Run.start s o)
    match r.stop with
    | none => runSteps k t step n r.s { o with pos := o.pos + 1, aux := aux, log := [] }
    | some (.fault b a kd) =>
      engReport (onCore r.s k fun c => setOp c t { o with await := 2, log := r.kept }) k t o b a kd
    | some .ask => onCore r.s k fun c => setOp c t { o with await := 1, log := r.kept }
    | some .wait => onCore r.s k fun c => setOp c t { o with log := r.kept }
    | some (.residue tile block) =>
      residueStop (onCore r.s k fun c => setOp c t { o with await := 2, log := [] }) k t o tile block

end Sys2Proof.Machine
end

