-- ==== Sys2Proof/Machine/Copy.lean ====
section
/-! DEFINITION. The copy engine: its shape register and loop table (R252, R253), the bodies of its five operations
(R254 to R258), and the table instructions cp.tabw and cp.tabr (R249, R253). -/

namespace Sys2Proof.Machine

/-- A copy loop-table entry: trip count, source and destination steps (R253). -/
structure CopyLoop where
  cnt : Nat
  sdr : Int
  sdc : Int
  ddr : Int
  ddc : Int
  deriving DecidableEq, Repr

/-- Decode a copy loop-table entry. -/
def copyLoop (x : BitVec 128) : CopyLoop where
  cnt := rbits x 96 16 + 1
  sdr := sextNat 16 (rbits x 80 16)
  sdc := sextNat 16 (rbits x 64 16)
  ddr := sextNat 16 (rbits x 48 16)
  ddc := sextNat 16 (rbits x 32 16)

/-- Fields of F12 of a copy shape register (R252). -/
def cpAty (f : Word) : Bool := bits f 41 1 == 1
def cpConv (f : Word) : Nat := bits f 36 4
def cpNlv (f : Word) : Nat := bits f 33 3
def cpLt0 (f : Word) : Nat := bits f 24 6
def cpTw (f : Word) : Nat := bits f 8 16 + 1
def cpTh (f : Word) : Nat := bits f 0 8 + 1

/-- Reserved bits of F12 to F15 (R250, R252). -/
def cpReserved (sh : List Word) : Bool :=
  bits (sh.getD 12 0) 42 22 != 0 || bits (sh.getD 12 0) 40 1 != 0 || bits (sh.getD 12 0) 30 3 != 0 ||
    bits (sh.getD 13 0) 32 32 != 0 || bits (sh.getD 14 0) 32 32 != 0 || sh.getD 15 0 != 0

/-- The conversions of R255: source and destination element widths. -/
def convPair (conv sew dew : Nat) : Bool :=
  match conv with
  | 0 => sew == dew
  | 1 => sew == 3 && dew == 2
  | 2 => sew == 2 && dew == 3
  | 3 | 4 | 7 | 9 => sew == 3 && dew == 1
  | 5 | 6 => sew == 1 && dew == 3
  | 8 => sew == 2 && dew == 2
  | _ => false

/-- Convert one element (R255); `scale` is AUX. -/
def convCopy (conv : Nat) (fp8sat : Bool) (scale x : Nat) : Nat :=
  match conv with
  | 1 => (bf16.conv .rne false (fp32.decode x)).1
  | 2 => (fp32.conv .rne false (bf16.decode x)).1
  | 3 => (e4m3.conv .rne fp8sat (fp32.decode x)).1
  | 4 => (e5m2.conv .rne fp8sat (fp32.decode x)).1
  | 5 => (fp32.conv .rne false (e4m3.decode x)).1
  | 6 => (fp32.conv .rne false (e5m2.decode x)).1
  | 9 => (drainElem false fp8sat scale 6 x).1
  | _ => x

/-- Loop-table entries LT0 to LT0 + NLV - 1. -/
def copyLoops (c : Core) (f : Word) : List (BitVec 128) :=
  (List.range (cpNlv f)).map fun l => mget 0 c.loopTab (cpLt0 f + l)

/-- [a, a + n) meets the destination of a window descriptor (R303). -/
def windowMeets (d : BitVec 256) (a : Word) (n : Nat) : Bool :=
  let base := rbits d 192 64
  decide (a.toNat < base + rbits d 0 11 * 256 ∧ base < a.toNat + n)

/-- An address of context x in a registered reduction window (R206, R257): one homed here, or one for which this die holds a
seam's record. Of an address of another die that neither decides, the windows that die holds decide: they are no state of this die,
and what they say is a free value [20]. -/
def inWindow (s : State) (x : Nat) (a : Word) (n : Nat) : Bool :=
  (s.port.windows.any fun w => match w.2 with
    | some v => v.ctx == x && windowMeets v.desc a n
    | none => false) ||
    (s.port.seams.any fun m => m.ctx == x && windowMeets m.desc a n) ||
    (ownerOf a != s.port.rank && Config.farWindow s.time x a.toNat)

/-- Reserved fields and illegal operands of a copy command (R244, R252 to R258). -/
def cpIllegal (c : Core) (k : EngKind) (sh : List Word) : Bool :=
  let f := sh.getD 12 0
  let src := layoutAt sh 0
  let dst := layoutAt sh 4
  let ix := layoutAt sh 8
  let ls := (copyLoops c f).map copyLoop
  let common := cpReserved sh || cpNlv f == 7 || 64 < cpLt0 f + cpNlv f
  let block := (cpConv f == 7 || cpConv f == 8) &&
    (dst.bax != 0 || cpTw f % 64 != 0 || dst.col0 % 64 != 0 || ls.any fun l => l.ddc % 64 != 0)
  match k with
  | .cpGo => common || src.bad || dst.bad || !convPair (cpConv f) src.ew dst.ew || block
  | .cpGath => common || src.bad || dst.bad || ix.bad || ix.ew != 3 || !convPair (cpConv f) src.ew dst.ew || block
  | .cpScat add =>
    common || src.bad || dst.bad || ix.bad || ix.ew != 3 ||
      (if add then cpConv f != 0 || src.ew != 3 || dst.ew != 3 else !convPair (cpConv f) src.ew dst.ew || block)
  | .cpFill => common || dst.bad
  | .cpChk _ => common || src.bad || dst.bad || src.ew == 0 || dst.sp == 2
  | _ => false

/-- The layouts a copy command reads and writes. -/
def cpLayouts (k : EngKind) (sh : List Word) : List Layout × List Layout :=
  match k with
  | .cpGo => ([layoutAt sh 0], [layoutAt sh 4])
  | .cpGath | .cpScat _ => ([layoutAt sh 0, layoutAt sh 8], [layoutAt sh 4])
  | .cpFill => ([], [layoutAt sh 4])
  | .cpChk _ => ([layoutAt sh 0], [])
  | _ => ([], [])

/-- Tests of a copy command (R244): illegal operands, alignment, rings, a scatter-add into a window. -/
def cpTests (s : State) (k : EngKind) (h c : Nat) (sw : Bool) : Tests :=
  let x := curCore s
  let sh := capturedShape x (4 + h) sw
  let ls := cpLayouts k sh
  let dst := layoutAt sh 4
  { opnd := engIllegal (cpIllegal x k sh)
    align := (layoutAlign (ls.1 ++ ls.2)).or (match k with
      | .cpChk _ => failIf (dst.base.toNat % 8 != 0) { Cause.precise 0x02 1 slotEN with tval := dst.base }
      | _ => none)
    dom := firstFail [engIllegal (!ringOk x (sh.getD 13 0) ls.1 ls.2),
      failIf (k == .cpScat true && dst.sp == 0 && inWindow s (keyCtx s.cur) dst.base 1)
        { Cause.precise 0x07 11 slotEN with tval := dst.base }]
    hold := fullHold x c
    ents := 0 }

/-- Issue a copy command (R243): swap, capture, queue. -/
def cpIssue (s : State) (i : Instr) (k : EngKind) (h c : Nat) (sw : Bool) : Host.Outcome State Fault Refusal :=
  issue s slotEN i (cpTests s k h c sw) fun s =>
    let sh := capturedShape (curCore s) (4 + h) sw
    popsOf (pushOp (onCur s fun x => swapShape x (4 + h) sw) c k sh (copyLoops (curCore s) (sh.getD 12 0))
      (ringsNamed (sh.getD 13 0))) i

/-- cp.go (R256). -/
def execCpGo (h c : Fin 4) (w : Bool) (s : State) : Host.Outcome State Fault Refusal :=
  cpIssue s (.cpGo h c w) .cpGo h c w

/-- cp.gath (R256). -/
def execCpGath (h c : Fin 4) (w : Bool) (s : State) : Host.Outcome State Fault Refusal :=
  cpIssue s (.cpGath h c w) .cpGath h c w

/-- cp.scat, with x the add form (R256, R257). -/
def execCpScat (h c : Fin 4) (w x : Bool) (s : State) : Host.Outcome State Fault Refusal :=
  cpIssue s (.cpScat h c w x) (.cpScat x) h c w

/-- cp.fill (R256). -/
def execCpFill (h c : Fin 4) (w : Bool) (s : State) : Host.Outcome State Fault Refusal :=
  cpIssue s (.cpFill h c w) .cpFill h c w

/-- cp.chk, with x the compare form (R258). -/
def execCpChk (h c : Fin 4) (w x : Bool) (s : State) : Host.Outcome State Fault Refusal :=
  cpIssue s (.cpChk h c w x) (.cpChk x) h c w

/-! ### Running a copy operation -/

/-- The digits of an ordinal in mixed radix, outermost first (R254). -/
def digits : List Nat → Nat → List Nat
  | [], _ => []
  | c :: r, k => (k / r.foldl (· * ·) 1 % c) :: digits r k

/-- The sum of digit × step over the levels. -/
def stepSum {α : Type} (ns : List Nat) (ls : List α) (f : α → Int) : Int :=
  (List.zipWith (fun (n : Nat) l => (n : Int) * f l) ns ls).foldl (· + ·) 0

/-- Steps of one tile row: its elements, or blocks of 64 under CONV 7 and 8, after one index read for cp.gath and
cp.scat. -/
def cpRowSteps (k : EngKind) (f : Word) : Nat :=
  let blocks := cpConv f == 7 || cpConv f == 8
  match k with
  | .cpGath => 1 + (if blocks then cpTw f / 64 else cpTw f)
  | .cpScat add => 1 + (if blocks && !add then cpTw f / 64 else cpTw f)
  | .cpGo => if blocks then cpTw f / 64 else cpTw f
  | _ => cpTw f

/-- Steps of a copy operation: every body's rows, and the record of cp.chk. -/
def cpSteps (o : EngOp) : Nat :=
  let f := o.shape.getD 12 0
  let bodies := ((o.loops.map copyLoop).map CopyLoop.cnt).foldl (· * ·) 1
  bodies * cpTh f * cpRowSteps o.kind f + (match o.kind with | .cpChk _ => 1 | _ => 0)

/-- Count an out-of-range row of context t (R257, R259). -/
def countOob (s : State) (k t : Nat) : State :=
  onCore s k fun c =>
    let n := min (2 ^ 32 - 1) ((c.csr.cpoob.getD t 0).toNat + 1)
    { c with csr := { c.csr with cpoob := listSet c.csr.cpoob t (BitVec.ofNat 64 n) } }

/-- Move a block of 64 elements under CONV 7 or 8 (R255): mantissas, then the scale byte. -/
def cpBlock (r : Run) (k t : Nat) (o : EngOp) (src dst : Layout) (conv : Nat) (fill : Bool) (sy sx dy dx : Int) : Run :=
  let (r, xs) := if fill then (r, List.replicate 64 src.fillElem) else readSpan k t o o.inB src sy sx false 64 r
  let b := if conv = 7 then (bx8Block xs).1 else importBlock xs
  let r := writeSpan k t o o.outB dst dy dx (b.mant.map fun q => (q % 65536).toNat % 2 ^ (8 * dst.eb)) r
  writeScale r k t o o.outB dst dy dx b.scale

/-- One step of a copy operation (R256 to R258). `aux` carries the row's index and whether it is out of range, or the
checksum. -/
def cpStep (k t : Nat) (o : EngOp) (r : Run) : Run × List Word :=
  let f := o.shape.getD 12 0
  let src := layoutAt o.shape 0
  let dst := layoutAt o.shape 4
  let ixl := layoutAt o.shape 8
  let ls := o.loops.map copyLoop
  let rs := cpRowSteps o.kind f
  let conv := cpConv f
  let scale := bits (o.shape.getD 14 0) 0 32
  let row := o.pos / rs
  let body := row / cpTh f
  let i : Int := (row % cpTh f : Nat)
  let col := o.pos % rs
  let ns := digits (ls.map CopyLoop.cnt) body
  let sr := src.row0 + stepSum ns ls CopyLoop.sdr
  let sc := src.col0 + stepSum ns ls CopyLoop.sdc
  let dr := dst.row0 + stepSum ns ls CopyLoop.ddr
  let dc := dst.col0 + stepSum ns ls CopyLoop.ddc
  let blocks := conv == 7 || conv == 8
  let index (limit : Nat) : Run × List Word :=
    let y := ixl.row0 + (body * cpTh f : Nat) + i
    let (r, x, p) := readElem r k t o o.inB ixl y ixl.col0
    let bad := !ixl.inside y ixl.col0 || p || decide (limit ≤ x)
    let r := if bad && r.stop.isNone then { r with s := countOob r.s k t } else r
    (r, [BitVec.ofNat 64 x, if bad then 1 else 0])
  match o.kind with
  | .cpGo =>
    if blocks then
      let j : Int := (64 * col : Nat)
      (cpBlock r k t o src dst conv false (sr + i) (sc + j) (dr + i) (dc + j), o.aux)
    else
      let (r, v, _) := readElem r k t o o.inB src (sr + i) (sc + col)
      (writeElem r k t o o.outB dst (dr + i) (dc + col) (convCopy conv o.fp8sat scale v), o.aux)
  | .cpGath =>
    if col = 0 then index src.vh
    else
      let x : Int := (o.aux.getD 0 0).toNat
      let oob := o.aux.getD 1 0 == 1
      if blocks then
        let j : Int := (64 * (col - 1) : Nat)
        (cpBlock r k t o src dst conv oob x (sc + j) (dr + i) (dc + j), o.aux)
      else
        let j : Int := (col - 1 : Nat)
        let (r, v) := if oob then (r, src.fillElem) else
          let q := readElem r k t o o.inB src x (sc + j)
          (q.1, q.2.1)
        (writeElem r k t o o.outB dst (dr + i) (dc + j) (convCopy conv o.fp8sat scale v), o.aux)
  | .cpScat add =>
    if col = 0 then index dst.vh
    else
      let x : Int := (o.aux.getD 0 0).toNat
      if o.aux.getD 1 0 == 1 then (r, o.aux)
      else if blocks && !add then
        let j : Int := (64 * (col - 1) : Nat)
        (cpBlock r k t o src dst conv false (sr + i) (sc + j) x (dc + j), o.aux)
      else
        let j : Int := (col - 1 : Nat)
        let (r, v, _) := readElem r k t o o.inB src (sr + i) (sc + j)
        if add then (addElemAt r k t o o.outB dst x (dc + j) (cpAty f) v, o.aux)
        else (writeElem r k t o o.outB dst x (dc + j) (convCopy conv o.fp8sat scale v), o.aux)
  | .cpFill => (writeElem r k t o o.outB dst (dr + i) (dc + col) dst.fillElem, o.aux)
  | .cpChk cmp =>
    let crc := match o.aux with | x :: _ => x.toNat | [] => 0xFFFFFFFF
    if o.pos + 1 = cpSteps o then
      let v := crc ^^^ 0xFFFFFFFF
      let w := v + (if cmp then 2 ^ 33 + (if v ≠ scale then 2 ^ 32 else 0) else 0)
      ((layoutAccess r k t o o.outB dst dst.base (.store (leBytes 8 w) false)).1, o.aux)
    else
      let (r, v, _) := readElem r k t o o.inB src (sr + i) (sc + col)
      (r, [BitVec.ofNat 64 ((leBytes src.eb v).foldl crcByte crc)])
  | _ => (r, o.aux)

/-! ### Table instructions -/

/-- Return an interlocked result that is known at issue (R93). -/
def pushReturn (s : State) (d : Dest) (v : Val) : State :=
  onCur s fun c =>
    let c := reserve (overtake c d) d
    { c with rets := c.rets ++ [{ id := c.issued + 1, dest := d, dead := false, val := v }], issued := c.issued + 1 }

/-- A loop-table source from a register pair. -/
def pairValue (c : Core) (b : Nat) : BitVec 128 := (readG c (b + 1)).append (readG c b)

/-- cp.tabw.l (R253). -/
def execCpTabwL (a b : Fin 64) (s : State) : Host.Outcome State Fault Refusal :=
  let c := curCore s
  let v := pairValue c b
  let bad := bits (readG c a) 6 58 != 0 || rbits v 112 16 != 0 || rbits v 0 32 != 0
  issue s slotEN (.cpTabwL a b) { noTests with opnd := engIllegal bad } fun s =>
    popsOf (onCur s fun c => { c with loopTab := mput 0 c.loopTab (readG c a).toNat v }) (.cpTabwL a b)

/-- The ring source is illegal (R249). -/
def ringSourceBad (c : Core) (i : Nat) (w : Word) : Bool :=
  bits w 48 16 != 0 || bits w 1 15 != 0 || ringBusy c i ||
    (rgV w &&
      (rgLen w == 0 || decide (256 < rgFirst w + rgLen w) ||
        (List.range (rgLen w)).any fun k =>
          let b := basket c (rgFirst w + k)
          bkRing b != i || bkSize b == 0 || bkSize b != bkSize (basket c (rgFirst w))))

/-- cp.tabw.r (R249): the cursors become 0. -/
def execCpTabwR (a b : Fin 64) (s : State) : Host.Outcome State Fault Refusal :=
  let c := curCore s
  let bad := bits (readG c a) 5 59 != 0 || ringSourceBad c (bits (readG c a) 0 5) (readG c b)
  issue s slotEN (.cpTabwR a b) { noTests with opnd := engIllegal bad } fun s =>
    popsOf (onCur s fun c => { c with ringTab := mput 0 c.ringTab (readG c a).toNat (readG c b) }) (.cpTabwR a b)

/-- cp.tabr.l (R253): the low or (`h`) the high half of a loop-table entry. -/
def execCpTabrL (a b : Fin 64) (h : Bool) (s : State) : Host.Outcome State Fault Refusal :=
  let c := curCore s
  issue s slotEN (.cpTabrL a b h) { noTests with opnd := engIllegal (bits (readG c a) 6 58 != 0) } fun s =>
    let c := curCore s
    let v := mget 0 c.loopTab (readG c a).toNat
    popsOf (pushReturn s (destG c b) (.s (BitVec.ofNat 64 (rbits v (if h then 64 else 0) 64)))) (.cpTabrL a b h)

/-- cp.tabr.r (R253): a ring-table entry with its cursors. -/
def execCpTabrR (a b : Fin 64) (s : State) : Host.Outcome State Fault Refusal :=
  let c := curCore s
  issue s slotEN (.cpTabrR a b) { noTests with opnd := engIllegal (bits (readG c a) 5 59 != 0) } fun s =>
    let c := curCore s
    popsOf (pushReturn s (destG c b) (.s (ringEntry c (readG c a).toNat))) (.cpTabrR a b)

end Sys2Proof.Machine
end

