-- ==== Sys2Proof/Machine/Matrix.lean ====
section
/-! DEFINITION. The matrix engine: format table, loop table and shape register (R74, R75, R260, R261), the nest of mx.go
(R262 to R265), 2:4 weights (R266), drain (R267), rotation (R268) and the other matrix instructions (R270). -/

namespace Sys2Proof.Machine

/-! ### Format table (R74, R75) -/

/-- Fields of a format-table entry. -/
def ftFa (e : BitVec 32) : Nat := rbits e 4 4
def ftFb (e : BitVec 32) : Nat := rbits e 8 4
def ftI32 (e : BitVec 32) : Bool := rbits e 12 4 == 9
def ftDrf (e : BitVec 32) : Nat := rbits e 20 4
def ftHad (e : BitVec 32) : Bool := rbits e 27 1 == 1

/-- An entry is valid (R75). -/
def ftValid (e : BitVec 32) : Bool :=
  rbits e 28 4 == 0 && rbits e 24 3 == 0 && rbits e 16 4 == 0 && rbits e 0 4 == 0 && ftFa e < 4 && ftFb e < 4 &&
    (if rbits e 12 4 = 4 then [0, 4, 5, 6, 7, 8].contains (ftDrf e)
     else rbits e 12 4 == 9 && [4, 6, 9].contains (ftDrf e))

/-- The unit is 64 columns wide: a rotation or BX8 drain (R262). -/
def ftWide (e : BitVec 32) : Bool := ftHad e || ftDrf e == 0

/-- EW of an operand format (R262). -/
def opEw : Nat → Nat
  | 0 => 1
  | 1 => 0
  | _ => 2

/-- EW of a drain target (R267). -/
def drainEw : Nat → Nat
  | 4 | 9 => 3
  | 5 => 2
  | _ => 1

/-! ### Loop table and shape register (R260, R261) -/

/-- A matrix loop-table entry. -/
structure MxLoop where
  cnt : Nat
  ar  : Int
  ac  : Int
  bk  : Int
  bn  : Int
  ts  : Nat
  k   : Bool
  dr  : Int
  dc  : Int
  deriving DecidableEq, Repr

/-- Decode a matrix loop-table entry. -/
def mxLoop (x : BitVec 128) : MxLoop where
  cnt := rbits x 96 16 + 1
  ar := sextNat 16 (rbits x 80 16)
  ac := sextNat 16 (rbits x 64 16)
  bk := sextNat 8 (rbits x 56 8)
  bn := sextNat 16 (rbits x 40 16)
  ts := rbits x 36 4
  k := rbits x 33 1 == 1
  dr := sextNat 16 (rbits x 16 16)
  dc := sextNat 16 (rbits x 0 16)

/-- Fields of F12 to F14 of a matrix shape register. -/
def mxWf (sh : List Word) : Nat := bits (sh.getD 12 0) 52 4
def mxSpr (sh : List Word) : Bool := bits (sh.getD 12 0) 48 1 == 1
def mxKblk (sh : List Word) : Nat := bits (sh.getD 12 0) 32 16
def mxNcol (sh : List Word) : Nat := bits (sh.getD 12 0) 16 16
def mxWbase (sh : List Word) : Nat := 256 * bits (sh.getD 12 0) 0 10
def mxGam (sh : List Word) : Nat := bits (sh.getD 13 0) 32 32
def mxT0 (sh : List Word) : Nat := bits (sh.getD 13 0) 24 4
def mxKpb (sh : List Word) : Nat := bits (sh.getD 13 0) 16 8
def mxFlv (sh : List Word) : Nat := bits (sh.getD 13 0) 8 3
def mxNlv (sh : List Word) : Nat := bits (sh.getD 13 0) 4 3
def mxLt0 (sh : List Word) : Nat := bits (sh.getD 13 0) 0 4
def mxDs (sh : List Word) : Nat := bits (sh.getD 14 0) 32 32
def mxDmode (sh : List Word) : Bool := bits (sh.getD 14 0) 3 1 == 1
def mxDrn (sh : List Word) : Bool := bits (sh.getD 14 0) 2 1 == 1
def mxAccm (sh : List Word) : Nat := bits (sh.getD 14 0) 0 2

/-- Reserved bits of F12 to F15. -/
def mxReserved (sh : List Word) : Bool :=
  bits (sh.getD 12 0) 56 8 != 0 || bits (sh.getD 12 0) 49 3 != 0 || bits (sh.getD 12 0) 10 6 != 0 ||
    bits (sh.getD 13 0) 28 4 != 0 || bits (sh.getD 13 0) 11 5 != 0 || bits (sh.getD 13 0) 7 1 != 0 ||
    bits (sh.getD 14 0) 4 28 != 0 || bits (sh.getD 15 0) 32 32 != 0

/-- Loop-table entries LT0 to LT0 + NLV - 1. -/
def mxLoops (c : Core) (sh : List Word) : List (BitVec 128) :=
  (List.range (mxNlv sh)).map fun l => mget 0 c.mxTab (mxLt0 sh + l)

/-- The units the nest of mx.go visits: first tile and format entry, without repetition (R262). -/
def mxUnits (sh : List Word) (loops : List (BitVec 128)) (fmt : List (BitVec 32)) : List (Nat × BitVec 32) :=
  let go (acc : List (Nat × Nat)) (x : Nat × MxLoop) : List (Nat × Nat) :=
    if x.2.k then acc
    else
      ((List.range (min 16 x.2.cnt)).flatMap fun n =>
        acc.map fun a => ((a.1 + n * x.2.ts) % 16, if x.1 = mxFlv sh then n else a.2)).dedup
  let ps := ((loops.map mxLoop).zipIdx.map fun x => (x.2, x.1)).foldl go [(mxT0 sh, 0)]
  ps.map fun p => (p.1, fmt.getD p.2 0)

/-- The tiles of a unit. -/
def unitTiles (t : Nat) (wide : Bool) : List Nat := if wide then [t, (t + 1) % 16] else [t]

/-- The tiles an operation names: those it reads or writes (R270). -/
def opTiles (k : EngKind) (sh : List Word) (loops : List (BitVec 128)) (fmt : List (BitVec 32)) : List Nat :=
  match k with
  | .mxGo _ => ((mxUnits sh loops fmt).flatMap fun u => unitTiles u.1 (ftWide u.2)).dedup
  | .mxDrain t e => unitTiles t (ftWide (fmt.getD e 0))
  | .mxAcc d s _ _ => [d, s]
  | .mxHad t _ => [t, (t + 1) % 16]
  | .mxZero m => (List.range 16).filter fun t => m.testBit t
  | .mxRd _ t _ => [t]
  | _ => []

/-- A tile whose PMASK bit is set is named (R134). -/
def pmaskHit (c : Core) (ts : List Nat) : Bool := ts.any fun t => c.csr.parkcfg.getLsbD t

/-! ### Validation at issue (R244, R262, R265, R267, R270) -/

/-- The drain of an entry through D is illegal (R267). -/
def drainBad (sh : List Word) (e : BitVec 32) : Bool :=
  let d := layoutAt sh 4
  d.bad || d.ew != drainEw (ftDrf e) || (ftDrf e == 0 && d.bax != 0) ||
    (mxDmode sh && ftDrf e != 4 && ftDrf e != 9)

/-- Levels out of place: NLV, LT0, K order, FLV (R262). -/
def levelsBad (sh : List Word) (ls : List MxLoop) : Bool :=
  mxNlv sh == 0 || mxNlv sh == 7 || 16 < mxLt0 sh + mxNlv sh || mxKpb sh == 0 || 16 < mxKpb sh || mxAccm sh == 3 ||
    ((ls.dropWhile fun l => !l.k).any fun l => !l.k) ||
    (mxFlv sh != 7 && (match ls[mxFlv sh]? with | some l => l.k | none => true))

/-- The failures of a matrix command's operands in order (R244): reserved fields and levels, invalid format entries,
the remaining conditions, parked tiles. -/
def mxOpnd (c : Core) (k : EngKind) (sh : List Word) (loops : List (BitVec 128)) : Option Cause :=
  let fmt := fmtAll c
  let ls := loops.map mxLoop
  let us := mxUnits sh loops fmt
  let parked := engIllegal (pmaskHit c (opTiles k sh loops fmt))
  match k with
  | .mxGo _ =>
    let a := layoutAt sh 0
    firstFail
      [engIllegal (mxReserved sh || a.bad || (mxDrn sh && (layoutAt sh 4).bad)), engIllegal (levelsBad sh ls),
       engBadFmt (us.any fun u => !ftValid u.2),
       engIllegal (a.bax != 0 || a.col0 % 64 != 0 || (ls.any fun l => l.ac % 64 != 0) ||
         (us.any fun u => a.ew != opEw (ftFa u.2)) ||
         ((us.any fun u => ftWide u.2) && (mxT0 sh % 2 == 1 || ls.any fun l => !l.k && l.ts % 2 == 1)) ||
         (mxDrn sh && us.any fun u => drainBad sh u.2)),
       parked]
  | .mxWload =>
    let w := layoutAt sh 8
    engIllegal (mxReserved sh || w.bad || 3 < mxWf sh || mxNcol sh == 0 || mxKblk sh == 0 || w.bax != 1 ||
      w.row0 % (if mxSpr sh then 32 else 64) != 0 || w.ew != opEw (mxWf sh) || (mxSpr sh && mxWf sh == 3) ||
      262144 < mxWbase sh + mxNcol sh * mxKblk sh * ((OpFmt.ofCode (mxWf sh)).bytes + 1))
  | .mxDrain t e =>
    let f := fmt.getD e 0
    firstFail [engIllegal (mxReserved sh || (layoutAt sh 4).bad), engBadFmt (!ftValid f),
      engIllegal (drainBad sh f || (ftWide f && t % 2 == 1)), parked]
  | .mxHad t _ => firstFail [engIllegal (t % 2 == 1), parked]
  | _ => parked

/-- The layouts a matrix command reads and writes. -/
def mxLayouts (k : EngKind) (sh : List Word) : List Layout × List Layout :=
  match k with
  | .mxGo _ => ([layoutAt sh 0], if mxDrn sh then [layoutAt sh 4] else [])
  | .mxWload => ([layoutAt sh 8], [])
  | .mxDrain _ _ => ([], [layoutAt sh 4])
  | _ => ([], [])

/-- Tests of a matrix command with a shape register. -/
def mxTests (s : State) (k : EngKind) (high : Bool) (sh : List Word) (loops : List (BitVec 128)) : Tests :=
  let c := curCore s
  let ls := mxLayouts k sh
  { opnd := firstFail [engIllegal high, mxOpnd c k sh loops]
    align := layoutAlign (ls.1 ++ ls.2)
    dom := engIllegal (!ringOk c (sh.getD 15 0) ls.1 ls.2)
    hold := fullHold c 4
    ents := 0 }

/-- Issue a matrix command with a shape register (R243). -/
def mxIssue (s : State) (i : Instr) (k : EngKind) (high : Bool) (h : Nat) (sw : Bool) :
    Host.Outcome State Fault Refusal :=
  let sh := capturedShape (curCore s) h sw
  let loops := match k with | .mxGo _ => mxLoops (curCore s) sh | _ => []
  issue s slotEN i (mxTests s k high sh loops) fun s =>
    popsOf (pushOp (onCur s fun x => swapShape x h sw) 4 k sh loops (ringsNamed (sh.getD 15 0))) i

/-- Issue a matrix command that names no shape register. -/
def mxPlain (s : State) (i : Instr) (k : EngKind) (high : Bool) : Host.Outcome State Fault Refusal :=
  issue s slotEN i
    { noTests with opnd := firstFail [engIllegal high, mxOpnd (curCore s) k [] []], hold := fullHold (curCore s) 4 }
    fun s => popsOf (pushOp s 4 k [] [] []) i

/-- mx.cfg (R261). -/
def execMxCfg (a b : Fin 64) (s : State) : Host.Outcome State Fault Refusal :=
  let c := curCore s
  let v := pairValue c b
  let bad := bits (readG c a) 4 60 != 0 || rbits v 112 16 != 0 || rbits v 34 2 != 0 || rbits v 32 1 != 0
  issue s slotEN (.mxCfg a b) { noTests with opnd := engIllegal bad } fun s =>
    popsOf (onCur s fun c => { c with mxTab := mput 0 c.mxTab (readG c a).toNat v }) (.mxCfg a b)

/-- mx.go, with g the GO bit (R262, R269). -/
def execMxGo (h : Fin 4) (w g : Bool) (s : State) : Host.Outcome State Fault Refusal :=
  mxIssue s (.mxGo h w g) (.mxGo g) false h w

/-- mx.wload (R265). -/
def execMxWload (h : Fin 4) (w : Bool) (s : State) : Host.Outcome State Fault Refusal :=
  mxIssue s (.mxWload h w) .mxWload false h w

/-- mx.drain (R270). -/
def execMxDrain (h : Fin 4) (a : Fin 64) (w : Bool) (s : State) : Host.Outcome State Fault Refusal :=
  let v := readG (curCore s) a
  mxIssue s (.mxDrain h a w) (.mxDrain (bits v 0 4) (bits v 4 4)) (bits v 8 56 != 0) h w

/-- mx.acc (R270). -/
def execMxAcc (a b : Fin 64) (i : Bool) (s : State) : Host.Outcome State Fault Refusal :=
  let v := readG (curCore s) a
  mxPlain s (.mxAcc a b i) (.mxAcc (bits v 0 4) (bits v 4 4) ((readG (curCore s) b).truncate 32) i) (bits v 8 56 != 0)

/-- mx.had (R268). -/
def execMxHad (a : Fin 64) (i : Bool) (s : State) : Host.Outcome State Fault Refusal :=
  let v := readG (curCore s) a
  mxPlain s (.mxHad a i) (.mxHad (bits v 0 4) i) (bits v 4 60 != 0)

/-- mx.fmt (R270). -/
def execMxFmt (a b : Fin 64) (s : State) : Host.Outcome State Fault Refusal :=
  issue s slotEN (.mxFmt a b) { noTests with opnd := engIllegal (bits (readG (curCore s) a) 4 60 != 0) } fun s =>
    popsOf (onCur s fun c =>
      { c with fmtTab := mput 0x00404000 c.fmtTab (readG c a).toNat ((readG c b).truncate 32) }) (.mxFmt a b)

/-- mx.zero (R270). -/
def execMxZero (a : Fin 64) (s : State) : Host.Outcome State Fault Refusal :=
  let v := readG (curCore s) a
  mxPlain s (.mxZero a) (.mxZero (bits v 0 16)) (bits v 16 48 != 0)

/-- mx.rd (R270). -/
def execMxRd (v : Fin 32) (a : Fin 64) (s : State) : Host.Outcome State Fault Refusal :=
  let x := readG (curCore s) a
  mxPlain s (.mxRd v a) (.mxRd (destV (curCore s) v) (bits x 0 4) (bits x 4 4)) (bits x 8 56 != 0)

/-! ### Tiles, weight buffer -/

/-- Element (r, c) of tile t. -/
def tileAt (x : Core) (t r c : Nat) : Nat := (mget 0 x.tiles (t * 1024 + r * 32 + c)).toNat

/-- Set sticky bits of MXST (R71). -/
def mxFlag (x : Core) (b : Bool) (i : Nat) : Core :=
  if b then { x with csr := { x.csr with mxst := x.csr.mxst ||| BitVec.ofNat 64 (2 ^ i) } } else x

/-- Write element (r, c) of tile t with the SAT and NAN bits it raises. -/
def tilePut (x : Core) (t r c : Nat) (y : TileRes) : Core :=
  mxFlag (mxFlag { x with tiles := mput 0 x.tiles (t * 1024 + r * 32 + c) (BitVec.ofNat 32 y.x) } y.sat (16 + t)) y.nan t

/-- Change every element of a tile. -/
def tileMap (x : Core) (t : Nat) (f : Nat → Nat → TileRes) : Core :=
  (List.range 1024).foldl (fun x i => tilePut x t (i / 32) (i % 32) (f (i / 32) (i % 32))) x

/-- A plain element value. -/
def TileRes.plain (v : Nat) : TileRes := { x := v, sat := false, nan := false }

/-- A byte of the weight buffer; a byte beyond it reads zero (R264). -/
def wbufByte (x : Core) (a : Nat) : Nat :=
  if 262144 ≤ a then 0
  else (mget (match x.wfree with | none => 0 | some st => Config.freeByte st a) x.wbuf a).toNat

/-- Store bytes in the weight buffer. -/
def wbufWrite (x : Core) (a : Nat) (bs : List Nat) : Core :=
  { x with wbuf := (bs.zipIdx).foldl (fun m b => mset m (a + b.2) (BitVec.ofNat 8 b.1)) x.wbuf }

/-- The signed mantissas of a packed block (R64). -/
def unpackMant (f : OpFmt) (byte : Nat → Nat) : List Int :=
  (List.range 64).map fun j =>
    match f with
    | .bx4 => sextNat 4 (if j % 2 = 0 then byte (j / 2) % 16 else byte (j / 2) / 16)
    | .bx8 => sextNat 8 (byte j)
    | .bx16 | .bf16 => sextNat 16 (byte (2 * j) + 256 * byte (2 * j + 1))

/-- The packed bytes of signed mantissas (R64). -/
def packMant (f : OpFmt) (qs : List Int) : List Nat :=
  let q (j : Nat) : Nat := ((qs.getD j 0) % 65536).toNat
  match f with
  | .bx4 => (List.range 32).map fun j => q (2 * j) % 16 + q (2 * j + 1) % 16 * 16
  | .bx8 => (List.range 64).map fun j => q j % 256
  | .bx16 | .bf16 => (List.range 128).map fun j => if j % 2 = 0 then q (j / 2) % 256 else q (j / 2) / 256

/-- Block (kb, n) of the image a command names, read in format `f` (R264). -/
def imageBlock (x : Core) (sh : List Word) (f : OpFmt) (kb n : Int) : Block :=
  if 0 ≤ kb ∧ kb < mxKblk sh ∧ 0 ≤ n ∧ n < mxNcol sh then
    let i := n.toNat * mxKblk sh + kb.toNat
    { scale := wbufByte x (mxWbase sh + mxNcol sh * mxKblk sh * f.bytes + i)
      mant := unpackMant f fun j => wbufByte x (mxWbase sh + i * f.bytes + j) }
  else { scale := 0, mant := List.replicate 64 0 }

/-! ### Running mx.go -/

/-- A block of operand patterns in a format; BF16 is imported and has no scale byte (R65, R262). -/
def operandBlock (f : OpFmt) (scale : Nat) (xs : List Nat) : Block :=
  match f with
  | .bf16 => importBlock xs
  | .bx4 => { scale := scale, mant := xs.map fun v => sextNat 4 v }
  | .bx8 => { scale := scale, mant := xs.map fun v => sextNat 8 v }
  | .bx16 => { scale := scale, mant := xs.map fun v => sextNat 16 v }

/-- The operand block at (y, x), along columns or (`down`) along rows. -/
def readBlock (k t : Nat) (o : EngOp) (l : Layout) (f : OpFmt) (down : Bool) (y x : Int) (r : Run) : Run × Block :=
  let (r, xs) := readSpan k t o o.inB l y x down 64 r
  let (r, e) := if f = .bf16 then (r, 0) else readScale r k t o o.inB l y x
  (r, operandBlock f e xs)

/-- The A blocks of n rows from row y. -/
def readRows (k t : Nat) (o : EngOp) (l : Layout) (f : OpFmt) (y x : Int) : Nat → Run → Run × List Block
  | 0, r => (r, [])
  | n + 1, r =>
    let (r, b) := readBlock k t o l f false y x r
    let (r, bs) := readRows k t o l f (y + 1) x n r
    (r, b :: bs)

/-- Add one block pair into an accumulator element (R69, R70). The residue channels of exact sums always agree; a physical
fault stops the step before this (R68, `faultyTile`). -/
def addPair (i32 : Bool) (fa fb : OpFmt) (a b : Block) (acc : Nat) : TileRes :=
  match blockSum fa fb a b with
  | some sm => accumulate i32 acc (a.isNan fa || b.isNan fb) sm ((a.scale : Int) - 127 + ((b.scale : Int) - 127))
  | none => .plain acc

/-- The B blocks of half h of a unit: its 32 columns at a K block (R262). -/
def halfBlocks (x : Core) (sh : List Word) (e : BitVec 32) (kb bn : Int) (h : Nat) : List Block :=
  (List.range 32).map fun (c : Nat) => imageBlock x sh (OpFmt.ofCode (ftFb e)) kb (bn + (32 * h + c : Nat))

/-- One K step of the array: 32 rows of A against the columns of the unit (R262). -/
def kStep (x : Core) (sh : List Word) (e : BitVec 32) (tiles : List Nat) (as : List Block) (kb bn : Int) : Core :=
  let fa := OpFmt.ofCode (ftFa e)
  let fb := OpFmt.ofCode (ftFb e)
  (tiles.zipIdx).foldl (fun x th =>
    let bs := halfBlocks x sh e kb bn th.2
    let x0 := x
    tileMap x th.1 fun r c =>
      addPair (ftI32 e) fa fb (as.getD r { scale := 0, mant := [] }) (bs.getD c { scale := 0, mant := [] })
        (tileAt x0 th.1 r c)) x

/-- The tile among these that a physical fault strikes at a K block (R68). -/
def faultyTile (x : Core) (tiles : List Nat) (block : Int) : Option Nat :=
  match x.faulty with
  | some (t, tile, b) => if t = 4 ∧ tiles.contains tile ∧ (b : Int) = block then some tile else none
  | none => none

/-- Every block pair of a tile is NaN at a K block: its residue channels are ignored (R69). -/
def tileNan (x : Core) (sh : List Word) (e : BitVec 32) (tiles : List Nat) (as : List Block) (kb bn : Int) (tile : Nat) : Bool :=
  let bs := halfBlocks x sh e kb bn ((tiles.findIdx? (· == tile)).getD 0)
  (as.all fun b => b.isNan (OpFmt.ofCode (ftFa e))) || bs.all fun b => b.isNan (OpFmt.ofCode (ftFb e))

/-- A K block converted without error ends the count of failures at its tiles (R240); a fault whose channels were ignored is past. -/
def blockPassed (x : Core) (tiles : List Nat) (block : Int) : Core :=
  let other (e : Nat × Nat × Nat) : Bool := !(e.1 == 4 && tiles.contains e.2.1 && decide ((e.2.2 : Int) = block))
  { x with residue := x.residue.filter other, faulty := x.faulty.filter other }

/-- The tile start of a unit (R263). -/
def tileStart (x : Core) (sh : List Word) (e : BitVec 32) (tiles : List Nat) : Core :=
  match mxAccm sh with
  | 1 => x
  | 2 => tiles.foldl (fun x t => let x0 := x; tileMap x t fun r c => fadeElem (ftI32 e) (mxGam sh) (tileAt x0 t r c)) x
  | _ => tiles.foldl (fun x t => tileMap x t fun _ _ => .plain 0) x

/-- Row i of the Hadamard matrix in the constant store: mantissas ±64, scale 118 (R73). -/
def hadBlock (j : Nat) : Block where
  scale := 118
  mant := (List.range 64).map fun i =>
    if ((List.range 6).filter fun b => (i &&& j).testBit b).length % 2 = 0 then 64 else -64

/-- The fp32 reading of a tile element (R268). -/
def tileF32 (i32 : Bool) (v : Nat) : Nat := if i32 then (intToF fp32 .rne (i32Of v)).1 else v

/-- An fp32 rotated value written back to its pair (R268). -/
def hadBack (i32 : Bool) (y : TileRes) : TileRes :=
  if i32 then
    match fp32.decode y.x with
    | .nan _ => { x := 2147483648, sat := false, nan := true }
    | .inf n => { x := patOf (if n then -2147483648 else 2147483647), sat := true, nan := false }
    | .fin n m e =>
      let q := ((FVal.fin n m e).toInt .rne).1
      { x := patOf (sat32 q), sat := sat32 q != q, nan := false }
  else y

/-- The rotation of one row of the pair {t, t + 1} (R268). -/
def hadRow (x : Core) (t r : Nat) (i32 : Bool) : Core :=
  let b := bx8Block ((List.range 64).map fun c => tileF32 i32 (tileAt x (t + c / 32) r (c % 32)))
  (List.range 64).foldl (fun x j =>
    let h := hadBlock j
    let y := match blockSum .bx8 .bx8 b.1 h with    -- exact sums agree in all channels; `hadStep` has met a fault (R68)
      | some sm => accumulate false 0 (b.1.isNan .bx8) sm ((b.1.scale : Int) - 127 + (118 - 127))
      | none => .plain 0
    tilePut x (t + j / 32) r (j % 32) (hadBack i32 y)) (mxFlag x b.2 32)

/-- The block of a row of the pair is NaN. -/
def rowNan (x : Core) (t r : Nat) (i32 : Bool) : Bool :=
  (bx8Block ((List.range 64).map fun c => tileF32 i32 (tileAt x (t + c / 32) r (c % 32)))).1.isNan .bx8

/-- One step of a rotation: a row, under the check of R68 (R268). A row is one block: its K block is 0 [74]. -/
def hadStep (k t row : Nat) (i32 : Bool) (r : Run) : Run :=
  match if rowNan (coreAt r.s k) t row i32 then none else faultyTile (coreAt r.s k) [t, t + 1] 0 with
  | some tile => r.halt (.residue tile 0)
  | none => { r with s := onCore r.s k fun x => blockPassed (hadRow x t row i32) [t, t + 1] 0 }

/-- One drain step: element i mod 64 of row i / 64 of the unit at D origin (y, x); a BX8 row goes at its first element
(R267). With the mark of a conversion that clamped. -/
def drainElemStep (r : Run) (k : Nat) (o : EngOp) (t : Nat) (e : BitVec 32) (y x : Int) (i : Nat) : Run × Bool :=
  let d := layoutAt o.shape 4
  let row := i / 64
  let col := i % 64
  let c := coreAt r.s k
  let v (col : Nat) : Nat := tileAt c (t + col / 32) row (col % 32)
  if (!ftWide e && 32 ≤ col) || r.stop.isSome then (r, false)
  else if ftDrf e = 0 then
    if col ≠ 0 then (r, false)
    else
      let b := bx8Block ((List.range 64).map v)
      let r := writeSpan k 4 o o.outB d (y + row) x (b.1.mant.map fun q => (q % 256).toNat) r
      let r := writeScale r k 4 o o.outB d (y + row) x b.1.scale
      (r, b.2)
  else
    let q := drainElem (ftI32 e) o.fp8sat (mxDs o.shape) (ftDrf e) (v col)
    let r := if mxDmode o.shape then addElemAt r k 4 o o.outB d (y + row) (x + col) (ftDrf e == 4) q.1
             else writeElem r k 4 o o.outB d (y + row) (x + col) q.1
    (r, q.2)

/-- A drain's step, the drain having 2,048: DSAT waits in the operation until the drain completes (R71). -/
def drainStep (r : Run) (k : Nat) (o : EngOp) (t : Nat) (e : BitVec 32) (y x : Int) (i : Nat) : Run × List Word :=
  let (r, clamp) := drainElemStep r k o t e y x i
  let sat := clamp || !o.aux.isEmpty
  if r.stop.isSome then (r, o.aux)
  else if i = 2047 then ({ r with s := onCore r.s k fun c => mxFlag c sat 32 }, [])
  else (r, if sat then [1] else [])

/-- The product of trip counts. -/
def trips (ls : List MxLoop) : Nat := (ls.map MxLoop.cnt).foldl (· * ·) 1

/-- Steps of a unit group: start, K steps, rotation, drain (R262). -/
def groupSteps (o : EngOp) : Nat :=
  33 + trips ((o.loops.map mxLoop).filter MxLoop.k) * mxKpb o.shape + (if mxDrn o.shape then 2048 else 0)

/-- One step of mx.go (R262). -/
def goStep (k : Nat) (o : EngOp) (r : Run) : Run × List Word :=
  let sh := o.shape
  let ls := o.loops.map mxLoop
  let lo := ls.filter fun l => !l.k
  let li := ls.filter MxLoop.k
  let gs := groupSteps o
  let ks := trips li * mxKpb sh
  let no := digits (lo.map MxLoop.cnt) (o.pos / gs)
  let p := o.pos % gs
  let e := o.fmt.getD (if mxFlv sh = 7 then 0 else no.getD (mxFlv sh) 0 % 16) 0
  let t := (mxT0 sh + (List.zipWith (fun n (l : MxLoop) => n * l.ts) no lo).foldl (· + ·) 0) % 16
  let tiles := unitTiles t (ftWide e)
  let on (f : Core → Core) : Run := { r with s := onCore r.s k f }
  if p = 0 then (on fun x => tileStart x sh e tiles, o.aux)
  else if p ≤ ks then
    let a := layoutAt sh 0
    let b := (p - 1) % mxKpb sh
    let ns := no ++ digits (li.map MxLoop.cnt) ((p - 1) / mxKpb sh)
    let ar := a.row0 + stepSum ns ls MxLoop.ar
    let ac := a.col0 + stepSum ns ls MxLoop.ac
    let kb := stepSum ns ls MxLoop.bk
    let bn := stepSum ns ls MxLoop.bn
    let (r, as) := readRows k 4 o a (OpFmt.ofCode (ftFa e)) ar (ac + (64 * b : Nat)) 32 r
    let block := kb + (b : Int)
    if r.stop.isSome then (r, o.aux)
    else
      let c := coreAt r.s k
      match (faultyTile c tiles block).filter fun tile => !tileNan c sh e tiles as block bn tile with
      | some tile => (r.halt (.residue tile block.toNat), o.aux)
      | none => ({ r with s := onCore r.s k fun x => blockPassed (kStep x sh e tiles as block bn) tiles block }, o.aux)
  else if p ≤ ks + 32 then (if ftHad e then hadStep k t (p - ks - 1) (ftI32 e) r else r, o.aux)
  else
    let d := layoutAt sh 4
    drainStep r k o t e (d.row0 + stepSum no lo MxLoop.dr) (d.col0 + stepSum no lo MxLoop.dc) (p - ks - 33)

/-! ### Running mx.wload -/

/-- One value or metadata byte of a 2:4 source; outside the view it reads 0 (R266). -/
def sparseByte (r : Run) (k : Nat) (o : EngOp) (l : Layout) (y x : Int) (a : Word) (n : Nat) : Run × Nat :=
  if l.inside y x then
    let (r, b, _) := layoutAccess r k 4 o o.inB l a (.load n false)
    (r, leNat b)
  else (r, 0)

/-- One value of a 2:4 source (R266). -/
def sparseValue (r : Run) (k : Nat) (o : EngOp) (l : Layout) (y x : Int) : Run × Nat :=
  let (r, v) := sparseByte r k o l y x (l.addr y x) l.eb
  (r, if l.ew = 0 then (if x % 2 = 0 then v % 16 else v / 16) else v)

/-- The dense elements of n groups from value row y (R266). -/
def sparseGroups (k : Nat) (o : EngOp) (l : Layout) (x : Int) : Nat → Int → Run → Run × List Nat
  | 0, _, r => (r, [])
  | n + 1, y, r =>
    let g := y / 2
    let ma := wordOfInt (l.base.toInt + sextNat 32 l.fill + y / 4 * l.spitch + x)
    let (r, m) := sparseByte r k o l y x ma 1
    let nib := if g % 2 = 0 then m % 16 else m / 16
    let (r, v0) := sparseValue r k o l y x
    let (r, v1) := sparseValue r k o l (y + 1) x
    let d := listSet (listSet [0, 0, 0, 0] (nib % 4) v0) (nib / 4) v1
    let (r, ds) := sparseGroups k o l x n (y + 2) r
    (r, d ++ ds)

/-- One step of mx.wload: block (kb, n) of the image (R265, R266). -/
def wloadStep (k : Nat) (o : EngOp) (r : Run) : Run :=
  let sh := o.shape
  let w := layoutAt sh 8
  let kb := o.pos % mxKblk sh
  let n := o.pos / mxKblk sh
  let f := OpFmt.ofCode (mxWf sh)
  let x := w.col0 + (n : Int)
  let (r, b) :=
    if mxSpr sh then
      let y := w.row0 + (32 * kb : Nat)
      let (r, xs) := sparseGroups k o w x 16 y r
      let out := (List.range 32).all fun j => !w.inside (y + (j : Int)) x
      let (r, e) := if out then (r, 0)
        else
          let q := layoutAccess r k 4 o o.inB w (wordOfInt (w.base.toInt + w.soff + y / 32 * w.spitch + x)) (.load 1 false)
          (q.1, leNat q.2.1)
      (r, operandBlock f e xs)
    else readBlock k 4 o w f true (w.row0 + (64 * kb : Nat)) x r
  if r.stop.isSome then r
  else
    let i := n * mxKblk sh + kb
    let put (c : Core) : Core :=
      wbufWrite (wbufWrite c (mxWbase sh + i * f.bytes) (packMant f b.mant))
        (mxWbase sh + mxNcol sh * mxKblk sh * f.bytes + i) [b.scale]
    { r with s := onCore r.s k put }

/-! ### Running any matrix operation -/

/-- Steps of a matrix operation. -/
def mxSteps (o : EngOp) : Nat :=
  match o.kind with
  | .mxGo _ => trips ((o.loops.map mxLoop).filter fun l => !l.k) * groupSteps o
  | .mxWload => mxNcol o.shape * mxKblk o.shape
  | .mxDrain _ _ => 2080
  | .mxHad _ _ => 32
  | _ => 1

/-- One step of a matrix operation (R262 to R270). -/
def mxStep (k : Nat) (o : EngOp) (r : Run) : Run × List Word :=
  let on (f : Core → Core) : Run := { r with s := onCore r.s k f }
  match o.kind with
  | .mxGo _ => goStep k o r
  | .mxWload => (wloadStep k o r, o.aux)
  | .mxDrain t e =>
    let f := o.fmt.getD e 0
    let d := layoutAt o.shape 4
    if o.pos < 32 then (if ftHad f then hadStep k t o.pos (ftI32 f) r else r, o.aux)
    else drainStep r k o t f d.row0 d.col0 (o.pos - 32)
  | .mxAcc d q g i32 => (on fun x =>
      tileMap x d fun y z => accElem i32 g.toNat (tileAt x d y z) (tileAt x q y z), o.aux)
  | .mxHad t i32 => (hadStep k t o.pos i32 r, o.aux)
  | .mxZero m =>
    (on fun x => ((List.range 16).filter fun t => m.testBit t).foldl (fun x t => tileMap x t fun _ _ => .plain 0) x, o.aux)
  | _ => (r, o.aux)

/-- The value mx.rd writes: rows 2p and 2p + 1 of the tile (R270). -/
def rdValue (x : Core) (t p : Nat) : VWord :=
  fromElems 32 ((List.range 64).map fun i => tileAt x t (2 * p + i / 32) (i % 32))

end Sys2Proof.Machine
end

