-- ==== Sys2Proof/Machine/Branch.lean ====
section
/-! DEFINITION. The prefixes (R83, R124, R222), branches (R122, R123), loopx (R128), control-register access (R130), traps
and return (R131, R132), task end (R25) and the spill map (R133 to R137).

What follows the bundle's commit is noted in `after`; Machine/Bundle.lean carries it out [13]. -/

namespace Sys2Proof.Machine

/-- Note what follows the bundle's commit. -/
def setAfter (s : State) (a : After) : State := onCur s fun c => { c with after := a }

/-! ### Prefixes -/

/-- bnk.lock (R222): the mask is bits 31:0 of A, N the bundles held. No engine access is ever half made in this model,
so the next bundle is not held. -/
def execBnkLock (a : Fin 64) (n : Fin 16) (s : State) : Host.Outcome State Fault Refusal :=
  issue s slotX0 (.bnkLock a n) noTests fun s =>
    onCur s fun c => { c with lock := some { mask := (readG c a).truncate 32, left := n.val } }

/-- loopm (R124): i is II - 1 and sg is SC - 1. It is illegal in handler state (R228): SUB 1 with the
operand tests (DESIGN CHOICE [117]). -/
def execLoopm (a : Fin 64) (i : Fin 16) (sg : Fin 8) (s : State) : Host.Outcome State Fault Refusal :=
  issue s slotX0 (.loopm a i sg) { noTests with opnd := failIf (curCore s).inH (Cause.precise 0x01 1 slotX0) } fun s =>
    onCur s fun c =>
      let n := bits (readG c a) 0 32
      let body := c.pc + 32
      let q : Sequencer := { active := n != 0, n := n, ii := i.val + 1, sc := sg.val + 1, body := body, j := 0, k := 0, rho := 0 }
      { c with seq := q
               after := .loop (if n = 0 then body + BitVec.ofNat 64 (32 * (q.ii * q.sc)) else body) }

/-! ### Branches (R81, R82, R122, R123) -/

/-- The address of the fetch block that holds the issuing bundle (R82). -/
def blockOf (c : Core) : Word := setBits c.pc 0 6 0

/-- The target of a BB branch (R82). -/
def branchTarget (c : Core) (o : BitVec 18) : Word := blockOf c + o.signExtend 64 * 64

/-- The condition of br and call: bit 0 of the predicate XOR pn (R122). -/
def bitTaken (c : Core) (p : Nat) (n : Bool) : Bool := (readP c p).getLsbD 0 != n

/-- The condition of bp: any bit of the predicate, XOR pn (R122). -/
def anyTaken (c : Core) (p : Nat) (n : Bool) : Bool := (readP c p != 0) != n

/-- br (R122). -/
def execBr (p : Fin 8) (n : Bool) (o : BitVec 18) (s : State) : Host.Outcome State Fault Refusal :=
  issue s slotBR (.br p n o) noTests fun s =>
    if bitTaken (curCore s) p n then setAfter s (.branch (branchTarget (curCore s) o)) else s

/-- bp (R122). -/
def execBp (p : Fin 8) (n : Bool) (o : BitVec 18) (s : State) : Host.Outcome State Fault Refusal :=
  issue s slotBR (.bp p n o) noTests fun s =>
    if anyTaken (curCore s) p n then setAfter s (.branch (branchTarget (curCore s) o)) else s

/-- Put the link of a call or jr in flight (R82, R123). -/
def pushLink (s : State) (d : Nat) : State :=
  onCur s fun c => pushResult c (destG c d) (.s (blockOf c + 64)) 1 0

/-- call (R122): g55 is written only when the call is taken. -/
def execCall (p : Fin 8) (n : Bool) (o : BitVec 18) (s : State) : Host.Outcome State Fault Refusal :=
  issue s slotBR (.call p n o) noTests fun s =>
    if bitTaken (curCore s) p n then setAfter (pushLink s 55) (.branch (branchTarget (curCore s) o)) else s

/-- The target conditions of jr and ret in order: bits 5:0, bits 63:57, the owner (R123). -/
def targetFail (s : State) (t : Word) : Option Cause :=
  if bits t 0 6 ≠ 0 then some { Cause.precise 0x02 2 slotBR with tval := t }
  else failIf (!canonical t || ownerOf t != s.port.rank) { Cause.precise 0x02 3 slotBR with tval := t }

/-- jr (R123): gd, if not g0, takes the link. -/
def execJr (d a : Fin 64) (s : State) : Host.Outcome State Fault Refusal :=
  let t := readG (curCore s) a
  issue s slotBR (.jr d a) { noTests with align := targetFail s t } fun s =>
    popsOf (setAfter (if d.val = 0 then s else pushLink s d) (.branch t)) (.jr d a)

/-- ret (R123). -/
def execRet (s : State) : Host.Outcome State Fault Refusal :=
  let t := readG (curCore s) 55
  issue s slotBR .ret { noTests with align := targetFail s t } fun s => setAfter s (.branch t)

/-- loopx (R128): legal only in a live stage of a composite, elsewhere SUB 1 with the operand tests (DESIGN CHOICE [117]); iteration i is
j - stage. -/
def execLoopx (p : Fin 8) (s : State) : Host.Outcome State Fault Refusal :=
  issue s slotBR (.loopx p) { noTests with opnd := failIf (!(curCore s).seq.active) (Cause.precise 0x01 1 slotBR) } fun s =>
    onCur s fun c =>
      if (readP c p).getLsbD 0 then { c with seq := { c.seq with n := min c.seq.n (c.seq.j - c.stg + 1) } } else c

/-! ### Traps, return, task end -/

/-- trap (R131, R226): TVAL holds A, TINFO the code. -/
def execTrap (k : BitVec 12) (a : Fin 64) (s : State) : Host.Outcome State Fault Refusal :=
  let cause := { Cause.precise 0x10 0 slotBR with tval := readG (curCore s) a, tinfo := k.zeroExtend 64 }
  issue s slotBR (.trap k a) { noTests with dom := some cause } fun s => s

/-- bkpt (R131, R226). -/
def execBkpt (k : BitVec 12) (s : State) : Host.Outcome State Fault Refusal :=
  issue s slotBR (.bkpt k) { noTests with dom := some { Cause.precise 0x0F 0 slotBR with tinfo := k.zeroExtend 64 } } fun s => s

/-- Interlocked register loads and acquires that a tend awaits (R25, R218). -/
def loadsPending (c : Core) : Bool :=
  !c.rets.isEmpty || c.accs.any fun a => a.dest != .none || (match a.op with | .tlAcq _ _ => true | _ => false)

/-- Operations the handler issued that an eret awaits (R229). -/
def handlerPending (c : Core) : Bool :=
  !c.results.isEmpty || !c.accs.isEmpty || !c.rets.isEmpty ||
    (match c.snap with
     | some n => c.engs.any fun e => e.2.any fun o => decide (n.issued < o.order)
     | none => false)

/-- tend (R25, R123). -/
def execTend (s : State) : Host.Outcome State Fault Refusal :=
  let h : Option Hold := if loadsPending (curCore s) then some { sub := 4, obj := 0x103, tl := 15 } else none
  issue s slotBR .tend { noTests with hold := h } fun s => setAfter s .tend

/-- eret (R132, R229): legal only in handler state; elsewhere SUB 1 with the operand tests (DESIGN CHOICE [117]). -/
def execEret (s : State) : Host.Outcome State Fault Refusal :=
  let h : Option Hold := if handlerPending (curCore s) then some { sub := 4, obj := 0x105, tl := 15 } else none
  issue s slotBR .eret
    { noTests with opnd := failIf (!(curCore s).inH) (Cause.precise 0x01 1 slotBR), hold := h } fun s => setAfter s .eret

/-! ### Control registers (R90, R130) -/

/-- Note a write of a control register; it is made at the end of the issue cycle. -/
def pushCsr (s : State) (a : Nat) (v : Word) : State := onCur s fun c => { c with csrws := c.csrws ++ [(a, v)] }

/-- The value csrr and csrx read. -/
def csrValue (s : State) (a : Nat) : Word := (csrRead s s.cur a).getD 0

/-- csrr (R130). -/
def execCsrr (d : Fin 64) (a : BitVec 12) (s : State) : Host.Outcome State Fault Refusal :=
  issue s slotBR (.csrr d a) (csrReadTests s a.toNat) fun s =>
    onCur s fun c => pushResult c (destG c d) (.s (csrValue s a.toNat)) 1 0

/-- csrw (R130). -/
def execCsrw (a : BitVec 12) (g : Fin 64) (s : State) : Host.Outcome State Fault Refusal :=
  let v := readG (curCore s) g
  issue s slotBR (.csrw a g) (csrWriteTests s a.toNat v) fun s => popsOf (pushCsr s a.toNat v) (.csrw a g)

/-- csrx (R130): reads and writes in one step. -/
def execCsrx (d : Fin 64) (a : BitVec 12) (g : Fin 64) (s : State) : Host.Outcome State Fault Refusal :=
  let v := readG (curCore s) g
  issue s slotBR (.csrx d a g) (csrWriteTests s a.toNat v) fun s =>
    popsOf (pushCsr (onCur s fun c => pushResult c (destG c d) (.s (csrValue s a.toNat)) 1 0) a.toNat v) (.csrx d a g)

/-! ### The spill map (R133 to R137) -/

/-- An incomplete matrix operation names tile t (R136). -/
def tileBusy (c : Core) (t : Nat) : Bool :=
  (queueOf c 4).any fun o => (opTiles o.kind o.shape o.loops o.fmt).contains t

/-- The lowest free column pair of an eligible tile (R136). -/
def freePair (c : Core) : Option (Nat × Nat) :=
  ((List.range 256).find? fun i =>
    c.csr.parkcfg.getLsbD (i / 16) && !tileBusy c (i / 16) &&
      !(c.spill.any fun p => p.loc == .col (i / 16) (i % 16))).map fun i => (i / 16, i % 16)

/-- The spill basket's entry (R134). -/
def spillBasket (c : Core) : Word := basket c (bits c.csr.parkcfg 16 8)

/-- Where vpark parks, none when the map is full (R136). -/
def parkPlace (c : Core) : Option ParkLoc :=
  if c.spill.length = 512 then none
  else
    match freePair c with
    | some (t, p) => some (.col t p)
    | none =>
      if c.csr.parkcfg.getLsbD 25 && parkedSpill c ≠ bkSize (spillBasket c) / 256 then
        some (.spill (bkOff (spillBasket c) + 256 * parkedSpill c))
      else none

/-- The bytes of a register image. -/
def imageBytes (v : VWord) : List Byte := leBytes 256 v.toNat

/-- One 256-byte access of the issuing core to its own scratchpad. -/
def spillAccess (s : State) (off : Nat) (op : MemOp) (fmt : LoadFmt) (d : Dest) : State :=
  pushAccess s (newAccess s (.mem [{ sp := true, addr := BitVec.ofNat 64 off, ix := 0, op := op }] fmt 0) d 1 false)

/-- The accumulator element that holds word w of the image parked in column pair p of tile t (R136): bytes 127:0 lie in
column 2p, row by row, the others in column 2p + 1. -/
def columnKey (t p w : Nat) : Nat := t * 1024 + w % 32 * 32 + 2 * p + w / 32

/-- Store a register image in a column pair. -/
def putColumns (c : Core) (t p : Nat) (v : VWord) : Core :=
  { c with tiles := (List.range 64).foldl (fun m w => mput 0 m (columnKey t p w) (BitVec.ofNat 32 (elem 32 v w))) c.tiles }

/-- The image in a column pair. -/
def columnsOf (c : Core) (t p : Nat) : VWord :=
  fromElems 32 ((List.range 64).map fun w => (mget 0 c.tiles (columnKey t p w)).toNat)

/-- vpark (R136). -/
def execVpark (v : Fin 32) (s : State) : Host.Outcome State Fault Refusal :=
  let c := curCore s
  let loc := parkPlace c
  let ents := match loc with | some (.spill _) => 1 | _ => 0
  issue s slotBR (.vpark v) { noTests with opnd := failIf loc.isNone (Cause.precise 0x01 4 slotBR), ents := ents } fun s =>
    let c := curCore s
    let img := readV c v
    let push (l : ParkLoc) (s : State) : State :=
      onCur s fun c => { c with spill := { idx := physV c v, loc := l } :: c.spill }
    match loc with
    | some (.spill off) => push (.spill off) (spillAccess s off (.store (imageBytes img) false) .none .none)
    | some (.col t p) => push (.col t p) (onCur s fun c => putColumns c t p img)
    | none => s

/-- vunpark (R137). -/
def execVunpark (v : Fin 32) (s : State) : Host.Outcome State Fault Refusal :=
  let c := curCore s
  let top := c.spill.head?
  let bad := match top with | some p => p.idx != physV c v | none => true
  let ents := match top with | some p => (if p.loc.isCol then 0 else 1) | none => 0
  issue s slotBR (.vunpark v) { noTests with opnd := failIf bad (Cause.precise 0x01 5 slotBR), ents := ents } fun s =>
    match top with
    | none => s
    | some p =>
      let s := onCur s fun c => { c with spill := c.spill.tail }
      match p.loc with
      | .col t q => pushReturn s (destV (curCore s) v) (.v (columnsOf (curCore s) t q))
      | .spill off => spillAccess s off (.load 256 false) (.vector 256) (destV (curCore s) v)

end Sys2Proof.Machine
end

