-- ==== Sys2Proof/Machine/Memory.lean ====
section
/-! DEFINITION. The MM instructions: loads, stores (R196 to R202), the tag table (R204), bank-side operations (R205),
atomics (R206) and fences (R207). Each memory instruction puts an access in the queue of its core (R165). -/

namespace Sys2Proof.Machine

/-- loc(A, d) in a space (R196). -/
def loc (sp : Bool) (a d : Word) : Word := if sp then a + d else locAddr a d

/-- Bytes of an element width (R85, R200). -/
def elBytes : El → Nat
  | .w4 => 4
  | .w2 => 2
  | .w1 => 1

/-- The issue-cycle count at which a scratchpad load's result lands (R92); 0 for an interlocked one. -/
def loadLand (c : Core) (sp : Bool) : Nat := if sp then c.icycle + 6 else 0

/-- The tests of accesses of n bytes at addresses of one space (R197): alignment, then domain membership, then a landing slot for an
access to another die (R294). -/
def memTests (s : State) (sp : Bool) (as : List Word) (n ents : Nat) : Tests :=
  { opnd := none
    align := firstFail (as.map fun a => alignFail slotMM a n)
    dom := if sp then none else firstFail (as.map fun a => domainFail s slotMM a)
    hold := slotHold s (as.any (farAddr s sp))
    ents := ents
    slots := (as.any (farAddr s sp)).toNat }

/-- A load would read bytes that an uncorrectable error has poisoned (R240): a precise trap, TVAL the address. Whether bytes of
another die hold such an error is a free value [14]. -/
def poisonFail (s : State) (slot : Nat) (sp : Bool) (a : Word) (n : Nat) (k : Kind) : Option Cause :=
  failIf (if sp || ownerOf a == s.port.rank then
      !s.poison.isEmpty && (sp || canonical a) &&
        (match locateAny s s.cur sp a n k with
         | .ok (ps, _) => poisoned s ps
         | .error _ => false)
    else canonical a && Config.farPoison s.time a.toNat)
    { Cause.precise 0x08 2 slot with tval := a }

/-- The tests of loads (R197, R240). -/
def loadTests (s : State) (sp : Bool) (as : List Word) (n ents : Nat) : Tests :=
  let t := memTests s sp as n ents
  { t with dom := firstFail (t.dom :: as.map fun a => poisonFail s slotMM sp a n .load) }

/-- Put elements in the queue as one access. -/
def pushMem (s : State) (els : List Elem) (fmt : LoadFmt) (order : Nat) (d : Dest) (land ents : Nat) (img : VWord)
    (rx : Bool) : State :=
  pushAccess s { newAccess s (.mem els fmt order) d ents rx with land := land, img := img }

/-! ### Scalar loads and stores (R199) -/

/-- ld: z is the size code, x the sign-extension bit. -/
def execLd (sp : Bool) (z : Fin 4) (r x : Bool) (d a : Fin 64) (o : BitVec 7) (s : State) :
    Host.Outcome State Fault Refusal :=
  let n : Nat := 2 ^ z.val
  let ad := loc sp (readG (curCore s) a) (wordOfInt (o.toInt * (n : Int)))
  issue s slotMM (.ld sp z r x d a o) (loadTests s sp [ad] n 1) fun s =>
    popsOf (pushMem s [{ sp := sp, addr := ad, ix := 0, op := .load n false }] (.scalar n x) 0
      (destG (curCore s) d) (loadLand (curCore s) sp) 1 0 r) (.ld sp z r x d a o)

/-- st. -/
def execSt (sp : Bool) (z : Fin 4) (r : Bool) (d a : Fin 64) (o : BitVec 7) (s : State) :
    Host.Outcome State Fault Refusal :=
  let n : Nat := 2 ^ z.val
  let ad := loc sp (readG (curCore s) a) (wordOfInt (o.toInt * (n : Int)))
  issue s slotMM (.st sp z r d a o) (memTests s sp [ad] n 1) fun s =>
    popsOf (pushMem s [{ sp := sp, addr := ad, ix := 0, op := .store (leBytes n (readG (curCore s) d).toNat) false }]
      .none 0 .none 0 1 0 r) (.st sp z r d a o)

/-! ### Vector loads and stores (R200, R201) -/

/-- The elements whose governing bit is set. -/
def activeElems (c : Core) (p : Nat) (n : Nat) : List Nat := (List.range n).filter fun e => lane (readP c p) e

/-- A strided vector load: vld and vld.s. -/
def vectorLoad (s : State) (i : Instr) (sp : Bool) (e : El) (r : Bool) (p d a : Nat) (stride : Int) :
    Host.Outcome State Fault Refusal :=
  let c := curCore s
  let w := elBytes e
  let act := (activeElems c p (256 / w)).map fun (k : Nat) => (k, loc sp (readG c a) (wordOfInt ((k : Int) * stride)))
  issue s slotMM i (loadTests s sp (act.map Prod.snd) w 1) fun s =>
    let c := curCore s
    popsOf (pushMem s (act.map fun k => { sp := sp, addr := k.2, ix := k.1, op := .load w false }) (.vector w) 0
      (destV c d) (loadLand c sp) 1 (readV c d) r) i

/-- vld. -/
def execVld (sp : Bool) (e : El) (r : Bool) (p : Fin 8) (d : Fin 32) (a : Fin 64) (s : State) :
    Host.Outcome State Fault Refusal :=
  vectorLoad s (.vld sp e r p d a) sp e r p d a (elBytes e)

/-- vld.s: the stride is gb, signed. -/
def execVldS (sp : Bool) (e : El) (r : Bool) (p : Fin 8) (d : Fin 32) (a g : Fin 64) (s : State) :
    Host.Outcome State Fault Refusal :=
  vectorLoad s (.vldS sp e r p d a g) sp e r p d a (readG (curCore s) g).toInt

/-- vst. -/
def execVst (sp : Bool) (e : El) (r : Bool) (p : Fin 8) (d : Fin 32) (a : Fin 64) (s : State) :
    Host.Outcome State Fault Refusal :=
  let c := curCore s
  let w := elBytes e
  let act := (activeElems c p (256 / w)).map fun k => (k, loc sp (readG c a) (BitVec.ofNat 64 (k * w)))
  issue s slotMM (.vst sp e r p d a) (memTests s sp (act.map Prod.snd) w 1) fun s =>
    let v := readV (curCore s) d
    popsOf (pushMem s (act.map fun k =>
      { sp := sp, addr := k.2, ix := k.1, op := .store (leBytes w (elem (8 * w) v k.1)) false }) .none 0 .none 0 1 0 r)
      (.vst sp e r p d a)

/-! ### Gather and scatter (R202, R203) -/

/-- LIMIT and FILL of GXCFG (R203). -/
def gxLimit (c : Core) : Nat := bits c.csr.gxcfg 0 32
def gxFill (c : Core) : Nat := bits c.csr.gxcfg 32 32

/-- Active lanes with their indices. -/
def gxLanes (c : Core) (p b : Nat) : List (Nat × Nat) :=
  (activeElems c p 64).map fun i => (i, elem 32 (readV c b) i)

/-- Active lanes in range with their addresses. -/
def gxAddrs (c : Core) (sp : Bool) (w p a b : Nat) : List (Nat × Word) :=
  ((gxLanes c p b).filter fun l => l.2 < gxLimit c).map fun l => (l.1, loc sp (readG c a) (BitVec.ofNat 64 (l.2 * w)))

/-- GXOOB counts the active lanes out of range, saturating (R202). -/
def countLanes (c : Core) (p b : Nat) : Core :=
  let n := ((gxLanes c p b).filter fun l => gxLimit c ≤ l.2).length
  { c with csr := { c.csr with gxoob := BitVec.ofNat 64 (min (2 ^ 32 - 1) (c.csr.gxoob.toNat + n)) } }

/-- The image a gather starts from: what vd held, with the out-of-range lanes filled (R202). -/
def gathImage (c : Core) (w d p b : Nat) : VWord :=
  let out := ((gxLanes c p b).filter fun l => gxLimit c ≤ l.2).map Prod.fst
  fromElems (8 * w) ((List.range (256 / w)).map fun e =>
    if out.contains e then gxFill c % 2 ^ (8 * w) else elem (8 * w) (readV c d) e)

/-- vgath. -/
def execVgath (sp : Bool) (e : El) (r : Bool) (p : Fin 8) (d : Fin 32) (a : Fin 64) (b : Fin 32) (s : State) :
    Host.Outcome State Fault Refusal :=
  let w := elBytes e
  let act := gxAddrs (curCore s) sp w p a b
  issue s slotMM (.vgath sp e r p d a b) (loadTests s sp (act.map Prod.snd) w 2) fun s =>
    let c := curCore s
    let s := onCur s fun c => countLanes c p b
    popsOf (pushMem s (act.map fun k => { sp := sp, addr := k.2, ix := k.1, op := .load w false }) (.vector w) 0
      (destV c d) 0 2 (gathImage c w d p b) r) (.vgath sp e r p d a b)

/-- vscat. -/
def execVscat (sp : Bool) (e : El) (r : Bool) (p : Fin 8) (d : Fin 32) (a : Fin 64) (b : Fin 32) (s : State) :
    Host.Outcome State Fault Refusal :=
  let w := elBytes e
  let act := gxAddrs (curCore s) sp w p a b
  issue s slotMM (.vscat sp e r p d a b) (memTests s sp (act.map Prod.snd) w 2) fun s =>
    let v := readV (curCore s) d
    let s := onCur s fun c => countLanes c p b
    popsOf (pushMem s (act.map fun k =>
      { sp := sp, addr := k.2, ix := k.1, op := .store (leBytes w (elem (8 * w) v k.1)) false }) .none 0 .none 0 2 0 r)
      (.vscat sp e r p d a b)

/-! ### The tag table (R158, R204) -/

/-- The block of an address: bits 56:12. -/
def tagBlock (a : Word) : Nat := bits a 12 45

/-- The valid entry that holds a block. -/
def tagFind (c : Core) (b : Nat) : Option (Nat × TagEntry) :=
  (List.range 256).findSome? fun i =>
    match mget none c.tags i with
    | some e => if e.block = b then some (i, e) else none
    | none => none

/-- Invalidate every entry that holds a block. -/
def tagDrop (c : Core) (b : Nat) : Core :=
  { c with tags := c.tags.filter fun t => match t.2 with | some e => e.block != b | none => false }

/-- The value tlook writes. -/
def tlookValue (c : Core) (a : Word) : Word :=
  match tagFind c (tagBlock a) with
  | some (i, e) => BitVec.ofNat 64 (e.basket * 256 + i)
  | none => BitVec.allOnes 64

/-- tlook. -/
def execTlook (d a : Fin 64) (s : State) : Host.Outcome State Fault Refusal :=
  scalarOp s slotMM (.tlook d a) d 6 fun c => tlookValue c (readG c a)

/-- tset. -/
def execTset (d a : Fin 64) (s : State) : Host.Outcome State Fault Refusal :=
  issue s slotMM (.tset d a) noTests fun s => popsOf (onCur s fun c =>
    let b := tagBlock (readG c a)
    let v := readG c d
    let c := tagDrop c b
    { c with tags := mset c.tags (bits v 0 8) (some { block := b, basket := bits v 8 8 }) }) (.tset d a)

/-- tinv: m false is .e, m true is .a. -/
def execTinv (a : Fin 64) (m : Bool) (s : State) : Host.Outcome State Fault Refusal :=
  issue s slotMM (.tinv a m) noTests fun s => popsOf (onCur s fun c =>
    let v := readG c a
    if m then tagDrop c (tagBlock v) else { c with tags := mput none c.tags (bits v 0 8) none }) (.tinv a m)

/-! ### Bank-side operations and atomics (R205, R206) -/

/-- An address in a registered reduction window (R205, R206): SUB 11. -/
def windowFail (s : State) (slot : Nat) (sp : Bool) (a : Word) (n : Nat) : Option Cause :=
  failIf (!sp && canonical a && inWindow s (keyCtx s.cur) a n) { Cause.precise 0x07 11 slot with tval := a }

/-- [a, a + n) crosses a 4 KiB boundary (R205): alignment, SUB 4. -/
def crossFail (slot : Nat) (a : Word) (n : Nat) : Option Cause :=
  failIf (decide (4096 < a.toNat % 4096 + n)) { Cause.precise 0x02 4 slot with tval := a }

/-- The tests of mop (R197, R205). -/
def mopTests (s : State) (o : MopOp) (n : Nat) (sp : Bool) (a x y : Word) : Tests :=
  match o with
  | .saxpy =>
    let k := x.toNat / 2 ^ 32
    { opnd := failIf (k == 0 || decide (1024 < k)) (illegal slotMM)
      align := firstFail [alignFail slotMM a 4, alignFail slotMM y 4, crossFail slotMM a (4 * k), crossFail slotMM y (4 * k)]
      dom := firstFail [if sp then none else domainFail s slotMM a,
        failIf (!sp && ownerOf a != ownerOf y) { Cause.precise 0x07 13 slotMM with tval := y },
        windowFail s slotMM sp a (4 * k)]
      hold := slotHold s (farAddr s sp a)
      ents := 1
      slots := (farAddr s sp a).toNat }
  | .add | .max | .min | .cas =>
    { memTests s sp [a] n 1 with
      dom := firstFail [if sp then none else domainFail s slotMM a, windowFail s slotMM sp a n] }

/-- The second operand of mop: the exchange value of cas, the x address of saxpy, from gd + 1. -/
def mopSecond (c : Core) (o : MopOp) (d : Nat) : Word :=
  match o with
  | .cas | .saxpy => readG c (d + 1)
  | .add | .max | .min => 0

/-- mop (R205). -/
def execMop (o : MopOp) (y : MopTy) (z sp : Bool) (d a : Fin 64) (s : State) : Host.Outcome State Fault Refusal :=
  let c := curCore s
  let n := if z then 8 else 4
  let ad := loc sp (readG c a) 0
  let v := readG c d
  let u := mopSecond c o d
  issue s slotMM (.mop o y z sp d a) (mopTests s o n sp ad v u) fun s =>
    popsOf (pushMem s [{ sp := sp, addr := ad, ix := 0, op := .mop o y n v u }] .none 0 .none 0 1 0 false)
      (.mop o y z sp d a)

/-- amo (R206): q is the ordering, z the low size bit. -/
def execAmo (o : AmoOp) (q : Fin 4) (z sp : Bool) (d a : Fin 64) (s : State) : Host.Outcome State Fault Refusal :=
  let c := curCore s
  let n := if z then 8 else 4
  let ad := loc sp (readG c a) 0
  let v := readG c d
  let u := if o = .cas then readG c (d + 1) else 0
  issue s slotMM (.amo o q z sp d a)
    { memTests s sp [ad] n 1 with
      dom := firstFail [if sp then none else domainFail s slotMM ad, windowFail s slotMM sp ad n, poisonFail s slotMM sp ad n .atomic] } fun s =>
    popsOf (pushMem s [{ sp := sp, addr := ad, ix := 0, op := .atomic o n v u }] (.scalar n false) q
      (destG (curCore s) d) 0 1 0 false) (.amo o q z sp d a)

/-! ### Fences (R164, R174, R207) -/

/-- fence. -/
def execFence (sc : Fin 4) (f : FenceKind) (s : State) : Host.Outcome State Fault Refusal :=
  issue s slotMM (.fence sc f) { noTests with ents := 1 } fun s =>
    pushAccess s (newAccess s (.fence sc f) .none 1 false)

/-- tfence. -/
def execTfence (sc : Fin 4) (s : State) : Host.Outcome State Fault Refusal :=
  issue s slotMM (.tfence sc) { noTests with ents := 1 } fun s =>
    pushAccess s (newAccess s (.tfence sc [] false) .none 1 false)

end Sys2Proof.Machine
end

