-- ==== Sys2Proof/Machine/Sync.lean ====
section
/-! DEFINITION. The synchronisation instructions: semaphores (R211), barriers (R213 to R216), timelines (R217, R218), task
records (R219) and baskets (R220, R221). -/

namespace Sys2Proof.Machine

/-! ### Semaphores (R211) -/

/-- sem.sig. -/
def execSemSig (a : Fin 64) (n : Fin 128) (s : State) : Host.Outcome State Fault Refusal :=
  issue s slotEN (.semSig a n) noTests fun s =>
    popsOf (onCur s fun c => semOp c (.inc (bits (readG c a) 0 8) n)) (.semSig a n)

/-- sem.set. -/
def execSemSet (a b : Fin 64) (s : State) : Host.Outcome State Fault Refusal :=
  issue s slotEN (.semSet a b) noTests fun s =>
    popsOf (onCur s fun c => semOp c (.set (bits (readG c a) 0 8) (bits (readG c b) 0 16))) (.semSet a b)

/-! ### Barriers (R213 to R216) -/

/-- Fields of a barrier name (R213). -/
def bnRank (w : Word) : Nat := bits w 20 10
def bnCore (w : Word) : Nat := bits w 11 9
def bnLocal (w : Word) : Bool := bits w 10 1 == 1
def bnBar (w : Word) : Nat := bits w 0 10

/-- Tests of a barrier name: bits 63:30 zero, the home inside the domain (R213). -/
def barTests (s : State) (w : Word) : Tests :=
  { opnd := failIf (bits w 30 34 != 0) (illegal slotEN)
    align := none
    dom := failIf (!bnLocal w && !(curCtx s).members.contains (bnRank w)) { Cause.precise 0x07 7 slotEN with tval := w }
    hold := none
    ents := 1 }

/-- arrive (R214). -/
def execArrive (a : Fin 64) (s : State) : Host.Outcome State Fault Refusal :=
  let w := readG (curCore s) a
  issue s slotEN (.arrive a) (barTests s w) fun s =>
    popsOf (pushAccess s (newAccess s (.arrive w false) .none 1 false)) (.arrive a)

/-- arrive.rlx (R214). -/
def execArriveRlx (a : Fin 64) (s : State) : Host.Outcome State Fault Refusal :=
  let w := readG (curCore s) a
  issue s slotEN (.arriveRlx a) (barTests s w) fun s =>
    popsOf (pushAccess s (newAccess s (.arrive w true) .none 1 false)) (.arriveRlx a)

/-- expect (R215). -/
def execExpect (a b : Fin 64) (s : State) : Host.Outcome State Fault Refusal :=
  let w := readG (curCore s) a
  issue s slotEN (.expect a b) (barTests s w) fun s =>
    popsOf (pushAccess s (newAccess s (.expect w (bits (readG (curCore s) b) 0 16)) .none 1 false)) (.expect a b)

/-- The barrier that bar.init writes (R216). -/
def barrierOf (x l : Word) : Barrier where
  base := bits x 0 16
  extra := 0
  arr := 0
  ph := 0
  rlen := bits x 25 7
  rlist := l
  sem := if bits x 24 1 = 1 then some (bits x 16 8) else none

/-- bar.init (R216). -/
def execBarInit (a b : Fin 64) (s : State) : Host.Outcome State Fault Refusal :=
  let c := curCore s
  let w := readG c a
  let x := readG c b
  let l := readG c (b + 1)
  let bad := bits w 30 34 != 0 || !bnLocal w || bits x 32 32 != 0 || decide (64 < bits x 25 7)
  let align := if bits x 25 7 = 0 then none else alignFail slotEN l 8
  issue s slotEN (.barInit a b) { noTests with opnd := failIf bad (illegal slotEN), align := align } fun s =>
    popsOf (onCur s fun c => { c with bars := mset c.bars (bnBar w) (barrierOf x l) }) (.barInit a b)

/-! ### Timelines (R217, R218) -/

/-- The value of the timeline a code names: t0 to t15, dt0 to dt63. -/
def timelineValue (s : State) (c : Core) (f : Nat) : Word :=
  if f < 64 then mget 0 c.tl f else mget 0 s.fcp.dt (f - 64)

/-- tl.rd: sampled at issue. -/
def execTlRd (a : Fin 64) (f : Fin 128) (s : State) : Host.Outcome State Fault Refusal :=
  issue s slotEN (.tlRd a f) noTests fun s =>
    pushReturn s (destG (curCore s) a) (.s (timelineValue s (curCore s) f))

/-- tl.inc. -/
def execTlInc (a : Fin 64) (f : Fin 128) (s : State) : Host.Outcome State Fault Refusal :=
  issue s slotEN (.tlInc a f) { noTests with ents := 1 } fun s =>
    pushAccess s (newAccess s (.tlInc f) (destG (curCore s) a) 1 false)

/-- tl.acq. -/
def execTlAcq (d a : Fin 64) (f : Fin 128) (s : State) : Host.Outcome State Fault Refusal :=
  issue s slotEN (.tlAcq d a f) { noTests with ents := 1 } fun s =>
    popsOf (pushAccess s (newAccess s (.tlAcq f (readG (curCore s) a)) (destG (curCore s) d) 1 false)) (.tlAcq d a f)

/-! ### Task records (R219) -/

/-- Tests of a task record's address. -/
def recTests (s : State) (a : Word) : Tests :=
  { opnd := none, align := alignFail slotEN a 64, dom := domainFail s slotEN a, hold := slotHold s (farAddr s false a), ents := 1
    slots := (farAddr s false a).toNat }

/-- task.dec. -/
def execTaskDec (a : Fin 64) (s : State) : Host.Outcome State Fault Refusal :=
  let ad := readG (curCore s) a
  issue s slotEN (.taskDec a) (recTests s ad) fun s =>
    popsOf (pushMem s [{ sp := false, addr := ad, ix := 0, op := .taskDec }] .none 0 .none 0 1 0 false) (.taskDec a)

/-- task.post: order 4 waits for the task's earlier stores to the record's owner. -/
def execTaskPost (a b : Fin 64) (s : State) : Host.Outcome State Fault Refusal :=
  let ad := readG (curCore s) a
  issue s slotEN (.taskPost a b) (recTests s ad) fun s =>
    popsOf (pushMem s [{ sp := false, addr := ad, ix := 0, op := .taskPost (bits (readG (curCore s) b) 0 32) }] .none 4
      .none 0 1 0 false) (.taskPost a b)

/-! ### Baskets (R220, R221) -/

/-- Naming a basket whose SIZE is 0. -/
def noBasket (c : Core) (b : Nat) : Option Cause := failIf (bkSize (basket c b) == 0) (illegal slotEN)

/-- The hold on a basket (R21, R409). -/
def basketHold (ok : Bool) (b : Nat) : Option Hold := if ok then none else some { sub := 2, obj := b, tl := 15 }

/-- bk.open: x false is .f, x true is .d. Taking the basket acquires its last transition (R159, R175). -/
def execBkOpen (a : Fin 64) (x : Bool) (s : State) : Host.Outcome State Fault Refusal :=
  let c := curCore s
  let b := bits (readG c a) 0 8
  let w := basket c b
  let ok := bkSt w == (if x then 2 else 0) && (bkNext w == 13 || bkNext w == 14)
  issue s slotEN (.bkOpen a x) { noTests with opnd := noBasket c b, hold := basketHold ok b } fun s =>
    popsOf (onCur s fun c =>
      { setBasket c b (bkMove w (if x then 3 else 1) 13 14) with q := max c.q (mget 0 c.bkTimes b) }) (.bkOpen a x)

/-- Tests of bk.close and bk.give: the task holds the basket. -/
def closeTests (c : Core) (b : Nat) (bad : Bool) : Tests :=
  let w := basket c b
  let held := bkHold w == 13 && (bkSt w == 1 || bkSt w == 3)
  { noTests with opnd := firstFail [noBasket c b, failIf (bad || !held) (illegal slotEN)], ents := 1 }

/-- bk.close. -/
def execBkClose (a : Fin 64) (s : State) : Host.Outcome State Fault Refusal :=
  let b := bits (readG (curCore s) a) 0 8
  issue s slotEN (.bkClose a) (closeTests (curCore s) b false) fun s =>
    popsOf (pushAccess s (newAccess s (.bkClose b 14) .none 1 false)) (.bkClose a)

/-- bk.give. -/
def execBkGive (a b : Fin 64) (s : State) : Host.Outcome State Fault Refusal :=
  let k := bits (readG (curCore s) a) 0 8
  let n := bits (readG (curCore s) b) 0 4
  issue s slotEN (.bkGive a b) (closeTests (curCore s) k (n == 15)) fun s =>
    popsOf (pushAccess s (newAccess s (.bkClose k n) .none 1 false)) (.bkGive a b)

/-- bk.init. -/
def execBkInit (a b : Fin 64) (s : State) : Host.Outcome State Fault Refusal :=
  let c := curCore s
  let k := bits (readG c a) 0 8
  let v := readG c b
  let off := bits v 0 22
  let size := bits v 22 22
  let bad := bits v 52 12 != 0 || off % 256 != 0 || size % 256 != 0 || size == 0
  issue s slotEN (.bkInit a b)
    { noTests with
      opnd := failIf bad (illegal slotEN)
      dom := failIf (!oneRange s s.cur off size) { Cause.precise 0x03 6 slotEN with tval := BitVec.ofNat 64 off }
      hold := basketHold (bkSt (basket c k) == 0) k } fun s =>
    popsOf (onCur s fun c =>
      let w := setBits (setBits (basket c k) 0 44 (bits v 0 44)) 54 8 (bits v 44 8)
      setBasket c k (setBits w 46 4 14)) (.bkInit a b)

end Sys2Proof.Machine
end

