-- ==== Sys2Proof/Machine/Projection.lean ====
section
/-! DEFINITION. The projection engine: its shape register (R373), records (R374, R375), forward and backward projection
(R376, R377, R380), merging and reading records (R378, R379), and the weight buffer it leaves (R381). -/

namespace Sys2Proof.Machine

/-! ### The shape register (R373) -/

def vpRbase (sh : List Word) : Nat := bits (sh.getD 8 0) 0 21
def vpSpsize (sh : List Word) : Nat := bits (sh.getD 9 0) 32 32
def vpSpoff (sh : List Word) : Nat := bits (sh.getD 9 0) 0 21
def vpEf (sh : List Word) : Nat := bits (sh.getD 10 0) 52 4
def vpKblk (sh : List Word) : Nat := bits (sh.getD 10 0) 46 6 + 1
def vpRows (sh : List Word) : Nat := bits (sh.getD 10 0) 41 5 + 1
def vpNl (sh : List Word) : Nat := bits (sh.getD 10 0) 38 3
def vpK (sh : List Word) : Nat := bits (sh.getD 10 0) 0 11
def vpV0 (sh : List Word) : Nat := bits (sh.getD 11 0) 32 32
def vpVn (sh : List Word) : Nat := bits (sh.getD 11 0) 0 32
def vpLbl (sh : List Word) : Nat := bits (sh.getD 12 0) 0 21
def vpHsp (sh : List Word) : Bool := bits (sh.getD 13 0) 63 1 == 1
def vpGsp (sh : List Word) : Bool := bits (sh.getD 13 0) 62 1 == 1
def vpDmode (sh : List Word) : Bool := bits (sh.getD 13 0) 61 1 == 1
def vpHpitch (sh : List Word) : Nat := bits (sh.getD 13 0) 0 40
def vpScale (sh : List Word) : Nat := bits (sh.getD 15 0) 32 32
def vpGpitch (sh : List Word) : Nat := bits (sh.getD 15 0) 0 32

/-- Bytes of a record with a heap of K entries (R374). -/
def recBytes (k : Nat) : Nat := 64 + 8 * k

/-- Two ranges overlap. -/
def rangesMeet (a n b m : Nat) : Bool := decide (a < b + m ∧ b < a + n ∧ 0 < n ∧ 0 < m)

/-- The failures of a projection command's operands in order (R244, R373). -/
def vpOpnd (s : State) (fwd : Bool) (sh : List Word) : Option Cause :=
  let e := (fmtAll (curCore s)).getD (vpEf sh) 0
  let a := layoutAt sh 0
  let w := layoutAt sh 4
  let h := 64 * vpKblk sh
  let spad (on : Bool) (base : Word) (n : Nat) : Bool :=
    on && (decide (2 ^ 22 ≤ base.toNat) || !allocated s s.cur base.toNat n)
  let common := a.bad || w.bad || bits (sh.getD 8 0) 21 43 != 0 || bits (sh.getD 10 0) 56 8 != 0 ||
    bits (sh.getD 10 0) 11 27 != 0
  let own :=
    if fwd then bits (sh.getD 9 0) 21 11 != 0 || 4 < vpNl sh || bits (sh.getD 12 0) 21 43 != 0
    else bits (sh.getD 13 0) 40 21 != 0
  firstFail
    [engIllegal (common || own),
     engBadFmt (!ftValid e),
     engIllegal (ftI32 e || ftHad e || a.sp == 2 || w.sp == 2 || a.bax != 0 || w.bax != 1 ||
       a.ew != opEw (ftFa e) || w.ew != opEw (ftFb e) || vpK sh == 0 || 1024 < vpK sh ||
       vpVn sh == 0 || 2 ^ 31 < vpVn sh || 2 ^ 32 - 1 < vpV0 sh + vpVn sh || vpRbase sh % 64 != 0 ||
       (if fwd then
          vpSpoff sh % 256 != 0 || vpLbl sh % 16 != 0 ||
            rangesMeet (vpRbase sh) (vpRows sh * recBytes (vpK sh)) (vpSpoff sh) (vpSpsize sh)
        else
          vpHpitch sh % 4 != 0 || vpGpitch sh % 4 != 0 ||
            spad (vpHsp sh) (sh.getD 12 0) ((vpRows sh - 1) * vpHpitch sh + 4 * h) ||
            spad (vpGsp sh) (sh.getD 14 0) ((h - 1) * vpGpitch sh + 4 * vpVn sh)))]

/-- Issue a projection command with a shape register (R372). -/
def vpIssue (s : State) (i : Instr) (k : EngKind) (fwd : Bool) (h : Nat) (sw : Bool) :
    Host.Outcome State Fault Refusal :=
  let sh := capturedShape (curCore s) (12 + h) sw
  issue s slotEN i
    { noTests with opnd := vpOpnd s fwd sh, align := layoutAlign [layoutAt sh 0, layoutAt sh 4],
                   hold := fullHold (curCore s) 9 } fun s =>
    popsOf (pushOp (onCur s fun x => swapShape x (12 + h) sw) 9 k sh [] []) i

/-- vp.fwd (R376). -/
def execVpFwd (h : Fin 4) (w : Bool) (s : State) : Host.Outcome State Fault Refusal :=
  vpIssue s (.vpFwd h w) .vpFwd true h w

/-- vp.bwd (R380). -/
def execVpBwd (h : Fin 4) (w : Bool) (s : State) : Host.Outcome State Fault Refusal :=
  vpIssue s (.vpBwd h w) .vpBwd false h w

/-- vp.merge (R378). -/
def execVpMerge (a b : Fin 64) (s : State) : Host.Outcome State Fault Refusal :=
  let x := (readG (curCore s) a).toNat
  let y := (readG (curCore s) b).toNat
  issue s slotEN (.vpMerge a b)
    { noTests with opnd := engIllegal (x % 64 != 0 || y % 64 != 0 || x == y), hold := fullHold (curCore s) 9 } fun s =>
    popsOf (pushOp s 9 (.vpMerge x y) [] [] []) (.vpMerge a b)

/-- vp.rd (R379): i is the index form. -/
def execVpRd (v : Fin 32) (a : Fin 64) (i : Bool) (s : State) : Host.Outcome State Fault Refusal :=
  let x := (readG (curCore s) a).toNat
  issue s slotEN (.vpRd v a i)
    { noTests with opnd := engIllegal (x % 64 != 0), hold := fullHold (curCore s) 9 } fun s =>
    popsOf (pushOp s 9 (.vpRd (destV (curCore s) v) x i) [] [] []) (.vpRd v a i)

/-! ### Records (R374, R375) -/

/-- A projection record. -/
structure ProjRec where
  m    : Nat
  s    : Nat
  k    : Nat
  nf   : Bool
  cap  : List Bool
  lmis : Bool
  row  : Nat
  vlo  : Nat
  vhi  : Nat
  lidx : List Nat
  llog : List Nat
  nrec : Nat
  heap : List (Nat × Nat)
  deriving DecidableEq, Repr

/-- The bytes of a record. -/
def projBytes (x : ProjRec) : List Byte :=
  let flags := x.nf.toNat + ((x.cap.zipIdx).foldl (fun f c => f + c.1.toNat * 2 ^ (1 + c.2)) 0) + x.lmis.toNat * 32
  let h := x.heap.take x.k
  leBytes 4 x.m ++ leBytes 4 x.s ++ leBytes 2 x.k ++ leBytes 2 h.length ++ leBytes 2 flags ++ leBytes 2 x.row ++
    leBytes 4 x.vlo ++ leBytes 4 x.vhi ++ (x.lidx.flatMap fun v => leBytes 4 v) ++
    (x.llog.flatMap fun v => leBytes 4 v) ++ leBytes 4 x.nrec ++ leBytes 4 0 ++
    (h.flatMap fun e => leBytes 8 (e.1 + e.2 * 2 ^ 32)) ++
    (List.replicate (x.k - h.length) 0xFFFFFFFFFF800000).flatMap fun v => leBytes 8 v

/-- A record from its bytes. -/
def projOf (bs : List Byte) : ProjRec :=
  let f (o n : Nat) : Nat := leNat ((bs.drop o).take n)
  let flags := f 12 2
  { m := f 0 4, s := f 4 4, k := f 8 2, nf := flags.testBit 0
    cap := (List.range 4).map fun j => flags.testBit (1 + j)
    lmis := flags.testBit 5, row := f 14 2, vlo := f 16 4, vhi := f 20 4
    lidx := (List.range 4).map fun j => f (24 + 4 * j) 4
    llog := (List.range 4).map fun j => f (40 + 4 * j) 4
    nrec := f 56 4
    heap := (List.range (min (f 10 2) (f 8 2))).map fun i => (f (64 + 8 * i) 4, f (68 + 8 * i) 4) }

/-- Entry a ranks above entry b (R375). -/
def ranksAbove (a b : Nat × Nat) : Bool :=
  let x := fp32.decode a.1
  let y := fp32.decode b.1
  y.lt x || (x.eqv y && decide (a.2 < b.2))

/-- Insert an entry in rank order. -/
def heapInsert (e : Nat × Nat) : List (Nat × Nat) → List (Nat × Nat)
  | [] => [e]
  | x :: r => if ranksAbove e x then e :: x :: r else x :: heapInsert e r

/-- Offer an entry to a heap of capacity k (R375). -/
def heapOffer (k : Nat) (h : List (Nat × Nat)) (e : Nat × Nat) : List (Nat × Nat) := (heapInsert e h).take k

/-- -inf and the -inf test. -/
def negInf : Nat := 0xFF800000

/-- e(x) of R376, without FTZ. -/
def projExp (x : Nat) : Nat := (exp2_32 false (smul x 0x3FB8AA3B)).1

/-- Maximum of two fp32 (R53). -/
def smax (x y : Nat) : Nat := (fp32.minmax true (fp32.decode x) (fp32.decode y)).1

/-- x - y, rounded to nearest even. -/
def ssub (x y : Nat) : Nat := sadd x (sneg y)

/-- x / y, correctly rounded to nearest even. -/
def sdiv (x y : Nat) : Nat := (fp32.div .rne (fp32.decode x) (fp32.decode y)).1

/-- A finite fp32. -/
def finite32 (x : Nat) : Bool := (fp32.decode x).isFin

/-! ### Logits (R376) -/

/-- The operand blocks of n K blocks from column (or, `down`, row) 0 on. -/
def projBlocks (k : Nat) (o : EngOp) (l : Layout) (f : OpFmt) (down : Bool) (y x : Int) : Nat → Run → Run × List Block
  | 0, r => (r, [])
  | n + 1, r =>
    let (r, b) := readBlock k 9 o l f down y x r
    let (r, bs) := projBlocks k o l f down (if down then y + 64 else y) (if down then x else x + 64) n r
    (r, b :: bs)

/-- The A blocks of row r. -/
def rowBlocks (k : Nat) (o : EngOp) (row : Nat) (r : Run) : Run × List Block :=
  let a := layoutAt o.shape 0
  projBlocks k o a (OpFmt.ofCode (ftFa (o.fmt.getD (vpEf o.shape) 0))) false (a.row0 + row) a.col0 (vpKblk o.shape) r

/-- The W blocks of column c. -/
def colBlocks (k : Nat) (o : EngOp) (c : Nat) (r : Run) : Run × List Block :=
  let w := layoutAt o.shape 4
  projBlocks k o w (OpFmt.ofCode (ftFb (o.fmt.getD (vpEf o.shape) 0))) true w.row0 (w.col0 + c) (vpKblk o.shape) r

/-- The logit of a row of A blocks and a column of W blocks: R66 to R70 from +0, K blocks ascending. -/
def logit (e : BitVec 32) (as ws : List Block) : Nat :=
  (List.zip as ws).foldl (fun acc p => (addPair false (OpFmt.ofCode (ftFa e)) (OpFmt.ofCode (ftFb e)) p.1 p.2 acc).x) 0

/-- The K step of block b has been converted: a physical fault that names the block stops the operation (R68, R376), and otherwise the
count of its failures ends (R240). The manual gives a projection no accumulator tile: the cause names the one the fault does. -/
def projCheck (k b : Nat) (r : Run) : Run :=
  if r.stop.isSome then r
  else
    let c := coreAt r.s k
    match c.faulty, c.residue with
    | some (9, tile, f), _ => if f = b then r.halt (.residue tile b) else r
    | _, some (9, _, f) => if f = b then { r with s := onCore r.s k fun c => { c with residue := none } } else r
    | _, _ => r

/-- Running state of a row: M, S, heap, NF. -/
structure RowState where
  m    : Nat
  s    : Nat
  heap : List (Nat × Nat)
  nf   : Bool
  deriving DecidableEq, Repr

/-- One tile's update of a row (R376): `tile` holds (logit, vocabulary index), ascending. -/
def tileUpdate (k : Nat) (x : RowState) (tile : List (Nat × Nat)) : RowState :=
  let f := tile.filter fun e => finite32 e.1
  let x := if f.length = tile.length then x else { x with nf := true }
  match f with
  | [] => x
  | _ :: _ =>
    let m1 := f.foldl (fun m e => smax m e.1) x.m
    let s0 := if x.m = negInf then x.s else smul x.s (projExp (ssub x.m m1))
    { x with
      m := m1
      s := f.foldl (fun s e => sadd s (projExp (ssub e.1 m1))) s0
      heap := f.foldl (heapOffer k) x.heap }

/-- A 4-byte scratchpad read of an operation. -/
def spWord (r : Run) (k : Nat) (o : EngOp) (a : Nat) : Run × Nat :=
  let (r, b, _) := engAccess r k 9 o true (BitVec.ofNat 64 a) (.load 4 false)
  (r, leNat b)

/-- The label words of a row: slots 0 to n - 1 (R376). -/
def labels (k : Nat) (o : EngOp) (row : Nat) : Nat → Run → Run × List Nat
  | 0, r => (r, [])
  | n + 1, r =>
    let (r, ls) := labels k o row n r
    let (r, x) := spWord r k o (vpLbl o.shape + 16 * row + 4 * n)
    (r, ls ++ [x])

/-- What vp.fwd carries from one step of a row to the next (R382): the running state, the labels, their captured logits with a bit for
each slot captured, and the logits of the present tile as far as they have come. -/
structure FwdState where
  row  : RowState
  labs : List Nat
  llog : List Nat
  cap  : Nat
  accs : List Nat
  deriving DecidableEq, Repr

/-- The state as words, for the engine-state record (R235). -/
def FwdState.words (x : FwdState) : List Word :=
  ([x.row.m, x.row.s, x.row.nf.toNat, x.cap, x.row.heap.length] ++ ((List.range 4).map fun j => x.labs.getD j 0xFFFFFFFF) ++
    ((List.range 4).map fun j => x.llog.getD j 0) ++ (x.row.heap.map fun (e : Nat × Nat) => e.1 + e.2 * 2 ^ 32) ++ x.accs).map (BitVec.ofNat 64)

/-- The state from its words. -/
def FwdState.of (ws : List Word) : FwdState :=
  let w (i : Nat) : Nat := (ws.getD i 0).toNat
  { row := { m := w 0, s := w 1, nf := w 2 == 1, heap := (List.range (w 4)).map fun i => (w (13 + i) % 2 ^ 32, w (13 + i) / 2 ^ 32) }
    cap := w 3, labs := (List.range 4).map fun j => w (5 + j), llog := (List.range 4).map fun j => w (9 + j)
    accs := (ws.drop (13 + w 4)).map BitVec.toNat }

/-- The record of a finished row (R376). -/
def rowRecord (sh : List Word) (row : Nat) (x : FwdState) : ProjRec :=
  { m := x.row.m, s := x.row.s, k := vpK sh, nf := x.row.nf
    cap := (List.range 4).map x.cap.testBit
    lmis := false, row := row, vlo := vpV0 sh, vhi := vpV0 sh + vpVn sh
    lidx := x.labs, llog := x.llog, nrec := 1, heap := x.row.heap }

/-- The weight buffer's contents become unspecified (R381). -/
def spoilWeights (s : State) (k : Nat) : State :=
  onCore { s with tick := s.tick + 1 } k fun c => { c with wbuf := [], wfree := some s.tick }

/-- Columns of tile t. -/
def tileCols (sh : List Word) (t : Nat) : Nat := min 32 (vpVn sh - 32 * t)

/-- Steps of one row of vp.fwd: its start; for each tile the K steps of the array and the update of the state (R382); its record. -/
def fwdRowSteps (sh : List Word) : Nat := (vpVn sh + 31) / 32 * (vpKblk sh + 1) + 2

/-- The start of a row: its labels are read (R376; when, within the row, is not fixed: DESIGN CHOICE [113]). -/
def fwdBegin (k : Nat) (o : EngOp) (row : Nat) (r : Run) : Run × FwdState :=
  let (r, lab) := labels k o row (vpNl o.shape) r
  (r, { row := { m := negInf, s := 0, heap := [], nf := false }, labs := (List.range 4).map fun j => lab.getD j 0xFFFFFFFF
        llog := [0, 0, 0, 0], cap := 0, accs := [] })

/-- The W blocks of K block b for n columns from column c. -/
def tileBlocks (k : Nat) (o : EngOp) (b : Nat) : Nat → Nat → Run → Run × List Block
  | 0, _, r => (r, [])
  | n + 1, c, r =>
    let w := layoutAt o.shape 4
    let (r, x) := readBlock k 9 o w (OpFmt.ofCode (ftFb (o.fmt.getD (vpEf o.shape) 0))) true (w.row0 + (64 * b : Nat)) (w.col0 + c) r
    let (r, xs) := tileBlocks k o b n (c + 1) r
    (r, x :: xs)

/-- One K step of the array: block b of the row and of the columns of tile t are added to the tile's logits (R66 to R70), unless the
residue check of that block fails (R68). -/
def fwdBlock (k : Nat) (o : EngOp) (row t b : Nat) (x : FwdState) (r : Run) : Run × FwdState :=
  let e := o.fmt.getD (vpEf o.shape) 0
  let fa := OpFmt.ofCode (ftFa e)
  let a := layoutAt o.shape 0
  let n := tileCols o.shape t
  let (r, ab) := readBlock k 9 o a fa false (a.row0 + row) (a.col0 + (64 * b : Nat)) r
  let (r, ws) := tileBlocks k o b n (32 * t) r
  (projCheck k b r, { x with accs := (List.range n).map fun i =>
    (addPair false fa (OpFmt.ofCode (ftFb e)) ab (ws.getD i { scale := 0, mant := [] }) (if b = 0 then 0 else x.accs.getD i 0)).x })

/-- Label slots whose logit lies in tile t. -/
def tileLabels (sh : List Word) (t : Nat) (x : FwdState) : List Nat :=
  (List.range (vpNl sh)).filter fun j =>
    let y := x.labs.getD j 0
    decide (vpV0 sh + 32 * t ≤ y ∧ y < vpV0 sh + 32 * t + tileCols sh t)

/-- One tile's state update (R376): M, S, heap and NF, and the label logits captured. -/
def fwdUpdate (sh : List Word) (t : Nat) (x : FwdState) : FwdState :=
  let js := tileLabels sh t x
  { x with
    row := tileUpdate (vpK sh) x.row (x.accs.zipIdx.map fun l => (l.1, vpV0 sh + 32 * t + l.2))
    llog := (List.range 4).map fun j => if js.contains j then x.accs.getD (x.labs.getD j 0 - (vpV0 sh + 32 * t)) 0 else x.llog.getD j 0
    cap := js.foldl (fun m j => m ||| 2 ^ j) x.cap
    accs := [] }

/-- The end of a row: its record is written (R376). With K > 64 the row's heap has lain in the spill area, whose bytes are left
unspecified (R377). -/
def fwdRecord (k : Nat) (o : EngOp) (row : Nat) (x : FwdState) (r : Run) : Run :=
  let sh := o.shape
  let sp := vpSpoff sh + 8 * vpK sh * row
  let r :=
    if vpK sh ≤ 64 then r
    else
      let tick := r.s.tick
      let junk := (List.range (8 * vpK sh)).map fun i => Config.freeByte tick (sp + i)
      (engAccess { r with s := { r.s with tick := tick + 1 } } k 9 o true (BitVec.ofNat 64 sp) (.store junk false)).1
  (engAccess r k 9 o true (BitVec.ofNat 64 (vpRbase sh + row * recBytes (vpK sh))) (.store (projBytes (rowRecord sh row x)) false)).1

/-- One step of vp.fwd (R376, R382). -/
def fwdStep (k : Nat) (o : EngOp) (r : Run) : Run × List Word :=
  let sh := o.shape
  let row := o.pos / fwdRowSteps sh
  let p := o.pos % fwdRowSteps sh
  let x := FwdState.of o.aux
  if p = 0 then
    let (r, x) := fwdBegin k o row (if row = 0 then { r with s := spoilWeights r.s k } else r)
    (r, x.words)
  else if p + 1 = fwdRowSteps sh then (fwdRecord k o row x r, [])
  else
    let t := (p - 1) / (vpKblk sh + 1)
    let b := (p - 1) % (vpKblk sh + 1)
    if b < vpKblk sh then
      let (r, x) := fwdBlock k o row t b x r
      (r, x.words)
    else (r, (fwdUpdate sh t x).words)

/-- A vp.fwd whose spill area is too small (R377). -/
def spillShort (o : EngOp) : Bool :=
  o.kind == .vpFwd && 64 < vpK o.shape && vpSpsize o.shape < 8 * vpK o.shape * vpRows o.shape

/-! ### Merging and reading records (R378, R379) -/

/-- Read a record at a scratchpad offset: header and valid heap entries. -/
def readRecord (r : Run) (k : Nat) (o : EngOp) (a : Nat) : Run × ProjRec :=
  let (r, h, _) := engAccess r k 9 o true (BitVec.ofNat 64 a) (.load 64 false)
  let n := min (leNat ((h.drop 10).take 2)) (leNat ((h.drop 8).take 2))
  if n = 0 then (r, projOf h)
  else
    let (r, e, _) := engAccess r k 9 o true (BitVec.ofNat 64 (a + 64)) (.load (8 * n) false)
    (r, projOf (h ++ e))

/-- S scaled to a new maximum; a record with M = -inf counts as +0 (R378). -/
def mergeTerm (x : ProjRec) (m : Nat) : Nat := if x.m = negInf then 0 else smul x.s (projExp (ssub x.m m))

/-- The merge of source y into destination x (R378). -/
def mergeRecords (x y : ProjRec) : ProjRec :=
  let m := smax x.m y.m
  let j4 := List.range 4
  let same (j : Nat) : Bool := x.lidx.getD j 0 == y.lidx.getD j 0
  let take (j : Nat) : Bool := same j && !x.cap.getD j false && y.cap.getD j false
  { x with
    m := m
    s := sadd (mergeTerm x m) (mergeTerm y m)
    heap := ((x.heap ++ y.heap).foldl (fun h e => heapInsert e h) []).take x.k
    cap := j4.map fun j => x.cap.getD j false || take j
    llog := j4.map fun j => if take j then y.llog.getD j 0 else x.llog.getD j 0
    nf := x.nf || y.nf
    lmis := x.lmis || y.lmis || !(j4.all same)
    vlo := min x.vlo y.vlo
    vhi := max x.vhi y.vhi
    nrec := (x.nrec + y.nrec) % 2 ^ 32 }

/-- vp.merge. -/
def mergeStep (k : Nat) (o : EngOp) (a b : Nat) (r : Run) : Run :=
  let (r, x) := readRecord r k o a
  let (r, y) := readRecord r k o b
  (engAccess r k 9 o true (BitVec.ofNat 64 a) (.store (projBytes (mergeRecords x y)) false)).1

/-- Lane i of vp.rd (R379). -/
def rdLane (x : ProjRec) (ix : Bool) (i : Nat) : Nat :=
  match x.heap[i]? with
  | some (l, v) => if ix then v else sdiv (projExp (ssub l x.m)) x.s
  | none => if ix then 0xFFFFFFFF else 0

/-- vp.rd: the lanes it will write. -/
def rdStep (k : Nat) (o : EngOp) (a : Nat) (ix : Bool) (r : Run) : Run × List Word :=
  let (r, x) := readRecord r k o a
  (r, (List.range 64).map fun i => BitVec.ofNat 64 (rdLane x ix i))

/-! ### Backward projection (R380) -/

/-- The exact value of an element of a block; every element of a NaN block is a NaN (R64, R380). -/
def blockElem (f : OpFmt) (b : Block) (j : Nat) : FVal :=
  if b.isNan f then .nan false
  else let q := b.mant.getD j 0; .fin (q < 0) q.natAbs ((b.scale : Int) - 127)

/-- The exact value of hidden element h of a list of blocks. -/
def hiddenElem (f : OpFmt) (bs : List Block) (h : Nat) : FVal :=
  blockElem f (bs.getD (h / 64) { scale := 0, mant := [] }) (h % 64)

/-- Blocks of the rows of A, or of columns of W, n from index i. -/
def manyBlocks (get : Nat → Run → Run × List Block) : Nat → Nat → Run → Run × List (List Block)
  | 0, _, r => (r, [])
  | n + 1, i, r =>
    let (r, b) := get i r
    let (r, bs) := manyBlocks get n (i + 1) r
    (r, b :: bs)

/-- M, S and LIDX[0] of each row's record. -/
def rowStats (k : Nat) (o : EngOp) : Nat → Nat → Run → Run × List (Nat × Nat × Nat)
  | 0, _, r => (r, [])
  | n + 1, i, r =>
    let a := vpRbase o.shape + i * recBytes (vpK o.shape)
    let (r, m) := spWord r k o a
    let (r, s) := spWord r k o (a + 4)
    let (r, l) := spWord r k o (a + 24)
    let (r, xs) := rowStats k o n (i + 1) r
    (r, (m, s, l) :: xs)

/-- g(r, c) of R380. -/
def gradient (scale l : Nat) (st : Nat × Nat × Nat) (v : Nat) : Nat :=
  if finite32 l then
    let p := sdiv (projExp (ssub l st.1)) st.2.1
    smul (ssub p (if v = st.2.2 then 0x3F800000 else 0)) scale
  else 0x7FC00000

/-- x × g + acc with one rounding. -/
def fmaVal (x : FVal) (g acc : Nat) : Nat := (fp32.fma .rne x (fp32.decode g) (fp32.decode acc)).1

/-- Steps of one tile: the computation, an add for each dh element, a store or add for each dW element. -/
def bwdTileSteps (sh : List Word) : Nat := 1 + 64 * vpKblk sh * (vpRows sh + 32)

/-- The first step of a tile: dt (row by row), then dw (hidden by hidden, 32 to each), carried to the steps after. -/
def bwdCompute (k : Nat) (o : EngOp) (t : Nat) (r : Run) : Run × List Word :=
  let sh := o.shape
  let e := o.fmt.getD (vpEf sh) 0
  let fa := OpFmt.ofCode (ftFa e)
  let fb := OpFmt.ofCode (ftFb e)
  let rows := vpRows sh
  let hid := 64 * vpKblk sh
  let (r, as) := manyBlocks (rowBlocks k o) rows 0 r
  let (r, ws) := manyBlocks (colBlocks k o) (tileCols sh t) (32 * t) r
  let r := (List.range (vpKblk sh)).foldl (fun r b => projCheck k b r) r
  let (r, st) := rowStats k o rows 0 r
  let g (row c : Nat) : Nat :=
    gradient (vpScale sh) (logit e (as.getD row []) (ws.getD c [])) (st.getD row (0, 0, 0)) (vpV0 sh + 32 * t + c)
  let gs := (List.range rows).map fun row => (List.range (tileCols sh t)).map (g row)
  let gAt (row c : Nat) : Nat := (gs.getD row []).getD c 0
  let dt (row h : Nat) : Nat :=
    (List.range (tileCols sh t)).foldl (fun acc c => fmaVal (hiddenElem fb (ws.getD c []) h) (gAt row c) acc) 0
  let dw (h c : Nat) : Nat :=
    if c < tileCols sh t then
      (List.range rows).foldl (fun acc row => fmaVal (hiddenElem fa (as.getD row []) h) (gAt row c) acc) 0
    else 0
  (r, ((List.range (rows * hid)).map fun i => BitVec.ofNat 64 (dt (i / hid) (i % hid))) ++
      ((List.range (hid * 32)).map fun i => BitVec.ofNat 64 (dw (i / 32) (i % 32))))

/-- One step of vp.bwd. -/
def bwdStep (k : Nat) (o : EngOp) (r : Run) : Run × List Word :=
  let sh := o.shape
  let n := bwdTileSteps sh
  let t := o.pos / n
  let p := o.pos % n
  let hid := 64 * vpKblk sh
  let rows := vpRows sh
  if p = 0 then bwdCompute k o t (if t = 0 then { r with s := spoilWeights r.s k } else r)
  else
    let v := o.aux.getD (p - 1) 0
    if p - 1 < rows * hid then
      let row := (p - 1) / hid
      let h := (p - 1) % hid
      let a := sh.getD 12 0 + BitVec.ofNat 64 (row * vpHpitch sh + 4 * h)
      ((engAccess r k 9 o (vpHsp sh) a (.mop .add .flt 4 v 0)).1, o.aux)
    else
      let i := p - 1 - rows * hid
      let h := i / 32
      let c := i % 32
      if tileCols sh t ≤ c then (r, o.aux)
      else
        let a := sh.getD 14 0 + BitVec.ofNat 64 (h * vpGpitch sh + 4 * (32 * t + c))
        ((engAccess r k 9 o (vpGsp sh) a
          (if vpDmode sh then .mop .add .flt 4 v 0 else .store (leBytes 4 v.toNat) false)).1, o.aux)

/-- Steps of a projection operation. -/
def vpSteps (o : EngOp) : Nat :=
  match o.kind with
  | .vpFwd => if spillShort o then 0 else vpRows o.shape * fwdRowSteps o.shape
  | .vpBwd => (vpVn o.shape + 31) / 32 * bwdTileSteps o.shape
  | _ => 1

/-- One step of a projection operation. -/
def vpStep (k : Nat) (o : EngOp) (r : Run) : Run × List Word :=
  match o.kind with
  | .vpFwd => fwdStep k o r
  | .vpBwd => bwdStep k o r
  | .vpMerge a b => (mergeStep k o a b r, o.aux)
  | .vpRd _ a ix => rdStep k o a ix r
  | _ => (r, o.aux)

/-- The image vp.rd writes. -/
def vpRdValue (o : EngOp) : VWord := fromElems 32 (o.aux.map BitVec.toNat)

end Sys2Proof.Machine
end

