-- ==== Sys2Proof/Machine/Equivalence.lean ====
section
/-! DEFINITION. The equivalence engine: forests (R383 to R386), list operations (R387 to R389), snapshots and the log
(R390, R391). -/

namespace Sys2Proof.Machine

/-! ### Issue (R371, R372, R387) -/

/-- Fields of F12 (R387). -/
def eqCnt (sh : List Word) : Nat := bits (sh.getD 12 0) 0 24 + 1
def eqTw (sh : List Word) : Nat := bits (sh.getD 12 0) 24 16 + 1

/-- The layouts a list command uses. -/
def eqLayouts (k : EngKind) (sh : List Word) : List Layout :=
  match k with
  | .eqUnite _ => [layoutAt sh 0]
  | .eqFind _ => [layoutAt sh 0, layoutAt sh 4]
  | .eqRelab _ _ => [layoutAt sh 0, layoutAt sh 4, layoutAt sh 8]
  | _ => []

/-- Issue a list command of the EQE. -/
def eqIssue (s : State) (i : Instr) (k : EngKind) (h : Nat) (sw : Bool) : Host.Outcome State Fault Refusal :=
  let sh := capturedShape (curCore s) (12 + h) sw
  let ls := eqLayouts k sh
  let bad := bits (sh.getD 12 0) 40 24 != 0 || sh.getD 13 0 != 0 || sh.getD 14 0 != 0 || sh.getD 15 0 != 0 ||
    ls.any fun l => l.bad || l.ew != 3 || l.sp == 2
  issue s slotEN i
    { noTests with opnd := engIllegal bad, align := layoutAlign ls, hold := fullHold (curCore s) 10 } fun s =>
    popsOf (pushOp (onCur s fun x => swapShape x (12 + h) sw) 10 k sh [] []) i

/-- Issue a command of the EQE that names no shape register. -/
def eqPlain (s : State) (i : Instr) (k : EngKind) : Host.Outcome State Fault Refusal :=
  issue s slotEN i { noTests with hold := fullHold (curCore s) 10 } fun s => popsOf (pushOp s 10 k [] [] []) i

/-- eq.unite (R388). -/
def execEqUnite (h : Fin 4) (w : Bool) (f : Fin 4) (s : State) : Host.Outcome State Fault Refusal :=
  eqIssue s (.eqUnite h w f) (.eqUnite f) h w

/-- eq.unite.new (R384). -/
def execEqUniteNew (a : Fin 64) (f : Fin 4) (s : State) : Host.Outcome State Fault Refusal :=
  eqPlain s (.eqUniteNew a f) (.eqNew f (readG (curCore s) a))

/-- eq.find (R388). -/
def execEqFind (h : Fin 4) (w : Bool) (f : Fin 4) (s : State) : Host.Outcome State Fault Refusal :=
  eqIssue s (.eqFind h w f) (.eqFind f) h w

/-- eq.relab (R389). -/
def execEqRelab (h : Fin 4) (w : Bool) (o : RelabOp) (f : Fin 4) (s : State) : Host.Outcome State Fault Refusal :=
  eqIssue s (.eqRelab h w o f) (.eqRelab f o) h w

/-- eq.snap (R390). -/
def execEqSnap (f : Fin 4) (s : State) : Host.Outcome State Fault Refusal := eqPlain s (.eqSnap f) (.eqSnap f)

/-- eq.undo (R390). -/
def execEqUndo (f : Fin 4) (s : State) : Host.Outcome State Fault Refusal := eqPlain s (.eqUndo f) (.eqUndo f)

/-- eq.commit (R390), with x the free form. -/
def execEqCommit (x : Bool) (f : Fin 4) (s : State) : Host.Outcome State Fault Refusal :=
  eqPlain s (.eqCommit x f) (.eqCommit f x)

/-- eq.size (R388). -/
def execEqSize (a b : Fin 64) (f : Fin 4) (s : State) : Host.Outcome State Fault Refusal :=
  eqPlain s (.eqSize a b f) (.eqSize f (destG (curCore s) b) (readG (curCore s) a))

/-! ### EQST (R391) -/

/-- Record the first error of EQST. -/
def eqErr (s : State) (k n : Nat) : State :=
  onCore s k fun c =>
    if bits c.csr.eqst 16 8 = 0 then { c with csr := { c.csr with eqst := setBits c.csr.eqst 16 8 n } } else c

/-- Count an out-of-range item. -/
def eqOob (s : State) (k : Nat) : State :=
  onCore s k fun c =>
    { c with csr := { c.csr with eqst := setBits c.csr.eqst 32 32 (min (2 ^ 32 - 1) (bits c.csr.eqst 32 32 + 1)) } }

/-! ### Backing area and log (R384, R390) -/

/-- A forest at work: the state, the forest's record, the core that asks, and what the step's accesses have given (Machine/Engine.lean): an item
that stops at an AIRED page goes on from the access at which it stopped, so that no two of its pages need be there at once (R166). -/
structure EqRun where
  s : State
  f : Forest
  k : Nat
  todo : List (List Byte × Bool)
  log  : List (List Byte × Bool)
  deriving DecidableEq, Repr

/-- Why an item was not applied: the log is full, or an access failed. -/
inductive EqStop where
  | full
  | bad (b : Bad) (a : Word)
  deriving DecidableEq, Repr

/-- What an item comes to: a stop with the run so far, or the run after it and a value. -/
abbrev EqRes (α : Type) : Type := Except (EqStop × EqRun) (EqRun × α)

/-- The EQE as a die unit; its accesses to forests are racy-permitted (R384). -/
def eqWho (s : State) : Who := { agent := agentId 2 s.port.rank 2 0, q := s.time, rx := true }

/-- An access for the owner's context; one that the step has already made is not made again (R245). It resets the livelock count of its own
fault (R165). -/
def eqAccess (e : EqRun) (a : Word) (op : MemOp) : EqRes (List Byte) :=
  match e.todo with
  | x :: rest => .ok ({ e with todo := rest, log := x :: e.log }, x.1)
  | [] =>
    match performMem e.s (coreKey e.f.owner 0) (eqWho e.s) false a op with
    | .error b => .error (.bad b a, e)
    | .ok (s, g) => .ok ({ e with s := performedAt s e.k a op, log := (g.bytes, false) :: e.log }, g.bytes)

/-- Read n bytes for the owner's context. -/
def eqRead (e : EqRun) (a : Word) (n : Nat) : EqRes Nat := (eqAccess e a (.load n false)).map fun r => (r.1, leNat r.2)

/-- Write n bytes for the owner's context. -/
def eqWrite (e : EqRun) (a : Word) (n v : Nat) : Except (EqStop × EqRun) EqRun := (eqAccess e a (.store (leBytes n v) false)).map Prod.fst

/-- The address of an element's parent word (kind 0) or size word (kind 1). -/
def eqAddr (f : Forest) (kind i : Nat) : Word := f.back + BitVec.ofNat 64 (4 * (kind * f.n + i))

/-- Write a parent or size word, logging the old one first when a snapshot is open (R390). -/
def eqPut (e : EqRun) (kind i v : Nat) : Except (EqStop × EqRun) EqRun :=
  match e.f.open_ with
  | none => eqWrite e (eqAddr e.f kind i) 4 v
  | some n =>
    if 65536 ≤ n then .error (.full, e)
    else
      match eqRead e (eqAddr e.f kind i) 4 with
      | .error x => .error x
      | .ok (e, old) =>
        match eqWrite e (e.f.log + BitVec.ofNat 64 (8 * n)) 8 (i + kind * 2 ^ 26 + old * 2 ^ 32) with
        | .error x => .error x
        | .ok e => eqWrite { e with f := { e.f with open_ := some (n + 1) } } (eqAddr e.f kind i) 4 v

/-- The nodes from x up to the root, the root last; indices stay below N (R384, R386). -/
def eqPath (e : EqRun) : Nat → Nat → EqRes (List Nat)
  | 0, x => .ok (e, [x])
  | n + 1, x =>
    match eqRead e (eqAddr e.f 0 x) 4 with
    | .error y => .error y
    | .ok (e1, p) =>
      let p := p % max 1 e.f.n
      if p = x then .ok (e1, [x])
      else
        match eqPath e1 n p with
        | .error y => .error y
        | .ok (e2, r) => .ok (e2, x :: r)

/-- Point every node of a path at the root (R386). -/
def eqCompress (root : Nat) : List Nat → EqRun → Except (EqStop × EqRun) EqRun
  | [], e => .ok e
  | v :: r, e =>
    if v = root then eqCompress root r e
    else
      match eqPut e 0 v root with
      | .error x => .error x
      | .ok e => eqCompress root r e

/-- find (R386). -/
def eqFindItem (e : EqRun) (x : Nat) : EqRes Nat :=
  match eqPath e e.f.n x with
  | .error y => .error y
  | .ok (e, p) =>
    let root := p.getLast?.getD x
    match eqCompress root p e with
    | .error y => .error y
    | .ok e => .ok (e, root)

/-- unite (R386). -/
def eqUniteItem (e : EqRun) (a b : Nat) : Except (EqStop × EqRun) EqRun := do
  let (e, ra) ← eqFindItem e a
  let (e, rb) ← eqFindItem e b
  if ra = rb then .ok e
  else
    let lo := min ra rb
    let hi := max ra rb
    let e ← eqPut e 0 hi lo
    let (e, x) ← eqRead e (eqAddr e.f 1 lo) 4
    let (e, y) ← eqRead e (eqAddr e.f 1 hi) 4
    eqPut e 1 lo ((x + y) % 2 ^ 32)

/-- The size of x's class (R388). -/
def eqSizeItem (e : EqRun) (x : Nat) : Except (EqStop × EqRun) (EqRun × Nat) := do
  let (e, r) ← eqFindItem e x
  eqRead e (eqAddr e.f 1 r) 4

/-- Restore the logged words of n entries above entry `lo`, from the last down (R390). Software stores to the log leave every index below
N (R384). -/
def eqUndoFrom (lo : Nat) : Nat → EqRun → Except (EqStop × EqRun) EqRun
  | 0, e => .ok e
  | n + 1, e => do
    let (e, w) ← eqRead e (e.f.log + BitVec.ofNat 64 (8 * (lo + n))) 8
    let e ← eqWrite e (eqAddr e.f (w / 2 ^ 26 % 2) (w % 2 ^ 26 % max 1 e.f.n)) 4 (w / 2 ^ 32)
    eqUndoFrom lo n e

/-! ### Running an operation -/

/-- The forest slot of an operation. -/
def eqSlot : EngKind → Nat
  | .eqUnite f | .eqNew f _ | .eqFind f | .eqRelab f _ | .eqSnap f | .eqUndo f | .eqCommit f _ | .eqSize f _ _ => f
  | _ => 0

/-- Replace a forest slot. -/
def setForest (s : State) (fs : Nat) (f : Option Forest) : State := { s with forests := mput none s.forests fs f }

/-- The EQE-log-full trap of an operation (R391). -/
def logFull (s : State) (k : Nat) (o : EngOp) (row : Nat) : State :=
  engReport s k 10 o { code := 0x0B, sub := 0, gran := 0, agent := 0, time := 0 } (BitVec.ofNat 64 row) 1

/-- Another core's operation has stopped inside an item of the same forest, more than its index reads done: the EQE finishes that item
first. -/
def eqInside (s : State) (k : Nat) (o : EngOp) : Bool :=
  s.cores.any fun e => e.1 != k && match (queueOf e.2 10).head? with
    | some p => eqSlot p.kind == eqSlot o.kind && decide (2 < p.log.length)
    | none => false

/-- Apply an item to a forest: the state after it and its value. An item that finds the log full is undone from its own entries and ends the
operation at `row` (R391). -/
def eqItem {α : Type} (r : Run) (k : Nat) (o : EngOp) (f : Forest) (row : Nat) (d : α) (item : EqRun → EqRes α) : Run × α × Bool :=
  let from_ (e : EqRun) : Run := { r with s := e.s, todo := e.todo, log := e.log }
  let halted (b : Bad) (a : Word) (e : EqRun) : Run × α × Bool := ({ from_ e with stop := some (.fault b a 0) }, d, false)
  if r.stop.isSome then (r, d, false)
  else if eqInside r.s k o then ({ r with stop := some .wait }, d, false)
  else
    match item { s := r.s, f := f, k := k, todo := r.todo, log := r.log } with
    | .ok (e, x) => ({ from_ e with s := setForest e.s (eqSlot o.kind) (some e.f) }, x, false)
    | .error (.bad b a, e) => halted b a e
    | .error (.full, e) =>
      let lo := f.open_.getD 0
      match eqUndoFrom lo (e.f.open_.getD lo - lo) e with
      | .ok e => ({ from_ e with s := logFull e.s k o row }, d, true)
      | .error (.bad b a, e) => halted b a e
      | .error (.full, e) => (from_ e, d, true)

/-- The mark of an operation that has ended early. -/
def eqEnd : List Word := [BitVec.allOnes 64]

/-- One list index: its value and whether it is out of range (R387). -/
def eqIndex (r : Run) (k : Nat) (o : EngOp) (l : Layout) (n i col : Nat) : Run × Nat × Bool :=
  let y := l.row0 + (i : Int)
  let x := l.col0 + (col : Int)
  let (r, v, p) := readElem r k 10 o [] l y x
  (r, v, decide (n ≤ v) || !l.inside y x || p)

/-- Count an out-of-range item unless the step has stopped. -/
def oobRun (r : Run) (k : Nat) (b : Bool) : Run := if b && r.stop.isNone then { r with s := eqOob r.s k } else r

/-- The contributing rows of an eq.relab from its carried words: (root, x, i), in the order of R389. -/
def relabRows (aux : List Word) : List (Nat × Nat × Nat) :=
  let rows := (List.range (aux.length / 2)).filterMap fun i =>
    let q := (aux.getD (2 * i) 0).toNat
    if q = 0 then none else some (q - 1, (aux.getD (2 * i + 1) 0).toNat, i)
  rows.insertionSort fun a b => a.1 < b.1 ∨ (a.1 = b.1 ∧ (a.2.1 < b.2.1 ∨ (a.2.1 = b.2.1 ∧ a.2.2 ≤ b.2.2)))

/-- Combine the contributions of a class in order (R389). -/
def relabValue (op : RelabOp) (xs : List Nat) : Nat :=
  let sum := xs.foldl sadd 0
  match op with
  | .sum => sum
  | .max => xs.foldl smax negInf
  | .mean => sdiv sum (intToF fp32 .rne xs.length).1

/-- Read S(i, j) for the rows of a class. -/
def relabRead (k : Nat) (o : EngOp) (j : Nat) : List Nat → Run → Run × List Nat
  | [], r => (r, [])
  | i :: is, r =>
    let l := layoutAt o.shape 0
    let (r, v, _) := readElem r k 10 o [] l (l.row0 + (i : Int)) (l.col0 + (j : Int))
    let (r, vs) := relabRead k o j is r
    (r, v :: vs)

/-- The second half of eq.relab: column j of the class of rank c (R389). -/
def relabStep (k : Nat) (o : EngOp) (op : RelabOp) (r : Run) : Run :=
  let q := o.pos - eqCnt o.shape
  let j := q % eqTw o.shape
  let rows := relabRows o.aux
  match ((rows.map Prod.fst).dedup)[q / eqTw o.shape]? with
  | none => r
  | some root =>
    let (r, vs) := relabRead k o j ((rows.filter fun x => x.1 == root).map fun x => x.2.2) r
    let d := layoutAt o.shape 4
    writeElem r k 10 o [] d root (d.col0 + (j : Int)) (relabValue op vs)

/-- Every page of an area can be read (R384); one that is AIRED can be brought back. -/
def eqReach (s : State) (ctx : Nat) (a : Word) (n : Nat) : Bool :=
  (List.range ((localOf a % 32768 + n + 32767) / 32768)).all fun i =>
    match locateAny s (coreKey ctx 0) false (if i = 0 then a else BitVec.ofNat 64 (a.toNat - a.toNat % 32768 + 32768 * i)) 1 .load with
    | .ok _ => true
    | .error f => f == 2

/-- The words of the backing area's 4 KiB chunk c in a new forest of n elements: each its own root, of size 1 (R384). -/
def eqChunk (n c : Nat) : List Byte :=
  (List.range (min 1024 (2 * n - 1024 * c))).flatMap fun i => leBytes 4 (if 1024 * c + i < n then 1024 * c + i else 1)

/-- Write chunks c to c + m - 1, each by itself, so that one page at a time is needed (R166). -/
def eqInit (c : Nat) : Nat → EqRun → Except (EqStop × EqRun) EqRun
  | 0, e => .ok e
  | m + 1, e =>
    match eqAccess e (e.f.back + BitVec.ofNat 64 (4096 * c)) (.store (eqChunk e.f.n c) false) with
    | .error x => .error x
    | .ok (e, _) => eqInit (c + 1) m e

/-- eq.unite.new (R384). A page of an area that is AIRED is brought back, as for any access of an operation (R165). -/
def newStep (k : Nat) (o : EngOp) (fs : Nat) (a : Word) (r : Run) : Run :=
  let ctx := keyCtx k
  let err (r : Run) (n : Nat) : Run := if r.stop.isSome then r else { r with s := eqErr r.s k n }
  if !canonical a || ownerOf a != r.s.port.rank then err r 5
  else if (match mget none r.s.forests fs with | some f => f.owner != ctx | none => false) then err r 2
  else
    let (r, d, _) := engAccess r k 10 o false a (.load 64 false)
    let w (o n : Nat) : Nat := leNat ((d.drop o).take n)
    let back : Word := BitVec.ofNat 64 (w 0 8)
    let log : Word := BitVec.ofNat 64 (w 8 8)
    let n := w 16 4
    let off (x : Word) (l : Nat) : Bool :=
      x.toNat % 4096 != 0 || !canonical x || ownerOf x != r.s.port.rank || decide (2 ^ 47 < localOf x + l)
    if r.stop.isSome then r
    else if n = 0 || 2 ^ 26 < n || off back (8 * n) || off log 524288 || (d.drop 20).any (· != 0) then err r 5
    else if !eqReach r.s ctx back (8 * n) || !eqReach r.s ctx log 524288 then err r 5
    else
      let f : Forest := { owner := ctx, n := n, back := back, log := log, open_ := none }
      match eqInit 0 ((8 * n + 4095) / 4096) { s := r.s, f := f, k := k, todo := r.todo, log := r.log } with
      | .ok e => { r with s := setForest e.s fs (some e.f), todo := e.todo, log := e.log }
      | .error (.bad b x, e) => { r with s := e.s, todo := e.todo, log := e.log, stop := some (.fault b x 1) }
      | .error (.full, _) => err r 5

/-- Steps of an EQE operation. -/
def eqSteps (o : EngOp) : Nat :=
  match o.kind with
  | .eqUnite _ => eqCnt o.shape
  | .eqFind _ => 2 * eqCnt o.shape
  | .eqRelab _ _ => eqCnt o.shape * (1 + eqTw o.shape)
  | _ => 1

/-- One step on a forest the context owns. -/
def ownedStep (k : Nat) (o : EngOp) (f : Forest) (r : Run) : Run × List Word :=
  match o.kind with
  | .eqUnite _ =>
    let l := layoutAt o.shape 0
    let (r, a, oa) := eqIndex r k o l f.n o.pos 0
    let (r, b, ob) := eqIndex r k o l f.n o.pos 1
    if oa || ob then (oobRun r k true, [])
    else
      let (r, _, full) := eqItem r k o f o.pos () fun e => (eqUniteItem e a b).map fun e => (e, ())
      (r, if full then eqEnd else [])
  | .eqFind _ =>
    let i := o.pos / 2
    if o.pos % 2 = 0 then
      let (r, a, oa) := eqIndex r k o (layoutAt o.shape 0) f.n i 0
      if oa then (oobRun r k true, [0xFFFFFFFF])
      else
        let (r, x, full) := eqItem r k o f i 0 fun e => eqFindItem e a
        (r, if full then eqEnd else [BitVec.ofNat 64 x])
    else
      let d := layoutAt o.shape 4
      (writeElem r k 10 o [] d (d.row0 + (i : Int)) d.col0 (o.aux.headD 0).toNat, [])
  | .eqRelab _ op =>
    if o.pos < eqCnt o.shape then
      let (r, a, oa) := eqIndex r k o (layoutAt o.shape 8) f.n o.pos 0
      if oa then (oobRun r k true, o.aux ++ [0, 0])
      else
        let (r, x, full) := eqItem r k o f o.pos 0 fun e => eqFindItem e a
        (r, if full then eqEnd else o.aux ++ [BitVec.ofNat 64 (x + 1), BitVec.ofNat 64 a])
    else (relabStep k o op r, o.aux)
  | .eqSnap fs =>
    match f.open_ with
    | some _ => ({ r with s := eqErr r.s k 4 }, [])
    | none => ({ r with s := setForest r.s fs (some { f with open_ := some 0 }) }, [])
  | .eqUndo _ =>
    match f.open_ with
    | none => ({ r with s := eqErr r.s k 3 }, [])
    | some n =>
      ((eqItem r k o f 0 () fun e => (eqUndoFrom 0 n e).map fun e => ({ e with f := { e.f with open_ := none } }, ())).1, [])
  | .eqCommit fs free =>
    match f.open_ with
    | none => ({ r with s := eqErr r.s k 3 }, [])
    | some _ => ({ r with s := setForest r.s fs (if free then none else some { f with open_ := none }) }, [])
  | .eqSize _ _ a =>
    if f.n ≤ a.toNat then ({ r with s := eqOob r.s k }, [0])
    else
      let (r, x, _) := eqItem r k o f 0 0 fun e => eqSizeItem e a.toNat
      (r, [BitVec.ofNat 64 x])
  | _ => (r, [])

/-- One step of an EQE operation: a slot the context does not own gives ERR 1 and ends it (R384). -/
def eqStep (k : Nat) (o : EngOp) (r : Run) : Run × List Word :=
  if o.aux == eqEnd then (r, eqEnd)
  else
    match o.kind with
    | .eqNew fs a => (newStep k o fs a r, [])
    | _ =>
      match mget none r.s.forests (eqSlot o.kind) with
      | some f =>
        if f.owner = keyCtx k then ownedStep k o f r else ({ r with s := eqErr r.s k 1 }, eqEnd)
      | none => ({ r with s := eqErr r.s k 1 }, eqEnd)

end Sys2Proof.Machine
end

