-- ==== Sys2Proof/Machine/Remote.lean ====
section
/-! DEFINITION. Fabric, remote and DRT instructions at issue (R311 to R346): capabilities and windows (R296 to R302,
R312), FIFO binding, bulk sends, pegs, remote accesses, reduction windows, chases, capability instructions, DRT. -/

namespace Sys2Proof.Machine

/-! ### Capabilities (R296, R298, R300, R312) -/

/-- Fields of a capability (R296). -/
def capPod (c : BitVec 128) : Nat := rbits c 120 8
def capRank (c : BitVec 128) : Nat := rbits c 110 10
def capPerms (c : BitVec 128) : Nat := rbits c 104 6
def capGen (c : BitVec 128) : BitVec 8 := BitVec.ofNat 8 (rbits c 96 8)
def capType (c : BitVec 128) : Nat := rbits c 92 4
def capLen (c : BitVec 128) : Nat := rbits c 47 45
def capBase (c : BitVec 128) : Nat := rbits c 0 47

/-- Permission bits in the order of R296: R is bit 0 and D bit 5. -/
def permR : Nat := 1
def permW : Nat := 2
def permA : Nat := 4
def permC : Nat := 8
def permM : Nat := 16
def permD : Nat := 32

/-- All permissions of `need` are held. -/
def holdsPerms (have_ need : Nat) : Bool := have_ &&& need == need

/-- A capability from its fields. -/
def mkCap (pod rank perms : Nat) (gen : BitVec 8) (type len base : Nat) : BitVec 128 :=
  BitVec.ofNat 128 (pod % 256 * 2 ^ 120 + rank % 1024 * 2 ^ 110 + perms % 64 * 2 ^ 104 + gen.toNat * 2 ^ 96 +
    type % 16 * 2 ^ 92 + len % 2 ^ 45 * 2 ^ 47 + base % 2 ^ 47)

/-- The window-table entry a handle names (R300). -/
def winEntry (s : State) (handle : Nat) : BitVec 128 :=
  BitVec.ofNat 128 (readNat s.hbm ((curCtx s).wintab + 16 * (handle % 4096)) 16)

/-- What an address under a capability or window handle leads to: the owner, the target address, and the generation
that its request carries; `bytes` are checked against the bounds. -/
structure Target where
  addr : Word
  gen  : Option (BitVec 8)
  deriving DecidableEq, Repr

/-- The exact range [a, a + n) lies within [base, base + len) of the 47-bit space (R298). -/
def inRange (base len : Nat) (a : Int) (n : Nat) : Bool :=
  decide ((base : Int) ≤ a ∧ a + n ≤ (base : Int) + len ∧ a + n ≤ (2 : Int) ^ 47)

/-- Checks 1 to 4 of R298 on a capability register in ordinary mode: the failing SUB of R302. -/
def capBasic (s : State) (k : Nat) (type need : Nat) : Option Nat :=
  let (c, tag) := readK (curCore s) k
  if !tag then some 1
  else if capType c != type then some 2
  else if type != 2 && capPod c != s.port.pod then some 3
  else if !holdsPerms (capPerms c) need then some 4
  else none

/-- The window check of R300 without its bounds. -/
def winBasic (s : State) (handle need : Nat) : Option Nat :=
  let e := winEntry s handle
  if rbits e 127 1 = 0 then some 9
  else if rbits e 117 4 ≠ handle / 4096 then some 10
  else if !holdsPerms (rbits e 121 6) need then some 4
  else none

/-- The check of an access at A through kN (R298), or through the handle in A in service mode (R300, R312): the failing
SUB, or the target. -/
def capCheck (s : State) (k : Nat) (a : Word) (n type need : Nat) : Except Nat Target :=
  if (curCtx s).service then
    if k ≠ 0 then .error 8
    else
      match winBasic s (bits a 48 16) need with
      | some sub => .error sub
      | none =>
        let e := winEntry s (bits a 48 16)
        let x := bits a 0 47
        if rbits e 0 47 ≤ x ∧ x + n ≤ rbits e 47 47 + 1 then
          .ok { addr := BitVec.ofNat 64 (rbits e 107 10 * 2 ^ 47 + x), gen := none }
        else .error 5
  else
    match capBasic s k type need with
    | some sub => .error sub
    | none =>
      let c := (readK (curCore s) k).1
      let x : Int := capBase c + a.toNat
      if inRange (capBase c) (capLen c) x n then
        .ok { addr := BitVec.ofNat 64 (capRank c * 2 ^ 47 + x.toNat), gen := some (capGen c) }
      else .error 5

/-- The address an access at A through kN forms (R312), for alignment and TVAL. -/
def capAddr (s : State) (k : Nat) (a : Word) : Word :=
  if (curCtx s).service then BitVec.ofNat 64 (bits a 0 47)
  else BitVec.ofNat 64 (capBase (readK (curCore s) k).1) + a

/-- A capability violation at issue (R302): OBJ is the capability register. -/
def capViol (k sub : Nat) (a : Word) : Cause := { Cause.precise 0x07 sub slotEN with obj := k, tval := a }

/-- A window-table entry as a capability of TYPE 15, which no capability has (R296; [42]). -/
def windowCap (s : State) (handle : Nat) : BitVec 128 :=
  let e := winEntry s handle
  mkCap s.port.pod (rbits e 107 10) (rbits e 121 6) 0 15 (rbits e 47 47 + 1 - rbits e 0 47) (rbits e 0 47)

/-- Whom a failed check through kN, or in service mode through a handle, is reported to (R299): an owner of this pod that can be
reached, when type, permission, bounds or key failed. -/
def noticeOf (s : State) (k sub handle : Nat) : Option (Nat × BitVec 128) :=
  let v := if (curCtx s).service then windowCap s handle else (readK (curCore s) k).1
  if [2, 4, 5, 10].contains sub && capPod v == s.port.pod && (capRank v == s.port.rank || (linkTo s false (capRank v)).isSome) then
    some (capRank v, v)
  else none

/-- A violation with the notice to the owner. -/
def capNotice (s : State) (k sub : Nat) (a : Word) (handle : Nat) : Cause := { capViol k sub a with viol := noticeOf s k sub handle }

/-- The capability test of an access. -/
def capFail (s : State) (k : Nat) (a : Word) (n type need : Nat) : Option Cause :=
  match capCheck s k a n type need with
  | .error sub => some (capNotice s k sub (capAddr s k a) (bits a 48 16))
  | .ok _ => none

/-- The target of an access whose check has passed. -/
def capTarget (s : State) (k : Nat) (a : Word) (n type need : Nat) : Target :=
  match capCheck s k a n type need with
  | .ok t => t
  | .error _ => { addr := 0, gen := none }

/-- Queue a scalar access through a capability (R323 to R326), with its landing slot. -/
def pushRemote (s : State) (t : Target) (op : MemOp) (fmt : LoadFmt) (order : Nat) (d : Dest) (rx : Bool) : State :=
  let far := ownerOf t.addr != s.port.rank
  let s := if far then (takeSlots s s.cur 13 1).getD s else s
  pushAccess s { newAccess s (.remote { sp := false, addr := t.addr, ix := 0, op := op } fmt order t.gen) d 1 rx with
    slots := if far then 1 else 0 }

/-- The SPRANGE test of a block's landing or source range (R323). -/
def blockRange (s : State) (o : Word) (n : Nat) : Option Cause :=
  failIf (!(decide (o.toNat < 2 ^ 22) && allocated s s.cur o.toNat n)) { Cause.precise 0x03 6 slotEN with tval := o }

/-- Bytes of a size code of rld and rst (R323). -/
def rldBytes (z : Nat) : Nat := if z = 4 then 128 else if z = 5 then 256 else 2 ^ z

/-- Tests of a scalar remote access (R312, R323). -/
def remoteTests (s : State) (k : Nat) (a : Word) (n need : Nat) : Tests where
  opnd := none
  align := alignFail slotEN (capAddr s k a) n
  dom := capFail s k a n 0 need
  hold := slotHold s (ownerOf (capTarget s k a n 0 need).addr != s.port.rank)
  ents := 1
  slots := (ownerOf (capTarget s k a n 0 need).addr != s.port.rank).toNat

/-- Tests of a block remote access (R312, R323). -/
def blockTests (s : State) (k : Nat) (a o : Word) (n need : Nat) : Tests where
  opnd := none
  align := firstFail [alignFail slotEN (capAddr s k a) 32, alignFail slotEN o 32]
  dom := firstFail [capFail s k a n 0 need, blockRange s o n]
  hold := fullHold (curCore s) 11
  ents := 0

/-- rld (R323, R324). -/
def execRld (k : Fin 16) (a b : Fin 64) (r x : Bool) (z : Fin 8) (s : State) : Host.Outcome State Fault Refusal :=
  let c := curCore s
  let n := rldBytes z
  let ad := readG c a
  let t := capTarget s k ad n 0 permR
  if z.val < 4 then
    let u := remoteTests s k ad n permR
    issue s slotEN (.rld k a b r x z) { u with dom := firstFail [u.dom, poisonFail s slotEN false t.addr n .load] } fun s =>
      popsOf (pushRemote s t (.load n false) (.scalar n x) 0 (destG c b) r) (.rld k a b r x z)
  else
    let o := readG c b
    issue s slotEN (.rld k a b r x z) (blockTests s k ad o n permR) fun s =>
      popsOf (pushOp s 11 (.rldBlk t.addr t.gen o.toNat n r) [] [] []) (.rld k a b r x z)

/-- rst (R323, R325). -/
def execRst (k : Fin 16) (a b : Fin 64) (r : Bool) (z : Fin 8) (s : State) : Host.Outcome State Fault Refusal :=
  let c := curCore s
  let n := rldBytes z
  let ad := readG c a
  let v := readG c b
  let t := capTarget s k ad n 0 permW
  if z.val < 4 then
    issue s slotEN (.rst k a b r z) (remoteTests s k ad n permW) fun s =>
      popsOf (pushRemote s t (.store (leBytes n v.toNat) false) .none 0 .none r) (.rst k a b r z)
  else
    issue s slotEN (.rst k a b r z) (blockTests s k ad v n permW) fun s =>
      popsOf (pushOp s 11 (.rstBlk t.addr t.gen v.toNat n r) [] [] []) (.rst k a b r z)

/-- ramo (R326): q is the ordering, z the size bit. -/
def execRamo (o : AmoOp) (q : Fin 4) (z : Bool) (k : Fin 16) (a b : Fin 64) (s : State) :
    Host.Outcome State Fault Refusal :=
  let c := curCore s
  let n := if z then 8 else 4
  let ad := readG c a
  let t := capTarget s k ad n 0 permA
  let tests := remoteTests s k ad n permA
  let y := if o = .cas then readG c (b.val + 1) else 0
  issue s slotEN (.ramo o q z k a b)
    { tests with dom := firstFail [tests.dom, failIf (ownerOf t.addr == s.port.rank && inWindow s (keyCtx s.cur) t.addr n) (capViol k 11 t.addr),
      poisonFail s slotEN false t.addr n .atomic] }
    fun s => popsOf (pushRemote s t (.atomic o n (readG c b) y) (.scalar n false) q (destG c b) false) (.ramo o q z k a b)

/-! ### Fabric FIFOs (R316, R317) -/

/-- The core key of a logical core of the issuing context. -/
def peerKey (s : State) (n : Nat) : Nat := coreKey (keyCtx s.cur) n

/-- Credits that a giver has for a pair (R316, R317): for its present binding, or kept for one to come. -/
def takeCredits (f : Fifo) (giver : Nat × Nat × Nat) (n : Nat) : Fifo :=
  if f.peer = some giver then { f with cred := f.cred + n }
  else { f with gifts := (giver, ((f.gifts.find? fun g => g.1 == giver).map Prod.snd).getD 0 + n) :: f.gifts.filter fun g => g.1 != giver }

/-- A pair binds to a peer: it has the credits that the peer has given it. -/
def bindFifo (f : Fifo) (peer : Nat × Nat × Nat) : Fifo :=
  { f with peer := some peer, fi := [], owed := 0, unbinding := false
           cred := ((f.gifts.find? fun g => g.1 == peer).map Prod.snd).getD 0, gifts := f.gifts.filter fun g => g.1 != peer }

/-- A pair is unbound: what others have given stays. -/
def unbindFifo (f : Fifo) (held : Bool) : Fifo := { Fifo.init with gifts := f.gifts, unbinding := held }

/-- Core k's pair i gives credits to a pair, here or at another die (R317). -/
def giveCredits (s : State) (k i rank core pair n : Nat) : State :=
  if rank = s.port.rank then
    onCore s (coreKey (keyCtx k) core) fun c => setFifo c pair (takeCredits (fifoAt c pair) (s.port.rank, keyCore k, i) n)
  else sendOrDrop s (keyCtx k) 1 false rank (.fqcred core pair (keyCore k) i n)

/-- Words of a pair are in a frame the next hop has not acknowledged (R291). -/
def fifoSending (s : State) (k i : Nat) : Bool :=
  (s.port.queue ++ s.port.replay).any fun q =>
    q.frame.src == s.port.rank && q.frame.ctx == keyCtx k &&
      (match q.frame.body with | .fifo _ _ sc sp _ => sc == keyCore k && sp == i | _ => false)

/-- fq.bind (R316). A pair whose held unbind has completed is marked `unbinding`. -/
def execFqBind (i : Fin 8) (a : Fin 64) (s : State) : Host.Outcome State Fault Refusal :=
  let c := curCore s
  let w := readG c a
  let f := fifoAt c i
  let bind := bits w 63 1 == 1
  let bad := bits w 30 33 != 0 || bits w 3 8 != 0 ||
    (if bind then f.peer.isSome else !f.unbinding && (f.peer.isNone || !f.fi.isEmpty))
  let dom := failIf (bind && !(curCtx s).members.contains (bits w 20 10)) { Cause.precise 0x07 7 slotEN with tval := w }
  let h : Option Hold :=
    if !bind && !f.unbinding && !(f.fo.isEmpty && f.resv == 0 && !fifoSending s s.cur i) then some { sub := 4, obj := 0x106, tl := 15 } else none
  issue s slotEN (.fqBind i a) { noTests with opnd := failIf bad (illegal slotEN), dom := dom, hold := h } fun s =>
    let s := popsOf s (.fqBind i a)
    if bind then
      let s := onCur s fun c => setFifo c i (bindFifo f (bits w 20 10, bits w 11 9, bits w 0 3))
      giveCredits s s.cur i (bits w 20 10) (bits w 11 9) (bits w 0 3) 64
    else onCur s fun c => setFifo c i (unbindFifo f false)

/-- The core is held on an unbind (R316, R409). -/
def unbindHeld (c : Core) : Bool := match c.hold with | some h => h.sub == 4 && h.obj == 0x106 | none => false

/-- The peer of a pair lies beyond the next hop. Its acceptance is then not seen in the acknowledgement of that hop, and FIFO frames have
none of their own: when it comes is left open (DESIGN CHOICE [39]). -/
def peerBeyond (s : State) (f : Fifo) : Bool :=
  match f.peer with
  | some (rank, _, _) => decide (1 < ((routeTo s rank).map List.length).getD 0)
  | none => false

/-- FQ_UNBIND_COMPLETE (R316): a held unbind completes once every fo word has been accepted. -/
def execFqUnbindComplete (k i : Nat) (s : State) : Host.Outcome State Fault Refusal :=
  let c := coreAt s k
  let f := fifoAt c i
  if unbindHeld c && f.peer.isSome && f.fo.isEmpty && f.resv == 0 && !fifoSending s k i &&
      (!peerBeyond s f || Config.fifoAccepted s.time k i) then
    .next (onCore s k fun c => setFifo c i (unbindFifo f true))
  else .next s

/-! ### Bulk sends (R319 to R321) -/

/-- Fields of a fabric shape register (R319). -/
def hfCapv (sh : List Word) : Bool := bits (sh.getD 12 0) 35 1 == 1
def hfCapk (sh : List Word) : Nat := bits (sh.getD 12 0) 31 4
def hfTw (sh : List Word) : Nat := bits (sh.getD 12 0) 8 16 + 1
def hfTh (sh : List Word) : Nat := bits (sh.getD 12 0) 0 8 + 1
def hfFirst (sh : List Word) : Nat := bits (sh.getD 14 0) 32 16
def hfWin (sh : List Word) : Word := BitVec.ofNat 64 (bits (sh.getD 14 0) 0 32)

/-- Reserved bits of a fabric shape register. -/
def hfReserved (sh : List Word) : Bool :=
  (List.range 4).any (fun i => sh.getD (8 + i) 0 != 0) || bits (sh.getD 12 0) 36 28 != 0 || bits (sh.getD 12 0) 24 7 != 0 ||
    bits (sh.getD 14 0) 48 16 != 0 || sh.getD 15 0 != 0

/-- The columns of tile row i that lie in the destination view, as tile indices (R248, R320). -/
def rowSpan (d : Layout) (i tw : Nat) : List Nat := (List.range tw).filter fun j => d.inside (d.row0 + i) (d.col0 + j)

/-- How destination addresses are formed: the owner and the local address of an element address. -/
structure SendMap where
  rank : Option Nat
  base : Nat
  gen  : Option (BitVec 8)
  deriving DecidableEq, Repr

/-- The mapping a fabric command uses (R312, R319); `base` is added to element addresses under a capability. -/
def sendMap (s : State) (sh : List Word) : SendMap :=
  let d := layoutAt sh 4
  if (curCtx s).service then
    { rank := some (rbits (winEntry s (bits d.base 48 16)) 107 10), base := 0, gen := none }
  else if hfCapv sh then
    let c := (readK (curCore s) (hfCapk sh)).1
    { rank := some (capRank c), base := capBase c, gen := some (capGen c) }
  else { rank := none, base := 0, gen := none }

/-- The target of an element address under a mapping. -/
def SendMap.target (m : SendMap) (a : Word) : Word :=
  match m.rank with
  | some r => BitVec.ofNat 64 (r * 2 ^ 47 + (m.base + (if m.gen.isSome then a.toNat else bits a 0 47)) % 2 ^ 47)
  | none => a

/-- The element addresses at the two ends of each in-view destination row. -/
def rowEnds (d : Layout) (th tw : Nat) : List (Word × Word) :=
  (List.range th).filterMap fun i =>
    match rowSpan d i tw with
    | [] => none
    | j :: r => some (d.addr (d.row0 + i) (d.col0 + j), d.addr (d.row0 + i) (d.col0 + (r.getLastD j : Nat)))

/-- The capability, window or domain test of a send's destination (R298, R300, R312, R319). -/
def sendFail (s : State) (sh : List Word) : Option Cause :=
  let d := layoutAt sh 4
  let ends := rowEnds d (hfTh sh) (hfTw sh)
  let viol (k sub : Nat) (a : Word) : Option Cause := some (capNotice s k sub a (bits d.base 48 16))
  if (curCtx s).service then
    if hfCapv sh then viol (hfCapk sh) 8 d.base
    else
      match winBasic s (bits d.base 48 16) permW with
      | some sub => viol 0 sub d.base
      | none =>
        let e := winEntry s (bits d.base 48 16)
        match ends.find? fun p => decide (bits p.1 0 47 < rbits e 0 47 ∨ rbits e 47 47 + 1 < bits p.2 0 47 + d.eb) with
        | some p => viol 0 5 p.1
        | none => none
  else if hfCapv sh then
    match capBasic s (hfCapk sh) 0 permW with
    | some sub => viol (hfCapk sh) sub d.base
    | none =>
      let c := (readK (curCore s) (hfCapk sh)).1
      match ends.find? fun p => !inRange (capBase c) (capLen c) (capBase c + p.1.toNat) d.eb ||
          !inRange (capBase c) (capLen c) (capBase c + p.2.toNat) d.eb with
      | some p => viol (hfCapk sh) 5 p.1
      | none => none
  else
    firstFail (ends.flatMap fun p => [domainFail s slotEN p.1, domainFail s slotEN p.2])

/-- One SEND frame of an operation: its target address and its tile elements (i, j), from column `j` on, `n` of them. -/
structure SendFrame where
  addr : Word
  i    : Nat
  j    : Nat
  n    : Nat
  deriving DecidableEq, Repr

/-- Cut the in-view columns of a row into frames at the 256-byte boundaries of the destination address (R320). -/
def cutRow (m : SendMap) (d : Layout) (i : Nat) : List Nat → List SendFrame
  | [] => []
  | j :: r =>
    let a := m.target (d.addr (d.row0 + i) (d.col0 + j))
    match cutRow m d i r with
    | [] => [{ addr := a, i := i, j := j, n := 1 }]
    | f :: fs =>
      if f.addr.toNat / 256 = a.toNat / 256 then { f with addr := a, j := j, n := f.n + 1 } :: fs
      else { addr := a, i := i, j := j, n := 1 } :: f :: fs

/-- The SEND frames of an operation, in order (R320). -/
def sendFrames (m : SendMap) (sh : List Word) : List SendFrame :=
  let d := layoutAt sh 4
  (List.range (hfTh sh)).flatMap fun i => cutRow m d i (rowSpan d i (hfTw sh))

/-- Illegal operands of fs.send and fs.post (R319). -/
def sendIllegal (s : State) (sh : List Word) : Bool :=
  let src := layoutAt sh 0
  let d := layoutAt sh 4
  hfReserved sh || src.bad || d.bad || d.sp != 0 || src.ew == 0 || src.ew != d.ew ||
    (src.sp == 0 && ownerOf src.base != s.port.rank) || bits (sh.getD 13 0) 16 16 != 0xFF ||
    !ringOk (curCore s) (sh.getD 13 0) [src] []

/-- Alignment of a send's layouts. -/
def sendAlign (sh : List Word) : Option Cause := layoutAlign [layoutAt sh 0, layoutAt sh 4]

/-- The rank, base and generation of a mapping as carried words of the operation. -/
def SendMap.words (m : SendMap) : List Word :=
  [match m.rank with | some r => BitVec.ofNat 64 (1 + 2 * r) | none => 0, BitVec.ofNat 64 m.base,
   match m.gen with | some g => BitVec.ofNat 64 (1 + 2 * g.toNat) | none => 0]

/-- The mapping from an operation's shape, which is extended by those words at issue. -/
def opSendMap (sh : List Word) : SendMap where
  rank := if bits (sh.getD 16 0) 0 1 = 1 then some (bits (sh.getD 16 0) 1 10) else none
  base := (sh.getD 17 0).toNat
  gen := if bits (sh.getD 18 0) 0 1 = 1 then some (BitVec.ofNat 8 (bits (sh.getD 18 0) 1 8)) else none

/-- Issue a fabric command of context c (R243, R313): the captured shape is extended by the target mapping. -/
def fsIssue (s : State) (i : Instr) (k : EngKind) (h c : Nat) (sw : Bool) (t : Tests) :
    Host.Outcome State Fault Refusal :=
  issue s slotEN i t fun s =>
    let sh := capturedShape (curCore s) (8 + h) sw
    let m := sendMap s sh
    popsOf (pushOp (onCur s fun x => swapShape x (8 + h) sw) (5 + c) k (sh ++ m.words) [] (ringsNamed (sh.getD 13 0))) i

/-- A pending capability that a shape register names holds the command before its operands are tested (R21, R319). -/
def capTests (s : State) (sh : List Word) (t : Tests) : Tests :=
  match (if hfCapv sh && !(curCtx s).service then pendingHold (curCore s) (0x60 + hfCapk sh) (.k (hfCapk sh)) else none) with
  | some h => { noTests with hold := some h }
  | none => t

/-- fs.send (R320). -/
def execFsSend (h c : Fin 4) (w : Bool) (s : State) : Host.Outcome State Fault Refusal :=
  let sh := capturedShape (curCore s) (8 + h.val) w
  fsIssue s (.fsSend h c w) .fsSend h c w
    (capTests s sh { opnd := engIllegal (sendIllegal s sh), align := sendAlign sh, dom := sendFail s sh
                     hold := fullHold (curCore s) (5 + c.val), ents := 0 })

/-- fs.post (R321): the barrier's home owns every frame. -/
def execFsPost (h c : Fin 4) (b : Fin 64) (w : Bool) (s : State) : Host.Outcome State Fault Refusal :=
  let sh := capturedShape (curCore s) (8 + h.val) w
  let name := readG (curCore s) b
  let owners := (rowEnds (layoutAt sh 4) (hfTh sh) (hfTw sh)).flatMap fun p =>
    [ownerOf ((sendMap s sh).target p.1), ownerOf ((sendMap s sh).target p.2)]
  let bad := sendIllegal s sh || bits name 30 34 != 0 || bnLocal name || owners.any (· != bnRank name)
  fsIssue s (.fsPost h c b w) (.fsPost name) h c w
    (capTests s sh
      { opnd := engIllegal bad, align := sendAlign sh
        dom := firstFail [sendFail s sh,
          failIf (!(curCtx s).members.contains (bnRank name)) { Cause.precise 0x07 7 slotEN with tval := name }]
        hold := fullHold (curCore s) (5 + c.val), ents := 0 })

/-! ### Pegs and reservations (R322) -/

/-- The rank at a position, 0x3FF for a spare or a host bridge. -/
def rankAt (s : State) (p : Nat × Nat) : Nat :=
  ((List.range 1024).find? fun r => rankPos s r == some p && decide (p.2 < 32)).getD 0x3FF

/-- The value peg.rd writes for a destination rank and channel. -/
def pegWord (s : State) (r v : Nat) : Word :=
  if r = s.port.rank then 0
  else
    match routeTo s r with
    | none | some [] => BitVec.ofNat 64 (2 ^ 15)
    | some ((pl, p) :: _) =>
      let l : Link := { plane := pl, port := portOn pl p }
      BitVec.ofNat 64 (pegsOf s l v % 128 + (if pl = .column then 128 else 0) + poolOf s l v % 128 * 2 ^ 8 + rankAt s p * 2 ^ 16)

/-- The value peg.rd.r writes for a stream. -/
def reserveWord (s : State) (t : Nat) : Word :=
  let c := curCore s
  BitVec.ofNat 64 (slotsHeld c (if t < 4 then 5 + t else if t = 4 then 11 else t) % 128 + bits c.csr.resvcfg 0 7 * 2 ^ 8 +
    (8192 - landingUsed s) * 2 ^ 16)

/-- peg.rd, with r the reservation form (R322). -/
def execPegRd (a b : Fin 64) (r : Bool) (s : State) : Host.Outcome State Fault Refusal :=
  let c := curCore s
  let w := readG c a
  let bad := if r then !(decide (w.toNat ≤ 4) || w == 13) else bits w 12 52 != 0
  issue s slotEN (.pegRd a b r) { noTests with opnd := failIf bad (illegal slotEN) } fun s =>
    popsOf (pushReturn s (destG c b)
      (.s (if r then reserveWord s w.toNat else pegWord s (bits w 0 10) (bits w 10 2)))) (.pegRd a b r)

/-! ### Reduction windows (R327 to R331) -/

/-- The window a name leads to at this die, if its registration has ended with OK (R328, R329). -/
def windowOf (s : State) (w : Word) : Option (Nat × Window) :=
  if bits w 20 10 = s.port.rank ∧ bits w 30 34 = 0 ∧ bits w 4 16 = 0 then
    match (mget none s.port.windows (bits w 0 4)).filter Window.active with
    | some x => some (bits w 0 4, x)
    | none => none
  else none

/-- The slot whose last window has ended, for its name (R329). -/
def endedOf (s : State) (w : Word) : Option Nat :=
  if bits w 20 10 = s.port.rank ∧ bits w 30 34 = 0 ∧ bits w 4 16 = 0 ∧ (mget none s.port.ended (bits w 0 4)).isSome then some (bits w 0 4) else none

/-- The slot a window's name names here; 16, which never holds a window, for a name that is not one of this home. -/
def nameSlot (s : State) (name : Word) : Nat :=
  match windowOf s name with
  | some (j, _) => j
  | none => (endedOf s name).getD 16

/-- rwin.reg (R328): the descriptor is read and the window registered when the load is performed. -/
def execRwinReg (a b : Fin 64) (s : State) : Host.Outcome State Fault Refusal :=
  let c := curCore s
  let w := readG c a
  issue s slotEN (.rwinReg a b)
    { opnd := failIf (canonical w && ownerOf w != s.port.rank) (illegal slotEN), align := alignFail slotEN w 32
      dom := domainFail s slotEN w, hold := none, ents := 1 } fun s =>
    popsOf (pushAccess s (newAccess s (.rwinReg w none []) (destG c b) 1 false)) (.rwinReg a b)

/-- The bytes of an rwin.add's tile (R330). -/
def addBytes (sh : List Word) : Nat := hfTw sh * hfTh sh * (layoutAt sh 0).eb

/-- Payload frames of a window's descriptor. -/
def winLen (d : BitVec 256) : Nat := rbits d 0 11

/-- rwin.add (R330). -/
def execRwinAdd (w : Bool) (h c : Fin 4) (s : State) : Host.Outcome State Fault Refusal :=
  let sh := capturedShape (curCore s) (8 + h.val) w
  let src := layoutAt sh 0
  let n := addBytes sh
  let tooMany := match windowOf s (hfWin sh) with
    | some (_, x) => decide (winLen x.desc < hfFirst sh + n / 256)
    | none => false
  let wrongEw := match windowOf s (hfWin sh) with
    | some (_, x) => if rbits x.desc 30 2 = 0 then src.ew != 2 else src.ew != 3
    | none => src.ew != 2 && src.ew != 3
  let bad := hfReserved sh || src.bad || src.ew == 0 || wrongEw || n % 256 != 0 || tooMany ||
    (src.sp == 0 && ownerOf src.base != s.port.rank) ||
    bits (sh.getD 13 0) 16 16 != 0xFF || !ringOk (curCore s) (sh.getD 13 0) [src] []
  fsIssue s (.rwinAdd w h c) .rwinAdd h c w
    { opnd := engIllegal bad, align := layoutAlign [src], dom := none, hold := fullHold (curCore s) (5 + c.val), ents := 0 }

/-- rwin.pread (R331): legal on a PARTIAL window of this die. -/
def execRwinPread (a b : Fin 64) (s : State) : Host.Outcome State Fault Refusal :=
  let c := curCore s
  let w := readG c a
  let dst := readG c b
  let bad := (match windowOf s w with | some (_, x) => x.status != 2 | none => true) ||
    (canonical dst && ownerOf dst != s.port.rank)
  issue s slotEN (.rwinPread a b)
    { opnd := failIf bad (illegal slotEN), align := alignFail slotEN dst 256, dom := domainFail s slotEN dst
      hold := fullHold c 11, ents := 0 } fun s =>
    popsOf (pushOp s 11 (.rwinPread (bits w 0 4) dst) [] [] []) (.rwinPread a b)

/-- rwin.abort (R331): legal on a pending or PARTIAL window of this die. -/
def execRwinAbort (a : Fin 64) (s : State) : Host.Outcome State Fault Refusal :=
  let w := readG (curCore s) a
  let bad := match windowOf s w with | some (_, x) => x.status != 0 && x.status != 2 | none => true
  issue s slotEN (.rwinAbort a) { noTests with opnd := failIf bad (illegal slotEN), hold := fullHold (curCore s) 11 } fun s =>
    popsOf (pushOp s 11 (.rwinAbort (bits w 0 4)) [] [] []) (.rwinAbort a)

/-! ### Chases at issue (R332, R333) -/

/-- The descriptor bytes at a scratchpad offset. -/
def descBytes (s : State) (o n : Nat) : List Byte :=
  match locateSp s s.cur o n with
  | .ok (ps, _) => readPieces s ps
  | .error _ => []

/-- The steps of a chase descriptor (R332). -/
def chaseSteps : Nat → List Byte → List ChaseStep
  | 0, _ => []
  | n + 1, bs =>
    { off := BitVec.ofNat 32 (leNat (bs.take 4)), w := if leNat ((bs.drop 4).take 1) % 2 = 0 then 4 else 8
      k := leNat ((bs.drop 4).take 1) / 2 % 2 == 1, mask := BitVec.ofNat 64 (leNat ((bs.drop 8).take 8)) } ::
      chaseSteps n (bs.drop 16)

/-- A reserved byte of a chase descriptor is nonzero (R332). -/
def chaseReserved (bs : List Byte) (n : Nat) : Bool :=
  leNat ((bs.drop 16).take 1) / 16 != 0 || leNat ((bs.drop 17).take 15) != 0 ||
    (List.range n).any fun i =>
      leNat ((bs.drop (36 + 16 * i)).take 1) / 4 != 0 || leNat ((bs.drop (37 + 16 * i)).take 3) != 0

/-- A chase descriptor is illegal (R332). -/
def chaseIllegal (s : State) (o : Word) : Bool :=
  let head := descBytes s o.toNat 32
  let n := leNat ((head.drop 16).take 1) % 16
  let bs := descBytes s o.toNat (32 + 16 * n)
  decide (2 ^ 22 ≤ o.toNat) || head.isEmpty || n == 0 || decide (8 < n) || bs.isEmpty || chaseReserved bs n ||
    ((chaseSteps n (bs.drop 32)).dropLast.any fun x => x.k)

/-- A landing name is illegal (R332). -/
def landingIllegal (c : Core) (w : Word) : Bool :=
  let size := bkSize (basket c (bits w 0 8))
  bits w 32 32 != 0 || size == 0 || decide (size < 32 * (bits w 8 8 + 1))

/-- The capability a chase carries (R333): kN, or the window entry written as a capability of TYPE 15. -/
def chaseCap (s : State) (k : Nat) (start : Word) : BitVec 128 :=
  if (curCtx s).service then windowCap s (bits start 48 16) else (readK (curCore s) k).1

/-- The part of the capability, window or domain check that a chase makes at issue, with the route to the owner (R333). -/
def chaseFail (s : State) (k : Nat) (cap : Bool) (start : Word) (lastK : Bool) : Option Cause :=
  let need := if lastK then permC + permA else permC
  if cap then
    let sub := if (curCtx s).service then (if k ≠ 0 then some 8 else winBasic s (bits start 48 16) need)
               else capBasic s k 0 need
    let owner := capRank (chaseCap s k start)
    match sub with
    | some x => some (capNotice s k x start (bits start 48 16))
    | none => if owner ≠ s.port.rank ∧ (linkTo s false owner).isNone then some (capViol k 12 start) else none
  else if !canonical start then some { Cause.precise 0x03 5 slotEN with tval := start }
  else domainFail s slotEN start

/-- chase (R332, R333): t is .trap, c is .cap. -/
def execChase (k : Fin 16) (a b : Fin 64) (t c : Bool) (s : State) : Host.Outcome State Fault Refusal :=
  let x := curCore s
  let o := readG x a
  let l := readG x b
  let n := leNat ((descBytes s o.toNat 32).drop 16 |>.take 1) % 16
  let bs := descBytes s o.toNat (32 + 16 * n)
  let start : Word := BitVec.ofNat 64 (leNat (bs.take 8))
  let steps := chaseSteps n (bs.drop 32)
  issue s slotEN (.chase k a b t c)
    { opnd := failIf (chaseIllegal s o || landingIllegal x l) (illegal slotEN), align := alignFail slotEN o 32
      dom := chaseFail s k c start (steps.any fun z => z.k), hold := fullHold x 11, ents := 0 } fun s =>
    let p : ChasePkt :=
      { ret := { core := s.cur, stream := 11, id := nextOp (curCore s) 11 }, ctx := keyCtx s.cur, rank := s.port.rank
        basket := bits l 0 8, slot := bits l 8 8, tag := bits l 16 16, trap := t, nstep := n, s := 0, steps := steps
        addend := BitVec.ofNat 64 (leNat ((bs.drop 8).take 8))
        p := if c && (curCtx s).service then BitVec.ofNat 64 (bits start 0 47) else start
        hops := 0, cap := if c then some (chaseCap s k start) else none, k := k
        who := { agent := agentId 1 s.port.rank (keyCore s.cur) 11, q := s.time, rx := true } }
    popsOf (pushOp s 11 (.chase p) [] [] []) (.chase k a b t c)

/-! ### Capability instructions (R338 to R340) -/

/-- Tests of capld and capst. -/
def capMemTests (s : State) (sp : Bool) (a : Word) : Tests where
  opnd := none
  align := alignFail slotEN a 16
  dom := if sp then none else domainFail s slotEN a
  hold := slotHold s (farAddr s sp a)
  ents := 1
  slots := (farAddr s sp a).toNat

/-- capld (R338). -/
def execCapld (k : Fin 16) (a : Fin 64) (sp : Bool) (s : State) : Host.Outcome State Fault Refusal :=
  let ad := readG (curCore s) a
  let t := capMemTests s sp ad
  issue s slotEN (.capld k a sp) { t with dom := firstFail [t.dom, poisonFail s slotEN sp ad 16 .load] } fun s =>
    popsOf (pushMem s [{ sp := sp, addr := ad, ix := 0, op := .load 16 true }] .cap 0 (.k k) 0 1 0 false) (.capld k a sp)

/-- capst (R338). -/
def execCapst (k : Fin 16) (a : Fin 64) (sp : Bool) (s : State) : Host.Outcome State Fault Refusal :=
  let ad := readG (curCore s) a
  issue s slotEN (.capst k a sp) (capMemTests s sp ad) fun s =>
    let (v, tag) := readK (curCore s) k
    popsOf (pushMem s [{ sp := sp, addr := ad, ix := 0, op := .store (leBytes 16 v.toNat) tag }] .none 0 .none 0 1 0 false)
      (.capst k a sp)

/-- Two ranges of the region table overlap. -/
def overlaps (b1 l1 b2 l2 : Nat) : Bool := decide (b1 < b2 + l2 ∧ b2 < b1 + l1)

/-- capmk.new (R339). -/
def execCapmkNew (k : Fin 16) (a : Fin 64) (s : State) : Host.Outcome State Fault Refusal :=
  let c := curCore s
  let g := readG c a
  let m := readG c (a.val + 1)
  let bad := bits m 45 3 != 0 || bits m 54 2 != 0 || bits m 60 4 != 0 || decide (1 < bits m 56 4)
  let len := bits m 0 45
  issue s slotEN (.capmkNew k a) { noTests with opnd := failIf bad (illegal slotEN) } fun s =>
    let s := popsOf s (.capmkNew k a)
    let fails := !canonical g || ownerOf g != s.port.rank || decide (1024 ≤ s.regions.length) ||
      s.regions.any fun r => overlaps r.base r.len (localOf g) len
    let v := if fails then 0 else mkCap s.port.pod s.port.rank (bits m 48 6) s.regGen (bits m 56 4) len (localOf g)
    let s := onCur s fun c => pushResult c (.k k) (.k v (!fails)) 1 0
    if fails then s
    else { s with regions := s.regions ++ [{ base := localOf g, len := len, gen := s.regGen, ctx := keyCtx s.cur }],
                  regGen := s.regGen + 1 }

/-- capmk.der (R339). -/
def execCapmkDer (k : Fin 16) (a : Fin 64) (src : Fin 16) (s : State) : Host.Outcome State Fault Refusal :=
  let c := curCore s
  let g := readG c a
  let m := readG c (a.val + 1)
  let (v, tag) := readK c src
  let bad := bits m 54 10 != 0 || bits m 45 3 != 0
  let perms := bits m 48 6
  let ok := tag && holdsPerms (capPerms v) permD && holdsPerms (capPerms v) perms &&
    decide (capBase v ≤ g.toNat ∧ g.toNat + bits m 0 45 ≤ capBase v + capLen v)
  issue s slotEN (.capmkDer k a src) { noTests with opnd := failIf bad (illegal slotEN) } fun s =>
    popsOf (onCur s fun c =>
      let w := if ok then mkCap (capPod v) (capRank v) perms (capGen v) (capType v) (bits m 0 45) g.toNat else 0
      pushResult c (.k k) (.k w ok) 1 0) (.capmkDer k a src)

/-- capmk.rev (R339). -/
def execCapmkRev (a : Fin 64) (s : State) : Host.Outcome State Fault Refusal :=
  let g := localOf (readG (curCore s) a)
  issue s slotEN (.capmkRev a) noTests fun s =>
    let s := popsOf s (.capmkRev a)
    if s.regions.any fun r => decide (r.base ≤ g ∧ g < r.base + r.len) then
      { s with
        regions := s.regions.map fun r => if r.base ≤ g ∧ g < r.base + r.len then { r with gen := s.regGen } else r
        regGen := s.regGen + 1 }
    else s

/-- The permission an access kind needs. -/
def accPerm : AccKind → Nat
  | .r => permR
  | .w => permW
  | .a => permA
  | .c => permC
  | .m => permM

/-- capchk (R340): z is the size exponent, x the access kind. -/
def execCapchk (k : Fin 16) (a b : Fin 64) (z : Fin 8) (x : AccKind) (s : State) : Host.Outcome State Fault Refusal :=
  let c := curCore s
  let v : Nat := match capCheck s k (readG c a) (2 ^ z.val) 0 (accPerm x) with | .error sub => sub | .ok _ => 0
  issue s slotEN (.capchk k a b z x) noTests fun s =>
    popsOf (pushReturn s (destG c b) (.s (BitVec.ofNat 64 v))) (.capchk k a b z x)

/-! ### Doreel Remote Transport at issue (R344 to R346) -/

/-- The check of a DRT operation through kN (R298, R312, R346): TYPE 2; service mode has no such capability. -/
def drtFail (s : State) (k : Nat) (a : Word) (n need : Nat) : Option Cause :=
  if (curCtx s).service then some (capViol k 8 a) else capFail s k a n 2 need

/-- The local side of rma.put and rma.get: scratchpad, the offset or address (R346). -/
def drtLocal (w : Word) : Bool × Word := if bits w 63 1 = 1 then (true, BitVec.ofNat 64 (bits w 0 21)) else (false, w)

/-- Tests of rma.put and rma.get. -/
def drtTests (s : State) (k : Nat) (a l n : Word) (need : Nat) (tg : Bool) : Tests where
  opnd := failIf (n == 0 || decide (2 ^ 20 < n.toNat) || (tg && n.toNat % 16 != 0) ||
    (bits l 63 1 == 0 && canonical l && ownerOf l != s.port.rank)) (illegal slotEN)
  align := if tg then firstFail [alignFail slotEN (drtLocal l).2 16, alignFail slotEN (capAddr s k a) 16] else none
  dom := drtFail s k a n.toNat need
  hold := fullHold (curCore s) 12
  ents := 0

/-- rma.put, with t the tagged form (R346). -/
def execRmaPut (k : Fin 16) (a b : Fin 64) (t : Bool) (s : State) : Host.Outcome State Fault Refusal :=
  let c := curCore s
  let ad := readG c a
  let l := readG c b
  let n := readG c (b.val + 1)
  issue s slotEN (.rmaPut k a b t) (drtTests s k ad l n permW t) fun s =>
    popsOf (pushOp s 12 (.rmaPut (readK c k).1 ad l n.toNat t) [] [] []) (.rmaPut k a b t)

/-- rma.get (R346). -/
def execRmaGet (k : Fin 16) (a b : Fin 64) (s : State) : Host.Outcome State Fault Refusal :=
  let c := curCore s
  let ad := readG c a
  let l := readG c b
  let n := readG c (b.val + 1)
  issue s slotEN (.rmaGet k a b) (drtTests s k ad l n permR false) fun s =>
    popsOf (pushOp s 12 (.rmaGet (readK c k).1 ad l n.toNat) [] [] []) (.rmaGet k a b)

/-- rma.flag (R346). -/
def execRmaFlag (k : Fin 16) (a b : Fin 64) (s : State) : Host.Outcome State Fault Refusal :=
  let c := curCore s
  let ad := readG c a
  issue s slotEN (.rmaFlag k a b)
    { opnd := none, align := alignFail slotEN ad 8, dom := drtFail s k ad 8 permW, hold := fullHold c 12, ents := 0 } fun s =>
    popsOf (pushOp s 12 (.rmaFlag (readK c k).1 ad (readG c b)) [] [] []) (.rmaFlag k a b)

/-- rma.flush (R346). -/
def execRmaFlush (s : State) : Host.Outcome State Fault Refusal :=
  issue s slotEN .rmaFlush { noTests with hold := fullHold (curCore s) 12 } fun s => pushOp s 12 .rmaFlush [] [] []

/-- The registration at an index. -/
def registration (s : State) (i : Nat) : Option Registration := mget none s.drt.regs i

/-- The lowest free entry of the registration table (R344). -/
def freeRegistration (s : State) : Option Nat := (List.range 4096).find? fun i => (registration s i).isNone

/-- rma.reg (R344). -/
def execRmaReg (k : Fin 16) (a : Fin 64) (s : State) : Host.Outcome State Fault Refusal :=
  let c := curCore s
  let g := readG c a
  let m := readG c (a.val + 1)
  let bad := !canonical g || ownerOf g != s.port.rank || bits m 45 3 != 0 || bits m 54 10 != 0
  issue s slotEN (.rmaReg k a) { noTests with opnd := failIf bad (illegal slotEN) } fun s =>
    let s := popsOf s (.rmaReg k a)
    match freeRegistration s with
    | none => onCur s fun c => pushResult c (.k k) (.k 0 false) 1 0
    | some i =>
      let r : Registration := { base := localOf g, len := bits m 0 45, perms := BitVec.ofNat 6 (bits m 48 6), gen := s.drt.gen
                                ctx := keyCtx s.cur, closing := false, started := 0, waiter := none }
      let v := mkCap s.port.pod s.port.rank (bits m 48 6) s.drt.gen 2 (bits m 0 45) (localOf g)
      let s := onCur s fun c => pushResult c (.k k) (.k v true) 1 0
      { s with drt := { s.drt with regs := mset s.drt.regs i (some r), gen := s.drt.gen + 1 } }

/-- The open registration of this die that a capability names (R345). -/
def openRegistration (s : State) (v : BitVec 128) : Option (Nat × Registration) :=
  if capRank v = s.port.rank ∧ capPod v = s.port.pod then
    s.drt.regs.findSome? fun e => match e.2 with
      | some r => if r.base = capBase v ∧ r.len = capLen v ∧ r.gen = capGen v ∧ r.closing = false then some (e.1, r) else none
      | none => none
  else none

/-- rma.rev (R345): the entry becomes closing at issue. -/
def execRmaRev (k : Fin 16) (s : State) : Host.Outcome State Fault Refusal :=
  let (v, _) := readK (curCore s) k
  let found := openRegistration s v
  issue s slotEN (.rmaRev k)
    { noTests with opnd := failIf found.isNone (illegal slotEN)
                   dom := if (curCtx s).service then some (capViol k 8 0) else (capBasic s k 2 0).map fun x => capNotice s k x 0 0
                   hold := fullHold (curCore s) 12 } fun s =>
    match found with
    | none => s
    | some (i, r) =>
      let w := some (s.cur, nextOp (curCore s) 12)
      let s := pushOp s 12 (.rmaRev i) [] [] []
      { s with drt := { s.drt with regs := mset s.drt.regs i (some { r with closing := true, waiter := w }) } }

end Sys2Proof.Machine
end

