-- ==== Sys2Proof/Machine/Tasks.lean ====
section
/-! DEFINITION. Tasks: gangs (R31, R32), the walker (R33, R34), the choice of a free core (R35), task records and the ready
queue (R36 to R39), supersteps (R40), the start (R24, R25) and the end of a task. -/

namespace Sys2Proof.Machine

/-! ### Physical cores -/

/-- Two core keys of resident contexts name the same hardware (R9): one position, and one core of the pair unless a
context is checked. -/
def sameCore (s : State) (a b : Nat) : Bool :=
  let x := ctxAt s (keyCtx a)
  let y := ctxAt s (keyCtx b)
  corePos s x.checked (keyCore a) == corePos s y.checked (keyCore b) &&
    (x.checked || y.checked || keyCore a == keyCore b)

/-- Some task runs on the hardware of a core; one that has yet to resume after a restore does not. -/
def coreRuns (s : State) (k : Nat) : Bool :=
  s.cores.any fun e => (ctxAt s (keyCtx e.1)).resident && e.2.task.isSome && !e.2.waits && sameCore s e.1 k

/-- Some launch of a context held its gang when the context was pre-empted and has yet to take it again (R49, R236): until then nothing
of the context goes on. -/
def gangsPending (s : State) (x : Nat) : Bool := s.fcp.launches.any fun l => l.ctx == x && l.had

/-- The hardware of a core is stopped, under whichever context (R225), or has a task that runs or that a restored context is about to
resume there (R26). -/
def coreClaimed (s : State) (k : Nat) : Bool :=
  s.cores.any fun e => (ctxAt s (keyCtx e.1)).resident && sameCore s e.1 k &&
    (e.2.stop.isSome || (e.2.task.isSome && (!e.2.waits || !gangsPending s (keyCtx e.1))))

/-- A restored core resumes: the context's gangs are whole again and no task runs on its hardware (R26, R49, R236). -/
def resumeWaiting (s : State) : State :=
  (s.cores.map Prod.fst).foldl (fun s k =>
    if (coreAt s k).waits && (ctxAt s (keyCtx k)).resident && !gangsPending s (keyCtx k) && !coreRuns s k then
      onCore s k fun c => { c with waits := false }
    else s) s

/-- The staging slot of a core's hardware is empty and the core is not stopped (R26, R225). R225 speaks of a core stopped between tasks:
one stopped within a task is taken as not free too, as is one whose stop the CP is to resolve (DESIGN CHOICE [91]). -/
def coreFree (s : State) (k : Nat) : Bool :=
  !(s.cores.any fun e =>
    (ctxAt s (keyCtx e.1)).resident && (e.2.staged.isSome || e.2.stop.isSome) && sameCore s e.1 k)

/-- The logical cores of a rectangle in ascending rectangle index (R28). -/
def rectCores (s : State) (checked : Bool) (lw lh x0 y0 : Nat) : List Nat :=
  let p := perPos s checked
  (List.range (2 ^ (lw + lh) * p)).map fun c => (16 * (y0 + c / p / 2 ^ lw) + x0 + c / p % 2 ^ lw) * p + c % p

/-! ### Launch records (R27, R33) -/

def lrLevels (r : BitVec 512) : Nat := rbits r 177 3
def lrBound (r : BitVec 512) (j : Nat) : Nat := rbits r (192 + 32 * j) 32
def lrPrio (r : BitVec 512) : Nat := rbits r 184 8
def lrLast (r : BitVec 512) : Nat := rbits r 180 4
def lrMulti (r : BitVec 512) : Bool := rbits r 479 1 == 1
def lrGroup (r : BitVec 512) : Nat := rbits r 480 8
def lrDone (r : BitVec 512) : Word := BitVec.ofNat 64 (rbits r 384 64)
def lrArg (r : BitVec 512) : Word := BitVec.ofNat 64 (rbits r 64 64)
def lrEntry (r : BitVec 512) : Word := BitVec.ofNat 64 (rbits r 0 57)

/-- ORDER: the level numbers, outermost first. -/
def lrOrder (r : BitVec 512) : List Nat := (List.range 6).map fun i => rbits r (156 - 3 * i) 3

/-- The levels in use, outermost first. -/
def lrNest (r : BitVec 512) : List Nat := (lrOrder r).take (lrLevels r)

/-- The iterations of one superstep (R33). -/
def lrTotal (r : BitVec 512) : Nat := ((lrNest r).map (lrBound r)).foldl (· * ·) 1

/-- The cores of a launch's rectangle, as keys of its context. -/
def lrCores (s : State) (x : Nat) (r : BitVec 512) : List Nat :=
  (rectCores s (ctxAt s x).checked (rbits r 170 3) (rbits r 167 3) (rbits r 163 4) (rbits r 159 4)).map (coreKey x)

/-- The index of level j in iteration `ord` (R33); zero for levels not in use. -/
def lrIndex (r : BitVec 512) (ord j : Nat) : Nat :=
  match (List.zip (lrNest r) (digits ((lrNest r).map (lrBound r)) ord)).find? fun e => e.1 == j with
  | some (_, d) => if rbits r (135 + j) 1 = 1 then lrBound r j - 1 - d else d
  | none => 0

/-- The task of one iteration (R33). -/
def iterationTask (l : Launch) (ord : Nat) : Task where
  ctx := l.ctx
  entry := lrEntry l.record
  regs := ((List.range 6).map fun j => BitVec.ofNat 64 (lrIndex l.record ord j)) ++
    [lrArg l.record, BitVec.ofNat 64 (l.seq % 2 ^ 27 * 2 ^ 36 + l.step % 16 * 2 ^ 32 + ord % 2 ^ 32)]
  q := l.start
  launch := some (l.seq, ord)
  record := none
  done := 0
  prio := lrPrio l.record

/-! ### Gang reservation (R31, R32) -/

/-- Replace the launch of a sequence number. -/
def setLaunch (s : State) (l : Launch) : State :=
  { s with fcp := { s.fcp with launches := s.fcp.launches.map fun m => if m.seq = l.seq then l else m } }

/-- The launch of a sequence number. -/
def launchOf (s : State) (n : Nat) : Option Launch := s.fcp.launches.find? fun l => l.seq == n

/-- Release a launch's reservations and back off 2^k × 256 cycles (R32). -/
def backOff (s : State) (l : Launch) : Launch :=
  { l with held := [], phase := .backoff (s.time + 2 ^ l.k * 256), k := min 8 (l.k + 1) }

/-- The launches other than `l` that hold the hardware of a core, committed or reserved. -/
def holders (s : State) (l : Launch) (k : Nat) : List Launch :=
  s.fcp.launches.filter fun m => m.seq != l.seq && m.held.any fun h => sameCore s h k

/-- A core has granted a launch's request; when it is the rectangle's last, all of them are committed at once (R31). -/
def grantCore (s : State) (l : Launch) (k : Nat) : State :=
  let held := l.held ++ [k]
  setLaunch s
    (if held.length = (lrCores s l.ctx l.record).length then
      { l with held := held, phase := .committed, k := 0, had := false }
    else { l with held := held, phase := .reserving })

/-- A launch requests the next core of its rectangle, in ascending index (R31, R32): it releases and backs off from a committed
core, and from one reserved by a launch with a lower sequence number; a holder with a higher one releases. The manual does not
say how fast requests follow one another: one in each cycle (DESIGN CHOICE [21]). -/
def requestCore (s : State) (l : Launch) : State :=
  match (lrCores s l.ctx l.record)[l.held.length]? with
  | none => s
  | some k =>
    let hs := holders s l k
    if hs.any fun m => m.phase == .committed || decide (m.seq < l.seq) then setLaunch s (backOff s l)
    else grantCore (hs.foldl (fun s m => setLaunch s (backOff s m)) s) l k

/-- LAUNCH_BACKOFF_EXPIRY (R32): a launch whose back-off has ended starts again from the first core, and one that is reserving goes
on. -/
def execLaunchBackoffExpiry (n : Nat) (s : State) : Host.Outcome State Fault Refusal :=
  match launchOf s n with
  | some l =>
    match l.phase with
    | .backoff t => .next (if t ≤ s.time ∧ (ctxAt s l.ctx).resident then requestCore s l else s)
    | .reserving => .next (if (ctxAt s l.ctx).resident then requestCore s l else s)
    | .committed | .finishing _ => .next s
  | none => .next s

/-! ### The choice of a free core (R34, R35) -/

/-- The next iteration of a launch: one that a pre-emption gave back first (R48), else the next ordinal. -/
def nextIteration (l : Launch) : Option Nat :=
  match l.given with
  | o :: _ => some o
  | [] => if l.ord < lrTotal l.record then some l.ord else none

/-- The core the walker hands the next iteration to: the first free core from the scan position on (R34). -/
def walkerPick (s : State) (l : Launch) : Option Nat :=
  let n := l.held.length
  ((List.range n).map fun i => (l.last + i) % max 1 n).findSome? fun i =>
    match l.held[i]? with
    | some k => if coreFree s k then some k else none
    | none => none

/-- The next iteration of the launch that the hardware of a core is committed to, when it has one left (R35). -/
def walkerCandidate (s : State) (k : Nat) : Option (Launch × Nat) :=
  s.fcp.launches.findSome? fun l =>
    if l.phase = .committed ∧ (ctxAt s l.ctx).resident ∧ (l.held.any fun h => sameCore s h k) then (nextIteration l).map fun o => (l, o)
    else none

/-- Effective priority of a ready entry (R39). -/
def effPrio (s : State) (r : Ready) : Nat := min (min (r.prio + (s.time - r.at_) / 2 ^ 20) (r.prio + 16)) 255

/-- The free cores that may take a ready entry (R35). -/
def readyCores (s : State) (r : Ready) : List Nat :=
  if (ctxAt s r.ctx).resident then
    ((rectCores s (ctxAt s r.ctx).checked r.lw r.lh r.x0 r.y0).map (coreKey r.ctx)).filter (coreFree s)
  else []

/-- The hardware of a core may take a ready entry, under whichever context. -/
def mayTake (s : State) (k : Nat) (r : Ready) : Bool := (readyCores s r).any fun j => sameCore s j k

/-- The head of the ready queue for the hardware of a core: the highest effective priority, the earliest entry among equals. -/
def readyHead (s : State) (k : Nat) : Option Ready :=
  s.fcp.ready.foldl (fun best r =>
    if mayTake s k r then
      match best with
      | none => some r
      | some b => if effPrio s b < effPrio s r then some r else best
    else best) none

/-- What a free core takes next. -/
inductive Choice where
  | iteration (l : Launch) (ord : Nat)
  | ready (r : Ready)
  deriving DecidableEq, Repr

/-- The choice of R35 at the hardware of a core: the candidate with the higher priority, a tie goes to the walker. -/
def coreChoice (s : State) (k : Nat) : Option Choice :=
  match walkerCandidate s k, readyHead s k with
  | some (l, o), some r => some (if effPrio s r ≤ lrPrio l.record then .iteration l o else .ready r)
  | some (l, o), none => some (.iteration l o)
  | none, some r => some (.ready r)
  | none, none => none

/-- Core k takes ready entry r: it is the lowest-numbered of the free cores that choose it (R35). -/
def takesReady (s : State) (k : Nat) (r : Ready) : Bool :=
  let cs := (readyCores s r).filter fun j => decide (coreChoice s j = some (.ready r))
  cs.contains k && cs.all fun j => decide (k ≤ j)

/-- Stage a task on a core (R26). -/
def stageTask (s : State) (k : Nat) (t : Task) : State := onCore s k fun c => { c with staged := some t }

/-- Hand the next iteration to a core (R34). -/
def stageIteration (s : State) (k : Nat) (l : Launch) (ord : Nat) : State :=
  let i := (l.held.findIdx? (· == k)).getD 0
  let l' := { l with
    given := l.given.tail
    ord := if l.given.isEmpty then l.ord + 1 else l.ord
    last := (i + 1) % max 1 l.held.length
    running := l.running + 1 }
  stageTask (setLaunch s l') k (iterationTask l ord)

/-- Remove the first entry of the ready queue that equals r. -/
def dropReady (s : State) (r : Ready) : State := { s with fcp := { s.fcp with ready := s.fcp.ready.erase r } }

/-- Reserved fields of a task record, or an ENTRY that R30 refuses (R36, R37). -/
def recordBad (s : State) (r : BitVec 512) : Bool :=
  rbits r 57 7 != 0 || rbits r 160 9 != 0 || rbits r 183 1 != 0 || rbits r 192 40 != 0 ||
    rbits r 0 6 != 0 || rbits r 47 10 != s.port.rank

/-- The task of a dispatched record (R37). -/
def recordTask (e : Ready) (r : BitVec 512) : Task where
  ctx := e.ctx
  entry := BitVec.ofNat 64 (rbits r 0 57)
  regs := ((List.range 6).map fun j => BitVec.ofNat 64 (rbits r (256 + 32 * j) 32)) ++
    [BitVec.ofNat 64 (rbits r 64 64), BitVec.ofNat 64 (2 ^ 63 + e.addr.toNat % 2 ^ 57)]
  q := e.q
  launch := none
  record := some e
  done := BitVec.ofNat 64 (rbits r 448 64)
  prio := e.prio

/-- Where a record of this die lies, if its page can be written, else the kind of translation fault. Each access of the part to a
record is translated under the context that CTXID names; the manual does not say whose translation holds after the enqueue
(DESIGN CHOICE [25]). -/
def recordPlace (s : State) (x : Nat) (a : Word) : Except Nat (Phys × State) :=
  match locateAny s (coreKey x 0) false a 64 .atomic with
  | .ok ((p, _, _) :: _, s') => .ok (p, s')
  | .ok ([], _) => .error 1
  | .error f => .error f

/-- Set the STATE of a record named by its address, an ordinary access of the FCP (R177) at its present time [30]; one whose page is AIRED
is kept until the page is back, one that cannot be reached is logged, and one that races is dropped and logged (R178). -/
def markRecord (s : State) (x : Nat) (a : Word) (st : Nat) : State :=
  match recordPlace s x a with
  | .ok _ =>
    (match performMem s (coreKey x 0) (fcpAgent s s.time false) false (locAddr a 29) (.store [BitVec.ofNat 8 st] false) with
     | .ok (t, _) => t
     | .error b => if b.code = 5 then logRace s b (fcpAgent s s.time false) else logCp s 3 a.toNat st)
  | .error 2 => { s with fcp := { s.fcp with pendMark := s.fcp.pendMark ++ [(x, a, st)] } }
  | .error _ => logCp s 3 a.toNat st

/-- READY_OVERFLOW_MOVE (R39): the earliest overflow entry of level l moves into the queue when it has room. The manual does not
say which level moves first: the levels are tried from the highest down (DESIGN CHOICE [23]). -/
def execReadyOverflowMove (l : Nat) (s : State) : Host.Outcome State Fault Refusal :=
  match s.fcp.overflow.find? fun r => r.prio == l with
  | some r =>
    if s.fcp.ready.length < 65536 then
      .next { s with fcp := { s.fcp with ready := s.fcp.ready ++ [r], overflow := s.fcp.overflow.erase r } }
    else .next s
  | none => .next s

/-! ### Task start and end -/

/-- The registers at a task start (R24): g1 to g8 as preloaded, the others unspecified [7]. -/
def startRegs (stamp : Nat) (regs : List Word) : List Word :=
  (List.range 64).map fun i =>
    if i = 0 then 0 else if i ≤ 8 then regs.getD (i - 1) 0 else Config.freeScalar stamp i

/-- Results that reach the context's own state when their task has ended: FIFO words, shape fields and capability registers.
The others land in registers that the next task finds unspecified (R24, R123): only their flags remain (R56). -/
def outlives : Dest → Bool
  | .fo _ | .shape _ _ | .k _ => true
  | .none | .g _ | .hb _ | .p _ | .v _ => false

/-- A core at the start of its staged task (R24, R123, R127). Results still in flight land: the values of those that go to
unspecified registers are lost in the free values. -/
def beginTask (stamp epoch : Nat) (c : Core) (t : Task) : Core :=
  { c with
    task := some t
    staged := none
    begun := false
    serial := c.serial + 1
    pc := t.entry
    g := startRegs stamp t.regs
    p := (List.range 8).map fun i => Config.freePred stamp i
    v := (List.range 32).map fun i => Config.freeVector stamp i
    q := t.q
    epoch := epoch
    relq := 0
    idle := 0
    results := c.results.map fun r => if outlives r.dest then r else { r with dest := .none }
    pops := []
    after := .next
    seq := Sequencer.init
    lock := none
    held := 0
    hold := none
    inH := false
    snap := none
    mismatch := 0
    parity := 0 }

/-- STAGED_TASK_START (R25): the core has no running task. -/
def execStagedTaskStart (k : Nat) (s : State) : Host.Outcome State Fault Refusal :=
  let c := coreAt s k
  match c.staged with
  | some t =>
    if c.task.isNone && c.stop.isNone && (ctxAt s (keyCtx k)).resident && !coreClaimed s k then
      .next { setCore s k (beginTask s.tick s.epoch c t) with tick := s.tick + 1 }
    else .next s
  | none => .next s

/-- The task's first bundle issues: a record task's STATE becomes running (R37). -/
def markBegun (s : State) (k : Nat) : State :=
  let c := coreAt s k
  if c.begun then s
  else
    let s := match c.task.bind Task.record with
      | some e => markRecord s e.ctx e.addr 3
      | none => s
    onCore s k fun c => { c with begun := true }

/-- Results that are discarded with a snapshot give back the fo entries they had reserved (R89, R229). -/
def dropSnapshot (c : Core) : Core :=
  match c.snap with
  | none => c
  | some n =>
    let ds := n.results.map Exposed.dest ++ n.accs.map Access.dest ++ n.rets.map Return.dest
    let c := ds.foldl (fun c d => match d with
      | .fo i => let f := fifoAt c i; setFifo c i { f with resv := f.resv - 1 }
      | .none | .g _ | .hb _ | .p _ | .v _ | .k _ | .shape _ _ => c) c
    { c with snap := none, sdone := n.sdone.map (fun o => { o with land := c.icycle }) ++ c.sdone }

/-- The running task ends (R25, R229, R230): a record's STATE becomes done and its DONEREC is decremented (R37), and an
iteration retires. -/
def endTask (s : State) (k : Nat) : State :=
  let c := coreAt s k
  let x := dropSnapshot (wakeEngines c)
  let x := { x with task := none, begun := false, after := .next, inH := false, stop := none, held := 0, hold := none, lock := none }
  let s := setCore s k { x with seq := { c.seq with active := false } }
  match c.task with
  | none => s
  | some t =>
    let s := match t.record with
      | some e => markRecord s e.ctx e.addr 4
      | none => s
    let s := if t.done = 0 then s else decRecord s (keyCtx k) t.done
    match t.launch.bind fun l => launchOf s l.1 with
    | some l => setLaunch s { l with running := l.running - 1 }
    | none => s

/-! ### Supersteps (R40) -/

/-- The group-table entry of a context (R355). -/
def groupEntry (s : State) (x g : Nat) : BitVec 2048 :=
  BitVec.ofNat 2048 (readNat s.hbm ((ctxAt s x).grptab + 256 * g) 256)

/-- The members of a group entry, in ascending rank. -/
def groupMembers (e : BitVec 2048) : List Nat := (List.range 1024).filter fun r => e.getLsbD r

/-- A group entry is usable on this die (R356). -/
def groupUsable (s : State) (x : Nat) (e : BitVec 2048) : Bool :=
  let me := s.port.rank
  e.getLsbD 1055 && e.getLsbD me && rbits e 1024 10 == ((groupMembers e).filter (· < me)).length &&
    decide (1 ≤ rbits e 1048 7 ∧ rbits e 1048 7 ≤ 64) &&
    (groupMembers e).all fun r => (ctxAt s x).members.contains r

/-- Every operation issued on a core has been performed at its destination (R40), those of a snapshot included. -/
def coreDrained (c : Core) : Bool :=
  c.accs.isEmpty && c.rets.isEmpty && (c.engs.all fun e => e.2.isEmpty) &&
    (match c.snap with
     | some n => n.accs.isEmpty && n.rets.isEmpty
     | none => true)

/-- The current superstep's iterations have all retired and their operations are performed (R40). -/
def stepDone (s : State) (l : Launch) : Bool :=
  l.phase == .committed && l.running == 0 && (nextIteration l).isNone && l.held.all fun k => coreDrained (coreAt s k)

/-- The other members of a multi-die launch's group. -/
def launchPeers (s : State) (l : Launch) : List Nat :=
  (groupMembers (groupEntry s l.ctx (lrGroup l.record))).filter (· != s.port.rank)

/-- Every other member has sent its message for this superstep (R40). -/
def peersReached (s : State) (l : Launch) : Bool :=
  (launchPeers s l).all fun r => s.fcp.sstep.contains (l.ctx, lrGroup l.record, l.kth, l.step, r)

/-- Send the superstep messages of a launch, once. -/
def tellPeers (s : State) (l : Launch) : State :=
  (launchPeers s l).foldl (fun s r => sendOrDrop s l.ctx 3 false r (.sstep (lrGroup l.record) l.kth l.step)) s

/-- SUPERSTEP_ADVANCE (R40): a multi-die launch tells its group first, then waits for every member. The next superstep's start
follows every access of this one: it is the next cycle (DESIGN CHOICE [31]). -/
def execSuperstepAdvance (n : Nat) (s : State) : Host.Outcome State Fault Refusal :=
  match launchOf s n with
  | none => .next s
  | some l =>
    if !stepDone s l || lrLast l.record ≤ l.step then .next s
    else if lrMulti l.record && !l.told then .next (setLaunch (tellPeers s l) { l with told := true })
    else if lrMulti l.record && !peersReached s l then .next s
    else
      let old (m : Nat × Nat × Nat × Nat × Nat) : Bool :=
        m.1 == l.ctx && m.2.1 == lrGroup l.record && m.2.2.1 == l.kth && m.2.2.2.1 == l.step
      let s := { s with fcp := { s.fcp with sstep := s.fcp.sstep.filter fun m => !old m } }
      .next (setLaunch s { l with step := l.step + 1, ord := 0, last := 0, told := false, start := s.time + 1 })

end Sys2Proof.Machine
end

