-- ==== Sys2Proof/Machine/Windows.lean ====
section
/-! DEFINITION. Die timelines (R217, R354) and in-fabric reduction windows at the home and at the seam (R303 to R306, R328,
R331). -/

namespace Sys2Proof.Machine

/-! ### Die timelines (R217, R354) -/

/-- Accept an operation of timeline dtq: its number. -/
def dtAccept (s : State) (q : Nat) : Nat × State :=
  let n := mget 0 s.fcp.dtOps q + 1
  (n, { s with fcp := { s.fcp with dtOps := mset s.fcp.dtOps q n } })

/-- The largest n up to which every operation has completed, from those that have. -/
def dtReach : Nat → Nat → List Nat → Nat
  | 0, t, _ => t
  | k + 1, t, done => if done.contains (t + 1) then dtReach k (t + 1) done else t

/-- Operation n of dtq completes at time `at_` (R217). -/
def dtComplete (s : State) (q n at_ : Nat) : State :=
  let done := n :: mget [] s.fcp.dtDone q
  let t := (mget 0 s.fcp.dt q).toNat
  let t' := dtReach done.length t done
  { s with fcp := { s.fcp with
      dt := mset s.fcp.dt q (BitVec.ofNat 64 t')
      dtDone := mset s.fcp.dtDone q (done.filter fun m => t' < m)
      dtTimes := (List.range (t' - t)).foldl (fun m i => mset m (64 * (t + 1 + i) + q) at_) s.fcp.dtTimes } }

/-! ### Accesses of die units -/

/-- The agent of a die unit: FCP 0, CP 1, EQE 2, page compressor 3, fabric port 4 [3]. -/
def unitWho (s : State) (unit : Nat) : Who := { agent := agentId 2 s.port.rank unit 0, q := s.time, rx := false }

/-- The die unit of a request's stream: 17 is the reading of a release list. -/
def streamUnit (stream : Nat) : Nat := if stream = 17 then 1 else 0

/-- What a job of a die unit comes to: it waits for a page, a bank lock or a landing slot; it is done; or another follows it. -/
inductive Did where
  | wait (j : UnitJob)
  | done (s : State)
  | more (s : State) (j : UnitJob)
  deriving DecidableEq, Repr

/-- A failed access of a die unit: dropped and logged (R178, R216). -/
def unitFailed (s : State) (who : Who) (kind : Nat) (a : Word) (b : Bad) : State :=
  if b.code = 5 then logRace s b who else logCp s kind a.toNat b.sub

/-- Do a job of a die unit as far as it goes. The entry of a release list is read as a die-unit agent and the record it names is
decremented; one at another die is asked for, and its address comes back on stream 17 (R216). A timeline's operation completes in the
cycle after the writes before it [31]. -/
def unitDo (s : State) (j : UnitJob) : Did :=
  let k := coreKey j.ctx 0
  let who : Who := { unitWho s j.unit with q := j.q }
  let try_ (kind : Nat) (a : Word) (op : MemOp) (go : State → List Byte → Did) : Did :=
    if accessHeld s none k false a op then .wait j
    else
      match performMem s k who false a op with
      | .ok (t, g) => go t g.bytes
      | .error b => if b.code = 3 ∧ b.sub = 2 then .wait j else .done (unitFailed s who kind a b)
  let ask (stream : Nat) (vc : Fin 4) (kind : Nat) (a : Word) (op : MemOp) : Did :=
    match takeUnit s (streamUnit stream) with
    | none => .wait j
    | some t =>
      match sendBody t j.ctx vc false (ownerOf a) (.mem who { core := k, stream := stream, id := 0 } none a op) with
      | some t => .done t
      | none => .done (logCp s kind a.toNat 12)
  match j.op with
  | .write a bs => if ownerOf a = s.port.rank then try_ 5 a (.store bs false) fun t _ => .done t else .done (logCp s 5 a.toNat 12)
  | .release a =>
    if ownerOf a = s.port.rank then try_ 7 a (.load 8 false) fun t bs => .more t { j with op := .dec (BitVec.ofNat 64 (leNat bs)) }
    else ask 17 0 7 a (.load 8 false)
  | .dec a => if ownerOf a = s.port.rank then try_ 7 a .taskDec fun t _ => .done t else ask 16 2 7 a .taskDec
  | .complete q n => if j.q = 0 then .wait { j with q := s.time + 1 } else if s.time < j.q then .wait j else .done (dtComplete s q n s.time)

/-- A job at the head of its lane: the state, and what is left of it. -/
def unitRun (s : State) (j : UnitJob) : State × List UnitJob :=
  match unitDo s j with
  | .wait j => (s, [j])
  | .done t => (t, [])
  | .more t j =>
    match unitDo t j with
    | .wait j => (t, [j])
    | .done t => (t, [])
    | .more t j => (t, [j])

/-- A new job: done at once when its lane is free and nothing holds it. -/
def addJob (s : State) (j : UnitJob) : State :=
  if s.cp.jobs.any fun i => i.lane == j.lane then { s with cp := { s.cp with jobs := s.cp.jobs ++ [j] } }
  else
    let r := unitRun s j
    { r.1 with cp := { r.1.cp with jobs := r.1.cp.jobs ++ r.2 } }

/-- A write by the fabric port for a window of core k, under its context's translation. -/
def windowWrite (s : State) (k : Nat) (a : Word) (bs : List Byte) : State :=
  addJob s { lane := 2 * k + 1, ctx := keyCtx k, unit := 4, q := s.time, op := .write a bs }

/-! ### Descriptors (R303) -/

def wdDest (d : BitVec 256) : Word := BitVec.ofNat 64 (rbits d 192 64)
def wdDeadline (d : BitVec 256) : Nat := rbits d 128 64
def wdStat (d : BitVec 256) : Word := BitVec.ofNat 64 (rbits d 64 64)
def wdTl (d : BitVec 256) : Nat := rbits d 42 6
def wdGrp (d : BitVec 256) : Nat := rbits d 32 8
def wdType (d : BitVec 256) : Nat := rbits d 30 2
def wdOp (d : BitVec 256) : Nat := rbits d 28 2

/-- BADDESC of R328. -/
def wdBad (d : BitVec 256) : Bool :=
  rbits d 48 16 != 0 || rbits d 40 2 != 0 || rbits d 11 17 != 0 || wdType d == 3 || wdOp d == 3 || winLen d == 0 ||
    decide (1024 < winLen d) || (wdDest d).toNat % 256 != 0 || (wdStat d).toNat % 256 != 0

/-- Frames a payload frame of a window takes as a partial (R305). -/
def partFrames (d : BitVec 256) : Nat := if wdType d = 1 then 1 else 2

/-- Bytes of the reduction store that a window's partials take. -/
def storeBytes (d : BitVec 256) : Nat := winLen d * 256 * partFrames d

/-- The reduction store holds 4 MiB (R303). -/
def reductionStore : Nat := 4194304

/-- Bytes of the reduction store in use, by windows homed here and by seams. -/
def storeUsed (s : State) : Nat :=
  s.port.windows.foldl (fun n e => n + ((e.2.map fun w => storeBytes w.desc).getD 0)) 0 +
    s.port.seams.foldl (fun n m => n + storeBytes m.desc) 0

/-! ### Partials (R305) -/

/-- Widen a payload frame's elements: bf16 and fp32 to fp32 patterns, i32 to i64. -/
def widen (type : Nat) : Nat → List Byte → List Word
  | 0, _ => []
  | n + 1, bs =>
    match type with
    | 0 => BitVec.ofNat 64 (leNat (bs.take 2) * 65536) :: widen type n (bs.drop 2)
    | 1 => BitVec.ofNat 64 (leNat (bs.take 4)) :: widen type n (bs.drop 4)
    | _ => wordOfInt (sextNat 32 (leNat (bs.take 4))) :: widen type n (bs.drop 4)

/-- The elements of one 256-byte payload frame. -/
def frameElems (type : Nat) (bs : List Byte) : List Word := widen type (if type = 0 then 128 else 64) bs

/-- A canonical fp32 pattern: every NaN is the canonical one. -/
def canonF32 (x : Nat) : Nat := if (fp32.decode x).isNan then fp32.qnan else x

/-- Merge one element (R305). -/
def mergeElem (type op : Nat) (a b : Word) : Word :=
  if type = 2 then
    match op with
    | 0 => a + b
    | 1 => if a.toInt < b.toInt then b else a
    | _ => if b.toInt < a.toInt then b else a
  else
    let x := fp32.decode a.toNat
    let y := fp32.decode b.toNat
    BitVec.ofNat 64 (canonF32 (match op with
      | 0 => (fp32.add .rne x y).1
      | 1 => (fp32.minmax true x y).1
      | _ => (fp32.minmax false x y).1))

/-- Merge a frame's elements into a partial that may not exist yet. -/
def mergeElems (type op : Nat) (old new : List Word) : List Word :=
  if old.isEmpty then (if type = 2 then new else new.map fun x => BitVec.ofNat 64 (canonF32 x.toNat))
  else List.zipWith (mergeElem type op) old new

/-! ### The home (R306) -/

/-- The window in a slot of this home. -/
def windowAt (s : State) (i : Nat) : Option Window := mget none s.port.windows i

/-- Replace a slot's window. -/
def setWindow (s : State) (i : Nat) (w : Option Window) : State :=
  { s with port := { s.port with windows := mput none s.port.windows i w } }

/-- A window ends: its slot is free, and later contributions find it (R306, R331). -/
def endSlot (s : State) (i : Nat) (w : Window) : State :=
  { s with port := { s.port with windows := mput none s.port.windows i none, ended := mput none s.port.ended i (some w) } }

/-- A member's frames have all merged. -/
def memberMerged (w : Window) (r : Nat) : Bool :=
  (List.range (winLen w.desc)).all fun f => (mget [] w.merged f).contains r

/-- The contributors merged in full. -/
def mergedFull (w : Window) : List Nat := w.members.filter (memberMerged w)

/-- The 256-byte status record (R306). -/
def statusRecord (w : Window) : List Byte :=
  let full := mergedFull w
  leBytes 8 (w.status + w.ovf.toNat * 256 + min 65535 w.late * 65536 + full.length * 2 ^ 32) ++ leBytes 120 0 ++
    leBytes 128 (full.foldl (fun m r => m + 2 ^ r) 0)

/-- The window's operation completes on its die timeline once its writes are done (R306). -/
def completeLater (s : State) (w : Window) : State :=
  addJob s { lane := 2 * w.core + 1, ctx := w.ctx, unit := 4, q := 0, op := .complete (wdTl w.desc) w.opNum }

/-- Write a window's status record. -/
def writeStatus (s : State) (w : Window) : State := windowWrite s w.core (wdStat w.desc) (statusRecord w)

/-- One result element (R306): its bytes and whether it sets OVF. -/
def resultElem (type : Nat) (x : Word) : List Byte × Bool :=
  match type with
  | 0 => (leBytes 2 (bf16.conv .rne false (fp32.decode x.toNat)).1, x.toNat % 2 ^ 31 == 0x7F800000)
  | 1 => (leBytes 4 x.toNat, x.toNat % 2 ^ 31 == 0x7F800000)
  | _ => (leBytes 4 (sat32 x.toInt % 4294967296).toNat, sat32 x.toInt != x.toInt)

/-- The result frames of a complete window and OVF. -/
def windowResult (w : Window) : List (List Byte) × Bool :=
  let fs := (List.range (winLen w.desc)).map fun f => (mget [] w.parts f).map (resultElem (wdType w.desc))
  (fs.map fun es => es.flatMap Prod.fst, fs.any fun es => es.any Prod.snd)

/-- A window completes (R306): DEST, the status record, TL; its slot is freed (R328). -/
def completeWindow (s : State) (i : Nat) (w : Window) : State :=
  let (frames, ovf) := windowResult w
  let w := { w with status := 1, ovf := ovf }
  let s := (frames.zip (List.range frames.length)).foldl
    (fun s e => windowWrite s w.core (wdDest w.desc + BitVec.ofNat 64 (256 * e.2)) e.1) s
  completeLater (endSlot (writeStatus s w) i w) w

/-- Every contributor has arrived for every frame. -/
def windowFull (w : Window) : Bool := w.members.all (memberMerged w)

/-- A contribution for a slot without a window: it counts in LATE of the window that last ended there (R306, R329, R331). -/
def countLate (s : State) (i : Nat) : State :=
  match mget none s.port.ended i with
  | some w =>
    let w := { w with late := w.late + 1 }
    writeStatus { s with port := { s.port with ended := mput none s.port.ended i (some w) } } w
  | none => { s with port := { s.port with dropped := s.port.dropped + 1 } }

/-- Merge a contribution at the home (R304, R306, R329, R330): dropped and counted when it is late or foreign. -/
def homeMerge (s : State) (i f : Nat) (els : List Word) (ranks : List Nat) : State :=
  match (windowAt s i).filter Window.active with
  | none => countLate s i
  | some w =>
    if w.status ≠ 0 ∨ winLen w.desc ≤ f then
      let w := { w with late := w.late + 1 }
      let s := setWindow s i (some w)
      if w.status = 0 then s else writeStatus s w
    else if ranks.any fun r => !w.members.contains r then { s with port := { s.port with dropped := s.port.dropped + 1 } }
    else
      let p := mergeElems (wdType w.desc) (wdOp w.desc) (mget [] w.parts f) els
      let w := { w with parts := mset w.parts f p, merged := mset w.merged f (mget [] w.merged f ++ ranks) }
      if windowFull w then completeWindow s i w else setWindow s i (some w)

/-- A partial of a source at the home, whole or in two frames, the second of which completes it (R305). -/
def partMerge (s : State) (src i : Nat) (name : Word) (f half : Nat) (els : List Word) (ranks : List Nat) : State :=
  if half = 0 then homeMerge s i f els ranks
  else
    let mine (h : Nat × Word × Nat × List Word) : Bool := h.1 == src && h.2.1 == name && h.2.2.1 == f
    let rest := s.port.halves.filter fun h => !mine h
    if half = 1 then { s with port := { s.port with halves := rest ++ [(src, name, f, els)] } }
    else
      let first := ((s.port.halves.find? mine).map fun h => h.2.2.2).getD []
      homeMerge { s with port := { s.port with halves := rest } } i f (first ++ els) ranks

/-- WINDOW_DEADLINE (R306): a window not complete at DEADLINE becomes PARTIAL. -/
def execWindowDeadline (i : Nat) (s : State) : Host.Outcome State Fault Refusal :=
  match windowAt s i with
  | some w =>
    if w.status = 0 ∧ w.active ∧ wdDeadline w.desc ≤ s.time then
      let w := { w with status := 2 }
      .next (setWindow (writeStatus s w) i (some w))
    else .next s
  | none => .next s

/-! ### The seam (R304) -/

/-- The seam record of a window name. -/
def seamOf (s : State) (name : Word) : Option Seam := s.port.seams.find? fun m => m.name == name

/-- Replace the seam record of its name. -/
def setSeam (s : State) (m : Seam) : State :=
  { s with port := { s.port with seams := s.port.seams.map fun n => if n.name = m.name then m else n } }

/-- The seam forgets a window. -/
def dropSeam (s : State) (name : Word) : State := { s with port := { s.port with seams := s.port.seams.filter fun m => m.name != name } }

/-- Send a partial toward the home: 512 bytes go as two frames (R305). -/
def sendWpart (s : State) (m : Seam) (f : Nat) (els : List Word) (ranks : List Nat) : State :=
  let go (s : State) (half : Nat) (els : List Word) (ranks : List Nat) : State :=
    sendOrDrop s m.ctx 2 false (bits m.name 20 10) (.wpart m.name f half els ranks)
  if partFrames m.desc = 1 then go s 0 els ranks
  else go (go s 1 (els.take (els.length / 2)) []) 2 (els.drop (els.length / 2)) ranks

/-- Send the partial of frame f toward the home (R304); with its last frame the seam's record of the window goes. -/
def sendPart (s : State) (m : Seam) (f : Nat) : State :=
  let m := { m with sent := f :: m.sent }
  let s := if (List.range (winLen m.desc)).all m.sent.contains then dropSeam s m.name else setSeam s m
  sendWpart s m f (mget [] m.parts f) (mget [] m.merged f)

/-- Merge a contribution at the seam; once every contributor of its shelf has arrived for the frame, the partial goes on. -/
def seamMerge (s : State) (m : Seam) (f : Nat) (data : List Byte) (rank : Nat) : State :=
  if m.sent.contains f ∨ winLen m.desc ≤ f then
    sendWpart s m f (frameElems (wdType m.desc) data) [rank]
  else
    let p := mergeElems (wdType m.desc) (wdOp m.desc) (mget [] m.parts f) (frameElems (wdType m.desc) data)
    let m := { m with parts := mset m.parts f p, merged := mset m.merged f (mget [] m.merged f ++ [rank]) }
    let s := setSeam s m
    if m.members.all fun r => (mget [] m.merged f).contains r then sendPart s m f else s

/-- Frames of which a seam holds a partial that has not gone on. -/
def seamPending (m : Seam) : List Nat :=
  (List.range (winLen m.desc)).filter fun f => !m.sent.contains f && !(mget [] m.parts f).isEmpty

/-- SEAM_DEADLINE_FLUSH (R304): at DEADLINE − 8,192 cycles the i-th seam sends whatever it holds, and holds nothing more. -/
def execSeamDeadlineFlush (i : Nat) (s : State) : Host.Outcome State Fault Refusal :=
  match s.port.seams[i]? with
  | some m =>
    if wdDeadline m.desc ≤ s.time + 8192 then
      .next (dropSeam ((seamPending m).foldl (fun s f => match seamOf s m.name with | some m => sendPart s m f | none => s) s) m.name)
    else .next s
  | none => .next s

/-- A seam discards its partial of a window that is over and acknowledges (R328, R331). -/
def seamOver (s : State) (x : Nat) (name : Word) : State :=
  sendOrDrop (dropSeam s name) x 1 false (bits name 20 10) (.winack name 0)

/-- SEAM_PARTIAL_DISCARD (R331): the seam discards its partial of an aborted window and acknowledges. -/
def execSeamPartialDiscard (w : Word) (s : State) : Host.Outcome State Fault Refusal :=
  match seamOf s w with
  | some m => .next (seamOver s m.ctx w)
  | none => .next s

/-- WINREG at a seam (R304, R328): acknowledged, or NOSEAM when it holds 32 windows or lacks store. A window registered anew under
its name replaces the old. -/
def registerSeam (s : State) (x : Nat) (name : Word) (d : BitVec 256) (members : List Nat) : State × Nat :=
  let s := dropSeam s name
  if 32 ≤ s.port.seams.length ∨ reductionStore < storeUsed s + storeBytes d then (s, 5)
  else
    let m : Seam := { name := name, desc := d, members := members, ctx := x, parts := [], merged := [], sent := [] }
    ({ s with port := { s.port with seams := s.port.seams ++ [m] } }, 0)

/-! ### Registration at the home (R328) -/

/-- The name of slot i of this home (R329). -/
def windowName (s : State) (i : Nat) : Word := BitVec.ofNat 64 (s.port.rank * 2 ^ 20 + i)

/-- The seam of the route of a contributor to this home, as a rank (R278, R304): none when its first hop ends here. -/
def seamRank (s : State) (r : Nat) : Option Nat :=
  match rankPos s r with
  | none => none
  | some a =>
    match route s a s.port.pos with
    | some ((_, p) :: _ :: _) => some (rankAt s p)
    | _ => none

/-- A contributor's route to this home can be formed (R279). -/
def reachesHome (s : State) (r : Nat) : Bool :=
  r == s.port.rank || (match rankPos s r with | some a => live s a && (route s a s.port.pos).isSome | none => false)

/-- The lowest free window slot of this home. -/
def freeWindow (s : State) : Option Nat := (List.range 16).find? fun i => (windowAt s i).isNone

/-- The refusal status of a descriptor, in the order of the checks (R328): BADDESC, BADGRP, NOSLOT, NOSTORE, UNREACH. -/
def registerStatus (s : State) (x : Nat) (d : BitVec 256) : Nat :=
  let e := groupEntry s x (wdGrp d)
  if wdBad d then 3
  else if !groupUsable s x e then 4
  else if (freeWindow s).isNone then 1
  else if reductionStore < storeUsed s + storeBytes d then 2
  else if (groupMembers e).any fun r => !reachesHome s r then 6
  else 0

/-- The contributors of a seam's shelf. -/
def seamMembers (s : State) (members : List Nat) (seam : Nat) : List Nat :=
  members.filter fun r => seamRank s r == some seam

/-- Send WINREG to every seam of the contributors' routes. -/
def sendWinreg (s : State) (x i : Nat) (d : BitVec 256) (members seams : List Nat) : State :=
  seams.foldl (fun s r => sendOrDrop s x 3 false r (.winreg (windowName s i) d (seamMembers s members r))) s

/-- Register a window whose descriptor has passed the checks: its slot and the seams to wait for. -/
def registerWindow (s : State) (x core : Nat) (d : BitVec 256) : State × Nat × List Nat :=
  let members := groupMembers (groupEntry s x (wdGrp d))
  let seams := (members.filterMap (seamRank s)).dedup
  let i := (freeWindow s).getD 0
  let w : Window := { desc := d, members := members, status := 0, active := seams.isEmpty, waiting := seams, parts := [],
                      merged := [], late := 0, ovf := false, ctx := x, core := core, opNum := 0, aborter := none }
  (sendWinreg (setWindow s i (some w)) x i d members seams, i, seams)

/-- The registration has been acknowledged everywhere (R328, R354): the window is active and takes its number of TL; the one that ended in
its slot is forgotten. -/
def activateWindow (s : State) (i : Nat) : State :=
  match windowAt s i with
  | some w =>
    let (n, s) := dtAccept s (wdTl w.desc)
    let s := { s with port := { s.port with ended := mput none s.port.ended i none } }
    setWindow s i (some { w with active := true, waiting := [], opNum := n })
  | none => s

/-- The seams a window's contributors pass. -/
def windowSeams (s : State) (w : Window) : List Nat := (w.members.filterMap (seamRank s)).dedup

/-- Tell seams that window i is over. The manual names no frame for it: it is a WINREG without contributors (DESIGN CHOICE [40]). -/
def tellSeams (s : State) (x i : Nat) (seams : List Nat) : State :=
  seams.foldl (fun s r => sendOrDrop s x 3 false r (.winreg (windowName s i) 0 [])) s

/-- Keep a window that is over until every seam has answered; its slot is free then. -/
def keepOver (s : State) (i : Nat) (w : Window) : State :=
  setWindow s i (if w.waiting.isEmpty && w.told.isEmpty then none else some w)

/-- Release a window that seam `refuser` has refused, at every seam that has acknowledged it (R328); one that acknowledges later is told
then. The slot is free once all have answered [40]. -/
def releaseWindow (s : State) (i refuser : Nat) : State :=
  match windowAt s i with
  | some w =>
    let seams := (windowSeams s w).filter fun r => r != refuser && !w.waiting.contains r
    tellSeams (keepOver s i { w with status := 4, told := seams }) w.ctx i seams
  | none => s

/-- The result word of rwin.reg (R328). -/
def registerResult (s : State) (st i : Nat) : Word :=
  if st = 0 then BitVec.ofNat 64 ((windowName s i).toNat % 2 ^ 30) else BitVec.ofNat 64 (st * 2 ^ 56)

/-! ### Reading and aborting a PARTIAL window (R331) -/

/-- The bytes rwin.pread writes for frame f. -/
def partBytes (w : Window) (f : Nat) : List Byte :=
  let n := if wdType w.desc = 0 then 128 else 64
  let xs := mget [] w.parts f
  (List.range n).flatMap fun i => leBytes (if wdType w.desc = 2 then 8 else 4) (xs.getD i 0).toNat

/-- The merge counts that follow the partial. -/
def partCounts (w : Window) : List Byte :=
  (List.range (winLen w.desc)).flatMap fun f => leBytes 2 (mget [] w.merged f).length

/-- rwin.abort (R331): ABORTED is recorded, and the seams are told; the slot is freed once all have answered. -/
def abortWindow (s : State) (i : Nat) (by_ : Nat × Nat) : State :=
  match windowAt s i with
  | none => s
  | some w =>
    let seams := windowSeams s w
    let w := { w with status := 3, told := seams, aborter := some by_ }
    let s := tellSeams (writeStatus (setWindow s i (some w)) w) w.ctx i seams
    if seams.isEmpty then endSlot s i w else s

end Sys2Proof.Machine
end

