-- ==== Sys2Proof/Machine/Accesses.lean ====
section
/-! DEFINITION. The access queue at work (R165, R169, R173, R174, R206, R207, R214 to R221): which entry may be performed, performing
it, injecting its remote elements (R294), results returning to registers (R91 to R93), owed signals (R208, R209),
barrier events (R43, R44) and the invalidations of a tfence (R164). -/

namespace Sys2Proof.Machine

/-! ### Reports (R165, R178) -/

/-- The report of a failed access. -/
def badReport (b : Bad) (addr : Word) (kind : Nat) (epc : Word) : Report where
  code := b.code
  sub := b.sub
  addr := if b.code = 5 then BitVec.ofNat 64 b.gran else b.at_.getD addr
  agent := BitVec.ofNat 25 b.agent
  time := b.time
  eng := false
  tl := 15
  obj := 0
  epc := epc
  kind := if b.rd then 0 else kind

/-- The report of an access of the queue that failed: it names the syllable's bundle, slot and stage (R226). -/
def accReport (a : Access) (b : Bad) (addr : Word) (kind : Nat) : Report :=
  { badReport b addr kind a.epc with slot := a.slot, stg := a.stg }

/-- The report of a failed memory element of an access, with the pages it needs (R168). -/
def elemReport (a : Access) (b : Bad) (e : Elem) : Report :=
  { accReport a b e.addr (memKind e.op).code with need := if b.code = 3 ∧ !e.sp then opPages e.addr e.op else [] }

/-- A report reaches core k (R165). -/
def takeReport (s : State) (k : Nat) (r : Report) : State := onCore s k fun c => addReport c r

/-- ACCESS_REPORT (R165). -/
def execAccessReport (c : Nat) (r : Report) (s : State) : Host.Outcome State Fault Refusal := .next (takeReport s c r)

/-! ### Entries of the queue -/

/-- Change the access of an id, in the queue or in the snapshot. -/
def onAccess (c : Core) (id : Nat) (f : Access → Access) : Core :=
  let g (l : List Access) : List Access := l.map fun a => if a.id = id then f a else a
  { c with accs := g c.accs, snap := c.snap.map fun n => { n with accs := g n.accs } }

/-- The access of an id. -/
def accessOf (c : Core) (id : Nat) : Option Access :=
  (c.accs.find? fun a => a.id == id).or ((c.snap.map fun n => n.accs).bind fun l => l.find? fun a => a.id == id)

/-- Take the access of an id out of the queue. -/
def dropAccess (c : Core) (id : Nat) : Core :=
  let g (l : List Access) : List Access := l.filter fun a => a.id != id
  { c with accs := g c.accs, snap := c.snap.map fun n => { n with accs := g n.accs } }

/-- Put a returned value beside the queue that held its access. -/
def addReturn (c : Core) (r : Return) : Core :=
  match c.snap with
  | some n =>
    if n.accs.any fun a => a.id == r.id then { c with snap := some { n with rets := n.rets ++ [r] } }
    else { c with rets := c.rets ++ [r] }
  | none => { c with rets := c.rets ++ [r] }

/-- A global name of a scratchpad byte (R154), so that accesses through either name meet. -/
def elemAddr (s : State) (k : Nat) (e : Elem) : Nat :=
  if e.sp then s.port.rank * 2 ^ 47 + 0x1FFFF * 2 ^ 30 + keyCore k * 2 ^ 21 + e.addr.toNat else e.addr.toNat

/-- The byte ranges of an element under those names. -/
def elemRanges (s : State) (k : Nat) (e : Elem) : List (Nat × Nat) :=
  (opRanges e.addr e.op).map fun r => (elemAddr s k { e with addr := r.1 }, r.2)

/-- Two entries touch a common byte. -/
def overlap (s : State) (k : Nat) (a b : AccOp) : Bool :=
  (elemsOf a).any fun x => (elemsOf b).any fun y =>
    (elemRanges s k x).any fun p => (elemRanges s k y).any fun q => decide (p.1 < q.1 + q.2 ∧ q.1 < p.1 + p.2)

/-- A bank-side operation or an atomic (R160). -/
def atBank (op : MemOp) : Bool :=
  match op with
  | .atomic _ _ _ _ | .mop _ _ _ _ _ | .fetchAdd _ _ | .taskDec | .taskPost _ => true
  | .load _ _ | .store _ _ | .storeM _ => false

/-- The memory side an element is performed at (R160): the owner, the core and the bank of a scratchpad byte, or the owner's HBM,
whose channels the manual does not tell apart by address (DESIGN CHOICE [32]). -/
def bankOf (s : State) (k : Nat) (e : Elem) : Nat × Nat :=
  let a := elemAddr s k e
  (a / 2 ^ 47, if a / 2 ^ 30 % 2 ^ 17 = 0x1FFFF then 1 + a % 2 ^ 30 / 65536 else 0)

/-- Two entries have atomics or bank-side operations for one memory side: they arrive there in issue order (R160). -/
def sameBank (s : State) (k : Nat) (a b : AccOp) : Bool :=
  (elemsOf a).any fun x => atBank x.op && (elemsOf b).any fun y => atBank y.op && bankOf s k x == bankOf s k y

/-- An operation that stores. -/
def opWrites : MemOp → Bool
  | .load _ _ => false
  | .store _ _ => true
  | .storeM _ => true
  | .atomic _ _ _ _ => true
  | .mop _ _ _ _ _ => true
  | .fetchAdd _ _ => true
  | .taskDec => true
  | .taskPost _ => true

/-- An entry with an element that stores, to an owner that passes a test. -/
def storesTo (s : State) (op : AccOp) (p : Nat → Bool) : Bool :=
  (elemsOf op).any fun e => opWrites e.op && p (if e.sp then s.port.rank else ownerOf e.addr)

/-- Elements of one access go to their owner together when they are plain `.rx` accesses to one 32-byte sector (R173). -/
def sameSector (a : Access) (e x : Elem) : Bool :=
  match a.op, e.op, x.op with
  | .mem _ _ _, .load _ false, .load _ false => a.who.rx && e.addr.toNat / 32 == x.addr.toNat / 32 && !x.sp
  | .mem _ _ _, .store _ false, .store _ false => a.who.rx && e.addr.toNat / 32 == x.addr.toNat / 32 && !x.sp
  | _, _, _ => false

/-- The elements that the request for an access's head element carries. -/
def sectorOf (a : Access) : List Elem :=
  match elemsOf a.op with
  | [] => []
  | e :: r => e :: r.filter (sameSector a e)

/-- Its stores have all entered the transmit queue (R214): only those of the request under way remain. -/
def storesSent (a : Access) : Bool := a.sent && (elemsOf a.op).length ≤ (sectorOf a).length

/-- The ordering code of an entry's atomic (R206), or 4 for task.post. -/
def orderCode : AccOp → Nat
  | .mem _ _ o => o
  | .remote _ _ o _ => o
  | .fence _ _ | .tfence _ _ _ | .arrive _ _ | .expect _ _ | .tlInc _ | .tlAcq _ _ | .bkClose _ _ | .rwinReg _ _ _ => 0

/-- An entry whose kind fence.rel orders: a store, an atomic, an arrival or a basket close (R174). -/
def relOrdered (op : AccOp) : Bool :=
  match op with
  | .mem els _ _ => els.any fun e => opWrites e.op
  | .remote el _ _ _ => opWrites el.op
  | .arrive _ _ | .expect _ _ | .tlInc _ | .bkClose _ _ | .rwinReg _ _ _ => true
  | .fence _ _ | .tfence _ _ _ | .tlAcq _ _ => false

/-- The earlier entry `a` holds back `b` by what `a` is (R174, R206, R207, R218). A relaxed arrival is held by fence.rel and the
full fence, which name arrivals, and by nothing else (R214). -/
def holdsLater (a b : AccOp) : Bool :=
  match b with
  | .arrive _ true => (match a with | .fence _ .full | .fence _ .rel => true | _ => false)
  | _ =>
    match a with
    | .fence _ .full => true
    | .fence _ .acq => true
    | .fence _ .rel => relOrdered b
    | .tfence _ _ _ => true
    | .tlAcq _ _ => true
    | .mem _ _ o => o == 1 || o == 3
    | .remote _ _ o _ => o == 1 || o == 3
    | .arrive _ _ | .expect _ _ | .tlInc _ | .bkClose _ _ | .rwinReg _ _ _ => false

/-- `b` waits for the earlier entry `a` by what `b` is (R174, R206, R207, R214, R218, R219, R221). -/
def waitsFor (s : State) (k : Nat) (a : Access) (b : AccOp) : Bool :=
  match b with
  | .mem els _ o =>
    (o == 2 || o == 3) || (o == 4 && els.any fun e => storesTo s a.op (· == ownerOf e.addr))
  | .remote _ _ o _ => o == 2 || o == 3
  | .fence _ .acq => !(elemsOf a.op).isEmpty && (elemsOf a.op).any fun e => match e.op with | .store _ _ | .storeM _ => false | _ => true
  | .fence _ _ => true
  | .tfence _ _ _ => storesTo s a.op fun _ => true
  | .arrive w rlx =>
    if rlx then false
    else if bnLocal w || (bnRank w == s.port.rank && bnCore w == keyCore k) then true
    else if bnRank w == s.port.rank then storesTo s a.op (· == s.port.rank)
    else storesTo s a.op (· == bnRank w) && !storesSent a
  | .tlInc _ => true
  | .bkClose _ _ => true
  | .expect _ _ | .tlAcq _ _ | .rwinReg _ _ _ => false

/-- An entry may be performed: no earlier entry holds it, and the core awaits no trap for an access of its own (R165). -/
def performable (s : State) (k : Nat) (a : Access) : Bool :=
  let c := coreAt s k
  (!c.reports.any fun r => !r.eng) &&
    (c.accs.takeWhile fun b => b.id != a.id).all fun b =>
      !(overlap s k b.op a.op) && !(sameBank s k b.op a.op) && !(holdsLater b.op a.op) && !(waitsFor s k b a.op)

/-- An entry at the releasing side of an edge (R170): the accesses before it are performed before it takes effect. -/
def releases (op : AccOp) : Bool :=
  match op with
  | .fence _ .full | .fence _ .rel | .arrive _ false | .tlInc _ | .bkClose _ _ => true
  | .mem _ _ o => o == 2 || o == 3
  | .remote _ _ o _ => o == 2 || o == 3
  | .fence _ .acq | .tfence _ _ _ | .arrive _ true | .expect _ _ | .tlAcq _ _ | .rwinReg _ _ _ => false

/-! ### Values -/

/-- Place the bytes of element `ix` in the image of a load. -/
def placeBytes (fmt : LoadFmt) (img : VWord) (ix : Nat) (bs : List Byte) : VWord :=
  match fmt with
  | .vector w =>
    let x := img.toNat
    let lo := 2 ^ (8 * w * ix)
    BitVec.ofNat 2048 (x - x / lo % 2 ^ (8 * w) * lo + leNat (bs.take w) * lo)
  | .none | .scalar _ _ | .cap => BitVec.ofNat 2048 (leNat bs)

/-- The register value of a gathered image (R198, R199, R201, R338). -/
def loadValue (fmt : LoadFmt) (img : VWord) : Val :=
  match fmt with
  | .scalar n sx =>
    let x := img.toNat % 2 ^ (8 * n)
    .s (if sx then wordOfInt (sextNat (8 * n) x) else BitVec.ofNat 64 x)
  | .vector _ => .v img
  | .cap => .k (img.truncate 128) (img.getLsbD 128)
  | .none => .s 0

/-- The task's acquire time rises, and that of the accesses it has still to perform after one (R175). -/
def raiseQ (c : Core) (id t : Nat) : Core :=
  { c with
    q := max c.q t
    accs := c.accs.map fun a => if id < a.id then { a with who := { a.who with q := max a.who.q t } } else a }

/-- What an atomic acquires when it returns (R175): at once with acquire ordering, else for a later fence.acq. -/
def atomicAcquires (c : Core) (id order t : Nat) : Core :=
  if order = 1 ∨ order = 3 then raiseQ c id t else { c with relq := max c.relq t }

/-- A scratchpad load has come back after its latency (R93): its issue cycles have passed, the last of them before the present
cycle. -/
def late (c : Core) (a : Access) : Bool := decide (a.land < c.icycle) || (a.land == c.icycle && c.hold.isSome)

/-- A late scratchpad load is an interlocked one (R93, R207): of those pending to its register only the later-issued writes. -/
def passOver (c : Core) (a : Access) : Core :=
  { c with
    accs := c.accs.map fun b => if b.id < a.id ∧ b.dest = a.dest ∧ interlocked c b then { b with dead := true } else b
    rets := c.rets.map fun r => if r.id < a.id ∧ r.dest = a.dest then { r with dead := true } else r
    engs := c.engs.map fun e => (e.1, e.2.map fun o =>
      if o.order < a.id ∧ engDest o.kind = a.dest ∧ present c o.order then { o with dead := true } else o) }

/-- A load issued after it is pending to its register. -/
def passedOver (c : Core) (a : Access) : Bool := c.accs.any fun b => decide (a.id < b.id) && b.dest == a.dest && interlocked c b

/-- A load, atomic or store has performed its last element: its value goes on its way (R91). One that a later write has
superseded writes nothing (R93). A scratchpad load that comes back after its latency returns as an interlocked one. -/
def finishAccess (c : Core) (a : Access) (fmt : LoadFmt) : Core :=
  let v := loadValue fmt a.img
  match fmt with
  | .none => dropAccess c a.id
  | .scalar _ _ | .vector _ | .cap =>
    if a.land = 0 then dropAccess (addReturn c { id := a.id, dest := a.dest, dead := a.dead, val := v }) a.id
    else if a.dead then dropAccess c a.id
    else if !late c a then
      dropAccess { c with results := c.results ++ [{ dest := a.dest, val := v, land := a.land, flags := 0, ord := 2 * a.id }] } a.id
    else
      let lost := !a.dest.keeps && (a.yields || passedOver c a)
      let c := if a.dest.keeps || lost then c else passOver c a
      dropAccess (addReturn c { id := a.id, dest := a.dest, dead := lost, val := v }) a.id

/-- An operation whose bytes reach the image of a register. -/
def givesBytes (op : MemOp) : Bool :=
  match op with
  | .load _ _ => true
  | .atomic _ _ _ _ => true
  | .store _ _ | .storeM _ | .mop _ _ _ _ _ | .fetchAdd _ _ | .taskDec | .taskPost _ => false

/-- The head element of an access has been performed with these bytes, tag and acquire time. -/
def elementDone (c : Core) (a : Access) (e : Elem) (bs : List Byte) (tag : Bool) (acq : Nat) : Core :=
  let c := clearLivelockOp c e.addr e.op
  let step (fmt : LoadFmt) (order : Nat) (rest : List Elem) (op : AccOp) : Core :=
    let img := if givesBytes e.op then placeBytes fmt a.img e.ix bs else a.img
    let img := if fmt = .cap ∧ tag then BitVec.ofNat 2048 (img.toNat % 2 ^ 128 + 2 ^ 128) else img
    let c := match e.op with | .atomic _ _ _ _ => atomicAcquires c a.id order acq | _ => c
    let a := { a with img := img, op := op, sent := false, slots := 0 }
    let c := onAccess c a.id fun b => { b with img := img, op := op, sent := false, slots := 0 }
    if rest.isEmpty then finishAccess c { (accessOf c a.id).getD a with img := img } fmt else c
  match a.op with
  | .mem els fmt order => step fmt order els.tail (.mem els.tail fmt order)
  | .remote el fmt order g => step fmt order [] (.remote el fmt order g)
  | .fence _ _ | .tfence _ _ _ | .arrive _ _ | .expect _ _ | .tlInc _ | .tlAcq _ _ | .bkClose _ _ | .rwinReg _ _ _ => c

/-! ### The memory side of a request that carries a generation (R299) -/

/-- The target lies in a region of the same generation. -/
def regionOk (s : State) (g : Option (BitVec 8)) (a : Word) : Bool :=
  match g with
  | none => true
  | some g => s.regions.any fun r => decide (r.base ≤ localOf a ∧ localOf a < r.base + r.len) && r.gen == g

/-- A stale generation (R299, R302). -/
def staleBad : Bad := { code := 7, sub := 6, gran := 0, agent := 0, time := 0 }

/-- An owner that cannot be reached (R279, R302). -/
def unreachBad : Bad := { code := 7, sub := 12, gran := 0, agent := 0, time := 0 }

/-- Perform a request here, with its generation: a stale one is logged and reported. -/
def performGen (s : State) (k : Nat) (who : Who) (sp : Bool) (g : Option (BitVec 8)) (a : Word) (op : MemOp) :
    Except Bad (State × Got) :=
  if regionOk s g a then performMem s k who sp a op else .error staleBad

/-! ### Performing memory elements -/

/-- An uncorrectable error met by a core load (R240). -/
def poisonBad : Bad := { code := 8, sub := 2, gran := 0, agent := 0, time := 0 }

/-- A load or atomic of a core that has read bytes marked poisoned. Bytes poisoned when it issues have trapped it there
(R240); an error that comes between the issue and the access is reported. -/
def loadsPoison (op : MemOp) (g : Got) : Bool := (match op with | .load _ _ | .atomic _ _ _ _ => true | _ => false) && g.poison

/-- The granules that an element touches. -/
def elemGranules (s : State) (k : Nat) (e : Elem) : List Nat :=
  (opRanges e.addr e.op).flatMap fun r =>
    match locateAny s k e.sp r.1 r.2 .load with
    | .ok (ps, _) => (granulesOf r.1 0 ps).map Prod.fst
    | .error _ => []

/-- An element of access `id` has been performed: for the operations commanded after it, which still await their task's earlier accesses,
the engine-issue edge covers it (R170). -/
def noteEdge (s : State) (k id : Nat) (w : Who) (e : Elem) : State :=
  let due (o : EngOp) : Bool := !o.given && decide (id ≤ o.order)
  if (coreAt s k).engs.any fun q => q.2.any due then
    let gs := elemGranules s k e
    onCore s k fun c => { c with engs := c.engs.map fun q => (q.1, q.2.map fun o =>
      if due o then { o with edge := gs.map (fun g => (g, w.agent.toNat, s.time)) ++ o.edge } else o) }
  else s

/-- Perform the local elements of an access in order until one stops it (R165, R169, R197). -/
def performElems (s : State) (k id : Nat) (g : Option (BitVec 8)) : List Elem → State
  | [] => s
  | e :: r =>
    match accessOf (coreAt s k) id with
    | none => s
    | some a =>
      if !elemHere s e || accessHeld s (some k) k e.sp e.addr e.op then s
      else
        match performGen s k a.who e.sp g e.addr e.op with
        | .error b => takeReport (if b.sub = 6 ∧ b.code = 7 then logCp s 6 e.addr.toNat k else s) k (elemReport a b e)
        | .ok (s', got) =>
          if loadsPoison e.op got then takeReport s' k (accReport a poisonBad e.addr 0)
          else performElems (onCore (noteEdge s' k id a.who e) k fun c => elementDone c a e got.bytes got.tag got.acq) k id g r

/-! ### Barriers here (R213 to R215) -/

/-- Note a barrier event for the end of the cycle (R43). -/
def barEvent (s : State) (k : Nat) (e : BarEvent) : State := onCore s k fun c => { c with barEvs := c.barEvs ++ [e] }

/-- The barrier's home core under a name, for a core of this die. -/
def barHome (k : Nat) (w : Word) : Nat := if bnLocal w then k else coreKey (keyCtx k) (bnCore w)

/-- A SPRANGE fault (R213). -/
def sprangeBad : Bad := { code := 3, sub := 6, gran := 0, agent := 0, time := 0 }

/-- An arrival or expectation named `w` is performed: at a barrier of this die; or it is sent to another die on VC3, where it stays
in the queue, with a landing slot, until its completion word has come (R209, R213). -/
def barrierOp (s : State) (k : Nat) (a : Access) (w : Word) (arrival : Bool) (n : Nat) : State :=
  if bnLocal w ∨ bnRank w = s.port.rank then
    let h := barHome k w
    if coreExists s (ctxAt s (keyCtx h)).checked (keyCore h) then
      let from_ := if arrival then (if h = k then 0 else 1) else 2
      onCore (barEvent s h { bar := bnBar w, from_ := from_, n := n, ret := none }) k fun c => dropAccess c a.id
    else takeReport s k (accReport a sprangeBad w 2)
  else
    match takeSlots s k 13 1 with
    | none => s
    | some t =>
      let ret : Ret := { core := k, stream := 13, id := a.id }
      match sendBody t (keyCtx k) 3 false (bnRank w)
          (if arrival then .arrive (bnCore w) (bnBar w) ret true else .expect (bnCore w) (bnBar w) n ret true) with
      | some s' => onCore s' k fun c => onAccess c a.id fun b => { b with sent := true, slots := 1 }
      | none => takeReport s k (accReport a unreachBad w 2)

/-! ### The other entries -/

/-- Dies whose translations a tfence reaches besides this one (R164). -/
def tfenceDies (s : State) (k scope : Nat) : List Nat :=
  if scope < 2 then [] else (ctxAt s (keyCtx k)).members.filter (· != s.port.rank)

/-- Invalidate every cached translation of a context at this die (R164). -/
def invalidateTlb (s : State) (x : Nat) : State := { s with tlb := s.tlb.filter fun t => t.1 != x }

/-- A tfence reaches this die (R163, R164). -/
def tfenceHere (s : State) (x : Nat) : State := nextEpoch (invalidateTlb s x)

/-- A tfence begins once its condition holds: this die's translations go at once. -/
def tfenceStart (s : State) (k : Nat) (a : Access) (scope : Nat) : State :=
  let ds := tfenceDies s k scope
  let s := tfenceHere s (keyCtx k)
  onCore s k fun c => if ds.isEmpty then dropAccess c a.id else onAccess c a.id fun b => { b with op := .tfence scope ds true }

/-- rwin.reg is performed (R328): the descriptor is loaded, checked, and the seams are asked. -/
def rwinStart (s : State) (k : Nat) (a : Access) (addr : Word) : State :=
  let answer (s : State) (st i : Nat) : State :=
    onCore s k fun c => dropAccess (addReturn c { id := a.id, dest := a.dest, dead := a.dead, val := .s (registerResult s st i) }) a.id
  match performMem s k a.who false addr (.load 32 false) with
  | .error b => takeReport s k (accReport a b addr 0)
  | .ok (s, g) =>
    let d : BitVec 256 := BitVec.ofNat 256 (leNat g.bytes)
    let st := registerStatus s (keyCtx k) d
    if st ≠ 0 then answer s st 0
    else
      let (s, i, seams) := registerWindow s (keyCtx k) k d
      if seams.isEmpty then answer (activateWindow s i) 0 i
      else onCore s k fun c => onAccess c a.id fun b => { b with op := .rwinReg addr (some i) seams }

/-- All that a release awaits has been done in this cycle: it takes effect in the next (R170; DESIGN CHOICE [31]). -/
def ripen (s : State) (k i : Nat) : State := onCore s k fun c => onAccess c i fun b => { b with ripe := s.time + 1 }

/-- ACCESS_PERFORM (R165, R169): access i of core c is performed as far as its order and place allow. -/
def execAccessPerform (k i : Nat) (s : State) : Host.Outcome State Fault Refusal :=
  match (coreAt s k).accs.find? fun a => a.id == i with
  | none => .next s
  | some a =>
    if a.sent || !performable s k a then .next s
    else if releases a.op ∧ a.ripe = 0 then .next (ripen s k i)
    else if s.time < a.ripe then .next s
    else
      match a.op with
      | .mem els fmt _ =>
        .next (if els.isEmpty then onCore s k fun c => finishAccess c a fmt else performElems s k i none els)
      | .remote el _ _ g => .next (performElems s k i g [el])
      | .fence _ f =>
        .next (onCore s k fun c => dropAccess (match f with | .rel => c | .full | .acq => raiseQ c i c.relq) i)
      | .tfence sc _ started => .next (if started then s else tfenceStart s k a sc)
      | .arrive w _ => .next (barrierOp s k a w true 1)
      | .expect w n => .next (barrierOp s k a w false n)
      | .tlInc t =>
        .next (onCore s k fun c =>
          let n := mget 0 c.tl t + 1
          let c := { c with tl := mset c.tl t n, tlTimes := mset c.tlTimes (16 * n.toNat + t) s.time }
          dropAccess (addReturn c { id := i, dest := a.dest, dead := a.dead, val := .s n }) i)
      | .tlAcq _ _ => .next s
      | .bkClose b n => .next (onCore s k fun c => dropAccess (if bkHold (basket c b) = 13 then closeBasket s.time c b n else c) i)
      | .rwinReg addr slot _ => .next (if slot.isNone then rwinStart s k a addr else s)

/-! ### Requests to other dies (R173, R279, R294) -/

/-- The newest store of a context of this die that is still on its way to its owner and covers a byte. -/
def queuedByte (s : State) (x a : Nat) : Option Byte :=
  s.port.outst.reverse.findSome? fun o =>
    if o.ctx = x ∧ o.addr.toNat ≤ a ∧ a < o.addr.toNat + o.data.length then (o.data[a - o.addr.toNat]?).bind id else none

/-- What the port can answer of an element of a `.rx` load (R173): the bytes that are on their way. -/
def portAnswer (s : State) (k : Nat) (e : Elem) : List (Option Byte) :=
  (List.range (memLen e.op)).map fun i => queuedByte s (keyCtx k) (e.addr.toNat + i)

/-- The lowest address of some elements, and the one above their highest byte. -/
def spanOf (e : Elem) (es : List Elem) : Nat × Nat :=
  es.foldl (fun p x => (min p.1 x.addr.toNat, max p.2 (x.addr.toNat + memLen x.op))) (e.addr.toNat, e.addr.toNat + memLen e.op)

/-- Bytes laid over a sector's, at an offset. -/
def overlay (m : List (Option Byte)) (o : Nat) : List Byte → List (Option Byte)
  | [] => m
  | x :: r => overlay (m.set o (some x)) (o + 1) r

/-- One request for elements of one sector: its address and operation. -/
def sectorOp (e : Elem) (es : List Elem) : Word × MemOp :=
  let p := spanOf e es
  match e.op with
  | .load _ _ => if es.length ≤ 1 then (e.addr, e.op) else (BitVec.ofNat 64 p.1, .load (p.2 - p.1) false)
  | .store _ _ =>
    if es.length ≤ 1 then (e.addr, e.op)
    else (BitVec.ofNat 64 p.1, .storeM (es.foldl (fun m x => match x.op with
      | .store d _ => overlay m (x.addr.toNat - p.1) d
      | _ => m) (List.replicate (p.2 - p.1) none)))
  | _ => (e.addr, e.op)

/-- The entry with the elements of its next request first. -/
def sectorFirst (a : Access) : AccOp :=
  match a.op with
  | .mem (e :: r) fmt o => .mem (e :: r.filter (sameSector a e) ++ r.filter fun x => !sameSector a e x) fmt o
  | op => op

/-- Send the request for an access's head element to its owner. -/
def injectElem (s : State) (k : Nat) (a : Access) (e : Elem) (g : Option (BitVec 8)) : State :=
  let rq := sectorOp e (sectorOf a)
  match sendBody s (keyCtx k) (vcOf rq.2) false (ownerOf e.addr)
      (.mem a.who { core := k, stream := 13, id := a.id } g rq.1 rq.2) with
  | some s' => onCore s' k fun c => onAccess c a.id fun b => { b with sent := true, slots := 1, op := sectorFirst b }
  | none =>
    takeReport (onCore (freeSlots s k 13 1) k fun c => onAccess c a.id fun b => { b with slots := 0 }) k
      (elemReport a unreachBad e)

/-- Some elements of a load have their bytes. -/
def answerElems (c : Core) (id : Nat) : List (Elem × List Byte) → Core
  | [] => c
  | (e, bs) :: r =>
    match accessOf c id with
    | some a => answerElems (elementDone c a e bs false 0) id r
    | none => c

/-- A `.rx` load of another die's bytes meets the port (R173): `none` when some of its bytes only are on their way to their owners;
the load with its bytes when all are; the load marked to go to its owners when none is. The whole load is judged once. -/
def portJudges (s : State) (k : Nat) (a : Access) : Option State :=
  let far := (elemsOf a.op).filter fun e => !elemHere s e
  let cov := far.flatMap (portAnswer s k)
  if cov.all Option.isSome then
    let near := (elemsOf a.op).filter (elemHere s)
    let f (op : AccOp) : AccOp := match op with | .mem _ fmt o => .mem (far ++ near) fmt o | op => op
    let s' := if a.slots = 0 then s else freeSlots s k 13 a.slots
    some (onCore s' k fun c => answerElems (onAccess c a.id fun b => { b with op := f b.op, slots := 0 }) a.id
      (far.map fun e => (e, (portAnswer s k e).filterMap id)))
  else if cov.any Option.isSome then none
  else some (onCore s k fun c => onAccess c a.id fun b => { b with via := true })

/-- REQUEST_INJECT (R294): the waiting request of access i obtains its landing slot and is sent. -/
def execRequestInject (k i : Nat) (s : State) : Host.Outcome State Fault Refusal :=
  match (coreAt s k).accs.find? fun a => a.id == i with
  | none => .next s
  | some a =>
    if a.sent || !performable s k a || (releases a.op && (a.ripe == 0 || decide (s.time < a.ripe))) then .next s
    else
      let go (e : Elem) (g : Option (BitVec 8)) : State :=
        if elemHere s e then s
        else if a.who.rx && !a.via && (match e.op with | .load _ _ => true | _ => false) then (portJudges s k a).getD s
        else if a.slots = 0 then
          match takeSlots s k 13 1 with
          | some s' => injectElem s' k a e g
          | none => s
        else injectElem s k a e g
      match a.op with
      | .mem (e :: _) _ _ => .next (go e none)
      | .remote e _ _ g => .next (go e g)
      | .mem [] _ _ | .fence _ _ | .tfence _ _ _ | .arrive _ _ | .expect _ _ | .tlInc _ | .tlAcq _ _ | .bkClose _ _ | .rwinReg _ _ _ => .next s

/-! ### Timelines (R218) -/

/-- The completion time of operation n of a timeline. -/
def timelineTime (s : State) (c : Core) (t n : Nat) : Nat :=
  if t < 64 then mget 0 c.tlTimes (16 * n + t) else mget 0 s.fcp.dtTimes (64 * n + (t - 64))

/-- TL_ACQ_SATISFIED (R218): access i, a tl.acq, sees its timeline at its value. -/
def execTlAcqSatisfied (k i : Nat) (s : State) : Host.Outcome State Fault Refusal :=
  match (coreAt s k).accs.find? fun a => a.id == i with
  | none => .next s
  | some a =>
    match a.op with
    | .tlAcq t n =>
      let v := timelineValue s (coreAt s k) t
      if performable s k a && decide (n.toNat ≤ v.toNat) then
        .next (onCore s k fun c =>
          let c := if n = 0 then c else raiseQ c i (timelineTime s c t n.toNat)
          dropAccess (addReturn c { id := i, dest := a.dest, dead := a.dead, val := .s v }) i)
      else .next s
    | _ => .next s

/-! ### Results (R91 to R93, R56) -/

/-- A result lands before another: the earlier landing count, and the earlier-issued of two that land together (R93). -/
def landsBefore (r x : Exposed) : Bool := decide (r.land < x.land ∨ (r.land = x.land ∧ r.ord < x.ord))

/-- The result that lands next. -/
def dueResult (c : Core) : Option Exposed :=
  c.results.foldl (fun b r =>
    if r.land ≤ c.icycle then
      match b with
      | none => some r
      | some x => if landsBefore r x then some r else b
    else b) none

/-- Land a result: its place is written, loads still to come for it no longer write it, its flags accumulate. -/
def landResult (c : Core) (r : Exposed) : Core :=
  let c := { c with results := c.results.erase r }
  let c := supersede (writeDest c r.dest r.val) r.dest
  { c with csr := { c.csr with fpcsr := c.csr.fpcsr ||| r.flags.zeroExtend 64 } }

/-- RESULT_WRITEBACK (R91). -/
def execResultWriteback (k : Nat) (s : State) : Host.Outcome State Fault Refusal :=
  .next (onCore s k fun c => match dueResult c with | some r => landResult c r | none => c)

/-- An interlocked result that has come back is written, unless a later write has superseded it (R93). -/
def landReturn (c : Core) (r : Return) : Core := if r.dead then c else writeDest c r.dest r.val

/-- LOAD_RETURN (R93): interlocked result i of core c is written, unless a later write has superseded it. -/
def execLoadReturn (k i : Nat) (s : State) : Host.Outcome State Fault Refusal :=
  .next (onCore s k fun c =>
    match c.rets.find? fun r => r.id == i with
    | some r => landReturn { c with rets := c.rets.filter fun x => x.id != i } r
    | none => c)

/-! ### Owed signals (R208, R209) -/

/-- Everything an owed signal waits for has completed: accesses performed and their results written (R209). -/
def owedDone (c : Core) (o : Owed) : Bool :=
  let busy (id : Nat) : Bool :=
    (c.accs.any fun a => a.id == id) || (c.rets.any fun r => r.id == id) || (c.results.any fun r => r.ord == 2 * id) ||
      (match c.snap with
       | some n => (n.accs.any fun a => a.id == id) || (n.rets.any fun r => r.id == id) || n.results.any fun r => r.ord == 2 * id
       | none => false)
  !(o.accs.any busy) && decide (o.land ≤ c.icycle) &&
    (match o.op with
     | some (t, n) => !(queueOf c t).any fun p => p.n == n
     | none => true)

/-- SDONE_SIGNAL (R208): the i-th owed signal of core c is delivered. -/
def execSdoneSignal (k i : Nat) (s : State) : Host.Outcome State Fault Refusal :=
  let c := coreAt s k
  match c.sdone[i]? with
  | some o => .next (if owedDone c o then onCore s k fun c => semOp { c with sdone := listDrop c.sdone i } (.inc o.sem o.inc) else s)
  | none => .next s

/-! ### Barriers (R42 to R44, R214, R215) -/

/-- Barrier b of a core. -/
def barrierAt (c : Core) (b : Nat) : Barrier := mget Barrier.init c.bars b

/-- The completion test (R43). -/
def barrierFull (x : Barrier) : Bool := decide (0 < x.base + x.extra) && x.arr == x.base + x.extra

/-- Decrement the record whose address stands at `a`, for a barrier of core k (R44, R216). -/
def releaseEntry (s : State) (k : Nat) (a : Word) : State :=
  addJob s { lane := 2 * k, ctx := keyCtx k, unit := 1, q := s.time, op := .release a }

/-- A phase completes (R44). -/
def completePhase (s : State) (k b : Nat) : State :=
  let x := barrierAt (coreAt s k) b
  let s := onCore s k fun c =>
    let c := { c with bars := mset c.bars b { x with ph := (x.ph + 1) % 65536, arr := 0, extra := 0 } }
    match x.sem with
    | some i => { semOp c (.inc i 1) with semq := mset c.semq i (max s.time (mget 0 c.semq i)) }
    | none => c
  (List.range x.rlen).foldl (fun s j => releaseEntry s k (x.rlist + BitVec.ofNat 64 (8 * j))) s

/-- Test a barrier, and complete its phase if the test holds. -/
def testBarrier (s : State) (k b : Nat) : State :=
  if barrierFull (barrierAt (coreAt s k) b) then completePhase s k b else s

/-- A barrier overflow (R212, R214, R215). -/
def setBov (c : Core) (b : Nat) : Core :=
  if c.csr.syncst.getLsbD 1 then c
  else { c with csr := { c.csr with syncst := setBits (setBits c.csr.syncst 1 1 1) 17 10 b } }

/-- The DONE word of an fs.post arrival is returned; to a request of this die it goes by the landing queue (R321). -/
def returnDone (s : State) (x : Nat) : Option (Nat × Ret) → State
  | none => s
  | some (rank, r) =>
    if rank = s.port.rank then
      { s with port := { s.port with landing := s.port.landing ++ [{ ctx := x, vc := 1, sh := false, src := rank, dh := false, dst := rank, hops := 0, seq := 0, pseq := 0, resv := false, body := .done r }] } }
    else sendOrDrop s x 1 false rank (.done r)

/-- One arrival (R43, R214). -/
def applyArrival (s : State) (k : Nat) (e : BarEvent) : State :=
  let x := barrierAt (coreAt s k) e.bar
  let s := onCore s k fun c =>
    if x.arr = 65535 then setBov c e.bar else { c with bars := mset c.bars e.bar { x with arr := x.arr + 1 } }
  returnDone (testBarrier s k e.bar) (keyCtx k) e.ret

/-- One expectation (R215). -/
def applyExpect (c : Core) (e : BarEvent) : Core :=
  let x := barrierAt c e.bar
  if 65535 < x.base + x.extra + e.n then setBov { c with bars := mset c.bars e.bar { x with extra := 65535 - x.base } } e.bar
  else { c with bars := mset c.bars e.bar { x with extra := x.extra + e.n } }

/-- An expectation is applied, and its completion word goes back (R209, R215). -/
def expectAt (s : State) (k : Nat) (e : BarEvent) : State := returnDone (onCore s k fun c => applyExpect c e) (keyCtx k) e.ret

/-- BARRIER_ARRIVAL_APPLIED (R43): the barrier events of a core's cycle, in their order; for a context that is not resident they
apply to its image (R49). -/
def execBarrierArrivalApplied (k : Nat) (s : State) : Host.Outcome State Fault Refusal :=
  let es := (coreAt s k).barEvs
  let bs := (es.map BarEvent.bar).dedup
  let s0 := takeBars (onCore s k fun c => { c with barEvs := [] }) k bs
  let s := bs.foldl (fun s b => testBarrier s k b) s0
  let s := (es.filter fun e => e.from_ == 0).foldl (fun s e => applyArrival s k e) s
  let s := (es.filter fun e => e.from_ == 1).foldl (fun s e => applyArrival s k e) s
  .next (keepBars (keepCsr s0 ((es.filter fun e => e.from_ == 2).foldl (fun s e => expectAt s k e) s) k 0x018) k bs)

/-- BARRIER_DEFERRED_COMPLETION (R43): the first test of a cycle completes a phase whose target an expectation met. -/
def execBarrierDeferredCompletion (k b : Nat) (s : State) : Host.Outcome State Fault Refusal :=
  .next (keepBars (testBarrier (takeBars s k [b]) k b) k [b])

/-! ### Translation invalidation (R164, R207) -/

/-- TRANSLATION_INVALIDATION: rank r's core c of context x invalidates the context's translations here. -/
def execTranslationInvalidation (r x c : Nat) (s : State) : Host.Outcome State Fault Refusal :=
  .next (logCp (tfenceHere s x) 8 r c)

/-- INVALIDATION_ACKNOWLEDGEMENT: rank r has invalidated for the tfence of core c. -/
def execInvalidationAcknowledgement (r c : Nat) (s : State) : Host.Outcome State Fault Refusal :=
  let step (a : Access) : Access :=
    match a.op with
    | .tfence sc w true => { a with op := .tfence sc (w.filter (· != r)) true }
    | _ => a
  let ended (a : Access) : Bool := match a.op with | .tfence _ [] true => true | _ => false
  let g (l : List Access) : List Access := (l.map step).filter fun a => !ended a
  .next (onImage s c fun s => onCore s c fun x => { x with accs := g x.accs, snap := x.snap.map fun n => { n with accs := g n.accs } })

/-! ### The end of a cycle for semaphores (R210) -/

/-- A semaphore named by a change. -/
def SemOp.index : SemOp → Nat
  | .set i _ => i
  | .take i _ => i
  | .inc i _ => i

/-- Combine a cycle's changes of semaphore i (R210). A count of zero forgets the phases it included. -/
def combineSem (c : Core) (i : Nat) : Core :=
  let v0 := semAt c i
  let v1 := c.semOps.foldl (fun v o => match o with | .set j x => if j = i then x else v | .take _ _ | .inc _ _ => v) v0
  let tk := c.semOps.foldl (fun n o => match o with | .take j x => if j = i then n + x else n | .set _ _ | .inc _ _ => n) 0
  let up := c.semOps.foldl (fun n o => match o with | .inc j x => if j = i then n + x else n | .set _ _ | .take _ _ => n) 0
  let v := v1 - tk + up
  let c := { c with sems := mput 0 c.sems i (min 65535 v), semq := if v = 0 then mput 0 c.semq i 0 else c.semq }
  if 65535 < v ∧ !c.csr.syncst.getLsbD 0 then
    { c with csr := { c.csr with syncst := setBits (setBits c.csr.syncst 0 1 1) 9 8 i } }
  else c

/-- The changes of one cycle take effect together. -/
def combineSems (c : Core) : Core :=
  let c' := ((c.semOps.map SemOp.index).dedup).foldl combineSem c
  { c' with semOps := [] }

end Sys2Proof.Machine
end

