-- ==== Sys2Proof/Machine/Chase.lean ====
section
/-! DEFINITION. Chained loads at their owners (R333 to R337): the steps this die performs, and what becomes of the packet:
forwarded, bounced, or ended with a record. -/

namespace Sys2Proof.Machine

/-- The payload of a CHASE frame (R337), its fields in the order in which the rule names them [42]. -/
def chaseBytes (p : ChasePkt) : List Byte :=
  leBytes 2 p.rank ++ leBytes 2 (keyCore p.ret.core) ++ leBytes 4 (p.basket + p.slot * 2 ^ 8 + p.tag * 2 ^ 16) ++ leBytes 1 p.s ++
    leBytes 1 p.nstep ++ leBytes 1 p.hops ++ leBytes 1 (p.cap.isSome.toNat + p.k * 2) ++ leBytes 8 p.p.toNat ++
    (match p.cap with | some c => leBytes 16 c.toNat | none => []) ++ leBytes 8 p.addend.toNat ++
    p.steps.flatMap fun st => leBytes 4 st.off.toNat ++ leBytes 4 ((st.w / 8) + st.k.toNat * 2) ++ leBytes 8 st.mask.toNat

/-- The 32-byte record that ends a chain (R335). -/
def chaseRecord (p : ChasePkt) (value addr : Word) (status kind : Nat) : List Byte :=
  leBytes 8 value.toNat ++ leBytes 8 addr.toNat ++ leBytes 1 status ++ leBytes 1 p.s ++ leBytes 1 kind ++ leBytes 1 p.hops ++
    leBytes 2 p.tag ++ leBytes 10 0

/-- A response frame for this die itself goes straight to the landing store. -/
def landLocal (s : State) (x : Nat) (b : Body) : State :=
  { s with port := { s.port with landing := s.port.landing ++ [{ ctx := x, vc := 1, sh := false, src := s.port.rank, dh := false, dst := s.port.rank, hops := 0, seq := 0, pseq := 0, resv := false, body := b }] } }

/-- Send a response body to a rank, this die included. -/
def respond (s : State) (x rank : Nat) (b : Body) : State :=
  if rank = s.port.rank then landLocal s x b else sendOrDrop s x 1 false rank b

/-- The chain ends here: its record goes to the requester (R335). -/
def endChase (s : State) (p : ChasePkt) (value addr : Word) (status kind : Nat) : State :=
  respond s p.ctx p.rank (.chres p.ret p.trap p.basket p.slot p.tag (chaseRecord p value addr status kind))

/-- The address of a step (R333): exact under a capability, with its owner; or the status and kind that end the chain. -/
def chaseAddr (s : State) (p : ChasePkt) (st : ChaseStep) : Except (Word × Nat × Nat) (Nat × Int) :=
  match p.cap with
  | some c => .ok (capRank c, capBase c + p.p.toNat + st.off.toInt)
  | none =>
    let a := locAddr p.p (st.off.signExtend 64)
    if !canonical a then .error (a, 1, 5)
    else if !(ctxAt s p.ctx).members.contains (ownerOf a) then .error (a, 2, 7)
    else .ok (ownerOf a, (a.toNat : Int))

/-- The address of a packet's present step, or the pointer when it cannot be formed. -/
def chaseAt (s : State) (p : ChasePkt) : Word :=
  match p.steps with
  | [] => p.p
  | st :: _ => match chaseAddr s p st with | .ok (_, x) => wordOfInt x | .error (a, _, _) => a

/-- The owner's check of a step against the capability it carries (R299, R333): the SUB of R302. A window entry (TYPE 15)
has no generation. -/
def chaseCapFail (s : State) (p : ChasePkt) (st : ChaseStep) (a : Int) : Option Nat :=
  match p.cap with
  | none => none
  | some c =>
    if !holdsPerms (capPerms c) (if st.k then permC + permA else permC) then some 4
    else if !inRange (capBase c) (capLen c) a st.w then some 5
    else if capType c != 15 && !regionOk s (some (capGen c)) (wordOfInt a) then some 6
    else none

/-- The outcome of one step at its owner: the new pointer, or the status and kind that end the chain. -/
def chaseStepHere (s : State) (p : ChasePkt) (st : ChaseStep) (a : Word) : State × Except (Nat × Nat) Word :=
  let k := coreKey p.ctx (keyCore p.ret.core)
  if a.toNat % st.w ≠ 0 then
    match locateAny s k false a 1 .load, locateAny s k false a 1 (if st.k then .atomic else .load) with
    | .error f, _ => (s, .error (1, f))
    | .ok _, .error f => (s, .error (1, f))
    | .ok _, .ok _ => (s, .error (6, 0))
  else
    let op : MemOp := if st.k then .fetchAdd st.w p.addend else .load st.w false
    match performMem s k { p.who with rx := !st.k } false a op with
    | .error b => (s, .error (if b.code = 3 then (1, b.sub) else (7, 0)))
    | .ok (s', g) =>
      if g.poison then (s', .error (4, 0)) else (s', .ok (BitVec.ofNat 64 (leNat g.bytes) &&& st.mask))

/-- Send a packet to the owner of its next step (R334, R336): `bounceable` says an owner sends it, so that it bounces
when its VC0 pegs toward the next hop are gone; the requester's own port queues it instead. A leg is tested by the hops this die knows of;
the packet carries the hops of the legs before it, and its receiver adds those that the frame has taken [38]. -/
def chaseForward (s : State) (p : ChasePkt) (a : Word) (rank : Nat) (bounceable : Bool) : State :=
  match linkTo s false rank with
  | none => endChase s p 0 a 5 0
  | some l =>
    let h := p.hops + hopsTo s rank
    if 16 < h then endChase s p 0 a 3 0
    else if bounceable && pegsOf s l 0 == 0 then
      if p.rank = s.port.rank then { s with port := { s.port with bounced := s.port.bounced ++ [p] } }
      else sendOrDrop s p.ctx 1 false p.rank (.bounce p)
    else sendOrDrop s p.ctx 0 false rank (.chase p)

/-- Perform the steps that this die owns, then pass the packet on or end the chain (R333 to R336). -/
def chaseAdvance (bounceable : Bool) : List ChaseStep → State → ChasePkt → State
  | [], s, p => endChase s { p with s := p.nstep - 1 } p.p 0 0 0
  | st :: r, s, p =>
    match chaseAddr s p st with
    | .error (a, status, kind) => endChase s p 0 a status kind
    | .ok (owner, x) =>
      let a := wordOfInt x
      if owner ≠ s.port.rank then chaseForward s p a owner bounceable
      else
        match chaseCapFail s p st x with
        | some sub => endChase (if sub = 6 then logCp s 6 a.toNat p.rank else s) p 0 a 2 sub
        | none =>
          match chaseStepHere s p st (if p.cap.isSome then BitVec.ofNat 64 (owner * 2 ^ 47) + a else a) with
          | (s', .error (status, kind)) => endChase s' p 0 a status kind
          | (s', .ok v) =>
            match r with
            | [] => endChase s' p v a 0 0
            | _ :: _ => chaseAdvance true r s' { p with p := v, s := p.s + 1, steps := r }

/-- A packet starts at the requester, or goes out again after a bounce. -/
def chaseStart (s : State) (p : ChasePkt) : State := chaseAdvance false p.steps s p

/-- A packet is at the owner of its present step, after a leg of `hops` optical hops (R334). -/
def chaseHere (s : State) (p : ChasePkt) (hops : Nat) : State := chaseAdvance true p.steps s { p with hops := p.hops + hops }

/-- CHASE_REINJECT (R336): the i-th bounced packet goes out again once the VC0 peg toward its route's first hop is
nonzero. One whose hops would pass 16 ends here with HOPLIM (R334). -/
def execChaseReinject (i : Nat) (s : State) : Host.Outcome State Fault Refusal :=
  match s.port.bounced[i]? with
  | none => .next s
  | some p =>
    let ready := match p.steps with
      | [] => true
      | st :: _ =>
        match chaseAddr s p st with
        | .error _ => true
        | .ok (owner, _) => match linkTo s false owner with | some l => pegsOf s l 0 != 0 | none => true
    if ready && (ctxAt s p.ctx).resident then
      .next (chaseStart { s with port := { s.port with bounced := listDrop s.port.bounced i } } p)
    else .next s

end Sys2Proof.Machine
end

