-- ==== Sys2Proof/Machine/DrtOps.lean ====
section
/-! DEFINITION. DRT operations at their source (R341 to R347): messages, packets and failures. -/

namespace Sys2Proof.Machine

/-- The system rank of a pod and a rank (R341). -/
def systemRank (pod rank : Nat) : Nat := pod % 256 * 1024 + rank % 1024

/-- The system rank of this die. -/
def ownSystemRank (s : State) : Nat := systemRank s.port.pod s.port.rank

/-- MODE of a core's context is flagged (R343). -/
def drtFlagged (s : State) (k : Nat) : Bool := (drtcfgWord s (coreAt s k)).getLsbD 0

/-- Messages of a core to a target so far: puts and flags, or the others. -/
def msgCount (s : State) (k dst : Nat) (other : Bool) : Nat := ((s.drt.counts.find? fun e => e.1 == (k, dst, other)).map Prod.snd).getD 0

/-- The sort of a message: neither a put nor a flag. -/
def otherKind (kind : Nat) : Bool := kind != 1 && kind != 4

/-- A message id: the requesting core's key in bits 63:39, the target's system rank in 38:21, bit 20 set for neither puts nor flags, and
a counter of that core, target and sort, so that the target can tell the sequences of R347 apart [3]. -/
def messageId (s : State) (k dst : Nat) (other : Bool) : Nat :=
  k % 2 ^ 25 * 2 ^ 39 + dst % 2 ^ 18 * 2 ^ 21 + other.toNat * 2 ^ 20 + msgCount s k dst other % 2 ^ 20

/-- A number whose bytes are in network order. -/
def beNat (bs : List Byte) : Nat := bs.foldl (fun n b => n * 256 + b.toNat) 0

/-- The IPv6 destination of a system rank's port: its pod's prefix, then 2 × rank + port (R341, R393). -/
def drtAddr (s : State) (dst port : Nat) : BitVec 128 :=
  BitVec.ofNat 128 (beNat (readBytes s.hbm (s.page.drtpfx.toNat + 16 * (dst / 1024)) 12) * 2 ^ 32 + 2 * (dst % 1024) + port)

/-- A packet on its way out (R341). -/
def datagram (s : State) (p : Packet) : Datagram where
  port := p.mid % 2
  udp := 0x4B59
  addr := drtAddr s p.dst (p.mid % 2)
  packet := p

/-- The UDP payload of a packet: the 72-byte header, the data, a CRC-32C over both (R341). -/
def packetBytes (p : Packet) : List Byte :=
  let body := leBytes 1 2 ++ leBytes 1 p.op ++ leBytes 2 (p.flagged.toNat + p.tagged.toNat * 2 + p.last.toNat * 4) ++ leBytes 4 p.src ++
    leBytes 4 p.dst ++ leBytes 8 p.mid ++ leBytes 4 p.pidx ++ leBytes 1 p.gen.toNat ++ leBytes 1 p.code ++ leBytes 2 p.len ++
    leBytes 8 p.addr ++ leBytes 4 p.seqcnt ++ leBytes 32 p.tags.toNat ++ p.data
  body ++ leBytes 4 (crc32c body)

/-- Microseconds as cycles (R280). -/
def cycles50us : Nat := 200000
def cycles500us : Nat := 2000000
def cycles1ms : Nat := 4000000

/-- A packet of this die. -/
def packetTo (s : State) (op dst mid pidx : Nat) (gen : BitVec 8) (flagged tagged last : Bool) (len addr seqcnt : Nat)
    (tags : BitVec 256) (data : List Byte) : Packet where
  op := op
  flagged := flagged
  tagged := tagged
  last := last
  src := ownSystemRank s
  dst := dst
  mid := mid
  pidx := pidx
  gen := gen
  code := 0
  len := len
  addr := addr
  seqcnt := seqcnt
  tags := tags
  data := data

/-- Send a message's packets and keep it until it is acknowledged (R342). -/
def sendMessage (s : State) (m : Message) : State :=
  let key := (m.core, m.dst, otherKind m.kind)
  { s with drt := { s.drt with
      msgs := s.drt.msgs ++ [m], out := s.drt.out ++ m.packets.map (datagram s)
      counts := (key, msgCount s m.core m.dst (otherKind m.kind) + 1) :: s.drt.counts.filter fun e => e.1 != key } }

/-- The offsets of a transfer's packets: 4,096 bytes each (R341). -/
def packetCuts (len : Nat) : List (Nat × Nat) :=
  (List.range ((len + 4095) / 4096)).map fun i => (4096 * i, min 4096 (len - 4096 * i))

/-- The capability tags of the 16-byte granules of a local range. -/
def granuleTags (s : State) (k : Nat) (sp : Bool) (a : Word) (n : Nat) : BitVec 256 :=
  BitVec.ofNat 256 ((List.range (n / 16)).foldl (fun m i =>
    match locateAny s k sp (a + BitVec.ofNat 64 (16 * i)) 16 .load with
    | .ok ((p, _, _) :: _, _) => if s.capTags.contains (granKey p 16) then m + 2 ^ i else m
    | .ok ([], _) => m
    | .error _ => m) 0)

/-- Puts of a core to a target since its last flag (R347). -/
def seqCount (s : State) (k dst : Nat) : Nat :=
  ((s.drt.seqs.find? fun e => e.1 == k && e.2.1 == dst).map fun e => e.2.2).getD 0

/-- Set that count. -/
def setSeq (s : State) (k dst n : Nat) : State :=
  { s with drt := { s.drt with seqs := (k, dst, n) :: s.drt.seqs.filter fun e => !(e.1 == k && e.2.1 == dst) } }

/-- Note that a target holds unconfirmed puts of a core. -/
def noteUnflushed (s : State) (k dst : Nat) : State :=
  if s.drt.unflushed.contains (k, dst) then s else { s with drt := { s.drt with unflushed := s.drt.unflushed ++ [(k, dst)] } }

/-- A message of an operation, without packets. -/
def newMessage (s : State) (k n kind dst : Nat) : Message where
  mid := messageId s k dst (otherKind kind)
  core := k
  opNum := n
  kind := kind
  dst := dst
  packets := []
  sentAt := s.time
  start := s.time
  need := 0
  gotBytes := 0
  localAddr := 0

/-- The DRT destination of a capability. -/
def capSystem (c : BitVec 128) : Nat := systemRank (capPod c) (capRank c)

/-- rma.put from its data (R346); the tags travel when kN has D. Only puts in flagged mode join a sequence (R347). -/
def startPut (s : State) (k n : Nat) (c : BitVec 128) (off : Word) (bs : List Byte) (tags : Nat → Nat → BitVec 256)
    (tg : Bool) : State :=
  let dst := capSystem c
  let m := newMessage s k n 1 dst
  let cuts := packetCuts bs.length
  let fl := drtFlagged s k
  let tg := tg && holdsPerms (capPerms c) permD
  let ps := (cuts.zip (List.range cuts.length)).map fun e =>
    packetTo s 1 dst m.mid e.2 (capGen c) fl tg (e.2 + 1 == cuts.length) e.1.2 (capBase c + off.toNat + e.1.1) 0
      (if tg then tags e.1.1 e.1.2 else 0) ((bs.drop e.1.1).take e.1.2)
  let s := setSeq (noteUnflushed s k dst) k dst (if fl then seqCount s k dst + 1 else 0)
  sendMessage s { m with packets := ps }

/-- rma.get (R346): LEN holds 2 bytes and a packet 4,096, so a request goes as one GETREQ packet for each cut of its length, PIDX
counting them (DESIGN CHOICE [114]); the answers' bytes are placed as they come. -/
def startGet (s : State) (k n : Nat) (c : BitVec 128) (off dst : Word) (len : Nat) : State :=
  let m := newMessage s k n 2 (capSystem c)
  let cuts := packetCuts len
  let ps := (cuts.zip (List.range cuts.length)).map fun e =>
    packetTo s 2 (capSystem c) m.mid e.2 (capGen c) (drtFlagged s k) false (e.2 + 1 == cuts.length) e.1.2 (capBase c + off.toNat + e.1.1) 0 0 []
  sendMessage s { m with packets := ps, need := len, localAddr := dst }

/-- rma.flag (R346, R347): it carries the number of messages of its sequence. -/
def startFlag (s : State) (k n : Nat) (c : BitVec 128) (off v : Word) : State :=
  let dst := capSystem c
  let m := newMessage s k n 4 dst
  let p := packetTo s 4 dst m.mid 0 (capGen c) (drtFlagged s k) false true 8 (capBase c + off.toNat) (seqCount s k dst) 0
    (leBytes 8 v.toNat)
  sendMessage (setSeq (noteUnflushed s k dst) k dst 0) { m with packets := [p] }

/-- rma.flush (R346): a FLUSHREQ to every rank that holds unconfirmed puts of the core; its message notes in `need` how many puts and
flags it covers. -/
def startFlush (s : State) (k n : Nat) : State :=
  (s.drt.unflushed.filter fun e => e.1 == k).foldl (fun s e =>
    let m := newMessage s k n 5 e.2
    sendMessage s { m with need := msgCount s k e.2 false, packets := [packetTo s 5 e.2 m.mid 0 0 (drtFlagged s k) false true 0 0 0 0 []] }) s

/-- Messages of an operation that are still outstanding. -/
def opMessages (s : State) (k n : Nat) : Bool := s.drt.msgs.any fun m => m.core == k && m.opNum == n

/-- Record the failure of a t12 operation in DRTST (R343): 1 LOST, 2 STALE, 3 VIOL, 4 CLOSING, 5 REVOKED. -/
def drtFailure (c : Core) (n kind : Nat) : Core :=
  let w := c.csr.drtst
  let w := if bits w 16 8 = 0 then setBits (setBits w 16 8 kind) 32 32 n else w
  { c with csr := { c.csr with drtst := setBits w 0 16 (min 65535 (bits w 0 16 + 1)) } }

/-- The operation of a message may go on or end: mark it ended when nothing of it is outstanding. -/
def settleOp (s : State) (k n : Nat) : State :=
  if opMessages s k n then s
  else onCore s k fun c => setQueue c 12 ((queueOf c 12).map fun o => if o.n = n ∧ o.fired then { o with ended := true, await := 0 } else o)

/-- A message of operation n has failed: the operation counts once (R343). -/
def failOp (c : Core) (n kind : Nat) : Core :=
  match (queueOf c 12).find? fun o => o.n == n with
  | some o => if o.aux.isEmpty then setOp (drtFailure c n kind) 12 { o with aux := [1] } else c
  | none => drtFailure c n kind

/-- A message ends, in success or failure (R342, R343). -/
def endMessage (s : State) (m : Message) (failure : Option Nat) : State :=
  let s := { s with drt := { s.drt with msgs := s.drt.msgs.filter fun x => x.mid != m.mid } }
  let s := match failure with
    | some kind => keepCsr s (onCore s m.core fun c => failOp c m.opNum kind) m.core 0x043
    | none => s
  settleOp s m.core m.opNum

end Sys2Proof.Machine
end

