-- ==== Sys2Proof/Machine/FabricOps.lean ====
section
/-! DEFINITION. The operations of t5 to t8, t11 and t12 at work (R313, R314, R320, R321, R324, R325, R330, R331, R333, R346). Each is a
sequence of steps; unlike the other engines' steps these also change the landing slots an operation holds. -/

namespace Sys2Proof.Machine

/-- Run steps that may change their operation; `total` bounds them. A step that stops goes on from the access at which it
stopped; a request already sent (`ask`) keeps what the step has changed. -/
def runFab (k t : Nat) (total : EngOp → Nat) (step : EngOp → Run → Run × EngOp) : Nat → State → EngOp → State
  | 0, s, o => onCore s k fun c => setOp c t o
  | n + 1, s, o =>
    if total o ≤ o.pos then onCore s k fun c => setOp c t { o with ended := true }
    else
      let (r, o') := step o (Run.start s o)
      match r.stop with
      | none => runFab k t total step n r.s { o' with pos := o.pos + 1, replies := [], log := [] }
      | some (.fault b a kd) =>
        engReport (onCore r.s k fun c => setOp c t { o with await := 2, log := r.kept }) k t o b a kd
      | some .ask => onCore r.s k fun c => setOp c t { o' with await := 1, log := r.kept }
      | some .wait | some (.residue _ _) => onCore r.s k fun c => setOp c t { o with log := r.kept }

/-- Send a body, with a landing slot of the stream of timeline t for its answer when `slot` (R314): wait for the slot, or report an
owner that cannot be reached (R279). -/
def runSend (r : Run) (k t : Nat) (slot : Bool) (vc : Fin 4) (rank : Nat) (addr : Word) (b : Body) : Run :=
  if r.stop.isSome then r
  else
    match if slot then takeSlots r.s k t 1 else some r.s with
    | none => { r with stop := some .wait }
    | some s =>
      match sendBody s (keyCtx k) vc false rank b with
      | some s => { r with s := s }
      | none => { r with stop := some (.fault unreachBad addr 0) }

/-- Perform a request of an operation on this die, under its generation; one that the step has already made is not made again. -/
def runHere (r : Run) (k t : Nat) (o : EngOp) (rx : Bool) (g : Option (BitVec 8)) (a : Word) (op : MemOp) : Run × List Byte :=
  if r.stop.isSome then (r, [])
  else
    match r.todo with
    | x :: rest => ({ r with s := performedAt r.s k a op, todo := rest, log := x :: r.log }, x.1)
    | [] =>
      if accessHeld r.s none k false a op then ({ r with stop := some .wait }, [])
      else
        match performGen r.s k { engWho r.s k t o with rx := rx } false g a op with
        | .error b => ({ r with s := if b.sub = 6 ∧ b.code = 7 then logCp r.s 6 a.toNat k else r.s, stop := some (.fault b a (memKind op).code) }, [])
        | .ok (s, got) => (r.got (performedAt s k a op) (got.bytes, got.poison), got.bytes)

/-! ### fs.send and fs.post (R320, R321) -/

/-- The source bytes of one frame (R320). -/
def frameBytes (k t : Nat) (o : EngOp) (f : SendFrame) (r : Run) : Run × List Byte :=
  let src := layoutAt o.shape 0
  let (r, vs) := readSpan k t o o.inB src (src.row0 + f.i) (src.col0 + f.j) false f.n r
  (r, vs.flatMap fun v => leBytes src.eb v)

/-- One SEND frame: performed here, or sent to its owner with a landing slot for the DONE word of its run. A frame
that is sent again after a fault is a run of its own. -/
def sendStep (k t : Nat) (o : EngOp) (fs : List SendFrame) (ix : Nat) (again : Bool) (r : Run) : Run × EngOp :=
  match fs[ix]? with
  | none => (r, o)
  | some f =>
    let g := (opSendMap o.shape).gen
    let (r, bs) := frameBytes k t o f r
    let owner := ownerOf f.addr
    if !canonical f.addr then (r.halt (.fault (Bad.trans 5) f.addr 1), o)
    else if owner = r.s.port.rank then ((runHere r k t o false g f.addr (.store bs false)).1, o)
    else
      let differs (i : Nat) : Bool := match fs[i]? with | some x => ownerOf x.addr != owner | none => true
      let first := again || ix == 0 || differs (ix - 1)
      let last := again || differs (ix + 1)
      let r := runSend r k t first 2 owner f.addr (.send last (farWho r.s k t o) { core := k, stream := t, id := o.n } g f.addr bs)
      (r, if first then { o with slots := o.slots + 1 } else o)

/-- The arrival that ends fs.post: sent once every frame has been performed (R321). -/
def postArrival (k t : Nat) (o : EngOp) (bar : Word) (r : Run) : Run × EngOp :=
  if o.slots ≠ 0 then (r.halt .wait, o)
  else
    let ret : Ret := { core := k, stream := t, id := o.n }
    let o' := { o with slots := 1 }
    if bnRank bar = r.s.port.rank then
      match takeSlots r.s k t 1 with
      | none => (r.halt .wait, o)
      | some s =>
        let h := coreKey (keyCtx k) (bnCore bar)
        ({ r with s := barEvent s h { bar := bnBar bar, from_ := 1, n := 1, ret := some (r.s.port.rank, ret) } }, o')
    else (runSend r k t true 3 (bnRank bar) bar (.arrive (bnCore bar) (bnBar bar) ret true), o')

/-- The steps of fs.send and fs.post: the frames, those to send again, the arrival. `aux` lists the frames whose stores
have faulted at their owner. -/
def fsTotal (o : EngOp) : Nat :=
  (sendFrames (opSendMap o.shape) o.shape).length + o.aux.length + (match o.kind with | .fsPost _ => 1 | _ => 0)

def fsStep (k t : Nat) (o : EngOp) (r : Run) : Run × EngOp :=
  let fs := sendFrames (opSendMap o.shape) o.shape
  if o.pos < fs.length then sendStep k t o fs o.pos false r
  else if o.pos < fs.length + o.aux.length then sendStep k t o fs (o.aux.getD (o.pos - fs.length) 0).toNat true r
  else
    match o.kind with
    | .fsPost bar => postArrival k t o bar r
    | _ => (r, o)

/-! ### rwin.add (R330) -/

/-- The bytes of contribution frame `ix`, in element order, row by row (R254, R330). -/
def contribBytes (k t : Nat) (o : EngOp) (ix : Nat) (r : Run) : Run × List Byte :=
  let src := layoutAt o.shape 0
  let n := 256 / src.eb
  (List.range n).foldl (fun (a : Run × List Byte) e =>
    let x := ix * n + e
    let (r, v, _) := readElem a.1 k t o o.inB src (src.row0 + (x / hfTw o.shape : Nat)) (src.col0 + (x % hfTw o.shape : Nat))
    (r, a.2 ++ leBytes src.eb v)) (r, [])

/-- Frames of an rwin.add. -/
def addTotal (o : EngOp) : Nat := addBytes o.shape / 256

/-- One contribution frame, or one to be sent again (R279): merged here when this die is the home, else sent toward it. -/
def addStep (k t : Nat) (o : EngOp) (r : Run) : Run × EngOp :=
  let name := hfWin o.shape
  let ix := if o.pos < addTotal o then o.pos else (o.aux.getD (o.pos - addTotal o) 0).toNat
  let f := hfFirst o.shape + ix
  let home := bits name 20 10
  let (r, bs) := contribBytes k t o ix r
  if r.stop.isSome then (r, o)
  else if home = r.s.port.rank then
    let type := match windowOf r.s name with | some (_, w) => wdType w.desc | none => 0
    ({ r with s := homeMerge r.s (nameSlot r.s name) f (frameElems type bs) [r.s.port.rank] }, o)
  else (runSend r k t false 2 home name (.contrib name f bs), o)

/-- Contribution frames of this die that the next hop has not yet acknowledged (R291, R330). -/
def contribUnacked (s : State) (o : EngOp) : Bool :=
  (s.port.queue ++ s.port.replay).any fun q =>
    q.frame.src == s.port.rank &&
      (match q.frame.body with
       | .contrib n f _ => n == hfWin o.shape && decide (hfFirst o.shape ≤ f ∧ f < hfFirst o.shape + addTotal o)
       | _ => false)

/-! ### Block loads and stores (R324, R325) -/

/-- The block operations of t11: one step, which asks another die or acts here. -/
def rldStep (k t : Nat) (o : EngOp) (a : Word) (g : Option (BitVec 8)) (off n : Nat) (rx : Bool) (r : Run) : Run × EngOp :=
  let put (r : Run) (bs : List Byte) : Run := (engAccess r k t o true (BitVec.ofNat 64 off) (.store bs false)).1
  if ownerOf a = r.s.port.rank then
    let (r, bs) := runHere r k t o rx g a (.load n false)
    (put r bs, o)
  else
    match o.replies with
    | bs :: _ => (put r bs, o)
    | [] =>
      let who := { farWho r.s k t o with rx := rx }
      let r := runSend r k t true 0 (ownerOf a) a (.mem who { core := k, stream := t, id := o.n } g a (.load n false))
      (r.halt .ask, { o with slots := 1 })

def rstStep (k t : Nat) (o : EngOp) (a : Word) (g : Option (BitVec 8)) (off n : Nat) (rx : Bool) (r : Run) : Run × EngOp :=
  match o.replies with
  | _ :: _ => (r, o)
  | [] =>
    let (r, bs, _) := engAccess r k t o true (BitVec.ofNat 64 off) (.load n false)
    if ownerOf a = r.s.port.rank then ((runHere r k t o rx g a (.store bs false)).1, o)
    else
      let who := { farWho r.s k t o with rx := rx }
      let r := runSend r k t true 2 (ownerOf a) a (.mem who { core := k, stream := t, id := o.n } g a (.store bs false))
      (r.halt .ask, { o with slots := 1 })

/-! ### Windows (R331) -/

/-- Step 0 of rwin.pread and rwin.abort: the landing slot they hold to their end (R314). -/
def slotStep (k t : Nat) (o : EngOp) (r : Run) : Run × EngOp :=
  match takeSlots r.s k t 1 with
  | none => (r.halt .wait, o)
  | some s => ({ r with s := s }, { o with slots := 1 })

/-- rwin.pread: its slot, then the partial frame by frame, then the merge counts. -/
def preadTotal (s : State) (slot : Nat) : Nat := match windowAt s slot with | some w => winLen w.desc + 2 | none => 1

def preadStep (k t : Nat) (o : EngOp) (slot : Nat) (dst : Word) (r : Run) : Run × EngOp :=
  match windowAt r.s slot with
  | none => (r, o)
  | some w =>
    let size := (partBytes w 0).length
    let f := o.pos - 1
    let a := dst + BitVec.ofNat 64 (size * f)
    ((engAccess r k t o false a (.store (if f < winLen w.desc then partBytes w f else partCounts w) false)).1, o)

/-- rwin.abort: it ends once every seam has answered. -/
def abortStep (k : Nat) (o : EngOp) (slot : Nat) (r : Run) : Run × EngOp :=
  match o.replies with
  | _ :: _ => (r, o)
  | [] =>
    let s := abortWindow r.s slot (k, o.n)
    let r := { r with s := s }
    ((if (windowAt s slot).isSome then r.halt .ask else r), o)

/-! ### Chase and DRT -/

/-- chase: the packet leaves once its slot is reserved; the landing record ends it (R333, R335). -/
def chaseStep (k t : Nat) (o : EngOp) (p : ChasePkt) (r : Run) : Run × EngOp :=
  match takeSlots r.s k t 1 with
  | none => (r.halt .wait, o)
  | some s => ({ r with s := chaseStart s p }.halt .ask, { o with slots := 1 })

/-- The local bytes of an rma.put, packet by packet. -/
def putBytes (k t : Nat) (o : EngOp) (sp : Bool) (a : Word) : List (Nat × Nat) → Run → Run × List Byte
  | [], r => (r, [])
  | (off, n) :: rest, r =>
    let (r, bs, _) := engAccess r k t o sp (a + BitVec.ofNat 64 off) (.load n false)
    let (r, more) := putBytes k t o sp a rest r
    (r, bs ++ more)

/-- The operations of t12 (R345, R346): each starts its messages and ends when they do. -/
def drtStep (k t : Nat) (o : EngOp) (r : Run) : Run × EngOp :=
  let asks (s : State) (r : Run) : Run × EngOp := if r.stop.isSome then (r, o) else ({ r with s := s }.halt .ask, o)
  match o.kind with
  | .rmaPut c off src len tg =>
    let (sp, a) := drtLocal src
    let (r, bs) := putBytes k t o sp a (packetCuts len) r
    asks (startPut r.s k o.n c off bs (fun d n => granuleTags r.s k sp (a + BitVec.ofNat 64 d) n) tg) r
  | .rmaGet c off dst len => asks (startGet r.s k o.n c off dst len) r
  | .rmaFlag c off v => asks (startFlag r.s k o.n c off v) r
  | .rmaFlush =>
    if r.s.drt.msgs.any fun m => m.core == k && (m.kind == 1 || m.kind == 4) then (r.halt .wait, o)
    else
    let s := startFlush r.s k o.n
    if opMessages s k o.n then asks s r else ({ r with s := s }, o)
  | .rmaRev i => if (registration r.s i).isSome then (r.halt .ask, o) else (r, o)
  | _ => (r, o)

/-! ### Together -/

/-- Steps of a fabric, remote or DRT operation. -/
def fabTotal (s : State) (o : EngOp) : Nat :=
  match o.kind with
  | .fsSend => fsTotal o
  | .fsPost _ => fsTotal o
  | .rwinAdd => addTotal o + o.aux.length
  | .rwinPread slot _ => preadTotal s slot
  | .rwinAbort _ => 2
  | _ => 1

/-- One step of such an operation. -/
def fabStep (k t : Nat) (o : EngOp) (r : Run) : Run × EngOp :=
  match o.kind with
  | .fsSend => fsStep k t o r
  | .fsPost _ => fsStep k t o r
  | .rwinAdd => addStep k t o r
  | .rldBlk a g off n rx => rldStep k t o a g off n rx r
  | .rstBlk a g off n rx => rstStep k t o a g off n rx r
  | .rwinPread slot dst => if o.pos = 0 then slotStep k t o r else preadStep k t o slot dst r
  | .rwinAbort slot => if o.pos = 0 then slotStep k t o r else abortStep k o slot r
  | .chase p => chaseStep k t o p r
  | _ => drtStep k t o r

/-- Run an operation of t5 to t8, t11 or t12 as far as it goes. -/
def runFabric (s : State) (k t : Nat) (o : EngOp) : State :=
  let total := fabTotal s
  runFab k t total (fabStep k t) (total o + 1 - o.pos) s o

end Sys2Proof.Machine
end

