-- ==== Sys2Proof/Machine/EngineEvents.lean ====
section
/-! DEFINITION. Engine operations firing and completing (R217, R242, R245, R251, R271, R313, R377, R381), and fabric FIFO words on
their way (R317). -/

namespace Sys2Proof.Machine

/-! ### Firing (R251) -/

/-- Timelines whose operations are sent in order and may complete in any (R313). -/
def fabricTimeline (t : Nat) : Bool := decide (5 ≤ t ∧ t ≤ 8) || t == 11 || t == 12

/-- The operation of a queue that may start or go on (R242, R245, R313). -/
def engineNext (t : Nat) (q : List EngOp) : Option EngOp :=
  let o := if fabricTimeline t then q.find? fun o => !(o.ended || o.await == 1) else q.head?
  o.bind fun o => if o.ended || o.await != 0 then none else some o

/-- The task's accesses before the command have been performed (R170, engine issue). -/
def priorDone (c : Core) (o : EngOp) : Bool :=
  let early (l : List Access) : Bool := l.any fun a => a.id ≤ o.order
  !(early c.accs) && !((c.snap.map fun n => early n.accs).getD false)

/-- The array is free of earlier-issued operations of the other queue that shares it (R381). -/
def arrayFree (c : Core) (t : Nat) (o : EngOp) : Bool :=
  if t = 4 then (queueOf c 9).all fun p => o.order < p.order
  else if t = 9 then (queueOf c 4).all fun p => o.order < p.order
  else true

/-- The operations of a queue whose task's earlier accesses have all been performed: the engine-issue edge follows those accesses (R170),
so it is the next cycle's. Their acquire time is their command's issue time (R175). -/
def giveTimes (now : Nat) (c : Core) (t : Nat) : Core :=
  setQueue c t ((queueOf c t).map fun o => if !o.given && priorDone c o then { o with given := true, from_ := now + 1 } else o)

/-- An operation that has not fired may fire now. -/
def mayFire (now : Nat) (c : Core) (t : Nat) (o : EngOp) : Bool :=
  o.given && decide (o.from_ ≤ now) && arrayFree c t o && ringsReady c t o

/-- The heap-spill trap (R377), reported at the next boundary (R224, R225): TVAL 8K × ROWS, TL 9. -/
def spillReport (o : EngOp) : Report where
  code := 0x0A
  sub := 0
  addr := BitVec.ofNat 64 (8 * vpK o.shape * vpRows o.shape)
  agent := 0
  time := 0
  eng := true
  tl := 9
  obj := 0
  epc := o.epc
  kind := 0
  slot := o.slot
  stg := o.stg

/-- Run a fired operation as far as it goes. -/
def runEngine (s : State) (k t : Nat) (o : EngOp) : State :=
  if t < 4 then runSteps k t (cpStep k t) (cpSteps o - o.pos) s o
  else if t = 4 then runSteps k 4 (mxStep k) (mxSteps o - o.pos) s o
  else if t = 9 then
    let s := if o.kind = .vpFwd ∧ spillShort o then onCore s k fun c => { c with reports := c.reports ++ [spillReport o] } else s
    runSteps k 9 (vpStep k) (vpSteps o - o.pos) s o
  else if t = 10 then runSteps k 10 (eqStep k) (eqSteps o - o.pos) s o
  else runFabric s k t o

/-- ENGINE_OP_FIRE (R251): the next operation of timeline t fires and runs, or one that had stopped goes on. -/
def execEngineOpFire (k t : Nat) (s : State) : Host.Outcome State Fault Refusal :=
  let s := onCore s k fun c => giveTimes s.time c t
  let c := coreAt s k
  if !(ctxAt s (keyCtx k)).resident then .next s
  else
    match engineNext t (queueOf c t) with
    | none => .next s
    | some o =>
      if o.fired then .next (runEngine s k t o)
      else if mayFire s.time c t o then
        let f := fireRings s k t o
        .next (runEngine f.1 k t f.2)
      else .next s

/-! ### Completion (R271, R313) -/

/-- An operation that keeps its one landing slot to its end: rwin.pread and rwin.abort (R314). -/
def ownSlot : EngKind → Bool
  | .rwinPread _ _ | .rwinAbort _ => true
  | _ => false

/-- Everything an operation still waits for has arrived (R320, R321, R330). -/
def opSettled (s : State) (o : EngOp) : Bool :=
  o.ended && (o.slots == 0 || ownSlot o.kind) && (match o.kind with | .rwinAdd => !contribUnacked s o | _ => true)

/-- An operation's register value arrives. What was issued before a boundary at which the core is frozen waits in the snapshot, so that a
handler reads the registers as they stood there (R228). An eq.size, mx.rd or vp.rd result that comes after its task's end, which tend
does not await (R25), is written where the register then is: in the core's next task, if it has one. The manual does not say what
becomes of it (DESIGN CHOICE [111]). -/
def deliverOp (c : Core) (order : Nat) (d : Dest) (v : Val) : Core :=
  match c.snap with
  | some n =>
    if present c order then writeDest c d v
    else { c with snap := some { n with rets := n.rets ++ [{ id := order, dest := d, dead := false, val := v }] } }
  | none => writeDest c d v

/-- The register write of an operation that has one (R270, R379, R392). -/
def writeOp (c : Core) (o : EngOp) : Core :=
  if o.dead then c
  else
    match o.kind with
    | .mxRd d t p => deliverOp c o.order d (.v (rdValue c t p))
    | .vpRd d _ _ => deliverOp c o.order d (.v (vpRdValue o))
    | .eqSize _ d _ => if o.aux == eqEnd then c else deliverOp c o.order d (.s (o.aux.headD 0))
    | _ => c

/-- The value of timeline t after operation n has left its queue (R217): every operation numbered up to it has
completed. -/
def timelineReach (c : Core) (t : Nat) : Nat :=
  match (queueOf c t).map EngOp.n with
  | [] => mget 0 c.tlOps t
  | m :: r => r.foldl min m - 1

/-- Advance timeline t, noting when each of its operations was completed (R175, R217). -/
def advanceTimeline (now : Nat) (c : Core) (t : Nat) : Core :=
  let v := (mget 0 c.tl t).toNat
  let v' := timelineReach c t
  { c with
    tl := mset c.tl t (BitVec.ofNat 64 (max v v'))
    tlTimes := (List.range (v' - v)).foldl (fun m i => mset m (16 * (v + 1 + i) + t) now) c.tlTimes }

/-- Operation o of timeline t completes: its baskets pass on in cursor order, its register is written, the timeline
advances. -/
def completeOp (now : Nat) (c : Core) (t : Nat) (o : EngOp) : Core :=
  let c := o.inB.foldl (fun c b => closeBasket now c b 14) c
  let c := o.outB.foldl (fun c b => closeBasket now c b 14) c
  let c := writeOp c o
  let c := if o.slots = 0 then c else { c with landing := mput 0 c.landing t (slotsHeld c t - o.slots) }
  advanceTimeline now (setQueue c t ((queueOf c t).filter fun p => p.n != o.n)) t

/-- ENGINE_OP_COMPLETE (R271): operation n of timeline t of core k. Its completion follows its accesses (R170), so it completes in
the cycle after the one in which nothing of it was left to do (DESIGN CHOICE [31]). For a context that is not resident its timeline
advances in the image too (R49, R348). -/
def execEngineOpComplete (k t n : Nat) (s : State) : Host.Outcome State Fault Refusal :=
  match (queueOf (coreAt s k) t).find? fun o => o.n == n with
  | some o =>
    .next (if opSettled s o then
        keepTl (onCore s k fun c => if o.ripe = 0 then setOp c t { o with ripe := s.time + 1 }
                                    else if o.ripe ≤ s.time then completeOp s.time c t o else c) k t
      else s)
  | none => .next s

/-! ### FIFO words (R317) -/

/-- Words discarded for unbound pairs, saturating (R316). -/
def countDrop (c : Core) (n : Nat) : Core :=
  let w := c.csr.fqst
  { c with csr := { c.csr with fqst := setBits w 0 32 (min 4294967295 (bits w 0 32 + n)) } }

/-- FIFO words arrive at pair j of core h: the binding must name their sender (R316). -/
def fifoArrive (s : State) (h j : Nat) (from_ : Nat × Nat × Nat) (ws : List Word) : State :=
  keepCsr s (onCore s h fun c =>
    let f := fifoAt c j
    if f.peer = some from_ then setFifo c j { f with fi := f.fi ++ ws } else countDrop c ws.length) h 0x044

/-- Send what the credits of pair i of core k allow: to its peer on this die at once, or in one frame of 32 words at most. -/
def fifoSend (s : State) (k i : Nat) : State :=
  let f := fifoAt (coreAt s k) i
  match f.peer with
  | none => s
  | some (rank, core, pair) =>
    let n := min (min f.fo.length f.cred) 32
    if n = 0 then s
    else
      let ws := f.fo.take n
      let s' := onCore s k fun c => setFifo c i { f with fo := f.fo.drop n, cred := f.cred - n }
      if rank = s.port.rank then fifoArrive s' (coreKey (keyCtx k) core) pair (s.port.rank, keyCore k, i) ws
      else (sendBody s' (keyCtx k) 2 false rank (.fifo core pair (keyCore k) i ws)).getD s

/-- Return the credits a pair owes: eight at a time, or all of them at a slot's start. -/
def fifoCredit (all : Bool) (s : State) (k i : Nat) : State :=
  let f := fifoAt (coreAt s k) i
  let n := if all then f.owed else f.owed / 8 * 8
  match f.peer with
  | some (rank, core, pair) =>
    if n = 0 then s
    else giveCredits (onCore s k fun c => setFifo c i { f with owed := f.owed - n }) k i rank core pair n
  | none => s

/-- Every bound pair of resident contexts: core key, pair. -/
def boundPairs (s : State) : List (Nat × Nat) :=
  s.cores.flatMap fun e =>
    if (ctxAt s (keyCtx e.1)).resident then (e.2.fifos.filter fun f => f.2.peer.isSome).map fun f => (e.1, f.1) else []

/-- Pairs whose peer is on this die, when `here`, or elsewhere. -/
def pairHere (s : State) (here : Bool) (p : Nat × Nat) : Bool :=
  match (fifoAt (coreAt s p.1) p.2).peer with
  | some (rank, _, _) => (rank == s.port.rank) == here
  | none => false

/-- The words and credits of one cycle: words within the die, and credits for every eighth pop. -/
def moveFifos (s : State) : State :=
  let ps := boundPairs s
  let s := (ps.filter (pairHere s true)).foldl (fun s p => fifoSend s p.1 p.2) s
  ps.foldl (fun s p => fifoCredit false s p.1 p.2) s

/-- The words and credits that go out at a slot's start. -/
def sendFifos (s : State) : State :=
  let ps := boundPairs s
  let s := (ps.filter (pairHere s false)).foldl (fun s p => fifoSend s p.1 p.2) s
  ps.foldl (fun s p => fifoCredit true s p.1 p.2) s

end Sys2Proof.Machine
end

