-- ==== Sys2Proof/Machine/Host.lean ====
section
/-! DEFINITION. The host's side of the die (R393 to R404): the control page, the journal, command queues and doorbells, the
retirement store, the catalogue, the default slot tables (R281). -/

namespace Sys2Proof.Machine

/-! ### Physical writes of the CP and FCP -/

/-- Write bytes of HBM at a physical address. What the CP and FCP find at an address that the host has given above 1.5 GiB × HBMCH (R14)
the manual leaves open: here bytes are read and written there as storage (DESIGN CHOICE [115]). -/
def hbmWrite (s : State) (a : Nat) (bs : List Byte) : State :=
  let p : Phys := { sp := false, a := a }
  physWrite (dropPrior s p bs.length) p bs

/-- Replace bits lo + n - 1 down to lo of a record. -/
def setRec {w : Nat} (x : BitVec w) (lo n v : Nat) : BitVec w :=
  BitVec.ofNat w (x.toNat - rbits x lo n * 2 ^ lo + v % 2 ^ n * 2 ^ lo)

/-- BOOTST.STAGE (R407). -/
def bootStage (s : State) : Nat := bits s.page.bootst 0 8

/-! ### The journal (R398, R399) -/

/-- Write bytes of entry m into the ring, once the host has set JLOG to 12 to 20 and while the place still holds that entry. -/
def journalRing (s : State) (m : Nat) (bs : List Byte) : State :=
  if 12 ≤ s.page.jlog.toNat ∧ s.page.jlog.toNat ≤ 20 ∧ s.page.jnext ≤ m + 2 ^ s.page.jlog.toNat then
    hbmWrite s (s.page.jbase.toNat + 64 * (m % 2 ^ s.page.jlog.toNat)) bs
  else s

/-- Bytes 0 to 31 of entry m. -/
def journalFront (m queue kind ridx state status tlv : Nat) : Nat :=
  m % 2 ^ 64 + queue % 256 * 2 ^ 64 + state % 256 * 2 ^ 80 + status % 256 * 2 ^ 88 + kind % 256 * 2 ^ 96 + tlv % 2 ^ 64 * 2 ^ 128 +
    ridx % 2 ^ 64 * 2 ^ 192

/-- DIGEST: bytes 0 to 7 of SHA-256 of the command as read. -/
def cmdDigest (bs : List Byte) : Nat := leNat ((sha256 bs).take 8)

/-- Accept a command into the journal: its sequence number. The mirror is written first, then the ring. -/
def journalAccept (s : State) (queue ridx : Nat) (cmd : List Byte) : Nat × State :=
  let m := s.page.jnext
  let e := journalFront m queue (leNat (cmd.take 1)) ridx 1 0 0 + s.time % 2 ^ 64 * 2 ^ 256 + cmdDigest cmd * 2 ^ 320
  let s := { s with page := { s.page with jnext := m + 1 }, cp := { s.cp with mirror := mset s.cp.mirror (m % 4096) (BitVec.ofNat 512 e) } }
  (m, journalRing s m (leBytes 64 e))

/-- Rewrite bytes 0 to 31 of a command's entry: in the mirror while it is among the last 4,096, then in the ring. -/
def journalMark (s : State) (queue : Nat) (c : Cmd) (state status tlv : Nat) : State :=
  let m := c.jseq
  let front := journalFront m queue (rbits c.words 0 8) c.ridx state status tlv
  let old := mget 0 s.cp.mirror (m % 4096)
  let s := if rbits old 0 64 = m then { s with cp := { s.cp with mirror := mset s.cp.mirror (m % 4096) (setRec old 0 256 front) } } else s
  journalRing s m (leBytes 32 front)

/-! ### Queue descriptors and doorbells (R394, R395) -/

/-- The address of queue q's descriptor. -/
def qdAddr (s : State) (q : Nat) : Nat := s.page.qdbase.toNat + 32 * q

def qdPrio (s : State) (q : Nat) : Nat := readNat s.hbm (qdAddr s q + 1) 1
def qdLog (s : State) (q : Nat) : Nat := readNat s.hbm (qdAddr s q) 1 / 2 % 16
def qdEn (s : State) (q : Nat) : Bool := readNat s.hbm (qdAddr s q) 1 % 2 == 1
def qdTail (s : State) (q : Nat) : Nat := readNat s.hbm (qdAddr s q + 16) 4
def qdHead (s : State) (q : Nat) : Nat := readNat s.hbm (qdAddr s q + 20) 4
def qdRing (s : State) (q : Nat) : Nat := readNat s.hbm (qdAddr s q + 24) 8

/-- The accepted commands of queue q that have not completed. -/
def queueCmds (s : State) (q : Nat) : List Cmd := mget [] s.fcp.cmds q

/-- Replace them. -/
def setCmds (s : State) (q : Nat) (cs : List Cmd) : State := { s with fcp := { s.fcp with cmds := mset s.fcp.cmds q cs } }

/-- The next command of queue q starts in a later cycle than now (R170, R349). -/
def startLater (s : State) (q : Nat) : State := { s with fcp := { s.fcp with readyAt := mset s.fcp.readyAt q (s.time + 1) } }

/-- Accept the command at HEAD (R354, R395); the host's stores before the doorbell come before its start. -/
def acceptCmd (s : State) (q : Nat) : State :=
  let h := qdHead s q
  let a := qdRing s q + 64 * (h % 2 ^ qdLog s q)
  let bs := readBytes s.hbm a 64
  let (n, s) := dtAccept s q
  let (m, s) := journalAccept s q h bs
  let c : Cmd := { words := BitVec.ofNat 512 (leNat bs), addr := a, num := n, jseq := m, ridx := h, started := false, inst := none }
  hbmWrite (startLater (setCmds s q (queueCmds s q ++ [c])) q) (qdAddr s q + 20) (leBytes 4 (h + 1))

/-- Accept commands up to TAIL. -/
def acceptAll (q : Nat) : Nat → State → State
  | 0, s => s
  | n + 1, s => acceptAll q n (acceptCmd s q)

/-- A doorbell value is acceptable (R395). -/
def doorbellOk (t tail head log : Nat) : Bool :=
  decide ((t + 2 ^ 32 - tail) % 2 ^ 32 < 2 ^ 31 ∧ (t + 2 ^ 32 - head) % 2 ^ 32 ≤ 2 ^ log)

/-- A doorbell store to queue q (R395). -/
def ringDoorbell (s : State) (q t : Nat) : State :=
  if bootStage s ≠ 0 && qdEn s q && doorbellOk t (qdTail s q) (qdHead s q) (qdLog s q) then
    let n := (t + 2 ^ 32 - qdHead s q) % 2 ^ 32
    acceptAll q n (hbmWrite s (qdAddr s q + 16) (leBytes 4 t))
  else countErr s 7

/-- DOORBELL (R395). -/
def execDoorbell (q : Fin 64) (t : BitVec 32) (s : State) : Host.Outcome State Fault Refusal := .next (ringDoorbell s q t.toNat)

/-- Accept the management command at HEAD (R395, R396, R398). -/
def acceptMgmt (s : State) : State :=
  let h := s.cp.mhead
  let a := s.page.mring.toNat + 64 * (h % 2 ^ s.page.msize.toNat)
  let bs := readBytes s.hbm a 64
  let (m, s) := journalAccept s 0x40 h bs
  let c : Cmd := { words := BitVec.ofNat 512 (leNat bs), addr := a, num := 0, jseq := m, ridx := h, started := false, inst := none }
  { s with cp := { s.cp with mcmds := s.cp.mcmds ++ [c], mhead := (h + 1) % 2 ^ 32 } }

/-- Accept management commands up to TAIL. -/
def acceptMgmts : Nat → State → State
  | 0, s => s
  | n + 1, s => acceptMgmts n (acceptMgmt s)

/-- The management doorbell (R396): HEAD and TAIL are the CP's. -/
def ringManagement (s : State) (t : Nat) : State :=
  if bootStage s ≠ 0 && doorbellOk t (s.cp.mtail % 2 ^ 32) (s.cp.mhead % 2 ^ 32) s.page.msize.toNat then
    acceptMgmts ((t + 2 ^ 32 - s.cp.mhead % 2 ^ 32) % 2 ^ 32) { s with cp := { s.cp with mtail := t } }
  else countErr s 7

/-- MANAGEMENT_DOORBELL (R396). -/
def execManagementDoorbell (t : BitVec 32) (s : State) : Host.Outcome State Fault Refusal := .next (ringManagement s t.toNat)

/-- EN of a queue goes from 0 to 1: HEAD and TAIL are zeroed (R394). -/
def zeroQueue (s : State) (q : Nat) : State := hbmWrite s (qdAddr s q + 16) (leBytes 8 0)

/-- QUEUE_DESCRIPTOR_ENABLE (R394): the host sets EN of queue q. -/
def execQueueDescriptorEnable (q : Fin 64) (s : State) : Host.Outcome State Fault Refusal :=
  .next (if qdEn s q then s else
    zeroQueue (hbmWrite s (qdAddr s q) (leBytes 1 (readNat s.hbm (qdAddr s q) 1 + 1))) q)

/-! ### The control page (R393) -/

/-- A page with CHK = 1 is mapped under a table node. -/
def tableChecked (m : Memory) : List (Nat × Nat × Nat × Bool × Bool) → Nat → Bool
  | [], _ => false
  | (_, n, _, _, _) :: r, node =>
    (List.range n).any fun i =>
      let e : Word := BitVec.ofNat 64 (readNat m (node + 8 * i) 8)
      bits e 0 1 == 1 && (if bits e 1 1 = 1 then bits e 5 1 == 1 else tableChecked m r (bits e 10 42 * 1024))

/-- Some context maps a checked page. -/
def checkedMapped (s : State) : Bool :=
  s.ctxs.any fun e => match e.2 with | some x => tableChecked s.hbm levels x.ptroot | none => false

/-- No context exists on the die. -/
def noContext (s : State) : Bool := s.ctxs.all fun e => e.2.isNone

/-- Store a field of the page. -/
def pageField (p : Page) (o : Nat) (v : Word) : Page :=
  match o with
  | 0x000 => { p with qdbase := v }
  | 0x008 => { p with mring := v }
  | 0x010 => { p with msize := v }
  | 0x018 => { p with chunk := v }
  | 0x020 => { p with lowmark := v }
  | 0x028 => { p with airbase := v }
  | 0x030 => { p with airsize := v }
  | 0x038 => { p with chkbase := v }
  | 0x040 => { p with npm1 := v }
  | 0x048 => { p with drtpfx := v }
  | 0x308 => { p with jbase := v }
  | 0x310 => { p with jlog := v }
  | _ => p

/-- Whether a field may be written now. -/
def pageWritable (s : State) (o : Nat) : Bool :=
  if o = 0x018 ∨ o = 0x020 then true
  else if o = 0x038 then !checkedMapped s
  else if [0x000, 0x008, 0x010, 0x028, 0x030, 0x040, 0x048, 0x308, 0x310].contains o then noContext s
  else false

/-- A host write of 8 bytes at offset o of the page; one made at another time is ignored and counted. -/
def pageWrite (s : State) (o : Nat) (v : Word) : State :=
  if 0x100 ≤ o ∧ o < 0x300 ∧ o % 8 = 0 then ringDoorbell s ((o - 0x100) / 8) (v.toNat % 2 ^ 32)
  else if o = 0x300 then ringManagement s (v.toNat % 2 ^ 32)
  else if bootStage s ≠ 0 && pageWritable s o then { s with page := pageField s.page o v }
  else countErr s 7

/-- HOST_CONTROL_PAGE_WRITE (R393). -/
def execHostControlPageWrite (o : Nat) (v : Word) (s : State) : Host.Outcome State Fault Refusal := .next (pageWrite s o v)

/-- The word at an aligned offset of the page; write-only fields read zero. -/
def pageWord (s : State) (o : Nat) : Word :=
  let p := s.page
  match o with
  | 0x000 => p.qdbase
  | 0x008 => p.mring
  | 0x010 => p.msize
  | 0x018 => p.chunk
  | 0x020 => p.lowmark
  | 0x028 => p.airbase
  | 0x030 => p.airsize
  | 0x038 => p.chkbase
  | 0x040 => p.npm1
  | 0x048 => p.drtpfx
  | 0x308 => p.jbase
  | 0x310 => p.jlog
  | 0x318 => BitVec.ofNat 64 p.jnext
  | 0x440 => p.bootst
  | _ => if 0x400 ≤ o ∧ o < 0x440 then BitVec.ofNat 64 (p.secnt.getD ((o - 0x400) / 8) 0) else 0

/-- A byte of the page. -/
def pageByte (s : State) (o : Nat) : Byte :=
  if 0x800 ≤ o ∧ o < 0x900 then s.shape.catalogue.getD (o - 0x800) 0
  else if 0xC00 ≤ o then Config.certByte (o - 0xC00)
  else BitVec.ofNat 8 ((pageWord s (o / 8 * 8)).toNat / 2 ^ (8 * (o % 8)))

/-- The physical addresses of the page and of the journal mirror (R393, R399). -/
def pageBase : Nat := 0xFF00000000000
def mirrorBase : Nat := 0xFF00000010000

/-- A host read of physical bytes; none where nothing is. -/
def hostRead (s : State) (a n : Nat) : Option (List Byte) :=
  if pageBase ≤ a ∧ a + n ≤ pageBase + 4096 then some ((List.range n).map fun i => pageByte s (a - pageBase + i))
  else if mirrorBase ≤ a ∧ a + n ≤ mirrorBase + 64 * 4096 then
    some ((List.range n).map fun i =>
      let o := a - mirrorBase + i
      BitVec.ofNat 8 ((mget 0 s.cp.mirror (o / 64)).toNat / 2 ^ (8 * (o % 64))))
  else if a + n ≤ hbmBytes s then some (readBytes s.hbm a n)
  else none

/-- Queues whose EN a write turns on. -/
def newlyEnabled (s t : State) : List Nat := (List.range 64).filter fun q => !qdEn s q && qdEn t q

/-- The value a write of bytes at offset o of the page gives the field at f: the bytes outside the write stay. -/
def pageMerge (s : State) (o : Nat) (bs : List Byte) (f : Nat) : Word :=
  BitVec.ofNat 64 (leNat ((List.range 8).map fun j =>
    if o ≤ f + j ∧ f + j < o + bs.length then bs.getD (f + j - o) 0 else pageByte s (f + j)))

/-- The field at f is a doorbell, whose 32-bit value (R395) the write holds in part only. -/
def doorbellCut (o n f : Nat) : Bool := decide (0x100 ≤ f ∧ f ≤ 0x300) && !decide (o ≤ f ∧ f + 4 ≤ o + n)

/-- A host write of bytes at offset o of the page: field by field, from the lowest (R393). -/
def pageStore (s : State) (o : Nat) (bs : List Byte) : State :=
  (List.range ((o % 8 + bs.length + 7) / 8)).foldl (fun s i =>
    let f := o / 8 * 8 + 8 * i
    if doorbellCut o bs.length f then countErr s 7 else pageWrite s f (pageMerge s o bs f)) s

/-- A host write of physical bytes; the mirror and the read-only fields ignore it. -/
def hostWrite (s : State) (a : Nat) (bs : List Byte) : Option State :=
  if pageBase ≤ a ∧ a + bs.length ≤ pageBase + 4096 then some (pageStore s (a - pageBase) bs)
  else if mirrorBase ≤ a ∧ a + bs.length ≤ mirrorBase + 64 * 4096 then some (countErr s 7)
  else if a + bs.length ≤ hbmBytes s then
    let p : Phys := { sp := false, a := a }
    let t := physWrite (notePrior s p bs.length) p bs
    some ((newlyEnabled s t).foldl zeroQueue t)
  else none

/-! ### The shape of the die (R7, R239, R402 to R404) -/

/-- Retired positions of a physical row. -/
def rowRetired (sh : Shape) (y : Nat) : List Nat := (sh.retired.filter fun p => p.2 == y).map Prod.fst

/-- Rebuild the rows from the core map: a row's spare column is its first retired column. When a row loses more than its spare the
manual says only that the shape changes (R7); here the mesh keeps its 16 rows and narrows to the columns that every row still has
(DESIGN CHOICE [37]). -/
def rebuildMesh (sh : Shape) : Shape :=
  let lost := (List.range 16).map fun y => ((rowRetired sh y).dedup).length
  { sh with
    spares := (List.range 16).map fun y => ((rowRetired sh y).head?).getD 16
    meshW := 17 - max 1 (lost.foldl max 0) }

/-- Lanes of a plane in use. -/
def lanesOf (s : State) (pl : Plane) : Nat := 16 - ((s.port.lanesDown.filter fun l => l.1 == pl).length)

/-- DEVSHAPE's lane counts follow the lane map (R16, R309). -/
def recountLanes (s : State) : State :=
  { s with shape := { s.shape with lanesSh := lanesOf s .shelf, lanesCl := lanesOf s .column } }

/-- Set the relabel entry of a rank. -/
def setLabel (s : State) (r : Nat) (p : Option (Nat × Nat)) : State :=
  { s with port := { s.port with relabel := mset s.port.relabel r p } }

/-- Apply one retirement record: 1 core map (column, row), 2 SRAM bank map (column, row, bank), 3 HBM channel, 4 lane map and 5 line
map (plane, index), 6 relabel (rank, present, shelf, port). -/
def applyRecord (s : State) (body : List Nat) : State :=
  let a := body.getD 1 0
  let b := body.getD 2 0
  let pl : Plane := if a = 0 then .shelf else .column
  match body.getD 0 0 with
  | 1 => { s with shape := rebuildMesh { s.shape with retired := s.shape.retired ++ [(a, b)] } }
  | 2 => { s with shape := rebuildMesh { s.shape with retired := s.shape.retired ++ [(a, b)] } }
  | 3 => { s with shape := { s.shape with hbmCh := s.shape.hbmCh - 1 } }
  | 4 => recountLanes { s with port := { s.port with lanesDown := s.port.lanesDown ++ [(pl, b)] } }
  | 5 => { s with port := { s.port with linesDown := s.port.linesDown ++ [(pl, b)] } }
  | 6 => setLabel s a (if b = 1 then some (body.getD 3 0, body.getD 4 0) else none)
  | _ => s

/-- Append a record to the retirement store (R402). Its retirement is in force, so that the record has been applied, but for an HBM
channel's, which waits for the next boot (R403). One that finds the store full is not kept, and is counted. -/
def appendRecord (s : State) (body : List Nat) : State :=
  if s.shape.records.length < Config.storeCapacity then
    let n := s.shape.stored + 1
    { s with shape := { s.shape with records := s.shape.records ++ [(n, body)], stored := n
                                     applied := if body.headD 0 = 3 then s.shape.applied else n } }
  else countErr { s with shape := { s.shape with unkept := s.shape.unkept ++ [body] } } 6

/-- Apply the store's records in sequence order, and whether all held; the first that fails stops it and is counted. -/
def applyStore : List (Nat × List Nat) → State → State × Bool
  | [], s => (s, true)
  | (n, body) :: r, s =>
    if n = s.shape.stored + 1 ∧ Config.recordOk n body then
      applyStore r (applyRecord { s with shape := { s.shape with stored := n, applied := n } } body)
    else (countErr s 6, false)

/-- A catalogue entry for a gating state (R404). -/
def catEntry (s : State) (g rmax : Nat) : List Byte :=
  let s := { s with shape := { s.shape with gate := g } }
  leBytes 1 g ++ leBytes 1 1 ++ leBytes 1 s.shape.meshW ++ leBytes 1 s.shape.meshH ++ leBytes 4 (zBytes s false) ++
    leBytes 2 s.shape.hbmCh ++ leBytes 6 0 ++ leBytes 8 (hbmBytes s) ++ leBytes 1 s.shape.lanesSh ++ leBytes 1 s.shape.lanesCl ++
    leBytes 1 (uOn s).toNat ++ leBytes 1 rmax ++ leBytes 4 0

/-- Ranks whose relabel entry is not the default. -/
def relabelled (s : State) : Nat := (s.port.relabel.filter fun e => e.2 != some (e.1 / 32 % 32, e.1 % 32)).length

/-- RMAX (R404): 2, or 3 with a relabelled rank, and more where the in-plane relays that this die knows of make a route longer (R278). -/
def routeMax (s : State) : Nat := ((List.range 1024).map (hopsTo s)).foldl max (if relabelled s = 0 then 2 else 3)

/-- Write the catalogue (R404). -/
def writeCatalogue (s : State) : State :=
  let c := (List.range 4).flatMap (fun g => catEntry s g (routeMax s)) ++ leBytes 8 (relabelled s) ++ leBytes 120 0
  { s with shape := { s.shape with catalogue := c } }

/-! ### Slot tables at boot (R281) -/

/-- A port of the die's grating that leads to a live peer or to a host bridge. -/
def livePort (s : State) (pl : Plane) (j : Nat) : Bool :=
  match pl with
  | .shelf => j == 33 || (decide (j ≤ 32) && live s (s.port.pos.1, j))
  | .column => decide (j < 32) && live s (j, s.port.pos.2)

/-- Entry n of the default table. -/
def defaultEntry (s : State) (pl : Plane) (n : Nat) : BitVec 128 :=
  BitVec.ofNat 128 ((List.range 16).foldl (fun m l =>
    let h := 1 + 16 * n + l
    let sh := if h ≤ 33 ∧ livePort s pl ((portOn pl s.port.pos + h) % 34) then h else 0x3F
    m + sh * 2 ^ (8 * l)) 0)

/-- The default table of a plane. -/
def defaultTable (s : State) (pl : Plane) : List (BitVec 128) := (List.range 3).map (defaultEntry s pl)

/-! ### Boot (R407) -/

/-- BOOTST of a stage and a failure. -/
def bootWord (stage fail : Nat) : Word := BitVec.ofNat 64 (stage + fail * 256)

/-- The default tables are in force. -/
def defaultTables (s : State) : State := { s with port := { s.port with tables := [defaultTable s .shelf, defaultTable s .column] } }

/-- The CP's start once both images have verified. A record that fails is a failure of the retirement store [9]. -/
def bootCp (s : State) : State :=
  let (s, kept) := applyStore s.shape.records { s with shape := { s.shape with stored := 0, applied := 0 } }
  let s := writeCatalogue (defaultTables s)
  let s := { s with vbus := (List.range 256).map fun p => (p, { due := s.time + p * 125000, ends := none }) }
  let f := if kept then Config.bootFail else 3
  { s with page := { s.page with bootst := if f = 0 then bootWord 3 0 else bootWord 1 f } }

/-- BOOT (R407). With FAIL 1 or 2 the port, which still answers reads of the control page, sends by the default tables [9]. -/
def execBoot (s : State) : Host.Outcome State Fault Refusal :=
  if s.page.bootst ≠ 0 then .next s
  else if !Config.firmwareOk 0 then .next { defaultTables s with page := { s.page with bootst := bootWord 0 1 } }
  else if !Config.firmwareOk 1 then .next { defaultTables s with page := { s.page with bootst := bootWord 0 2 } }
  else .next (bootCp s)

end Sys2Proof.Machine
end

