-- ==== Sys2Proof/Machine/Contexts.lean ====
section
/-! DEFINITION. Contexts (R47 to R49, R233 to R236, R397): the context area, pre-emption, restore, creation.

Pre-emption writes the core records of R235 to the context area and restore reads them back (the running state by
Machine/Image.lean). The task, the operands of queued engine operations and what else the area has no place for stay in the
core's record of this model [11]. -/

namespace Sys2Proof.Machine

/-! ### Moving bytes -/

/-- Move the granule or byte keys of a range: `size` bytes per granule, two keys per granule. -/
def moveKey (p q : Phys) (n size g : Nat) : Option Nat :=
  let a := g / 2 * size
  if g % 2 = p.sp.toNat ∧ p.a ≤ a ∧ a < p.a + n then some (granKey { q with a := a - p.a + q.a } size) else none

/-- Copy n bytes with their capability tags, race tags, poison marks and what fetch sees of them from p to q. -/
def copyPhys (s : State) (p q : Phys) (n : Nat) : State :=
  let src := (store s p.sp).filter fun e => decide (p.a ≤ e.1 ∧ e.1 < p.a + n)
  let m := blit (store s q.sp) q.a n (src.map fun e => (e.1 - p.a + q.a, e.2))
  let tags := (s.capTags.filter fun g => !keyIn q n 16 g) ++ s.capTags.filterMap (moveKey p q n 16)
  let poison := (s.poison.filter fun g => !keyIn q n 1 g) ++ s.poison.filterMap (moveKey p q n 1)
  let prior := (s.prior.filter fun o => !keyIn q n 1 o.2.1) ++
    s.prior.filterMap fun o => (moveKey p q n 1 o.2.1).map fun g => (o.1, g, o.2.2)
  let races := s.rtags.foldl (fun t e => match moveKey p q n 128 e.1 with | some g => mput 0 t g e.2 | none => t)
    (s.rtags.filter fun e => !keyIn q n 128 e.1)
  let s := { s with capTags := tags, poison := poison, prior := prior, rtags := races }
  if q.sp then { s with sram := m } else { s with hbm := m }

/-- The 4 KiB pages of a core's allocated ranges. -/
def allocPages (c : Core) : List Nat := c.alloc.flatMap fun r => (List.range (r.2 / 4096)).map fun i => r.1 + 4096 * i

/-- The core keys of a context that have a record. -/
def ctxCores (s : State) (x : Nat) : List Nat := (s.cores.map Prod.fst).filter fun k => keyCtx k == x

/-- Where a scratchpad page lies in the banks and in the context area. -/
def bankPlace (s : State) (k o : Nat) : Phys := spPhys (setCtx s (keyCtx k) { ctxAt s (keyCtx k) with resident := true }) k o
def areaPlace (s : State) (k o : Nat) : Phys := spPhys (setCtx s (keyCtx k) { ctxAt s (keyCtx k) with resident := false }) k o

/-- Move the scratchpad of a context out to its area, or back. -/
def moveScratch (s : State) (x : Nat) (out : Bool) : State :=
  (ctxCores s x).foldl (fun s k => (allocPages (coreAt s k)).foldl (fun s o =>
    let b := bankPlace s k o
    let a := areaPlace s k o
    if out then copyPhys s b a 4096 else copyPhys s a b 4096) s) s

/-! ### The core record (R235) -/

/-- A tag-table entry as 64 bits: block, basket in 55:48, valid in 63 [11]. -/
def tagWord (t : Option TagEntry) : Nat :=
  match t with
  | some e => e.block % 2 ^ 45 + e.basket % 256 * 2 ^ 48 + 2 ^ 63
  | none => 0

/-- Fields of a table, at a stride. -/
def tableFields (base stride n : Nat) (f : Nat → Nat) (count : Nat) : List (Nat × Nat × Nat) :=
  (List.range count).map fun i => (base + stride * i, n, f i)

/-- Range r of the allocation map. -/
def allocWord (r : Option (Nat × Nat)) : Nat :=
  match r with
  | some (o, n) => 2 ^ 63 + n / 4096 % 1024 * 2 ^ 9 + o / 4096 % 512
  | none => 0

/-- The weight buffer of a record. Where bytes of it are unspecified since a projection (R381), the image holds what they are. -/
def weightFields (c : Core) : List (Nat × Nat × Nat) :=
  match c.wfree with
  | none => c.wbuf.map fun e => (0x30000 + e.1, 1, e.2.toNat)
  | some st => tableFields 0x30000 1 1 (fun i => (mget (Config.freeByte st i) c.wbuf i).toNat) 262144

/-- The fields of a core record: offset, bytes, value. -/
def coreFields (s : State) (k : Nat) : List (Nat × Nat × Nat) :=
  let c := coreAt s k
  runFields c ++ tableFields 128 8 8 (fun i => allocWord c.alloc[i]?) 16 ++
  tableFields 0x100 8 8 (fun i => if i = 0 ∨ 56 ≤ i then 0 else (c.g.getD i 0).toNat) 64 ++
  tableFields 0x300 8 8 (fun i => (c.hbank.getD i 0).toNat) 8 ++
  tableFields 0x340 8 8 (fun i => (c.p.getD i 0).toNat) 8 ++
  tableFields 0x380 8 8 (fun i => (mget 0 c.tl i).toNat) 16 ++
  tableFields 0x400 8 8 (fun i => ((csrRead s k (0x10 + i)).getD 0).toNat) 64 ++
  tableFields 0x600 2 2 (semAt c) 256 ++
  (List.range 16).flatMap (fun i => [(0x800 + 32 * i, 16, (c.k.getD i (0, false)).1.toNat), (0x810 + 32 * i, 1, (c.k.getD i (0, false)).2.toNat)]) ++
  tableFields 0xB00 4 4 (fun i => (fmtEntry c i).toNat) 16 ++
  tableFields 0x1000 8 8 (fun i => (basket c i).toNat) 256 ++
  tableFields 0x1800 8 8 (fun i => tagWord (mget none c.tags i)) 256 ++
  tableFields 0x3000 8 8 (fun i => (mget 0 c.active i).toNat) 256 ++
  tableFields 0x3800 8 8 (fun i => (mget 0 c.shadow i).toNat) 256 ++
  tableFields 0x4000 256 256 (fun i => (c.v.getD i 0).toNat) 32 ++
  tableFields 0x1C000 8 8 (fun i => (ringEntry c i).toNat) 32 ++
  tableFields 0x1C400 16 16 (fun i => (mget 0 c.loopTab i).toNat) 64 ++
  tableFields 0x1C800 16 16 (fun i => (mget 0 c.mxTab i).toNat) 16 ++
  c.tiles.map (fun e => (0x20000 + 4 * e.1, 4, e.2.toNat)) ++
  weightFields c

/-- Write core k's record into its context's area. -/
def saveCore (s : State) (k : Nat) : State :=
  let a := recordAddr (ctxAt s (keyCtx k)) (keyCore k)
  let es := (coreFields s k).flatMap fun f => fieldBytes (a + f.1) f.2.1 f.2.2
  { clearMarks s a 0x70000 with hbm := blit s.hbm a 0x70000 es }

/-- A table read back: the entries that differ from the default. -/
def tableRead {α : Type} [DecidableEq α] (d : α) (count : Nat) (f : Nat → α) : SMap α :=
  (List.range count).filterMap fun i => if f i = d then none else some (i, f i)

/-- Nonzero 32-bit words of a range, by word index. -/
def wordsIn (m : Memory) (a n : Nat) : SMap (BitVec 32) :=
  ((m.filter fun e => decide (a ≤ e.1 ∧ e.1 < a + n)).map fun e => (e.1 - a) / 4).dedup.map fun i =>
    (i, BitVec.ofNat 32 (readNat m (a + 4 * i) 4))

/-- The control registers of a record: a reserved field of an image reads as zero, whatever the host has put there (R3). -/
def csrsFrom (w : Nat → Word) : Csrs where
  wdog := wdogValue (w 0x011)
  fpcsr := fpcsrValue (w 0x012)
  mxst := w 0x013 &&& 0x1FFFFFFFF
  parkcfg := parkcfgValue (w 0x014)
  syncst := w 0x018 &&& 0x7FFFE03
  gxcfg := w 0x019
  gxoob := w 0x01A &&& 0xFFFFFFFF
  tcause := w 0x020 &&& 0xFFFF00FFF8FF00FF
  epc := w 0x021 &&& ~~~(0x1F : Word)
  tval := w 0x022
  tinfo := w 0x023 &&& 0x3FFFFFFFFFFFFFFF
  tvec := w 0x024 &&& 0x1FFFFFFFFFFFFC1
  tdeleg := w 0x025 &&& 0x1ACE6
  cpoob := [w 0x030 &&& 0xFFFFFFFF, w 0x031 &&& 0xFFFFFFFF, w 0x032 &&& 0xFFFFFFFF, w 0x033 &&& 0xFFFFFFFF]
  resvcfg := resvcfgValue (w 0x041)
  drtcfg := w 0x042 &&& 1
  drtst := w 0x043 &&& 0xFFFFFFFF00FFFFFF
  fqst := w 0x044 &&& 0xFFFFFFFF
  eqst := w 0x048 &&& 0xFFFFFFFF00FF0000

/-- The bits of a copy loop-table entry and of a matrix loop-table entry that are no reserved field (R3, R253, R261). -/
def loopMask : BitVec 128 := BitVec.ofNat 128 (2 ^ 112 - 2 ^ 32)
def mxLoopMask : BitVec 128 := BitVec.ofNat 128 (2 ^ 112 - 2 ^ 36 + 2 ^ 33 + (2 ^ 32 - 1))

/-- Read core k's record back from its context's area (R236). A reserved field reads as zero (R3). -/
def loadCore (s : State) (k : Nat) : State :=
  let a := recordAddr (ctxAt s (keyCtx k)) (keyCore k)
  let m := s.hbm
  let rd (o n : Nat) : Nat := readNat m (a + o) n
  let w (o : Nat) : Word := BitVec.ofNat 64 (rd o 8)
  let bs := ((m.filter fun e => decide (a + 0x14000 ≤ e.1 ∧ e.1 < a + 0x1C000)).map fun e => (e.1 - (a + 0x14000)) / 32).dedup
  onCore s k fun c =>
    { runBack rd bs c with
      alloc := (List.range 16).filterMap fun i =>
        let x := w (128 + 8 * i)
        if bits x 63 1 = 1 then some (bits x 0 9 * 4096, bits x 9 10 * 4096) else none
      g := (List.range 64).map fun i => if i = 0 ∨ 56 ≤ i then c.g.getD i 0 else w (0x100 + 8 * i)
      hbank := (List.range 8).map fun i => w (0x300 + 8 * i)
      p := (List.range 8).map fun i => w (0x340 + 8 * i)
      tl := tableRead 0 16 fun i => w (0x380 + 8 * i)
      csr := csrsFrom fun i => w (0x400 + 8 * (i - 0x10))
      sems := tableRead 0 256 fun i => rd (0x600 + 2 * i) 2
      k := (List.range 16).map fun i => (BitVec.ofNat 128 (rd (0x800 + 32 * i) 16), rd (0x810 + 32 * i) 1 % 2 == 1)
      fmtTab := tableRead 0x00404000 16 fun i => BitVec.ofNat 32 (rd (0xB00 + 4 * i) 4)
      baskets := tableRead basketInit 256 fun i => setBits (w (0x1000 + 8 * i)) 62 2 0
      tags := tableRead none 256 fun i =>
        let x := w (0x1800 + 8 * i)
        if bits x 63 1 = 1 then some { block := bits x 0 45, basket := bits x 48 8 } else none
      active := tableRead 0 256 fun i => w (0x3000 + 8 * i)
      shadow := tableRead 0 256 fun i => w (0x3800 + 8 * i)
      v := (List.range 32).map fun i => BitVec.ofNat 2048 (rd (0x4000 + 256 * i) 256)
      ringTab := tableRead 0 32 fun i => setBits (w (0x1C000 + 8 * i)) 1 15 0
      loopTab := tableRead 0 64 fun i => BitVec.ofNat 128 (rd (0x1C400 + 16 * i) 16) &&& loopMask
      mxTab := tableRead 0 16 fun i => BitVec.ofNat 128 (rd (0x1C800 + 16 * i) 16) &&& mxLoopMask
      tiles := wordsIn m (a + 0x20000) 65536
      wbuf := (m.filter fun e => decide (a + 0x30000 ≤ e.1 ∧ e.1 < a + 0x70000)).map fun e => (e.1 - (a + 0x30000), e.2)
      wfree := none }

/-! ### The FIFO image (R318) -/

/-- The binding word of a pair (R316). -/
def bindWord (f : Fifo) : Nat :=
  match f.peer with
  | some (r, c, j) => 2 ^ 63 + r % 1024 * 2 ^ 20 + c % 512 * 2 ^ 11 + j % 8
  | none => 0

/-- Write pair i of core k into the FIFO image. -/
def saveFifo (s : State) (k i : Nat) : State :=
  let f := fifoAt (coreAt s k) i
  let a := (ctxAt s (keyCtx k)).fifoimg + keyCore k * 0x1800 + i * 0x300
  let es := fieldBytes a 8 (bindWord f) ++ fieldBytes (a + 8) 8 f.fi.length ++ fieldBytes (a + 0x10) 8 f.fo.length ++
    fieldBytes (a + 0x18) 8 (f.cred + f.owed * 2 ^ 32) ++
    (List.range 64).flatMap (fun j => fieldBytes (a + 0x20 + 8 * j) 8 (f.fi.getD j 0).toNat) ++
    (List.range 16).flatMap (fun j => fieldBytes (a + 0x220 + 8 * j) 8 (f.fo.getD j 0).toNat)
  { clearMarks s a 0x300 with hbm := blit s.hbm a 0x300 es }

/-- Read pair i of core k back. -/
def loadFifo (s : State) (k i : Nat) : State :=
  let a := (ctxAt s (keyCtx k)).fifoimg + keyCore k * 0x1800 + i * 0x300
  let w (o : Nat) : Word := BitVec.ofNat 64 (readNat s.hbm (a + o) 8)
  onCore s k fun c =>
    let f := fifoAt c i
    setFifo c i { f with
      peer := if bits (w 0) 63 1 = 1 then some (bits (w 0) 20 10, bits (w 0) 11 9, bits (w 0) 0 3) else none
      fi := (List.range (min 64 (w 8).toNat)).map fun j => w (0x20 + 8 * j)
      fo := (List.range (min 16 (w 0x10).toNat)).map fun j => w (0x220 + 8 * j)
      cred := bits (w 0x18) 0 32
      owed := bits (w 0x18) 32 32 }

/-- Pairs of a core that its record lists. -/
def listedPairs (s : State) (k : Nat) : List Nat := (coreAt s k).fifos.map Prod.fst

/-- Words or credits for a context that is not resident go into its image too (R49, R318). -/
def keepImage (s : State) (k i : Nat) : State := if (ctxAt s (keyCtx k)).resident then s else saveFifo s k i

/-- Where semaphore i of core k lies in its context's image. -/
def semImage (s : State) (k i : Nat) : Nat := recordAddr (ctxAt s (keyCtx k)) (keyCore k) + 0x600 + 2 * i

/-- The semaphore changes of a cycle for a core whose context is not resident: they apply to the image (R49, R210). -/
def absentSems (s : State) (k : Nat) : State :=
  let is := ((coreAt s k).semOps.map SemOp.index).dedup
  let s := onCore s k fun c => { c with sems := is.foldl (fun m i => mput 0 m i (readNat s.hbm (semImage s k i) 2)) c.sems }
  let t := onCore s k combineSems
  keepCsr s (is.foldl (fun u i => physWrite u { sp := false, a := semImage s k i } (leBytes 2 (semAt (coreAt t k) i))) t) k 0x018

/-- The cores of non-resident contexts at the end of a cycle. -/
def keepAbsent (s : State) : State :=
  (s.cores.filter fun e => !(ctxAt s (keyCtx e.1)).resident && !e.2.semOps.isEmpty).foldl (fun s e => absentSems s e.1) s

/-! ### Pre-emption (R48, R233) -/

/-- An entry at the head of its level: before the first of that level, or where its enqueue time places it (R39, R48). -/
def atHead (s : State) (e : Ready) (l : List Ready) : List Ready :=
  let n := (l.findIdx? fun x => effPrio s x == effPrio s e).getD ((l.findIdx? fun x => decide (e.at_ < x.at_)).getD l.length)
  l.take n ++ e :: l.drop n

/-- A staged task goes back: an iteration to its launch, a record's entry, as it was, to the head of its level (R48). -/
def returnStaged (s : State) (k : Nat) : State :=
  match (coreAt s k).staged with
  | none => s
  | some t =>
    let s := onCore s k fun c => { c with staged := none }
    match t.launch, t.record with
    | some (n, o), _ =>
      (match launchOf s n with
       | some l => setLaunch s { l with given := o :: l.given, running := l.running - 1 }
       | none => s)
    | none, some e => markRecord { s with fcp := { s.fcp with ready := atHead s e s.fcp.ready } } e.ctx e.addr 1
    | none, none => s

/-- When a staged task was handed out: an iteration's ordinal, an entry's enqueue time. -/
def stagedOrder (c : Core) : Nat :=
  match c.staged with
  | some t => (match t.launch, t.record with | some (_, o), _ => o | none, some e => e.at_ | none, none => 0)
  | none => 0

/-- Insert a core by falling order of its staged task. -/
def insertStaged (s : State) (k : Nat) : List Nat → List Nat
  | [] => [k]
  | j :: r => if stagedOrder (coreAt s j) ≤ stagedOrder (coreAt s k) then k :: j :: r else j :: insertStaged s k r

/-- The staged tasks of cores go back, the last handed out first, so that the first heads its level or its launch again. -/
def returnAll (s : State) (ks : List Nat) : State := (ks.foldl (fun l k => insertStaged s k l) []).foldl returnStaged s

/-- The gang of a launch has been released at its completion (R41). -/
def isFinishing (l : Launch) : Bool := match l.phase with | .finishing _ => true | _ => false

/-- The launches of a context give up their gangs and reservations; those that had a gang take it again after a restore (R48, R49). -/
def releaseGangs (s : State) (x : Nat) : State :=
  { s with fcp := { s.fcp with launches := s.fcp.launches.map fun l =>
      if l.ctx = x ∧ isFinishing l = false then { l with held := [], phase := .reserving, had := l.had || l.phase == .committed } else l } }

/-- The launch list (R234): record address, sequence number, superstep, next ordinal, rectangle; not kept while LAUNCH is 0. -/
def saveLaunches (s : State) (x : Nat) : State :=
  let a := (ctxAt s x).launch
  if a = 0 then s
  else
    let ls := s.fcp.launches.filter fun l => l.ctx == x
    (ls.zip (List.range ls.length)).foldl (fun s e =>
      hbmWrite s (a + 64 * e.2) (leBytes 8 e.1.recAddr.toNat ++ leBytes 8 e.1.seq ++ leBytes 8 e.1.step ++ leBytes 8 e.1.ord ++
        leBytes 8 (rbits e.1.record 159 14) ++ leBytes 24 0)) s

/-- Write a header field (R234). -/
def putHeader (s : State) (x o v : Nat) : State := hbmWrite s ((ctxAt s x).area + o) (leBytes 8 v)

/-- The results that have come back to a core are written before it is saved. Those that belong to the snapshot under a handler, whose
registers are as they stood at the boundary, are entries of it with no cycle left (R228, R232). -/
def landReturns (c : Core) : Core :=
  let c := c.rets.foldl landReturn { c with rets := [] }
  match c.snap with
  | some n => if c.inH then c else n.rets.foldl landReturn { c with snap := some { n with rets := [] } }
  | none => c

/-- Pre-empt a resident context with a status (R233). -/
def preemptCtx (s : State) (x status : Nat) : State :=
  let ks := ctxCores s x
  let s := ks.foldl (fun s k => onCore (flushCsrs s k) k fun c => landReturns (combineSems c)) s
  let s := moveScratch s x true
  let s := ks.foldl saveCore s
  let s := ks.foldl (fun s k => (listedPairs s k).foldl (fun s i => saveFifo s k i) s) s
  let s := returnAll s ks
  let s := releaseGangs (saveLaunches s x) x
  let s := putHeader (putHeader (putHeader s x 0x08 status) x 0x10 (ctxAt s x).zsize) x 0x18 (ctxAt s x).ncore
  setCtx s x { ctxAt s x with resident := false, status := status }

/-! ### Restore (R236, R397) -/

/-- Members of a layout bitmap. -/
def layoutMembers (s : State) (a : Nat) : List Nat :=
  let m := readNat s.hbm a 128
  (List.range 1024).filter fun r => m / 2 ^ r % 2 == 1

/-- The header fields the host sets, read from an area. -/
def readHeader (s : State) (x : Ctx) (a : Nat) : Ctx :=
  let w (o : Nat) : Nat := readNat s.hbm (a + o) 8
  { x with area := a, layout := w 0x20, launch := w 0x28, fifoimg := w 0x30, tring := w 0x38, thead := w 0x40, ptroot := w 0x48,
           wintab := w 0x50, grptab := w 0x58, members := layoutMembers s (w 0x20) }

/-- Resident contexts. -/
def residents (s : State) : List Nat :=
  s.ctxs.filterMap fun e => match e.2 with | some x => if x.resident then some e.1 else none | none => none

/-- The physical 4 KiB bank pages a context's ranges occupy. -/
def bankPages (s : State) (x : Nat) : List Nat :=
  (ctxCores s x).flatMap fun k => (allocPages (coreAt s k)).map fun o => (bankPlace s k o).a / 4096

/-- An allocated range of the context overlaps one of a resident context (R397). -/
def overlapsResident (s : State) (x : Nat) : Bool :=
  let mine := bankPages s x
  (residents s).any fun y => (bankPages s y).any fun p => mine.contains p

/-- The rectangles of a context's launches fit the mesh (R239). -/
def launchesFit (s : State) (x : Nat) : Bool :=
  s.fcp.launches.all fun l =>
    l.ctx != x || rectOk s (rbits l.record 170 3) (rbits l.record 167 3) (rbits l.record 163 4) (rbits l.record 159 4)

/-- Read a context's records back: all that the context has, NCORE of them. The manual tests ZSIZE alone, so a record above the present
gating's cores of the same size is read back too, and its core does not run (R9, R236; DESIGN CHOICE [33]). -/
def loadImage (s : State) (x a : Nat) : State :=
  let s := setCtx s x (readHeader s (ctxAt s x) a)
  let ks := (List.range (ctxAt s x).ncore).map (coreKey x)
  let s := ks.foldl (fun s k => if readNat s.hbm (recordAddr (ctxAt s x) (keyCore k)) 1 % 2 = 1 then loadCore s k else s) s
  (ctxCores s x).foldl (fun s k => (listedPairs s k).foldl (fun s i => loadFifo s k i) s) s

/-- Make a loaded context resident: its scratchpad returns and its cores wait until its gangs are taken again (R49, R236). Its tasks
see the code that stands in memory now: the manual gives the host no other way to have its stores to code seen, so that a restore acts
as the tfence of R163 (DESIGN CHOICE [5]). -/
def makeResident (s : State) (x : Nat) : State :=
  let s := moveScratch s x false
  let s := setCtx s x { ctxAt s x with resident := true, status := 0 }
  let s := (ctxCores s x).foldl (fun s k => onCore s k fun c => { c with waits := c.task.isSome }) s
  nextEpoch (putHeader s x 0x08 0)

/-- RESTORE: the status of R396, and the state after it. -/
def restoreCtx (s : State) (x a : Nat) : State × Nat :=
  match ctxAt? s x with
  | none => (s, 3)
  | some c =>
    if c.resident then (s, 1)
    else if a % 4096 ≠ 0 ∨ hbmBytes s < a + 4096 ∨ readNat s.hbm a 2 ≠ x then (s, 3)
    else if readNat s.hbm (a + 0x10) 8 ≠ zBytes s c.checked then (s, 4)
    else if !launchesFit s x then (s, 5)
    else if 16 ≤ (residents s).length then (s, 7)
    else
      let t := loadImage s x a
      if overlapsResident t x then (s, 8) else (makeResident t x, 0)

/-! ### Creation and removal (R397) -/

/-- The fields of a fresh header the host leaves zero: STATUS, ZSIZE, NCORE, LAUNCH, THEAD and the reserved bytes. -/
def headerZero (s : State) (a : Nat) : Bool :=
  readNat s.hbm a 8 / 2 ^ 18 == 0 && readNat s.hbm (a + 8) 24 == 0 && readNat s.hbm (a + 0x28) 8 == 0 &&
    readNat s.hbm (a + 0x40) 8 == 0 && s.hbm.all fun e => !decide (a + 0x60 ≤ e.1 ∧ e.1 < a + 0x1000)

/-- The header's addresses are aligned and on the die. -/
def headerAddrs (s : State) (a ncore z : Nat) : Bool :=
  let w (o : Nat) : Nat := readNat s.hbm (a + o) 8
  a % 4096 == 0 && w 0x38 % 4096 == 0 && w 0x48 % 4096 == 0 &&
    decide (a + 0x1000 + ncore * (0x70000 + z) ≤ hbmBytes s ∧ w 0x20 + 128 ≤ hbmBytes s ∧ w 0x30 + ncore * 0x1800 ≤ hbmBytes s ∧
      w 0x38 + 262144 ≤ hbmBytes s ∧ w 0x48 + 4096 ≤ hbmBytes s ∧ w 0x50 + 65536 ≤ hbmBytes s ∧ w 0x58 + 65536 ≤ hbmBytes s)

/-- CREATE: the status of R396, and the state after it. -/
def createCtx (s : State) (a : Nat) : State × Nat :=
  let ident := readNat s.hbm a 8
  let x := ident % 65536
  let checked := ident / 65536 % 2 == 1
  let n := coreCount s checked
  let z := zBytes s checked
  if bootStage s ≠ 3 then (s, 1)
  else if x = 0xFFFF ∨ (ctxAt? s x).isSome ∨ headerAddrs s a n z = false ∨ headerZero s a = false then (s, 3)
  else if checked ∧ uOn s = false then (s, 2)
  else
    let c := readHeader s { Ctx.absent with checked := checked, service := ident / 131072 % 2 == 1, status := 2, zsize := z, ncore := n } a
    let s := setCtx { s with cores := s.cores.filter fun e => keyCtx e.1 != x } x c
    let s := putHeader (putHeader (putHeader s x 0x10 z) x 0x18 n) x 0x08 2
    let s := ((List.range n).map (coreKey x)).foldl saveCore s
    (((List.range n).map (coreKey x)).foldl (fun s k => (List.range 8).foldl (fun s i => saveFifo s k i) s) s, 0)

/-- An accepted command of the context has not completed. -/
def ctxQueued (s : State) (x : Nat) : Bool := s.fcp.cmds.any fun q => q.2.any fun c => rbits c.words 144 16 == x

/-- End a window of a context that is removed as rwin.abort does (R331): it is no window of that name any more, and its slot is free once
its seams have answered. One whose registration has not ended is released. -/
def endWindow (s : State) (i : Nat) : State :=
  match windowAt s i with
  | none => s
  | some w =>
    let s := if !w.active then releaseWindow s i 1024 else if w.status = 3 then s else abortWindow s i (0, 0)
    let s := { s with port := { s.port with ended := mput none s.port.ended i none } }
    match windowAt s i with
    | some w => keepOver s i { w with active := false, aborter := none }
    | none => s

/-- DESTROY: the status of R396, and the state after it. What die units still had to do for the context goes with it. -/
def destroyCtx (s : State) (x : Nat) : State × Nat :=
  match ctxAt? s x with
  | none => (s, 3)
  | some c =>
    if c.resident ∨ ctxQueued s x then (s, 1)
    else
      let s := { s with forests := s.forests.filter fun e => match e.2 with | some f => f.owner != x | none => false }
      let s := { s with drt := { s.drt with regs := s.drt.regs.map fun (e : Nat × Option Registration) =>
          (e.1, e.2.map fun (r : Registration) => if r.ctx = x then { r with closing := true, waiter := none } else r) } }
      let s := { s with regions := s.regions.filter fun r => r.ctx != x }
      let s := (s.port.windows.filterMap fun (e : Nat × Option Window) => e.2.bind fun (w : Window) => if w.ctx = x then some e.1 else none).foldl endWindow s
      let s := invalidateTlb s x
      let s := { s with fcp := { s.fcp with launches := s.fcp.launches.filter fun l => l.ctx != x
                                            ready := s.fcp.ready.filter fun r => r.ctx != x
                                            overflow := s.fcp.overflow.filter fun r => r.ctx != x
                                            pendDec := s.fcp.pendDec.filter fun p => p.1 != x
                                            pendMark := s.fcp.pendMark.filter fun p => p.1 != x } }
      let s := { s with cp := { s.cp with jobs := s.cp.jobs.filter fun j => j.ctx != x }
                        drt := { s.drt with msgs := s.drt.msgs.filter fun m => keyCtx m.core != x } }
      ({ s with ctxs := s.ctxs.filter (fun e => e.1 != x), cores := s.cores.filter fun e => keyCtx e.1 != x }, 0)

end Sys2Proof.Machine
end

