-- ==== Sys2Proof/Machine/Scalar.lean ====
section
/-! DEFINITION. The scalar instructions (R113 to R121) and shw (R246). Each puts its result in flight with the latency
of R92. -/

namespace Sys2Proof.Machine

/-- sext_32 (R113). -/
def sext32 (x : Word) : Word := (x.truncate 32).signExtend 64

/-- The .w forms write the sign-extended 32-bit result (R114). -/
def narrow (w : Bool) (x : Word) : Word := if w then sext32 x else x

/-- Left shift (R117). -/
def shlVal (w : Bool) (a : Word) (c : Nat) : Word :=
  if w then (if 32 ≤ c then 0 else sext32 (a <<< c)) else if 64 ≤ c then 0 else a <<< c

/-- Logical right shift (R117). -/
def shrVal (w : Bool) (a : Word) (c : Nat) : Word :=
  if w then (if 32 ≤ c then 0 else sext32 (((a.truncate 32).zeroExtend 64 : Word) >>> c))
  else if 64 ≤ c then 0 else a >>> c

/-- Arithmetic right shift (R117). -/
def sraVal (w : Bool) (a : Word) (c : Nat) : Word :=
  if w then (sext32 a).sshiftRight (min c 32) else a.sshiftRight (min c 64)

/-- Signed division (R116). -/
def divVal (a b : Word) : Word := if b = 0 then BitVec.allOnes 64 else wordOfInt (Int.tdiv a.toInt b.toInt)

/-- Unsigned division (R116). -/
def divuVal (a b : Word) : Word := if b = 0 then BitVec.allOnes 64 else BitVec.ofNat 64 (a.toNat / b.toNat)

/-- Signed remainder (R116). -/
def remVal (a b : Word) : Word := if b = 0 then a else wordOfInt (Int.tmod a.toInt b.toInt)

/-- Unsigned remainder (R116). -/
def remuVal (a b : Word) : Word := if b = 0 then a else BitVec.ofNat 64 (a.toNat % b.toNat)

/-- A condition on two words (R118). -/
def condWord (c : Cond) (a b : Word) : Bool :=
  match c with
  | .eq => a == b
  | .ne => a != b
  | .lt => decide (a.toInt < b.toInt)
  | .ge => decide (b.toInt ≤ a.toInt)
  | .ltu => decide (a.toNat < b.toNat)
  | .geu => decide (b.toNat ≤ a.toNat)

/-- The number of leading zero bits (R115). -/
def clzVal (a : Word) : Word := if a = 0 then 64 else BitVec.ofNat 64 (63 - Nat.log2 a.toNat)

/-- The number of one bits (R115). -/
def popcVal (a : Word) : Word := BitVec.ofNat 64 (((List.range 64).filter fun i => a.getLsbD i).length)

/-- Field extraction (R119). -/
def bfxVal (sg : Bool) (a : Word) (pos width : Nat) : Word :=
  if sg then wordOfInt (sextNat width (bits a pos width)) else BitVec.ofNat 64 (bits a pos width)

/-- addr (R115): A + (B << sh), or with .loc only its low 47 bits under A's high ones. -/
def addrVal (loc : Bool) (a b : Word) (sh : Nat) : Word :=
  if loc then setBits a 0 47 (a + (b <<< sh)).toNat else a + (b <<< sh)

/-- add (R115). -/
def execAdd (d a b : Fin 64) (w : Bool) (s : State) : Host.Outcome State Fault Refusal :=
  scalarOp s slotX0 (.add d a b w) d 1 fun c => narrow w (readG c a + readG c b)

/-- sub (R115). -/
def execSub (d a b : Fin 64) (w : Bool) (s : State) : Host.Outcome State Fault Refusal :=
  scalarOp s slotX0 (.sub d a b w) d 1 fun c => narrow w (readG c a - readG c b)

/-- addi (R115). -/
def execAddi (d a : Fin 64) (i : BitVec 13) (s : State) : Host.Outcome State Fault Refusal :=
  scalarOp s slotX0 (.addi d a i) d 1 fun c => readG c a + i.signExtend 64

/-- mul (R115). -/
def execMul (d a b : Fin 64) (w : Bool) (s : State) : Host.Outcome State Fault Refusal :=
  scalarOp s slotX0 (.mul d a b w) d 3 fun c => narrow w (readG c a * readG c b)

/-- mulh (R115). -/
def execMulh (d a b : Fin 64) (s : State) : Host.Outcome State Fault Refusal :=
  scalarOp s slotX0 (.mulh d a b) d 3 fun c => wordOfInt ((readG c a).toInt * (readG c b).toInt / 2 ^ 64)

/-- mulhu (R115). -/
def execMulhu (d a b : Fin 64) (s : State) : Host.Outcome State Fault Refusal :=
  scalarOp s slotX0 (.mulhu d a b) d 3 fun c => BitVec.ofNat 64 ((readG c a).toNat * (readG c b).toNat / 2 ^ 64)

/-- mad (R115, R120): gd is source and destination. -/
def execMad (d a b : Fin 64) (s : State) : Host.Outcome State Fault Refusal :=
  scalarOp s slotX0 (.mad d a b) d 3 fun c => readG c d + readG c a * readG c b

/-- div (R116). -/
def execDiv (d a b : Fin 64) (s : State) : Host.Outcome State Fault Refusal :=
  scalarOp s slotX0 (.div d a b) d 24 fun c => divVal (readG c a) (readG c b)

/-- divu (R116). -/
def execDivu (d a b : Fin 64) (s : State) : Host.Outcome State Fault Refusal :=
  scalarOp s slotX0 (.divu d a b) d 24 fun c => divuVal (readG c a) (readG c b)

/-- rem (R116). -/
def execRem (d a b : Fin 64) (s : State) : Host.Outcome State Fault Refusal :=
  scalarOp s slotX0 (.rem d a b) d 24 fun c => remVal (readG c a) (readG c b)

/-- remu (R116). -/
def execRemu (d a b : Fin 64) (s : State) : Host.Outcome State Fault Refusal :=
  scalarOp s slotX0 (.remu d a b) d 24 fun c => remuVal (readG c a) (readG c b)

/-- and (R115). -/
def execAnd (d a b : Fin 64) (s : State) : Host.Outcome State Fault Refusal :=
  scalarOp s slotX0 (.and d a b) d 1 fun c => readG c a &&& readG c b

/-- or (R115). -/
def execOr (d a b : Fin 64) (s : State) : Host.Outcome State Fault Refusal :=
  scalarOp s slotX0 (.or d a b) d 1 fun c => readG c a ||| readG c b

/-- xor (R115). -/
def execXor (d a b : Fin 64) (s : State) : Host.Outcome State Fault Refusal :=
  scalarOp s slotX0 (.xor d a b) d 1 fun c => readG c a ^^^ readG c b

/-- andn (R115). -/
def execAndn (d a b : Fin 64) (s : State) : Host.Outcome State Fault Refusal :=
  scalarOp s slotX0 (.andn d a b) d 1 fun c => readG c a &&& ~~~(readG c b)

/-- shl (R117). -/
def execShl (d a b : Fin 64) (w : Bool) (s : State) : Host.Outcome State Fault Refusal :=
  scalarOp s slotX0 (.shl d a b w) d 1 fun c => shlVal w (readG c a) (readG c b).toNat

/-- shr (R117). -/
def execShr (d a b : Fin 64) (w : Bool) (s : State) : Host.Outcome State Fault Refusal :=
  scalarOp s slotX0 (.shr d a b w) d 1 fun c => shrVal w (readG c a) (readG c b).toNat

/-- sra (R117). -/
def execSra (d a b : Fin 64) (w : Bool) (s : State) : Host.Outcome State Fault Refusal :=
  scalarOp s slotX0 (.sra d a b w) d 1 fun c => sraVal w (readG c a) (readG c b).toNat

/-- shli (R117). -/
def execShli (d a : Fin 64) (n : Fin 64) (s : State) : Host.Outcome State Fault Refusal :=
  scalarOp s slotX0 (.shli d a n) d 1 fun c => shlVal false (readG c a) n

/-- shri (R117). -/
def execShri (d a : Fin 64) (n : Fin 64) (s : State) : Host.Outcome State Fault Refusal :=
  scalarOp s slotX0 (.shri d a n) d 1 fun c => shrVal false (readG c a) n

/-- srai (R117). -/
def execSrai (d a : Fin 64) (n : Fin 64) (s : State) : Host.Outcome State Fault Refusal :=
  scalarOp s slotX0 (.srai d a n) d 1 fun c => sraVal false (readG c a) n

/-- min (R115). -/
def execMin (d a b : Fin 64) (s : State) : Host.Outcome State Fault Refusal :=
  scalarOp s slotX0 (.min d a b) d 1 fun c =>
    if condWord .lt (readG c b) (readG c a) then readG c b else readG c a

/-- max (R115). -/
def execMax (d a b : Fin 64) (s : State) : Host.Outcome State Fault Refusal :=
  scalarOp s slotX0 (.max d a b) d 1 fun c =>
    if condWord .lt (readG c a) (readG c b) then readG c b else readG c a

/-- minu (R115). -/
def execMinu (d a b : Fin 64) (s : State) : Host.Outcome State Fault Refusal :=
  scalarOp s slotX0 (.minu d a b) d 1 fun c =>
    if condWord .ltu (readG c b) (readG c a) then readG c b else readG c a

/-- maxu (R115). -/
def execMaxu (d a b : Fin 64) (s : State) : Host.Outcome State Fault Refusal :=
  scalarOp s slotX0 (.maxu d a b) d 1 fun c =>
    if condWord .ltu (readG c a) (readG c b) then readG c b else readG c a

/-- cmp (R118). -/
def execCmp (k : Cond) (p : Fin 8) (a b : Fin 64) (s : State) : Host.Outcome State Fault Refusal :=
  predOp s (.cmp k p a b) p fun c => predOf (condWord k (readG c a) (readG c b))

/-- cmpi (R118). -/
def execCmpi (k : Cond) (p : Fin 8) (a : Fin 64) (i : BitVec 13) (s : State) : Host.Outcome State Fault Refusal :=
  predOp s (.cmpi k p a i) p fun c => predOf (condWord k (readG c a) (i.signExtend 64))

/-- sel (R115). -/
def execSel (d : Fin 64) (n : Fin 8) (a b : Fin 64) (s : State) : Host.Outcome State Fault Refusal :=
  scalarOp s slotX0 (.sel d n a b) d 1 fun c => if (readP c n).getLsbD 0 then readG c a else readG c b

/-- movi (R115). -/
def execMovi (d : Fin 64) (i : BitVec 19) (s : State) : Host.Outcome State Fault Refusal :=
  scalarOp s slotX0 (.movi d i) d 1 fun _ => i.signExtend 64

/-- movhi (R115, R120). -/
def execMovhi (d : Fin 64) (q : Fin 4) (h : BitVec 16) (s : State) : Host.Outcome State Fault Refusal :=
  scalarOp s slotX0 (.movhi d q h) d 1 fun c => setBits (readG c d) (16 * q) 16 h.toNat

/-- clz (R115). -/
def execClz (d a : Fin 64) (s : State) : Host.Outcome State Fault Refusal :=
  scalarOp s slotX0 (.clz d a) d 1 fun c => clzVal (readG c a)

/-- popc (R115). -/
def execPopc (d a : Fin 64) (s : State) : Host.Outcome State Fault Refusal :=
  scalarOp s slotX0 (.popc d a) d 1 fun c => popcVal (readG c a)

/-- bfx (R119): w is the width less one. -/
def execBfx (d a : Fin 64) (sg : Bool) (w p : Fin 64) (s : State) : Host.Outcome State Fault Refusal :=
  scalarOp s slotX0 (.bfx d a sg w p) d 1 fun c => bfxVal sg (readG c a) p (w + 1)

/-- bfi (R119, R120). -/
def execBfi (d a : Fin 64) (w p : Fin 64) (s : State) : Host.Outcome State Fault Refusal :=
  scalarOp s slotX0 (.bfi d a w p) d 1 fun c => setBits (readG c d) p (w + 1) (readG c a).toNat

/-- addr (R115). -/
def execAddr (d a b : Fin 64) (l : Bool) (sh : Fin 8) (s : State) : Host.Outcome State Fault Refusal :=
  scalarOp s slotX0 (.addr d a b l sh) d 1 fun c => addrVal l (readG c a) (readG c b) sh

/-- pand (R121). -/
def execPand (d a b : Fin 8) (s : State) : Host.Outcome State Fault Refusal :=
  predOp s (.pand d a b) d fun c => readP c a &&& readP c b

/-- por (R121). -/
def execPor (d a b : Fin 8) (s : State) : Host.Outcome State Fault Refusal :=
  predOp s (.por d a b) d fun c => readP c a ||| readP c b

/-- pxor (R121). -/
def execPxor (d a b : Fin 8) (s : State) : Host.Outcome State Fault Refusal :=
  predOp s (.pxor d a b) d fun c => readP c a ^^^ readP c b

/-- pandn (R121). -/
def execPandn (d a b : Fin 8) (s : State) : Host.Outcome State Fault Refusal :=
  predOp s (.pandn d a b) d fun c => readP c a &&& ~~~(readP c b)

/-- pnot (R121). -/
def execPnot (d a : Fin 8) (s : State) : Host.Outcome State Fault Refusal :=
  predOp s (.pnot d a) d fun c => ~~~(readP c a)

/-- shw (R246): field n of the shadow copy of shape register h, at the end of the issue cycle. -/
def execShw (h n : Fin 16) (a : Fin 64) (s : State) : Host.Outcome State Fault Refusal :=
  issue s slotX0 (.shw h n a) noTests fun s =>
    popsOf (onCur s fun c => pushResult c (.shape h n) (.s (readG c a)) 1 0) (.shw h n a)

/-- nop (R84): no effect. -/
def execNop (s : State) : Host.Outcome State Fault Refusal := .next s

end Sys2Proof.Machine
end

