-- ==== Sys2Proof/Machine/Vector.lean ====
section
/-! DEFINITION. The vector instructions (R138 to R150) over the element operations of Machine/Flags.lean. Each writes
its destination whole; elements that its predicate switches off keep what vd held at issue. -/

namespace Sys2Proof.Machine

/-- An exact integer as an element, wrapped or saturated (R138). -/
def intRes (t : ElTy) (sat : Bool) (x : Int) : FRes := (if sat then satT t x else wrapT t x, 0)

/-- An input element of a floating-point type under FTZ (R54). -/
def fin (c : Core) (t : ElTy) (x : Nat) : FVal := (fmtOf t).input (ftz c) x

/-- A floating-point result under FTZ (R54). -/
def fout (c : Core) (t : ElTy) (x : FRes) : FRes := (fmtOf t).flush (ftz c) x

/-- Element e of a vector name. -/
def el (c : Core) (t : ElTy) (v : Nat) (e : Nat) : Nat := elem t.bits (readV c v) e

/-- The scalar operand S (R138). -/
def scal (c : Core) (t : ElTy) (g : Nat) : Nat := (readG c g).toNat % 2 ^ t.bits

/-- Sum or difference of two elements (R139). -/
def addElem (c : Core) (t : ElTy) (r : Rm) (sat sb : Bool) (x y : Nat) : FRes :=
  if t.isFp then fout c t ((fmtOf t).add (rounding c r) (fin c t x) (FVal.negIf sb (fin c t y)))
  else intRes t sat (if sb then intElem t x - intElem t y else intElem t x + intElem t y)

/-- Product of two elements (R139). -/
def mulElem (c : Core) (t : ElTy) (r : Rm) (sat : Bool) (x y : Nat) : FRes :=
  if t.isFp then fout c t ((fmtOf t).mul (rounding c r) (fin c t x) (fin c t y))
  else intRes t sat (intElem t x * intElem t y)

/-- ±(x × y) + z with one rounding (R139). -/
def fmaElem (c : Core) (t : ElTy) (r : Rm) (ng : Bool) (x y z : Nat) : FRes :=
  fout c t ((fmtOf t).fma (rounding c r) (FVal.negIf ng (fin c t x)) (fin c t y) (fin c t z))

/-- Minimum or maximum of two elements (R139, R53). -/
def minmaxElem (c : Core) (t : ElTy) (mx : Bool) (x y : Nat) : FRes :=
  if t.isFp then (fmtOf t).minmax mx (fin c t x) (fin c t y)
  else (if decide (intElem t x < intElem t y) != mx then x else y, 0)

/-- Absolute value (R139). -/
def absElem (c : Core) (t : ElTy) (sat : Bool) (x : Nat) : FRes :=
  if t.isFp then
    match fin c t x with
    | .nan sg => (fmtOf t).nanRes sg
    | .inf _ => (fmtOf t).infRes false 0
    | .fin _ m e => ((fmtOf t).encode (.fin false m e), 0)
  else intRes t sat (intElem t x).natAbs

/-- One comparison of vcmp and the flag it raises (R140). -/
def cmpElem (c : Core) (t : ElTy) (k : Cond) (x y : Nat) : Bool × BitVec 5 :=
  if t.isFp then
    let a := fin c t x
    let b := fin c t y
    let un := a.isNan || b.isNan
    let quiet : BitVec 5 := if a.sig || b.sig then fNV else 0
    let loud : BitVec 5 := if un then fNV else 0
    match k with
    | .eq => (a.eqv b, quiet)
    | .ne => (!a.eqv b, quiet)
    | .lt => (a.lt b, loud)
    | .ge => (!un && !a.lt b, loud)
    | .ltu => (un || a.lt b, quiet)
    | .geu => (un || !a.lt b, quiet)
  else
    match k with
    | .eq => (x == y, 0)
    | .ne => (x != y, 0)
    | .lt => (decide (intElem t x < intElem t y), 0)
    | .ge => (decide (intElem t y ≤ intElem t x), 0)
    | .ltu => (decide (x < y), 0)
    | .geu => (decide (y ≤ x), 0)

/-- Bit i of vcmp: the AND over the lane's elements, and the OR of their flags (R140). -/
def cmpLane (c : Core) (t : ElTy) (k : Cond) (x y : VWord) (i : Nat) : Bool × BitVec 5 :=
  (List.range (t.count / 64)).foldl (fun acc j =>
    let r := cmpElem c t k (elem t.bits x (i + 64 * j)) (elem t.bits y (i + 64 * j))
    (acc.1 && r.1, acc.2 ||| r.2)) (true, 0)

/-- The whole predicate vcmp writes, and its flags (R140, R85). -/
def cmpImage (c : Core) (t : ElTy) (k : Cond) (x y : VWord) (pr old : Word) : Word × BitVec 5 :=
  (List.range 64).foldl (fun acc i =>
    if pr.getLsbD i then
      let r := cmpLane c t k x y i
      (if r.1 then acc.1 ||| (1 <<< i) else acc.1 &&& ~~~((1 : Word) <<< i), acc.2 ||| r.2)
    else acc) (old, 0)

/-- A vector shift of one element by a count (R142): left, logical right, arithmetic right. -/
def shiftElem (t : ElTy) (left arith : Bool) (x n : Nat) : FRes :=
  if left then (if t.bits ≤ n then 0 else wrapT t ((x * 2 ^ n : Nat) : Int), 0)
  else if arith then (wrapT t (sextNat t.bits x / 2 ^ min n t.bits), 0)
  else (if t.bits ≤ n then 0 else x / 2 ^ n, 0)

/-- conv of R144 and R52. -/
def convElem (c : Core) (dst src : ElTy) (r : Rm) (x : Nat) : FRes :=
  if src.isFp && dst.isFp then fout c dst ((fmtOf dst).conv (rounding c r) false (fin c src x))
  else if src.isFp then
    let q := toIntSat (rounding c r) (tyMin dst) (tyMax dst) ((fmtOf src).decode x)
    (wrapT dst q.1, q.2)
  else if dst.isFp then intToF (fmtOf dst) (rounding c r) (intElem src x)
  else (satT dst (intElem src x), 0)

/-- The source element of destination element x under vcvt's mapping, none where it is unchanged (R144). -/
def cvtSrc (dst src : ElTy) (h : Bool) (x : Nat) : Option Nat :=
  if dst.count ≤ src.count then some (if dst.count < src.count then h.toNat * dst.count + x else x)
  else if h.toNat * src.count ≤ x ∧ x < h.toNat * src.count + src.count then some (x - h.toNat * src.count)
  else none

/-- The half-width type of the same signedness (R147). -/
def halfOf : ElTy → ElTy
  | .i32 => .i16
  | .n32 => .n16
  | .i16 => .i8
  | .n16 => .n8
  | .fp32 | .bf16 | .i8 | .n8 => .i8

/-- The signed double-width source type of vpack (R147). -/
def packSrc (t : ElTy) : ElTy := if t.bits = 16 then .i32 else .i16

/-- The result type of a reduction (R149). -/
def redTy (t : ElTy) : ElTy := if t.isFp then .fp32 else if t.isSigned then .i32 else .n32

/-- The identity of a reduction, as a pattern of the result type (R62). -/
def redId (t : ElTy) (o : RedOp) : Nat :=
  if t.isFp then (match o with | .add => 0 | .max => 0xFF800000 | .min => 0x7F800000)
  else match o with
    | .add => 0
    | .max => wrapT (redTy t) (tyMin t)
    | .min => wrapT (redTy t) (tyMax t)

/-- One application of a reduction's operation, in the result type (R62, R149). -/
def redOp (c : Core) (t : ElTy) (o : RedOp) (r : Rm) (sat : Bool) (x y : Nat) : FRes :=
  match o with
  | .add => addElem c (redTy t) r sat false x y
  | .max => minmaxElem c (redTy t) true x y
  | .min => minmaxElem c (redTy t) false x y

/-- An element widened to the result type of its reduction (R62); bf16 is the upper half of an fp32 pattern (R51). -/
def widenElem (t : ElTy) (x : Nat) : Nat :=
  if t = .bf16 then x * 65536 else if t.isFp then x else wrapT (redTy t) (intElem t x)

/-- One halving step of the tree: lane i and lane i + k for i < k (R62). Its flags count at every combining position, at one that is a
predicated-off lane too (DESIGN CHOICE [118]). -/
def treeStep (c : Core) (t : ElTy) (o : RedOp) (r : Rm) (sat : Bool) (xs : List Nat × BitVec 5) (k : Nat) :
    List Nat × BitVec 5 :=
  let rs := (List.range k).map fun i => redOp c t o r sat (xs.1.getD i 0) (xs.1.getD (i + k) 0)
  (rs.map Prod.fst, rs.foldl (fun a q => a ||| q.2) xs.2)

/-- The first combining step: the elements of each lane are combined in turn (R62, R149). -/
def redLanes (c : Core) (t : ElTy) (o : RedOp) (r : Rm) (pr : Word) (x : VWord) : List Nat × BitVec 5 :=
  let rs := (List.range 64).map fun i =>
    if pr.getLsbD i then
      (List.range (t.count / 64 - 1)).foldl (fun (acc : FRes) j =>
        let q := redOp c t o r false acc.1 (widenElem t (elem t.bits x (i + 64 * (j + 1))))
        (q.1, acc.2 ||| q.2)) (widenElem t (elem t.bits x i), 0)
    else (redId t o, 0)
  (rs.map Prod.fst, rs.foldl (fun a q => a ||| q.2) 0)

/-- vred: the 64-lane tree's lane 0 and its flags (R62, R149). -/
def redValue (c : Core) (t : ElTy) (o : RedOp) (r : Rm) (sat : Bool) (pr : Word) (x : VWord) : FRes :=
  let q := [32, 16, 8, 4, 2, 1].foldl (treeStep c t o r sat) (redLanes c t o r pr x)
  (q.1.getD 0 0, q.2)

/-- One step of a scan at distance d (R63); a lane that is off raises no flags (R55, R85). -/
def scanStep (c : Core) (t : ElTy) (o : RedOp) (r : Rm) (sat : Bool) (pr : Word) (xs : List Nat × BitVec 5) (d : Nat) :
    List Nat × BitVec 5 :=
  let rs := (List.range 64).map fun i =>
    if d ≤ i then
      let y := redOp c t o r sat (xs.1.getD (i - d) 0) (xs.1.getD i 0)
      (y.1, if pr.getLsbD i then y.2 else 0)
    else (xs.1.getD i 0, 0)
  (rs.map Prod.fst, rs.foldl (fun a q => a ||| q.2) xs.2)

/-- A lane as it enters a scan: a floating-point NaN is the canonical one and a subnormal under FTZ a zero, for a lane that no
operation touches too (R53, R54). -/
def scanIn (c : Core) (t : ElTy) (x : Nat) : FRes :=
  if t.isFp then
    match fin c t x with
    | .nan s => (fmtOf t).nanRes s
    | v => ((fmtOf t).encode v, 0)
  else (x, 0)

/-- vscan: the scanned lanes and the flags (R63). -/
def scanValue (c : Core) (t : ElTy) (o : RedOp) (r : Rm) (sat : Bool) (pr : Word) (x : VWord) :
    List Nat × BitVec 5 :=
  let xs := (List.range 64).map fun i => if pr.getLsbD i then scanIn c t (elem 32 x i) else (redId t o, 0)
  [1, 2, 4, 8, 16, 32].foldl (scanStep c t o r sat pr) (xs.map Prod.fst, xs.foldl (fun a q => a ||| q.2) 0)

/-- One lane of vdot4 (R150). -/
def dotElem (t : ElTy) (sat : Bool) (x y : VWord) (d i : Nat) : FRes :=
  let sum : Int := (List.range 4).foldl (fun a k =>
    a + intElem t (elem 8 x (i + 64 * k)) * intElem t (elem 8 y (i + 64 * k))) 0
  let u : ElTy := if t.isSigned then .i32 else .n32
  intRes u sat (intElem u d + sum)

/-- sext_8(imm) as an element (R148). -/
def immElem (t : ElTy) (i : BitVec 8) : Nat :=
  if t.isFp then (intToF (fmtOf t) .rne i.toInt).1 else wrapT t i.toInt

/-- An element extended to a scalar (R148). -/
def extWord (t : ElTy) (x : Nat) : Word := wordOfInt (intElem t x)

/-- vadd (R139). -/
def execVadd (t : ElTy) (d a b : Fin 32) (p : Fin 8) (r : Rm) (sat : Bool) (s : State) : Host.Outcome State Fault Refusal :=
  laneOp s (.vadd t d a b p r sat) t d p 2 fun c e => addElem c t r sat false (el c t a e) (el c t b e)

/-- vsub (R139). -/
def execVsub (t : ElTy) (d a b : Fin 32) (p : Fin 8) (r : Rm) (sat : Bool) (s : State) : Host.Outcome State Fault Refusal :=
  laneOp s (.vsub t d a b p r sat) t d p 2 fun c e => addElem c t r sat true (el c t a e) (el c t b e)

/-- vmul (R139). -/
def execVmul (t : ElTy) (d a b : Fin 32) (p : Fin 8) (r : Rm) (sat : Bool) (s : State) : Host.Outcome State Fault Refusal :=
  laneOp s (.vmul t d a b p r sat) t d p 4 fun c e => mulElem c t r sat (el c t a e) (el c t b e)

/-- vfma (R139). -/
def execVfma (t : ElTy) (d a b : Fin 32) (p : Fin 8) (r : Rm) (n : Bool) (s : State) : Host.Outcome State Fault Refusal :=
  laneOp s (.vfma t d a b p r n) t d p 4 fun c e => fmaElem c t r n (el c t a e) (el c t b e) (el c t d e)

/-- vmin (R139). -/
def execVmin (t : ElTy) (d a b : Fin 32) (p : Fin 8) (s : State) : Host.Outcome State Fault Refusal :=
  laneOp s (.vmin t d a b p) t d p 2 fun c e => minmaxElem c t false (el c t a e) (el c t b e)

/-- vmax (R139). -/
def execVmax (t : ElTy) (d a b : Fin 32) (p : Fin 8) (s : State) : Host.Outcome State Fault Refusal :=
  laneOp s (.vmax t d a b p) t d p 2 fun c e => minmaxElem c t true (el c t a e) (el c t b e)

/-- vabs (R139). -/
def execVabs (t : ElTy) (d a : Fin 32) (p : Fin 8) (sat : Bool) (s : State) : Host.Outcome State Fault Refusal :=
  laneOp s (.vabs t d a p sat) t d p 2 fun c e => absElem c t sat (el c t a e)

/-- vadds (R139). -/
def execVadds (t : ElTy) (d a : Fin 32) (g : Fin 64) (p : Fin 8) (r : Rm) (s : State) : Host.Outcome State Fault Refusal :=
  laneOp s (.vadds t d a g p r) t d p 2 fun c e => addElem c t r false false (el c t a e) (scal c t g)

/-- vmuls (R139). -/
def execVmuls (t : ElTy) (d a : Fin 32) (g : Fin 64) (p : Fin 8) (r : Rm) (s : State) : Host.Outcome State Fault Refusal :=
  laneOp s (.vmuls t d a g p r) t d p 4 fun c e => mulElem c t r false (el c t a e) (scal c t g)

/-- vfmas (R139). -/
def execVfmas (t : ElTy) (d a : Fin 32) (g : Fin 64) (p : Fin 8) (r : Rm) (s : State) : Host.Outcome State Fault Refusal :=
  laneOp s (.vfmas t d a g p r) t d p 4 fun c e => fmaElem c t r false (el c t a e) (scal c t g) (el c t d e)

/-- vdiv (R139). -/
def execVdiv (t : ElTy) (d a b : Fin 32) (p : Fin 8) (r : Rm) (s : State) : Host.Outcome State Fault Refusal :=
  laneOp s (.vdiv t d a b p r) t d p 16 fun c e => fout c t ((fmtOf t).div (rounding c r) (fin c t (el c t a e)) (fin c t (el c t b e)))

/-- vsqrt (R139). -/
def execVsqrt (t : ElTy) (d a : Fin 32) (p : Fin 8) (r : Rm) (s : State) : Host.Outcome State Fault Refusal :=
  laneOp s (.vsqrt t d a p r) t d p 16 fun c e => fout c t ((fmtOf t).sqrt (rounding c r) (fin c t (el c t a e)))

/-- vcmp (R140): the whole predicate is written. -/
def execVcmp (k : Cond) (t : ElTy) (d : Fin 8) (a b : Fin 32) (p : Fin 8) (s : State) :
    Host.Outcome State Fault Refusal :=
  issue s slotVA (.vcmp k t d a b p) noTests fun s => popsOf (onCur s fun c =>
    let r := cmpImage c t k (readV c a) (readV c b) (readP c p) (readP c d)
    pushResult c (destP d) (.s r.1) 2 r.2) (.vcmp k t d a b p)

/-- vsel (R141): n selects and every lane is written. -/
def execVsel (d : Fin 32) (n : Fin 8) (a b : Fin 32) (s : State) : Host.Outcome State Fault Refusal :=
  laneOp s (.vsel d n a b) .i32 d 0 2 fun c e =>
    (if lane (readP c n) e then el c .i32 a e else el c .i32 b e, 0)

/-- vand (R141). -/
def execVand (d a b : Fin 32) (p : Fin 8) (s : State) : Host.Outcome State Fault Refusal :=
  laneOp s (.vand d a b p) .i32 d p 2 fun c e => (el c .i32 a e &&& el c .i32 b e, 0)

/-- vor (R141). -/
def execVor (d a b : Fin 32) (p : Fin 8) (s : State) : Host.Outcome State Fault Refusal :=
  laneOp s (.vor d a b p) .i32 d p 2 fun c e => (el c .i32 a e ||| el c .i32 b e, 0)

/-- vxor (R141). -/
def execVxor (d a b : Fin 32) (p : Fin 8) (s : State) : Host.Outcome State Fault Refusal :=
  laneOp s (.vxor d a b p) .i32 d p 2 fun c e => (el c .i32 a e ^^^ el c .i32 b e, 0)

/-- vandn (R141). -/
def execVandn (d a b : Fin 32) (p : Fin 8) (s : State) : Host.Outcome State Fault Refusal :=
  laneOp s (.vandn d a b p) .i32 d p 2 fun c e => (el c .i32 a e &&& (el c .i32 b e ^^^ 0xFFFFFFFF), 0)

/-- vshl (R142). -/
def execVshl (t : ElTy) (d a b : Fin 32) (p : Fin 8) (s : State) : Host.Outcome State Fault Refusal :=
  laneOp s (.vshl t d a b p) t d p 2 fun c e => shiftElem t true false (el c t a e) (el c t b e)

/-- vshli (R142). -/
def execVshli (t : ElTy) (d a : Fin 32) (p : Fin 8) (i : BitVec 8) (s : State) : Host.Outcome State Fault Refusal :=
  laneOp s (.vshli t d a p i) t d p 2 fun c e => shiftElem t true false (el c t a e) i.toNat

/-- vshr (R142). -/
def execVshr (t : ElTy) (d a b : Fin 32) (p : Fin 8) (s : State) : Host.Outcome State Fault Refusal :=
  laneOp s (.vshr t d a b p) t d p 2 fun c e => shiftElem t false false (el c t a e) (el c t b e)

/-- vshri (R142). -/
def execVshri (t : ElTy) (d a : Fin 32) (p : Fin 8) (i : BitVec 8) (s : State) : Host.Outcome State Fault Refusal :=
  laneOp s (.vshri t d a p i) t d p 2 fun c e => shiftElem t false false (el c t a e) i.toNat

/-- vsra (R142). -/
def execVsra (t : ElTy) (d a b : Fin 32) (p : Fin 8) (s : State) : Host.Outcome State Fault Refusal :=
  laneOp s (.vsra t d a b p) t d p 2 fun c e => shiftElem t false true (el c t a e) (el c t b e)

/-- vsrai (R142). -/
def execVsrai (t : ElTy) (d a : Fin 32) (p : Fin 8) (i : BitVec 8) (s : State) : Host.Outcome State Fault Refusal :=
  laneOp s (.vsrai t d a p i) t d p 2 fun c e => shiftElem t false true (el c t a e) i.toNat

/-- vrcp (R143). -/
def execVrcp (d a : Fin 32) (p : Fin 8) (s : State) : Host.Outcome State Fault Refusal :=
  laneOp s (.vrcp d a p) .fp32 d p 8 fun c e => rcp32 (ftz c) (el c .fp32 a e)

/-- vrsq (R143). -/
def execVrsq (d a : Fin 32) (p : Fin 8) (s : State) : Host.Outcome State Fault Refusal :=
  laneOp s (.vrsq d a p) .fp32 d p 8 fun c e => rsq32 (ftz c) (el c .fp32 a e)

/-- vexp2 (R143). -/
def execVexp2 (d a : Fin 32) (p : Fin 8) (s : State) : Host.Outcome State Fault Refusal :=
  laneOp s (.vexp2 d a p) .fp32 d p 8 fun c e => exp2_32 (ftz c) (el c .fp32 a e)

/-- vlog2 (R143). -/
def execVlog2 (d a : Fin 32) (p : Fin 8) (s : State) : Host.Outcome State Fault Refusal :=
  laneOp s (.vlog2 d a p) .fp32 d p 8 fun c e => log2_32 (ftz c) (el c .fp32 a e)

/-- vcvt (R144): t is the destination type, u the source type. -/
def execVcvt (t u : ElTy) (d a : Fin 32) (p : Fin 8) (r : Rm) (h : Bool) (s : State) : Host.Outcome State Fault Refusal :=
  laneOp s (.vcvt t u d a p r h) t d p 3 fun c e => match cvtSrc t u h e with
    | some x => convElem c t u r (el c u a x)
    | none => (el c t d e, 0)

/-- The two blocks vbxi imports (R146). -/
def bxiBlock (c : Core) (a b : Nat) : Block :=
  importBlock ((List.range 64).map fun j => elem 16 (readV c a) (64 * b + j))

/-- vbxi (R146): the mantissas of both blocks, or with .e their scales. -/
def execVbxi (d a : Fin 32) (e : Bool) (s : State) : Host.Outcome State Fault Refusal :=
  wholeOp s (.vbxi d a e) d 3 fun c =>
    (if e then fromElems 8 [(bxiBlock c a 0).scale, (bxiBlock c a 1).scale]
     else fromElems 16 (((bxiBlock c a 0).mant ++ (bxiBlock c a 1).mant).map (wrapT .i16)), 0)

/-- vcvt8 (R145): x is the direction, f the format, q the quarter. -/
def execVcvt8 (d a : Fin 32) (x : Bool) (q : Fin 4) (p : Fin 8) (r : Rm) (f : Bool) (s : State) :
    Host.Outcome State Fault Refusal :=
  if x then
    laneOp s (.vcvt8 d a x q p r f) .fp32 d p 3 fun c e =>
      let v := (if f then e5m2 else e4m3).decode (elem 8 (readV c a) (64 * q + e))
      (if v.isNan then fp32.nanRes v.sig else (fp32.encode v, 0))
  else
    laneOp s (.vcvt8 d a x q p r f) .n8 d p 3 fun c e =>
      if 64 * q.val ≤ e ∧ e < 64 * q.val + 64 then
        (if f then e5m2 else e4m3).conv (rounding c r) (fp8sat c) (fp32.decode (elem 32 (readV c a) (e - 64 * q)))
      else (elem 8 (readV c d) e, 0)

/-- vpack (R147). -/
def execVpack (t : ElTy) (d a b : Fin 32) (p : Fin 8) (tr : Bool) (s : State) : Host.Outcome State Fault Refusal :=
  laneOp s (.vpack t d a b p tr) t d p 3 fun c e =>
    let u := packSrc t
    let x := if e < u.count then el c u a e else el c u b (e - u.count)
    intRes t (!tr) (intElem u x)

/-- vunpack (R147). -/
def execVunpack (t : ElTy) (d a : Fin 32) (p : Fin 8) (h : Bool) (s : State) : Host.Outcome State Fault Refusal :=
  laneOp s (.vunpack t d a p h) t d p 3 fun c e =>
    (wrapT t (intElem (halfOf t) (el c (halfOf t) a (h.toNat * t.count + e))), 0)

/-- vperm (R148). -/
def execVperm (t : ElTy) (d a b : Fin 32) (p : Fin 8) (s : State) : Host.Outcome State Fault Refusal :=
  laneOp s (.vperm t d a b p) t d p 3 fun c e =>
    let x := el c t b e
    (if x < t.count then el c t a x else 0, 0)

/-- vrot (R148). -/
def execVrot (t : ElTy) (d a : Fin 32) (p : Fin 8) (sh : Bool) (n : BitVec 8) (s : State) :
    Host.Outcome State Fault Refusal :=
  laneOp s (.vrot t d a p sh n) t d p 3 fun c e =>
    let x := e + n.toNat
    (if sh then (if x < t.count then el c t a x else 0) else el c t a (x % t.count), 0)

/-- vbcast (R148). -/
def execVbcast (t : ElTy) (d : Fin 32) (g : Fin 64) (p : Fin 8) (s : State) : Host.Outcome State Fault Refusal :=
  laneOp s (.vbcast t d g p) t d p 2 fun c _ => (scal c t g, 0)

/-- vext (R148): the index is 32 x + y's low bits as the encoding splits it. -/
def execVext (t : ElTy) (g : Fin 64) (a x : Fin 32) (y : Fin 8) (s : State) : Host.Outcome State Fault Refusal :=
  scalarOp s slotVA (.vext t g a x y) g 3 fun c => extWord t (el c t a (32 * y + x))

/-- vred (R149): the result in bytes 3:0, zero above. -/
def execVred (t : ElTy) (o : RedOp) (d a : Fin 32) (p : Fin 8) (r : Rm) (sat : Bool) (s : State) :
    Host.Outcome State Fault Refusal :=
  wholeOp s (.vred t o d a p r sat) d 8 fun c =>
    let q := redValue c t o r sat (readP c p) (readV c a)
    (fromElems 32 [q.1], q.2)

/-- vscan (R149). -/
def execVscan (t : ElTy) (o : RedOp) (d a : Fin 32) (p : Fin 8) (r : Rm) (sat : Bool) (s : State) :
    Host.Outcome State Fault Refusal :=
  wholeOp s (.vscan t o d a p r sat) d 8 fun c =>
    let q := scanValue c t o r sat (readP c p) (readV c a)
    (fromElems 32 ((List.range 64).map fun i =>
      if lane (readP c p) i then q.1.getD i 0 else el c .i32 d i), q.2)

/-- vdot4 (R150). -/
def execVdot4 (t : ElTy) (d a b : Fin 32) (p : Fin 8) (sat : Bool) (s : State) : Host.Outcome State Fault Refusal :=
  laneOp s (.vdot4 t d a b p sat) .i32 d p 4 fun c e => dotElem t sat (readV c a) (readV c b) (el c .i32 d e) e

/-- vmovi (R148). -/
def execVmovi (t : ElTy) (d : Fin 32) (p : Fin 8) (i : BitVec 8) (s : State) : Host.Outcome State Fault Refusal :=
  laneOp s (.vmovi t d p i) t d p 2 fun _ _ => (immElem t i, 0)

end Sys2Proof.Machine
end

