-- ==== Sys2Proof/Machine/Bundle.lean ====
section
/-! DEFINITION. The issue of a bundle (R76 to R83, R95, R124 to R126, R208): its encoding tests, its header wait, the tests of
its syllables, their effects together, and its commit [13]. -/

namespace Sys2Proof.Machine

/-- The effect of one syllable; events are no syllables. -/
def runSyllable (i : Instr) (s : State) : Host.Outcome State Fault Refusal :=
  match i with
  | .bundleIssue _ => .next s
  | .sdoneSignal _ _ => .next s
  | .resultWriteback _ => .next s
  | .loadReturn _ _ => .next s
  | .starvationTrap _ => .next s
  | .accessReport _ _ => .next s
  | .pendingTrapTaken _ => .next s
  | .trapBetweenTasks _ => .next s
  | .stagedTaskStart _ => .next s
  | .coreTaskChoice _ => .next s
  | .taskRecordDecrement _ _ => .next s
  | .readyOverflowMove _ => .next s
  | .launchBackoffExpiry _ => .next s
  | .superstepAdvance _ => .next s
  | .launchCompletion _ => .next s
  | .barrierArrivalApplied _ => .next s
  | .barrierDeferredCompletion _ _ => .next s
  | .accessPerform _ _ => .next s
  | .airedFaultResolve _ => .next s
  | .vbusRetrainStart _ => .next s
  | .vbusRetrainForced _ => .next s
  | .vbusRetrainEnd _ => .next s
  | .engineOpFire _ _ => .next s
  | .engineOpComplete _ _ _ => .next s
  | .tlAcqSatisfied _ _ => .next s
  | .landingMove _ => .next s
  | .requestInject _ _ => .next s
  | .frameResendTimeout _ _ => .next s
  | .chaseReinject _ => .next s
  | .seamDeadlineFlush _ => .next s
  | .windowDeadline _ => .next s
  | .slotTableSwap _ => .next s
  | .fqUnbindComplete _ _ => .next s
  | .drtFlagPlace _ => .next s
  | .drtPacketResend _ => .next s
  | .drtMessageLost _ => .next s
  | .registrationDrained _ => .next s
  | .preempt _ => .next s
  | .restore _ _ => .next s
  | .resume _ _ _ => .next s
  | .gate _ => .next s
  | .relabel _ _ _ => .next s
  | .abort _ => .next s
  | .setpeg _ _ _ _ => .next s
  | .table _ _ _ => .next s
  | .tlen _ _ => .next s
  | .attest _ _ => .next s
  | .create _ => .next s
  | .destroy _ => .next s
  | .wdogWrite _ => .next s
  | .fpcsrWrite _ => .next s
  | .parkcfgWrite _ => .next s
  | .resvcfgWrite _ => .next s
  | .drtcfgWrite _ => .next s
  | .drtstWrite _ => .next s
  | .eqstWrite _ => .next s
  | .controlRegisterWrite _ _ => .next s
  | .bnkLock a n => execBnkLock a n s
  | .loopm a i sx => execLoopm a i sx s
  | .add d a b w => execAdd d a b w s
  | .sub d a b w => execSub d a b w s
  | .addi d a i => execAddi d a i s
  | .mul d a b w => execMul d a b w s
  | .mulh d a b => execMulh d a b s
  | .mulhu d a b => execMulhu d a b s
  | .mad d a b => execMad d a b s
  | .div d a b => execDiv d a b s
  | .divu d a b => execDivu d a b s
  | .rem d a b => execRem d a b s
  | .remu d a b => execRemu d a b s
  | .and d a b => execAnd d a b s
  | .or d a b => execOr d a b s
  | .xor d a b => execXor d a b s
  | .andn d a b => execAndn d a b s
  | .shl d a b w => execShl d a b w s
  | .shr d a b w => execShr d a b w s
  | .sra d a b w => execSra d a b w s
  | .shli d a c => execShli d a c s
  | .shri d a c => execShri d a c s
  | .srai d a c => execSrai d a c s
  | .min d a b => execMin d a b s
  | .max d a b => execMax d a b s
  | .minu d a b => execMinu d a b s
  | .maxu d a b => execMaxu d a b s
  | .cmp c p a b => execCmp c p a b s
  | .cmpi c p a i => execCmpi c p a i s
  | .sel d n a b => execSel d n a b s
  | .movi d i => execMovi d i s
  | .movhi d q h => execMovhi d q h s
  | .clz d a => execClz d a s
  | .popc d a => execPopc d a s
  | .bfx d a sx w p => execBfx d a sx w p s
  | .bfi d a w p => execBfi d a w p s
  | .addr d a b l sx => execAddr d a b l sx s
  | .pand d a b => execPand d a b s
  | .por d a b => execPor d a b s
  | .pxor d a b => execPxor d a b s
  | .pandn d a b => execPandn d a b s
  | .pnot d a => execPnot d a s
  | .shw h n a => execShw h n a s
  | .br p n o => execBr p n o s
  | .bp p n o => execBp p n o s
  | .call p n o => execCall p n o s
  | .jr d a => execJr d a s
  | .loopx a => execLoopx a s
  | .trap c a => execTrap c a s
  | .bkpt c => execBkpt c s
  | .csrr d c => execCsrr d c s
  | .csrw c a => execCsrw c a s
  | .csrx d c a => execCsrx d c a s
  | .vpark v => execVpark v s
  | .vunpark v => execVunpark v s
  | .vadd t d a b p r sx => execVadd t d a b p r sx s
  | .vsub t d a b p r sx => execVsub t d a b p r sx s
  | .vmul t d a b p r sx => execVmul t d a b p r sx s
  | .vfma t d a b p r n => execVfma t d a b p r n s
  | .vmin t d a b p => execVmin t d a b p s
  | .vmax t d a b p => execVmax t d a b p s
  | .vabs t d a p sx => execVabs t d a p sx s
  | .vadds t d a g p r => execVadds t d a g p r s
  | .vmuls t d a g p r => execVmuls t d a g p r s
  | .vfmas t d a g p r => execVfmas t d a g p r s
  | .vdiv t d a b p r => execVdiv t d a b p r s
  | .vsqrt t d a p r => execVsqrt t d a p r s
  | .vcmp c t d a b p => execVcmp c t d a b p s
  | .vsel d n a b => execVsel d n a b s
  | .vand d a b p => execVand d a b p s
  | .vor d a b p => execVor d a b p s
  | .vxor d a b p => execVxor d a b p s
  | .vandn d a b p => execVandn d a b p s
  | .vshl t d a b p => execVshl t d a b p s
  | .vshr t d a b p => execVshr t d a b p s
  | .vsra t d a b p => execVsra t d a b p s
  | .vshli t d a p i => execVshli t d a p i s
  | .vshri t d a p i => execVshri t d a p i s
  | .vsrai t d a p i => execVsrai t d a p i s
  | .vrcp d a p => execVrcp d a p s
  | .vrsq d a p => execVrsq d a p s
  | .vexp2 d a p => execVexp2 d a p s
  | .vlog2 d a p => execVlog2 d a p s
  | .vcvt t u d a p r h => execVcvt t u d a p r h s
  | .vbxi d a e => execVbxi d a e s
  | .vcvt8 d a x q p r f => execVcvt8 d a x q p r f s
  | .vpack t d a b p c => execVpack t d a b p c s
  | .vunpack t d a p h => execVunpack t d a p h s
  | .vperm t d a b p => execVperm t d a b p s
  | .vrot t d a p sx n => execVrot t d a p sx n s
  | .vbcast t d g p => execVbcast t d g p s
  | .vext t g a x y => execVext t g a x y s
  | .vred t o d a p r sx => execVred t o d a p r sx s
  | .vscan t o d a p r sx => execVscan t o d a p r sx s
  | .vdot4 t d a b p sx => execVdot4 t d a b p sx s
  | .vmovi t d p i => execVmovi t d p i s
  | .ld sx z r x d a o => execLd sx z r x d a o s
  | .st sx z r d a o => execSt sx z r d a o s
  | .vld sx e r p d a => execVld sx e r p d a s
  | .vldS sx e r p d a g => execVldS sx e r p d a g s
  | .vst sx e r p d a => execVst sx e r p d a s
  | .vgath sx e r p d a b => execVgath sx e r p d a b s
  | .vscat sx e r p d a b => execVscat sx e r p d a b s
  | .tlook d a => execTlook d a s
  | .tset d a => execTset d a s
  | .tinv a m => execTinv a m s
  | .mop o y z sx d a => execMop o y z sx d a s
  | .amo o q z sx d a => execAmo o q z sx d a s
  | .fence c f => execFence c f s
  | .tfence c => execTfence c s
  | .semSig a n => execSemSig a n s
  | .semSet a b => execSemSet a b s
  | .arrive a => execArrive a s
  | .arriveRlx a => execArriveRlx a s
  | .expect a b => execExpect a b s
  | .barInit a b => execBarInit a b s
  | .tlRd a f => execTlRd a f s
  | .tlInc a f => execTlInc a f s
  | .tlAcq d a f => execTlAcq d a f s
  | .taskDec a => execTaskDec a s
  | .taskPost a b => execTaskPost a b s
  | .bkOpen a x => execBkOpen a x s
  | .bkClose a => execBkClose a s
  | .bkGive a b => execBkGive a b s
  | .bkInit a b => execBkInit a b s
  | .cpGo h c w => execCpGo h c w s
  | .cpGath h c w => execCpGath h c w s
  | .cpScat h c w x => execCpScat h c w x s
  | .cpFill h c w => execCpFill h c w s
  | .cpChk h c w x => execCpChk h c w x s
  | .cpTabwL a b => execCpTabwL a b s
  | .cpTabwR a b => execCpTabwR a b s
  | .cpTabrL a b h => execCpTabrL a b h s
  | .cpTabrR a b => execCpTabrR a b s
  | .mxCfg a b => execMxCfg a b s
  | .mxGo h w g => execMxGo h w g s
  | .mxWload h w => execMxWload h w s
  | .mxDrain h a w => execMxDrain h a w s
  | .mxAcc a b i => execMxAcc a b i s
  | .mxHad a i => execMxHad a i s
  | .mxFmt a b => execMxFmt a b s
  | .mxZero a => execMxZero a s
  | .mxRd v a => execMxRd v a s
  | .vpFwd h w => execVpFwd h w s
  | .vpBwd h w => execVpBwd h w s
  | .vpMerge a b => execVpMerge a b s
  | .vpRd v a i => execVpRd v a i s
  | .eqUnite h w f => execEqUnite h w f s
  | .eqUniteNew a f => execEqUniteNew a f s
  | .eqFind h w f => execEqFind h w f s
  | .eqRelab h w o f => execEqRelab h w o f s
  | .eqSnap f => execEqSnap f s
  | .eqUndo f => execEqUndo f s
  | .eqCommit x f => execEqCommit x f s
  | .eqSize a b f => execEqSize a b f s
  | .fsSend h c w => execFsSend h c w s
  | .fsPost h c b w => execFsPost h c b w s
  | .fqBind i a => execFqBind i a s
  | .pegRd a b r => execPegRd a b r s
  | .rld k a b r x z => execRld k a b r x z s
  | .rst k a b r z => execRst k a b r z s
  | .ramo o q z k a b => execRamo o q z k a b s
  | .rwinReg a b => execRwinReg a b s
  | .rwinAdd w h c => execRwinAdd w h c s
  | .rwinPread a b => execRwinPread a b s
  | .rwinAbort a => execRwinAbort a s
  | .chase k a b t c => execChase k a b t c s
  | .capld k a sx => execCapld k a sx s
  | .capst k a sx => execCapst k a sx s
  | .capmkNew k a => execCapmkNew k a s
  | .capmkDer k a sx => execCapmkDer k a sx s
  | .capmkRev a => execCapmkRev a s
  | .capchk k a b z x => execCapchk k a b z x s
  | .rmaPut k a b t => execRmaPut k a b t s
  | .rmaGet k a b => execRmaGet k a b s
  | .rmaFlag k a b => execRmaFlag k a b s
  | .rmaReg k a => execRmaReg k a s
  | .rmaRev k => execRmaRev k s
  | .translationInvalidation _ _ _ => .next s
  | .invalidationAcknowledgement _ _ => .next s
  | .seamPartialDiscard _ => .next s
  | .softErrorRerun _ _ => .next s
  | .storeFrame _ _ => .next s
  | .sendFrame _ _ => .next s
  | .sendlFrame _ _ => .next s
  | .fifoFrame _ _ => .next s
  | .contribFrame _ _ => .next s
  | .wpartFrame _ _ => .next s
  | .mopFrame _ _ => .next s
  | .loadFrame _ _ => .next s
  | .atomicFrame _ _ => .next s
  | .chaseFrame _ _ => .next s
  | .dataFrame _ _ => .next s
  | .doneFrame _ _ => .next s
  | .chresFrame _ _ => .next s
  | .bounceFrame _ _ => .next s
  | .faultFrame _ _ => .next s
  | .fqcredFrame _ _ => .next s
  | .winackFrame _ _ => .next s
  | .pegretFrame _ _ => .next s
  | .nakFrame _ _ => .next s
  | .arriveFrame _ _ => .next s
  | .expectFrame _ _ => .next s
  | .sstepFrame _ _ => .next s
  | .violFrame _ _ => .next s
  | .darnFrame _ _ => .next s
  | .winregFrame _ _ => .next s
  | .retuneStart _ _ => .next s
  | .retuneEnd _ _ => .next s
  | .uncorrectableDrift _ _ => .next s
  | .lineFailure _ _ => .next s
  | .modulatorLaneDeath _ _ => .next s
  | .passbandShift _ => .next s
  | .peerSilent _ _ => .next s
  | .put _ => .next s
  | .getreq _ => .next s
  | .getdata _ => .next s
  | .flag _ => .next s
  | .flushreq _ => .next s
  | .flushdone _ => .next s
  | .ack _ => .next s
  | .nack _ => .next s
  | .doorbell _ _ => .next s
  | .managementDoorbell _ => .next s
  | .queueDescriptorEnable _ => .next s
  | .hostControlPageWrite _ _ => .next s
  | .frameCrcFailure _ _ => .next s
  | .reservedKindFrame _ _ => .next s
  | .sramBankRetirement _ _ => .next s
  | .hbmChannelRetirement _ => .next s
  | .pageCompressorSweep => .next s
  | .slotStart => .next s
  | .darningCompute => .next s
  | .darnTableSwap => .next s
  | .relabelApply => .next s
  | .tlenChangeApply => .next s
  | .fcpGrant => .next s
  | .boot => .next s
  | .nop => execNop s
  | .ret => execRet s
  | .tend => execTend s
  | .eret => execEret s
  | .rmaFlush => execRmaFlush s
  | .drtPacketBadCrc => .next s

/-! ### Headers (R77, R78) -/

/-- Fields of a header word. -/
def hPfx (h : Nat) : Bool := bit h 31
def hSen (h : Nat) : Bool := bit h 30
def hWtk (h : Nat) : Bool := bit h 29
def hWen (h : Nat) : Bool := bit h 28
def hSdone (h : Nat) : Bool := bit h 27
def hSinc (h : Nat) : Nat := fld h 24 3
def hSsem (h : Nat) : Nat := fld h 16 8
def hWth (h : Nat) : Nat := fld h 8 8
def hWsem (h : Nat) : Nat := fld h 0 8

/-- A header that breaks R78, or R83 for a prefix. -/
def headerBad (h : Nat) : Bool :=
  (!hWen h && (hWtk h || fld h 0 16 != 0)) || (!hSen h && fld h 16 12 != 0) || (hPfx h && fld h 0 31 != 0)

/-! ### Encoding tests (R79, R80, R83, R95, R125) -/

/-- A syllable of the bundle or composite at issue. -/
structure Syl where
  slot  : Nat
  stage : Nat
  i     : Instr
  w     : BitVec 32
  deriving DecidableEq, Repr

/-- The slot class of part k (R76); part 1 of a prefix has the prefix map (R83). -/
def partClass (pfx_ : Bool) (k : Nat) : SlotClass :=
  match k with
  | 1 => if pfx_ then .pfx else .x
  | 2 => .x
  | 3 => .br
  | 4 => .v
  | 5 => .v
  | 6 => .mm
  | _ => .en

/-- The vector instructions that only VA decodes (R98). -/
def vaOnly (w : Nat) : Bool := [0x0C, 0x0D, 0x20, 0x21, 0x22, 0x23, 0x36, 0x37].contains (fld w 25 7)

/-- The syllable in part k of a bundle; a zero part is nop. -/
def sylAt (b : Bundle) (k stage : Nat) : Option Syl :=
  let w := bundlePart b k
  if w = 0 then none
  else (decode (partClass (hPfx (bundlePart b 0)) k) w).map fun i => { slot := k - 1, stage := stage, i := i, w := w }

/-- Stage bundles with their stage numbers. -/
def staged (ws : List Bundle) : List (Nat × Bundle) := (List.range ws.length).zip ws

/-- The syllables of a composite, in slot order (R125). -/
def sylsOf (ws : List Bundle) : List Syl :=
  (List.range 7).flatMap fun k => (staged ws).filterMap fun e => sylAt e.2 (k + 1) e.1

/-- The scalar, predicate, vector and capability names a syllable writes; g0 and p0 aside (R79). A shape field is no
register of R87: two shw of one field may stand in one bundle, and the later slot's value stays (DESIGN CHOICE [16]). -/
def destNames (i : Instr) : List (Nat × Nat) :=
  let u := uses i
  ((u.wg.filter (· != 0)).map fun x => (0, x)) ++ ((u.wp.filter (· != 0)).map fun x => (1, x)) ++
    (u.wv.map fun x => (2, x)) ++ (u.wk.map fun x => (3, x))

/-- An earlier syllable of the bundle names a destination of this one (R79). The manual does not say which of the two the
cause names: the later slot is named (DESIGN CHOICE [16]). -/
def repeats (ss : List Syl) (y : Syl) : Bool :=
  ss.any fun x => decide (x.slot < y.slot) && (destNames x.i).any fun d => (destNames y.i).contains d

/-- trap and bkpt stand alone in their bundle (R131). -/
def isTrap : Instr → Bool
  | .trap _ _ => true
  | .bkpt _ => true
  | _ => false

/-- loopx, the only branch-slot instruction of a loop body (R83). -/
def isLoopx : Instr → Bool
  | .loopx _ => true
  | _ => false

/-- The header of stage `sg` makes the composite illegal (R78, R83, R125). A prefix among the bundles of a bank lock or in a
loop body is named by its header, the word that says PFX; the manual does not say whether it is that or X0 (DESIGN CHOICE
[17]). -/
def headerFails (c : Core) (ws : List Bundle) (sg : Nat) (b : Bundle) : Bool :=
  let h := bundlePart b 0
  let before := (ws.take sg).map fun x => bundlePart x 0
  headerBad h || (hPfx h && (c.seq.active || c.lock.isSome)) || (hWen h && before.any hWen) || (hSen h && before.any hSen)

/-- Part k of stage `sg` makes the composite illegal (R79, R83, R95, R98, R125, R131). X0 of a prefix bundle must be a
prefix. -/
def partFails (c : Core) (ws : List Bundle) (k sg : Nat) (b : Bundle) : Bool :=
  let w := bundlePart b k
  let h := bundlePart b 0
  (hPfx h && k == 1 && w == 0) || w != 0 &&
    match sylAt b k sg with
    | none => true
    | some y =>
      (hPfx h && k != 1) || (k == 5 && vaOnly w) || ((ws.take sg).any fun x => bundlePart x k != 0) ||
        (k == 3 && c.seq.active && !isLoopx y.i) ||
        (isTrap y.i && (h != 0 || ws.length != 1 || (List.range 7).any fun j => j + 1 != k && bundlePart b (j + 1) != 0)) ||
        repeats (sylsOf ws) y

/-- The first illegal encoding of a bundle or composite, from the header to EN, over the stages slot by slot: its slot and stage (R95,
R225). Where two stages fill one slot, or both set WEN or SEN, it names the later (DESIGN CHOICE [48]). -/
def encodingFails (c : Core) (ws : List Bundle) : Option (Nat × Nat) :=
  ((List.range 8).flatMap fun k => (staged ws).filterMap fun e =>
    if (if k = 0 then headerFails c ws e.1 e.2 else partFails c ws k e.1 e.2) then
      some (if k = 0 then slotHdr else k - 1, e.1) else none).head?

/-! ### Issue and commit -/

/-- Stage s of the composite is live (R126). -/
def stageLive (c : Core) (sg : Nat) : Bool := !c.seq.active || (decide (sg ≤ c.seq.j) && decide (c.seq.j - sg < c.seq.n))

/-- The iterations that a live loopx of the composite leaves (R128): its stage's iteration is the last. The iterations above
it are squashed in this very composite. -/
def cutLoop (c : Core) (ws : List Bundle) : Core :=
  match (sylsOf ws).findSome? fun y =>
      match y.i with
      | .loopx p => if stageLive c y.stage && (readP c p).getLsbD 0 then some (c.seq.j - y.stage + 1) else none
      | _ => none with
  | some n => { c with seq := { c.seq with n := min c.seq.n n } }
  | none => c

/-- The header that acts: the one live stage's wait and signal. -/
def liveHeaders (c : Core) (ws : List Bundle) : List Nat :=
  ((staged ws).filter fun e => stageLive c e.1).map fun e => bundlePart e.2 0

/-- The values a syllable reads: its scalar, vector and capability operands at issue (R237). -/
def sourcesOf (c : Core) (i : Instr) : List Val :=
  let u := uses i
  (u.rg.map fun x => .s (readG c x)) ++ (u.rv.map fun x => .v (readV c x)) ++ u.rk.map fun x => .k (readK c x).1 (readK c x).2

/-- The address that an access has in its image entry (R235): for a gather or scatter the base register; else its first element's,
less that element's place. -/
def baseOf (before : Core) (i : Instr) (a : Access) : Word :=
  match i, a.op with
  | .vgath _ _ _ _ _ b _, _ => readG before b
  | .vscat _ _ _ _ _ b _, _ => readG before b
  | _, .mem (e :: _) _ _ => e.addr - BitVec.ofNat 64 (e.ix * memLen e.op)
  | _, .remote e _ _ _ => e.addr
  | _, _ => 0

/-- The index register of a gather or scatter (R235). -/
def indicesOf (before : Core) (i : Instr) : VWord :=
  match i with
  | .vgath _ _ _ _ _ _ b => readV before b
  | .vscat _ _ _ _ _ _ b => readV before b
  | _ => 0

/-- The results a syllable has put in flight keep its source operands (R237), and its accesses its word (R235). -/
def noteSources (before : Core) (y : Syl) (c : Core) : Core :=
  { c with
    results := c.results.take before.results.length ++
      (c.results.drop before.results.length).map fun r => { r with src := sourcesOf before y.i }
    accs := c.accs.take before.accs.length ++ (c.accs.drop before.accs.length).map fun a =>
      { a with syl := y.w, base := baseOf before y.i a, idx := indicesOf before y.i } }

/-- Run syllables in turn, each in its slot and stage and in the given phase; a stop stops. -/
def runAll (ph : Phase) : List Syl → State → Host.Outcome State Fault Refusal
  | [], s => .next s
  | y :: r, s =>
    match runSyllable y.i (onCur s fun c => { c with phase := ph, slot := y.slot, stg := y.stage }) with
    | .next t => runAll ph r (onCur t (noteSources (curCore s) y))
    | .fault f => .fault f
    | .refused f => .refused f

/-- Give the causes of posed tests the slot their syllable stands in. -/
def atSlot (slot : Nat) (t : Tests) : Tests :=
  let f (k : Cause) : Cause := { k with slot := slot }
  { t with opnd := t.opnd.map f, align := t.align.map f, dom := t.dom.map f }

/-- The tests that the live syllables pose. -/
def posedTests (ss : List Syl) (s : State) : Group :=
  match runAll .test ss (onCur s fun c => { c with posed := [] }) with
  | .next t => (ss.zip (curCore t).posed).map fun e => (e.1.slot, e.1.stage, e.1.i, atSlot e.1.slot e.2.2.2.2)
  | .fault _ => []
  | .refused _ => []

/-- The violation report of a check that failed against a reachable owner (R299); it goes with the trap. -/
def violNotice (s : State) (k : Cause) : State :=
  match k.viol with
  | some (rank, v) =>
    if rank = s.port.rank then logCp s 4 k.sub v.toNat else sendOrDrop s (keyCtx s.cur) 3 false rank (.viol s.port.rank k.sub v)
  | none => s

/-- A precise trap at the issuing bundle. -/
def trapHere (s : State) (k : Cause) : State := takeTrap (violNotice s k) s.cur k

/-- The takes and signals of the header at issue (R208). -/
def headerActs (hs : List Nat) (c : Core) : Core :=
  hs.foldl (fun c h =>
    let c := if hWen h && hWtk h then semOp c (.take (hWsem h) (hWth h)) else c
    if hSen h && !hSdone h then semOp c (.inc (hSsem h) (hSinc h)) else c) c

/-- The operation numbers that came into use after `n`. -/
def issuedSince (n m : Nat) : List Nat := (List.range (m - n)).map fun i => n + 1 + i

/-- The SDONE signal a bundle owes (R208, R209): it waits for what the bundle's syllables have started. -/
def owedBy (before after : Core) (h : Nat) : Owed where
  sem := hSsem h
  inc := hSinc h
  accs := issuedSince before.issued after.issued
  land := (after.results.drop before.results.length).foldl (fun m r => max m r.land) 0
  op := after.engs.findSome? fun e =>
    (e.2.find? fun o => decide (before.issued < o.order)).map fun o => (e.1, o.n)

/-- A tend or eret bundle that still waits retires once its condition is met: the task's loads have returned (R25), the
handler's operations have completed, those of the eret's own bundle included (R229). -/
def retire (s : State) : State :=
  let c := curCore s
  match c.after with
  | .tend =>
    if loadsPending c then noteHold s { sub := 4, obj := 0x103, tl := 15, slot := slotBR } else endTask s s.cur
  | .eret =>
    if handlerPending c then noteHold s { sub := 4, obj := 0x105, tl := 15, slot := slotBR }
    else onCur s fun c => resumeCore { c with after := .next } (resumesNext (bits c.csr.tcause 0 8))
  | .next | .branch _ | .loop _ => s

/-- What follows the commit (R25, R81, R123, R124, R229). -/
def followUp (s : State) : State :=
  let c := curCore s
  match c.after with
  | .next => onCur s advance
  | .branch t => onCur s fun c => { c with pc := t, idle := branchIdle, after := .next }
  | .loop t => onCur s fun c => { c with pc := t, after := .next }
  | .tend => if loadsPending c then s else endTask s s.cur
  | .eret => if handlerPending c then s else retire s

/-- Count a bundle under a bank lock (R222): the lock ends when the last one issues. -/
def countLock (had : Bool) (c : Core) : Core :=
  match c.lock with
  | some l => if had then { c with lock := if l.left ≤ 1 then none else some { l with left := l.left - 1 } } else c
  | none => c

/-- The commit of a bundle whose syllables have run from `before` (R79, R91, R208, R222). -/
def commitBundle (before : Core) (hs : List Nat) (s : State) : State :=
  let s := onCur s fun c =>
    let c := headerActs hs c
    let c := { c with sdone := c.sdone ++ ((hs.filter fun h => hSen h && hSdone h).map (owedBy before c)) }
    let c := countLock before.lock.isSome (applyPops c)
    { c with icycle := c.icycle + 1, held := 0, hold := none, mismatch := 0, parity := 0, phase := .alone, slot := 0, stg := 0, posed := [] }
  followUp (markBegun s s.cur)

/-- The signals a core owes (R208), those that a handler's entry has put into the snapshot among them. -/
def owedCount (c : Core) : Nat := c.sdone.length + ((c.snap.map Snapshot.sdone).getD []).length

/-- The header condition that holds the bundle (R208): the semaphore, or a 33rd owed signal. -/
def headerHold (c : Core) (hs : List Nat) : Option Hold :=
  match hs.find? fun h => hWen h && decide (semAt c (hWsem h) < hWth h) with
  | some h => some { sub := 1, obj := hWsem h, tl := 15, slot := slotHdr }
  | none =>
    if (hs.any fun h => hSen h && hSdone h) && decide (32 ≤ owedCount c) then some { sub := 4, obj := 0x102, tl := 15, slot := slotHdr }
    else none

/-- A satisfied header wait acquires the barrier phases its count includes (R44, R175). -/
def headerAcquires (hs : List Nat) (c : Core) : Core :=
  { c with q := (hs.filter hWen).foldl (fun q h => max q (mget 0 c.semq (hWsem h))) c.q }

/-- BUNDLE_ISSUE (R208): the bundle, or the stage bundles of a composite, at the issuing core's pc. -/
def execBundleIssue (ws : List Bundle) (s : State) : Host.Outcome State Fault Refusal :=
  let c := curCore s
  if c.after = .tend ∨ c.after = .eret then .next (retire s)
  else
    match encodingFails c ws with
    | some (slot, sg) => .next (trapHere s { Cause.precise 0x01 1 slot with stg := sg })
    | none =>
      let live := cutLoop c ws
      let hs := liveHeaders live ws
      match headerHold c hs with
      | some h => .next (noteHold s h)
      | none =>
        let ss := (sylsOf ws).filter fun y => stageLive live y.stage
        let s1 := onCur s (headerAcquires hs)
        match checkGroup c (posedTests ss s1) with
        | .trap k => .next (trapHere s k)
        | .hold h => .next (noteHold s h)
        | .ok =>
          match runAll .run ss s1 with
          | .next t => .next (commitBundle c hs t)
          | .fault f => .fault f
          | .refused f => .refused f

end Sys2Proof.Machine
end

