-- ==== Sys2Proof/Machine/Traps.lean ====
section
/-! DEFINITION. Traps taken after their cause (R165, R224 to R230): reported and asynchronous traps at a bundle boundary, and the
starvation trap (R22, R409). -/

namespace Sys2Proof.Machine

/-- The cause of a reported trap (R165, R178, R226, R245): ASY, and ENG with its timeline for an engine operation. -/
def reportCause (r : Report) : Cause where
  code := r.code
  sub := r.sub
  slot := r.slot
  stg := r.stg
  obj := r.obj
  tl := if r.eng then r.tl else 15
  eng := r.eng
  asy := true
  tval := r.addr
  tinfo := if r.code = 5 then BitVec.ofNat 64 (r.agent.toNat * 2 ^ 37 + r.time % 2 ^ 37) else 0
  need := r.need

/-- The pending trap of the lowest class code, the oldest among equals (R225). -/
def lowestReport (rs : List Report) : Option Report :=
  rs.foldl (fun b r => match b with | none => some r | some x => if r.code < x.code then some r else b) none

/-- The traps that may be taken at a boundary: asynchronous ones not in handler state (R225). -/
def pendingReports (c : Core) : List Report := c.reports ++ (if c.inH then [] else c.asyncs)

/-- Take one occurrence of a report out of the core's lists. -/
def dropReport (c : Core) (r : Report) : Core :=
  if c.reports.contains r then { c with reports := c.reports.erase r } else { c with asyncs := c.asyncs.erase r }

/-- Take a reported trap at a bundle boundary; one that the CP retries leaves the core running (R240). -/
def takeReported (s : State) (k : Nat) (r : Report) : State :=
  if r.retry then retryTrap s k (reportCause r) else takeTrap s k (reportCause r)

/-- PENDING_TRAP_TAKEN (R225): the pending trap of lowest code is taken at the bundle boundary of a core with a running
task. -/
def execPendingTrapTaken (k : Nat) (s : State) : Host.Outcome State Fault Refusal :=
  let c := coreAt s k
  if c.task.isNone || c.stop.isSome then .next s
  else
    match lowestReport (pendingReports c) with
    | some r => .next (takeReported (onCore s k fun c => dropReport c r) k r)
    | none => .next s

/-- The cause of a starvation trap (R22, R409). -/
def starvationCause (h : Hold) : Cause := { Cause.precise 0x06 h.sub h.slot with stg := h.stg, obj := h.obj, tl := h.tl }

/-- The watchdog's limit (R23). -/
def wdogLimit (c : Core) : Nat := bits c.csr.wdog 0 32

/-- STARVATION_TRAP (R22): the held bundle's watchdog has reached its limit. -/
def execStarvationTrap (k : Nat) (s : State) : Host.Outcome State Fault Refusal :=
  let c := coreAt s k
  match c.hold with
  | some h =>
    if c.task.isSome && c.stop.isNone && decide (wdogLimit c ≤ c.held) then .next (takeTrap s k (starvationCause h)) else .next s
  | none => .next s

end Sys2Proof.Machine
end

