-- ==== Sys2Proof/Machine/Airing.lean ====
section
/-! DEFINITION. Oversubscription (R167, R168): the page compressor's sweep, the expansion of aired pages, and the CP's answer to
an AIRED fault. The frames the CP may give out are those that airing has freed [15]. -/

namespace Sys2Proof.Machine

/-- A resident level-3 leaf: its frame, its context, its entry's address, its local page number. -/
structure Leaf where
  frame : Nat
  ctx   : Nat
  ea    : Nat
  page  : Nat
  deriving DecidableEq, Repr

/-- The valid level-3 leaves under a node; `va` is the page number gathered so far. -/
def leavesUnder (m : Memory) (x : Nat) : List (Nat × Nat × Nat × Bool × Bool) → Nat → Nat → List Leaf
  | [], _, _ => []
  | (_, n, _, _, only) :: r, node, va =>
    (List.range n).flatMap fun i =>
      let e : Word := BitVec.ofNat 64 (readNat m (node + 8 * i) 8)
      if bits e 0 1 = 0 then []
      else if bits e 1 1 = 1 then
        (if only then [{ frame := bits e 10 42 * 1024, ctx := x, ea := node + 8 * i, page := va * n + i }] else [])
      else leavesUnder m x r (bits e 10 42 * 1024) (va * n + i)

/-- All resident 32 KiB pages of the die. -/
def allLeaves (s : State) : List Leaf :=
  s.ctxs.flatMap fun e => match e.2 with | some x => leavesUnder s.hbm e.1 levels x.ptroot 0 | none => []

/-- The entry of a leaf. -/
def leafWord (s : State) (l : Leaf) : Word := BitVec.ofNat 64 (readNat s.hbm l.ea 8)

/-- Unpinned, unchecked, and its context keeps 32 resident frames (R167, R168). -/
def airable (s : State) (ls : List Leaf) (l : Leaf) : Bool :=
  bits (leafWord s l) 8 1 == 0 && bits (leafWord s l) 5 1 == 0 && decide (32 < (ls.filter fun k => k.ctx == l.ctx).length)

/-- Insert a leaf into a list in frame order. -/
def insertLeaf (l : Leaf) : List Leaf → List Leaf
  | [] => [l]
  | k :: r => if l.frame ≤ k.frame then l :: k :: r else k :: insertLeaf l r

/-- The eligible pages in frame order from the hand, wrapping. -/
def handOrder (s : State) (ls : List Leaf) : List Leaf :=
  let ok := (ls.filter (airable s ls)).foldr insertLeaf []
  ok.filter (fun l => decide (s.airing.hand ≤ l.frame)) ++ ok.filter fun l => decide (l.frame < s.airing.hand)

/-- The eligible page next in frame order from the hand. -/
def nextLeaf (s : State) (ls : List Leaf) : Option Leaf := (handOrder s ls).head?

/-- The capability-tagged granules of a frame, as offsets. -/
def frameTags (s : State) (frame : Nat) : List Nat :=
  s.capTags.filterMap fun g => if g % 2 = 0 ∧ frame ≤ g / 2 * 16 ∧ g / 2 * 16 < frame + 32768 then some (g / 2 * 16 - frame) else none

/-- Store a leaf's entry and forget its translation. -/
def putLeaf (s : State) (l : Leaf) (e : Word) : State :=
  { s with hbm := writeNat s.hbm l.ea 8 e.toNat, tlb := s.tlb.filter fun t => !(t.1 == l.ctx && t.2.1 == l.page) }

/-- Room in the airing zone for a page. -/
def zoneFits (s : State) (bs : List Byte) : Bool := decide (s.airing.used + Config.compressedSize bs ≤ s.page.airsize.toNat)

/-- What fetch may still see of a frame's bytes (R163), by epoch and offset. -/
def framePrior (s : State) (frame : Nat) : List (Nat × Nat × Byte) :=
  s.prior.filterMap fun o => if within { sp := false, a := frame } 32768 o.2.1 then some (o.1, o.2.1 / 2 - frame, o.2.2) else none

/-- The frame of an aired page as the zone keeps it. -/
def airedOf (s : State) (frame : Nat) : Aired where
  bytes := readBytes s.hbm frame 32768
  tags := frameTags s frame
  prior := framePrior s frame

/-- The compressed form of a page is written to the airing zone, after what the zone holds [46]. The page comes back from its record
in `zone`: the manual gives the zone no format, so no store to it changes a page. -/
def fillZone (s : State) (bs : List Byte) : State :=
  hbmWrite s (s.page.airbase.toNat + s.airing.used) ((List.range (Config.compressedSize bs)).map (Config.zoneByte bs))

/-- Air a page: its bytes go into the zone, its leaf becomes V = 0 and AIR = 1, its frame is freed. -/
def airPage (s : State) (l : Leaf) : State :=
  let z := airedOf s l.frame
  let a := s.airing
  let e := setBits (setBits (setBits (setBits (leafWord s l) 0 1 0) 9 1 1) 6 1 0) 10 42 a.next
  let s := fillZone (dropPrior (putLeaf s l e) { sp := false, a := l.frame } 32768) z.bytes
  { s with airing := { a with zone := mset a.zone a.next z, next := a.next + 1, hand := l.frame + 32768,
                              used := a.used + Config.compressedSize z.bytes, free := a.free ++ [l.frame] } }

/-- One movement of the hand (R167). -/
def sweepOnce (s : State) : State :=
  match nextLeaf s (allLeaves s) with
  | none => s
  | some l =>
    if bits (leafWord s l) 6 1 = 1 then
      let s := putLeaf s l (setBits (leafWord s l) 6 1 0)
      { s with airing := { s.airing with hand := l.frame + 32768 } }
    else if zoneFits s (readBytes s.hbm l.frame 32768) then airPage s l
    else { s with airing := { s.airing with hand := l.frame + 32768 } }

/-- The sweep runs: free frames are below the host's mark, which is set, and there is a zone. -/
def sweepDue (s : State) : Bool :=
  s.page.lowmark != 0 && s.page.airsize != 0 && decide (s.airing.free.length < s.page.lowmark.toNat)

/-- PAGE_COMPRESSOR_SWEEP (R167). -/
def execPageCompressorSweep (s : State) : Host.Outcome State Fault Refusal := .next (if sweepDue s then sweepOnce s else s)

/-- The aired level-3 entry of a page, if it has one: its address and its record index. -/
def airedEntry (m : Memory) (va : Nat) : List (Nat × Nat × Nat × Bool × Bool) → Nat → Option (Nat × Nat)
  | [], _ => none
  | (sh, n, _, _, only) :: r, node =>
    let ea := node + 8 * (va / 2 ^ sh % n)
    let e : Word := BitVec.ofNat 64 (readNat m ea 8)
    if bits e 0 1 = 0 then (if only && bits e 9 1 == 1 then some (ea, bits e 10 42) else none)
    else if bits e 1 1 = 1 then none
    else airedEntry m va r (bits e 10 42 * 1024)

/-- A frame that the CP may give out: free, and on no channel that awaits its retirement (R403). -/
def freeFrame (s : State) : Option Nat := s.airing.free.find? fun f => !s.shape.badCh.any fun h => Config.frameOn f h

/-- Give the page a frame again (R167): its bytes, tags and what fetch may still see of them come back; none when no frame is free. -/
def expandInto (s : State) (ea i : Nat) : Option State :=
  (freeFrame s).map fun f =>
    let z := mget { bytes := [], tags := [], prior := [] } s.airing.zone i
    let p : Phys := { sp := false, a := f }
    let s := z.tags.foldl (fun s o => setTag s { p with a := f + o } true) (physWrite (dropPrior s p z.bytes.length) p z.bytes)
    let e : Word := BitVec.ofNat 64 (readNat s.hbm ea 8)
    let e := setBits (setBits (setBits e 10 42 (f / 1024)) 9 1 0) 0 1 1
    let a := s.airing
    { s with
      hbm := writeNat s.hbm ea 8 e.toNat
      prior := z.prior.map (fun o => (o.1, 2 * (f + o.2.1), o.2.2)) ++ s.prior
      airing := { a with zone := a.zone.filter fun z => z.1 != i, used := a.used - Config.compressedSize z.bytes, free := a.free.erase f } }

/-- A victim outside the pages of a context that the faulting access needs: the next eligible page, from the hand on, that fits the
zone (R168). Nothing is aired while AIRSIZE or LOWMARK is 0 (R167). -/
def airVictim (s : State) (x : Nat) (keep : List Nat) : Option State :=
  if s.page.airsize = 0 ∨ s.page.lowmark = 0 then none
  else
    let all_ := allLeaves s
    ((handOrder s all_).find? fun l => !(l.ctx == x && keep.contains l.page) && zoneFits s (readBytes s.hbm l.frame 32768)).map (airPage s)

/-- Resolve an AIRED fault of context x at a local address, for an access that needs the pages `keep`: none when no frame can be found
(R168). -/
def resolveAired (s : State) (x va : Nat) (keep : List Nat) : Option State :=
  match airedEntry s.hbm va levels (ctxAt s x).ptroot with
  | none => some s
  | some (ea, i) =>
    ((expandInto s ea i).or ((airVictim s x (va / 32768 :: keep)).bind fun t => expandInto t ea i)).map fun t => invalidateTlb t x

/-- No frame can be found: the context is pre-empted with FRAME_STARVED (R168). -/
def starve (s : State) (x : Nat) : State := if (ctxAt s x).resident then preemptCtx s x 0x0E else s

/-- Resolve an AIRED fault, or pre-empt the context. -/
def resolveOrStarve (s : State) (x va : Nat) (keep : List Nat) : State := (resolveAired s x va keep).getD (starve s x)

/-- AIRED_FAULT_RESOLVE (R165, R167, R168): the CP resolves the fault core k stopped on, and the core goes on. A page of another die
has been resolved there. -/
def execAiredFaultResolve (k : Nat) (s : State) : Host.Outcome State Fault Refusal :=
  let c := coreAt s k
  match c.stop with
  | none => .next s
  | some st =>
    if st.code = 3 ∧ bits c.csr.tcause 16 8 = 2 then
      let a := c.csr.tval
      let s := onCore s k fun c => resumeCore c false
      .next (if ownerOf a = s.port.rank then resolveOrStarve s (keyCtx k) (localOf a) st.need else s)
    else .next s

/-- An AIRED fault of an engine operation of a core with no running task (R225): it is recorded, the CP brings the page back, and the
operation goes on; the core is not stopped. -/
def airedBetween (s : State) (k : Nat) (r : Report) (epc : Word) : State :=
  let s := onCore s k fun x => writeCause x { reportCause r with eng := true } epc
  let s := onCore (recordTrap s k true) k wakeEngines
  if ownerOf r.addr = s.port.rank then resolveOrStarve s (keyCtx k) (localOf r.addr) r.need else s

/-- A first residue failure of an engine operation of a core with no running task (R225, R240): it is recorded and the operation
goes on from the failed K block. -/
def retriedBetween (s : State) (k : Nat) (r : Report) (epc : Word) : State :=
  onCore (recordTrap (onCore s k fun x => writeCause x { reportCause r with eng := true } epc) k true) k wakeEngines

/-- The entry address of the task staged on the hardware of core k, by whichever context; zero where none is (R225). -/
def stagedEntry (s : State) (k : Nat) : Word :=
  (s.cores.findSome? fun e => if (ctxAt s (keyCtx e.1)).resident && sameCore s e.1 k then e.2.staged.map Task.entry else none).getD 0

/-- TRAP_BETWEEN_TASKS (R225): a report for an operation of a core with no running task goes to its default handler. -/
def execTrapBetweenTasks (k : Nat) (s : State) : Host.Outcome State Fault Refusal :=
  let c := coreAt s k
  if c.task.isSome || c.stop.isSome then .next s
  else
    match lowestReport (c.reports ++ c.asyncs) with
    | some r =>
      let epc := stagedEntry s k
      let s := onCore s k fun c => dropReport c r
      if r.retry then .next (retriedBetween s k r epc)
      else if cpResolves (reportCause r) then .next (airedBetween s k r epc)
      else .next (stopCore s k { reportCause r with eng := true } true epc)
    | none => .next s

/-! ### Die units and the ready queue (R37, R38, R353) -/

/-- An access of a die unit, AIRED pages being brought back first (R353): one that still fails as AIRED has found no frame. -/
def unitTry (s : State) (x : Nat) (who : Who) (a : Word) (op : MemOp) : Nat → Except Bad (State × Got)
  | 0 => performMem s (coreKey x 0) who false a op
  | n + 1 =>
    match performMem s (coreKey x 0) who false a op with
    | .ok r => .ok r
    | .error b =>
      if b.code = 3 ∧ b.sub = 2 then
        match resolveAired s x (localOf (b.at_.getD a)) (opPages a op) with
        | some t => unitTry t x who a op n
        | none => .error b
      else .error b

/-- Dispatch a record to a core (R37, R38): its remaining fields are read once, by the FCP with the entry's acquire time; an entry whose
page finds no frame stays queued. -/
def dispatchRecord (s : State) (k : Nat) (e : Ready) : State :=
  match unitTry s e.ctx (fcpAgent s e.q false) e.addr (.load 64 false) 4 with
  | .error b => if b.code = 3 ∧ b.sub = 2 then starve s e.ctx else decFailed (dropReady s e) (fcpAgent s e.q false) e.addr b
  | .ok (t, g) =>
    let r : BitVec 512 := BitVec.ofNat 512 (leNat g.bytes)
    let t := dropReady t e
    if g.poison then logCp t 3 e.addr.toNat 2
    else if recordBad t r then logCp (markRecord t e.ctx e.addr 5) 1 e.addr.toNat e.ctx
    else stageTask (markRecord t e.ctx e.addr 2) k (recordTask e r)

/-- CORE_TASK_CHOICE (R34, R35): the hardware of core k, when free, takes its choice. An iteration goes to the core the walker hands it
to; a ready task to the lowest-numbered core that chooses it. -/
def execCoreTaskChoice (k : Nat) (s : State) : Host.Outcome State Fault Refusal :=
  if !(ctxAt s (keyCtx k)).resident || !coreFree s k then .next s
  else
    match coreChoice s k with
    | some (.iteration l o) => .next (if walkerPick s l = some k then stageIteration s k l o else s)
    | some (.ready r) => .next (if keyCtx k = r.ctx ∧ takesReady s k r then dispatchRecord s k r else s)
    | none => .next s

/-- TASK_RECORD_DECREMENT (R37): a decrement of a record that the part owes; one kept for its page tries again once the CP has brought
the page back. -/
def execTaskRecordDecrement (x : Nat) (a : Word) (s : State) : Host.Outcome State Fault Refusal :=
  if s.fcp.pendDec.contains (x, a) then
    let s := { s with fcp := { s.fcp with pendDec := s.fcp.pendDec.erase (x, a) } }
    .next (decRecord (resolveOrStarve s x (localOf a) []) x a)
  else .next (decRecord s x a)

/-- The STATE changes that wait for their page (R37). -/
def retryMarks (s : State) : State :=
  let ms := s.fcp.pendMark
  ms.foldl (fun s m => markRecord (resolveOrStarve s m.1 (localOf m.2.1) []) m.1 m.2.1 m.2.2)
    { s with fcp := { s.fcp with pendMark := [] } }

/-- The pages that the accesses of a job need are brought back. -/
def jobPages (s : State) (j : UnitJob) : State :=
  let back (a : Word) (n : Nat) : State :=
    (opPages a (.load n false)).foldl (fun s p => resolveOrStarve s j.ctx (p * 32768) (opPages a (.load n false))) s
  match j.op with
  | .write a bs => back a bs.length
  | .release a => back a 8
  | .dec a => back a 64
  | .complete _ _ => s

/-- Try the waiting jobs of the die units, each lane in order. -/
def runJobs : List UnitJob → List Nat → State → State
  | [], _, s => s
  | j :: r, held, s =>
    if held.contains j.lane then runJobs r held { s with cp := { s.cp with jobs := s.cp.jobs ++ [j] } }
    else
      let (t, left) := unitRun (jobPages s j) j
      runJobs r (if left.isEmpty then held else j.lane :: held) { t with cp := { t.cp with jobs := t.cp.jobs ++ left } }

/-- What die units have waiting is tried at the end of each cycle. -/
def retryUnits (s : State) : State :=
  let s := retryMarks s
  runJobs s.cp.jobs [] { s with cp := { s.cp with jobs := [] } }

end Sys2Proof.Machine
end

