-- ==== Sys2Proof/Machine/Fcp.lean ====
section
/-! DEFINITION. The front-end command processor (R349 to R370): command checks, launches, collectives, arbitration; and the end of a
launch (R41). -/

namespace Sys2Proof.Machine

/-! ### Commands (R352, R353) -/

def cmdKind (w : BitVec 512) : Nat := rbits w 0 8
def cmdDti (w : BitVec 512) : Nat := rbits w 46 6
def cmdOp (w : BitVec 512) : Nat := rbits w 52 2
def cmdType (w : BitVec 512) : Nat := rbits w 54 2
def cmdGrp (w : BitVec 512) : Nat := rbits w 56 8
def cmdCtx (w : BitVec 512) : Nat := rbits w 144 16
def cmdBlk (w : BitVec 512) : Nat := rbits w 160 32
def cmdAddr (w : BitVec 512) : Word := BitVec.ofNat 64 (rbits w 192 64)
def cmdVal (w : BitVec 512) : Nat := rbits w 256 64
def cmdBuf (w : BitVec 512) (i : Nat) : Word := BitVec.ofNat 64 (rbits w (320 + 64 * i) 64)

/-- Fields (low bit, width) that a kind does not use (R352). -/
def unusedFields (kind : Nat) : List (Nat × Nat) :=
  let dti := (46, 6)
  let coll := [(52, 2), (54, 2), (56, 8), (160, 32), (320, 64), (384, 64), (448, 64)]
  match kind with
  | 0 => dti :: coll ++ [(192, 64), (256, 64)]
  | 1 => dti :: coll ++ [(256, 64)]
  | 2 => [dti, (256, 64)]
  | _ => coll ++ [(192, 64)]

/-- The first check of R353 fails. -/
def cmdBad (s : State) (w : BitVec 512) : Bool :=
  decide (3 < cmdKind w) || rbits w 8 38 != 0 || rbits w 128 16 != 0 || (ctxAt? s (cmdCtx w)).isNone ||
    (unusedFields (cmdKind w)).any fun f => rbits w f.1 f.2 != 0

/-- A command completes (R353, R399): STATUS, OVF and FSTEP in the command, the journal, then the timeline, at the time that follows
the command's last access (R354, R170). -/
def completeCmd (s : State) (q status : Nat) (ovf : Bool) (fstep : Nat) : State :=
  match queueCmds s q with
  | [] => s
  | c :: r =>
    let s := hbmWrite s (c.addr + 8) (leBytes 8 (status + ovf.toNat * 256 + fstep * 2 ^ 32))
    let s := journalMark s q c (if status = 0 then 3 else 4) status c.num
    startLater (dtComplete (setCmds s q r) q c.num (s.time + 1)) q

/-- Replace the head command of a queue. -/
def setHead (s : State) (q : Nat) (c : Cmd) : State := setCmds s q (c :: (queueCmds s q).tail)

/-- A command starts: the journal says so. -/
def startCmd (s : State) (q : Nat) (c : Cmd) : State :=
  journalMark (setHead s q { c with started := true }) q c 2 0 0

/-! ### Accesses of the FCP (R353, R369) -/

/-- How an access of the FCP has failed: the command's status (R353), with the failure of the access itself. `aired` is no status: the
page has found no frame, so that the context is pre-empted and the access waits. -/
structure FcpErr where
  status : Nat
  bad    : Option Bad := none
  aired  : Bool := false
  deriving DecidableEq, Repr

/-- A failure with a status. -/
def FcpErr.of (st : Nat) : FcpErr := { status := st }

/-- An FCP access to this die's memory: its failure, or its bytes. -/
def fcpAccess (s : State) (x q : Nat) (rx : Bool) (a : Word) (op : MemOp) : Except FcpErr (State × List Byte) :=
  if !canonical a || ownerOf a != s.port.rank then .error (.of 9)
  else
    match unitTry s x (fcpAgent s q rx) a op 4 with
    | .error b => .error { status := 9, bad := some b, aired := b.code == 3 && b.sub == 2 }
    | .ok (s', g) => if loadsPoison op g then .error (.of 9) else .ok (s', g.bytes)

/-- The CP logs the failed race check of a command (R178). -/
def logFcp (s : State) (q : Nat) (e : FcpErr) : State :=
  match e.bad with
  | some b => if b.code = 5 then logRace s b (fcpAgent s q false) else s
  | none => s

/-- The global address of a local one. -/
def ownAddr (s : State) (a : Nat) : Word := BitVec.ofNat 64 (s.port.rank * 2 ^ 47 + a)

/-! ### Launches (R27 to R31) -/

/-- The status of a launch record's checks (R30). -/
def launchStatus (s : State) (x : Nat) (r : BitVec 512) : Nat :=
  let n := lrLevels r
  let used := (lrOrder r).take n
  if rbits r 0 6 ≠ 0 ∨ rbits r 47 10 ≠ s.port.rank then 1
  else if !rectOk s (rbits r 170 3) (rbits r 167 3) (rbits r 163 4) (rbits r 159 4) then 2
  else if n = 0 ∨ n = 7 ∨ (List.range n).any (fun j => !used.contains j) ∨ ((lrOrder r).drop n).any (· != 0) ∨
      (List.range 6).any (fun j => (lrBound r j == 0) == decide (j < n)) ∨ 2 ^ 32 < lrTotal r then 3
  else if lrMulti r ∧ groupUsable s x (groupEntry s x (lrGroup r)) = false then 4
  else if rbits r 488 24 ≠ 0 ∨ rbits r 448 31 ≠ 0 ∨ rbits r 173 4 ≠ 0 ∨ rbits r 128 7 ≠ 0 ∨ rbits r 57 7 ≠ 0 then 5
  else 0

/-- Start a launch (R31, R40): its sequence number, its place among the multi-die launches of its group. Its gang is reserved core by
core from the next cycle on. -/
def startLaunch (s : State) (q x : Nat) (a : Word) (r : BitVec 512) : State :=
  let c := ctxAt s x
  let k := if lrMulti r then mget 0 c.multi (lrGroup r) + 1 else 0
  let s := if lrMulti r then setCtx s x { c with multi := mset c.multi (lrGroup r) k } else s
  let l : Launch := { seq := s.fcp.seq + 1, ctx := x, record := r, recAddr := a, phase := .reserving, held := [], k := 0, step := 0,
                      ord := 0, last := 0, given := [], running := 0, start := s.time, kth := k, told := false, queue := some q, had := false }
  { s with fcp := { s.fcp with seq := s.fcp.seq + 1, launches := s.fcp.launches ++ [l] } }

/-- Grant a LAUNCH that has not started (R30): while its record's page finds no frame, the read waits with its context pre-empted. No
status is given for an ADDR that is no multiple of 64: the 64 bytes at that address are the record (DESIGN CHOICE [116]). -/
def grantLaunch (s : State) (q : Nat) (c : Cmd) : State :=
  let x := cmdCtx c.words
  match fcpAccess s x s.time false (cmdAddr c.words) (.load 64 false) with
  | .error e => if e.aired then starve s x else completeCmd (logFcp s s.time e) q e.status false 0
  | .ok (s, bs) =>
    let r : BitVec 512 := BitVec.ofNat 512 (leNat bs)
    let st := launchStatus s x r
    if st ≠ 0 then completeCmd s q st false 0 else startLaunch (startCmd s q c) q x (cmdAddr c.words) r

/-- The gang has been released and DONEREC decremented: the launch is over, and its command completes unless it was aborted (R41). -/
def endLaunch (s : State) (l : Launch) : State :=
  let s := { s with fcp := { s.fcp with launches := s.fcp.launches.filter fun m => m.seq != l.seq } }
  match l.queue with
  | some q => completeCmd s q 0 false 0
  | none => s

/-- A launch keeps its place while its DONEREC is decremented. -/
def setFinishing (s : State) (l : Launch) (st : Nat) : State := setLaunch s { l with held := [], phase := .finishing st }

/-- The decrement of the DONEREC of a launch whose gang has been released (R41): made on this die, or sent to its owner; it waits for a
page, a bank lock or a landing slot, and one that fails is logged. -/
def decDone (s : State) (l : Launch) : State :=
  let a := lrDone l.record
  let k := coreKey l.ctx 0
  let who := fcpAgent s s.time false
  if a = 0 then endLaunch s l
  else if ownerOf a = s.port.rank then
    if accessHeld s none k false a .taskDec then setFinishing s l 0
    else
      match unitTry s l.ctx who a .taskDec 4 with
      | .ok (t, _) => endLaunch t l
      | .error b => if b.code = 3 ∧ b.sub = 2 then setFinishing (starve s l.ctx) l 0 else endLaunch (decFailed s who a b) l
  else
    match takeUnit s 0 with
    | none => setFinishing s l 0
    | some t =>
      match sendBody t l.ctx 2 false (ownerOf a) (.mem who { core := k, stream := 16, id := l.seq } none a .taskDec) with
      | some t => setFinishing t l 1
      | none => endLaunch (logCp s 3 a.toNat 12) l

/-- The owner has answered the decrement of a launch's DONEREC; id 0 is that of every other decrement. -/
def landedDec (s : State) (id : Nat) : State :=
  match launchOf s id with
  | some l => if id ≠ 0 ∧ l.phase = .finishing 1 then setFinishing s l 2 else s
  | none => s

/-- LAUNCH_COMPLETION (R41): after the last superstep the gang is released, then DONEREC decremented, then the command completed. -/
def execLaunchCompletion (n : Nat) (s : State) : Host.Outcome State Fault Refusal :=
  match launchOf s n with
  | none => .next s
  | some l =>
    match l.phase with
    | .finishing 0 => .next (decDone s l)
    | .finishing 1 => .next s
    | .finishing _ => .next (endLaunch s l)
    | .committed => .next (if stepDone s l && decide (lrLast l.record ≤ l.step) then decDone s l else s)
    | .reserving | .backoff _ => .next s

/-! ### Groups (R355 to R357) -/

/-- What an instance needs of its group. -/
structure Grp where
  ranks : List Nat
  me    : Nat
  psub  : Nat
  gst   : Nat
  stg   : Nat
  deriving DecidableEq, Repr

/-- The group of an entry. -/
def grpOf (e : BitVec 2048) : Grp where
  ranks := groupMembers e
  me := rbits e 1024 10
  psub := rbits e 1048 7
  gst := rbits e 1088 47
  stg := rbits e 1152 47

/-- Counter f of the record of member g (R357): 0 ARR, 4 FRE, 8 SNT, 12 CON. -/
def grpCount (s : State) (x : Nat) (g : Grp) (p f : Nat) : Except FcpErr Nat :=
  (fcpAccess s x 0 true (ownAddr s (g.gst + 16 * p + f)) (.load 4 false)).map fun r => leNat r.2

/-- Set such a counter. -/
def setCount (s : State) (x : Nat) (g : Grp) (p f v : Nat) : Except FcpErr State :=
  (fcpAccess s x 0 true (ownAddr s (g.gst + 16 * p + f)) (.store (leBytes 4 v) false)).map Prod.fst

/-! ### Step words (R359) -/

def swOp (w : Word) : Nat := bits w 60 4
def swPm (w : Word) : Bool := bits w 59 1 == 1
def swPsh (w : Word) : Bool := bits w 58 1 == 1
def swPlv (w : Word) : Nat := bits w 56 2
def swPv (w : Word) : Nat := bits w 46 10
def swSb (w : Word) : Nat := bits w 44 2
def swDb (w : Word) : Nat := bits w 42 2
def swBme (w : Word) : Nat := bits w 41 1
def swBsg (w : Word) : Nat := bits w 39 2
def swBlv (w : Word) : Nat := bits w 37 2
def swBv (w : Word) : Nat := bits w 27 10
def swCmp (w : Word) : Nat := bits w 24 3
def swZ (w : Word) : Bool := bits w 23 1 == 1

/-- Bits a data step may use: peer, source, destination, block, compression, token. -/
def stepAllows (op : Nat) : Nat :=
  let peer := (2 ^ 14 - 1) * 2 ^ 46
  let sb := 3 * 2 ^ 44
  let db := 3 * 2 ^ 42
  let blk := (2 ^ 15 - 1) * 2 ^ 27
  let cmp := 7 * 2 ^ 24
  let z := 2 ^ 23
  match op with
  | 1 => peer + sb + blk + cmp + z
  | 2 => peer + db + blk + z
  | 3 => peer + sb + db + blk + cmp
  | 4 => peer + sb + db + blk
  | _ => sb + db + blk

/-- Compression is allowed for the command (R363). -/
def compressible (w : BitVec 512) : Bool := cmdOp w == 0 && cmdType w != 2

/-- A data step breaks R359, R363 or R366 at a loop depth. -/
def dataBad (c : BitVec 512) (w : Word) (depth : Nat) : Bool :=
  (w.toNat % 2 ^ 60) &&& (2 ^ 60 - 1 - stepAllows (swOp w)) != 0 || swSb w == 3 || swDb w == 3 || swBsg w == 3 || decide (4 < swCmp w) ||
    (swCmp w != 0 && !compressible c) || (swPsh w && decide (depth ≤ swPlv w)) || (swBsg w != 0 && decide (depth ≤ swBlv w))

/-- Scan a program (R366): the words up to its END, or the first failing step. `depth` loops are open. -/
def scanProg (c : BitVec 512) (read : State → Nat → Except FcpErr (State × Word)) :
    Nat → Nat → Nat → State → Except (FcpErr × Nat) (State × List Word)
  | 0, i, _, _ => .error (.of 7, i)
  | n + 1, i, depth, s =>
    match read s i with
    | .error e => .error (e, i)
    | .ok (s, w) =>
      let low := w.toNat % 2 ^ 60
      let bad : Except (FcpErr × Nat) (State × List Word) := .error (.of 7, i)
      let more (d : Nat) : Except (FcpErr × Nat) (State × List Word) := (scanProg c read n (i + 1) d s).map fun r => (r.1, w :: r.2)
      match swOp w with
      | 0 => if low ≠ 0 ∨ depth ≠ 0 then bad else .ok (s, [w])
      | 1 => if dataBad c w depth then bad else more depth
      | 2 => if dataBad c w depth then bad else more depth
      | 3 => if dataBad c w depth then bad else more depth
      | 4 => if dataBad c w depth then bad else more depth
      | 5 => if dataBad c w depth then bad else more depth
      | 6 => if low = 0 ∨ 3 < low then bad else more depth
      | 7 => if bits w 58 2 = 3 ∨ bits w 16 42 ≠ 0 ∨ depth = 4 then bad else more (depth + 1)
      | 8 => if low ≠ 0 ∨ depth = 0 then bad else more (depth - 1)
      | _ => bad

/-- The checks of a COLL (R353): status and FSTEP, or its program. -/
def collCheck (s : State) (w : BitVec 512) : Except (FcpErr × Nat) (State × List Word) :=
  let x := cmdCtx w
  let blk := cmdBlk w
  if cmdType w = 3 ∨ cmdOp w = 3 ∨ blk % 256 ≠ 0 ∨ blk < 256 ∨ 2 ^ 30 < blk ∨ (cmdAddr w).toNat % 8 ≠ 0 then .error (.of 6, 0)
  else if groupUsable s x (groupEntry s x (cmdGrp w)) = false then .error (.of 4, 0)
  else if (List.range 3).any fun i => !canonical (cmdBuf w i) || ownerOf (cmdBuf w i) != s.port.rank then .error (.of 0x0A, 0)
  else
    scanProg w (fun t i => (fcpAccess t x t.time false (locAddr (cmdAddr w) (BitVec.ofNat 64 (8 * i))) (.load 8 false)).map fun r =>
      (r.1, BitVec.ofNat 64 (leNat r.2))) 1024 0 0 s

/-! ### Elements of a collective (R362, R363) -/

/-- Bytes of an element. -/
def collEs (type : Nat) : Nat := if type = 0 then 2 else 4

/-- Elements of a byte string. -/
def splitElems (es : Nat) : Nat → List Byte → List Nat
  | 0, _ => []
  | n + 1, bs => leNat (bs.take es) :: splitElems es n (bs.drop es)

/-- The floating-point format of a type. -/
def collFmt (type : Nat) : Fmt := if type = 0 then bf16 else fp32

/-- One element operation: the result and whether it sets OVF (R363). -/
def collElem (type op a b : Nat) : Nat × Bool :=
  if type = 2 then
    let x := sextNat 32 a
    let y := sextNat 32 b
    let r : Int := match op with | 0 => x + y | 1 => max x y | _ => min x y
    ((sat32 r % 4294967296).toNat, sat32 r != r)
  else
    let f := collFmt type
    let r := match op with
      | 0 => (f.add .rne (f.decode a) (f.decode b)).1
      | 1 => (f.minmax true (f.decode a) (f.decode b)).1
      | _ => (f.minmax false (f.decode a) (f.decode b)).1
    let v := f.decode r
    (if v.isNan then f.qnan else r, !v.isNan && !v.isFin)

/-- Elements kept of a compressed block: k = 4, 8, 16, 32 (R362). -/
def collKept (cmp : Nat) : Nat := 2 ^ (cmp + 1)

/-- Magnitude order: a NaN above infinity, infinity above every finite value. -/
def magKey (type x : Nat) : Nat :=
  let f := collFmt type
  if (f.decode x).isNan then 2 ^ 40 else x % 2 ^ (8 * collEs type - 1)

/-- The kept positions of a block, ascending. -/
def keptOf (type k : Nat) (xs : List Nat) : List Nat :=
  let ks := xs.map (magKey type)
  (List.range xs.length).filter fun i =>
    ((List.range xs.length).filter fun j =>
      decide (ks.getD i 0 < ks.getD j 0) || (ks.getD j 0 == ks.getD i 0 && decide (j < i))).length < k

/-- The wire bytes of a block of 64 elements. -/
def packBlock (type cmp : Nat) (xs : List Nat) : List Byte :=
  let ks := keptOf type (collKept cmp) xs
  leBytes 8 (ks.foldl (fun m i => m + 2 ^ i) 0) ++ ks.flatMap fun i => leBytes (collEs type) (xs.getD i 0)

/-- Wire bytes of one compressed block, and of a whole transfer. -/
def packedSize (type cmp : Nat) : Nat := 8 + collKept cmp * collEs type
def wireCount (type blk cmp : Nat) : Nat := if cmp = 0 then blk else blk / (64 * collEs type) * packedSize type cmp

/-! ### One grant (R350, R361 to R365) -/

/-- A grant under way: bytes moved, slots written to and taken from each peer. -/
structure Grant where
  s     : State
  i     : Instance_
  moved : Nat
  wr    : List Nat
  rd    : List Nat
  deriving DecidableEq, Repr

/-- What one small step of an instance comes to. -/
inductive Micro where
  | wait
  | go (g : Grant)
  | done (g : Grant)
  | fail (g : Grant) (e : FcpErr)
  deriving DecidableEq, Repr

/-- The loop counter at a depth. -/
def loopC (i : Instance_) (d : Nat) : Nat := ((i.loops[d]?).map LoopLevel.c).getD 0

/-- Peers and block of a data step (R361): fwd, inv, skip, block. -/
def stepPeers (g : Grp) (i : Instance_) (w : Word) : Nat × Nat × Bool × Nat :=
  let n := max 1 g.ranks.length
  let v := (if swPsh w then swPv w * 2 ^ loopC i (swPlv w) else swPv w) % 2 ^ 32
  let c : Int := match swBsg w with | 1 => loopC i (swBlv w) | 2 => -(loopC i (swBlv w) : Int) | _ => 0
  let blk := ((swBme w * g.me + swBv w + c) % (n : Int)).toNat
  if swPm w then ((g.me + v) % n, (((g.me : Int) - v) % (n : Int)).toNat, false, blk)
  else
    let f := g.me ^^^ v
    (f, f, decide (n ≤ f), blk)

/-- The next step of an instance, its position cleared. -/
def nextStep (i : Instance_) : Instance_ := { i with step := i.step + 1, out := 0, inn := 0, blocks := 0, data := [], head := [] }

/-- A buffer's block address. -/
def blockAddr (w : BitVec 512) (buf blk : Nat) : Word := cmdBuf w buf + BitVec.ofNat 64 (blk * cmdBlk w)

/-- Wire bytes [256j, 256j + 256) of a transfer from an address, reading only what they need. -/
def wireSlot (s : State) (x start : Nat) (w : BitVec 512) (cmp : Nat) (src : Word) (j : Nat) : Except FcpErr (State × List Byte) :=
  if cmp = 0 then fcpAccess s x start false (src + BitVec.ofNat 64 (256 * j)) (.load 256 false)
  else
    let t := cmdType w
    let es := collEs t
    let b := packedSize t cmp
    let first := 256 * j / b
    let last := (256 * j + 255) / b
    let total := cmdBlk w / (64 * es)
    let bs := (List.range (min (last + 1) total - first)).foldl (fun (r : Except FcpErr (State × List Byte)) d =>
      r.bind fun p =>
        (fcpAccess p.1 x start false (src + BitVec.ofNat 64 ((first + d) * 64 * es)) (.load (64 * es) false)).map fun q =>
          (q.1, p.2 ++ packBlock t cmp (splitElems es 64 q.2))) (.ok (s, []))
    bs.map fun p => (p.1, ((p.2.drop (256 * j - first * b)).take 256) ++ List.replicate (256 - ((p.2.drop (256 * j - first * b)).take 256).length) 0)

/-- The header slot (R362). -/
def headerSlot (i : Instance_) (w : BitVec 512) (cmp : Nat) (z : Bool) : List Byte :=
  leBytes 4 i.seq ++ leBytes 4 (if z then 0 else wireCount (cmdType w) (cmdBlk w) cmp) ++ leBytes 1 cmp ++ leBytes 1 (cmdType w) ++
    leBytes 1 z.toNat ++ leBytes 245 0

/-- Write 256 bytes into the staging of group rank p, on this die or at another: none while no landing slot is free for the completion
word of another die's (R294). -/
def writeStaging (s : State) (x q : Nat) (g : Grp) (p slot : Nat) (bs : List Byte) : Except FcpErr (Option State) :=
  let rank := g.ranks.getD p 0
  let a : Word := BitVec.ofNat 64 (rank * 2 ^ 47 + (g.stg + (g.me * g.psub + slot % max 1 g.psub) * 256) % 2 ^ 47)
  if rank = s.port.rank then (fcpAccess s x 0 true a (.store bs false)).map fun r => some r.1
  else
    match takeUnit s 0 with
    | none => .ok none
    | some t =>
      match sendBody t x 2 false rank (.mem (fcpAgent s 0 true) { core := coreKey x 0, stream := 18, id := q } none a (.store bs false)) with
      | some s' => .ok (some s')
      | none => .error (.of 0x0A)

/-- Whether group rank p is on another die. -/
def offDie (s : State) (g : Grp) (p : Nat) : Bool := g.ranks.getD p 0 != s.port.rank

/-- Hold a landing slot for the answer to the add that the end of the grant owes peer p, unless the grant has already touched it, or
needs none (R294, R365). -/
def holdAdd (s : State) (g : Grp) (touched : List Nat) (p : Nat) : Option State :=
  if touched.contains p || !offDie s g p then some s else takeUnit s 0

/-- Add to a counter of this die in the group state of rank p (R365). -/
def addCounter (s : State) (x q : Nat) (g : Grp) (p f n : Nat) : Except FcpErr State :=
  let rank := g.ranks.getD p 0
  let a : Word := BitVec.ofNat 64 (rank * 2 ^ 47 + (g.gst + 16 * g.me + f) % 2 ^ 47)
  let op : MemOp := .mop .add .nat 4 (BitVec.ofNat 64 n) 0
  if offDie s g p then
    match sendBody s x 2 false rank (.mem (fcpAgent s 0 true) { core := coreKey x 0, stream := 18, id := q } none a op) with
    | some t => .ok t
    | none => .error (.of 0x0A)
  else (fcpAccess s x 0 true a op).map Prod.fst

/-- Send one slot of the current transfer to p (R365). -/
def sendSlot (gr : Grant) (q x : Nat) (w : BitVec 512) (g : Grp) (p cmp : Nat) (z : Bool) (src : Word) : Micro :=
  match grpCount gr.s x g p 8, grpCount gr.s x g p 4 with
  | .ok snt, .ok fre =>
    if g.psub ≤ (snt + 2 ^ 32 - fre) % 2 ^ 32 then .wait
    else
      match holdAdd gr.s g gr.wr p with
      | none => .wait
      | some s =>
        match if gr.i.out = 0 then .ok (s, headerSlot gr.i w cmp z) else wireSlot s x gr.i.start w cmp src (gr.i.out - 1) with
        | .error e => .fail gr e
        | .ok (s, bs) =>
          match (writeStaging s x q g p snt bs).bind fun s => match s with
              | some s => (setCount s x g p 8 (snt + 1)).map some
              | none => .ok none with
          | .error e => .fail gr e
          | .ok none => .wait
          | .ok (some s) => .go { gr with s := s, i := { gr.i with out := gr.i.out + 1 }, moved := gr.moved + 256, wr := gr.wr ++ [p] }
  | .error e, _ => .fail gr e
  | _, .error e => .fail gr e

/-- Slots of a transfer. -/
def slotCount (w : BitVec 512) (cmp : Nat) (z : Bool) : Nat :=
  if z then 1 else 1 + (wireCount (cmdType w) (cmdBlk w) cmp + 255) / 256

/-- A received header disagrees with the step (R364). -/
def headMismatch (i : Instance_) (w : BitVec 512) (z : Bool) (h : List Byte) : Bool :=
  let cmp := leNat ((h.drop 8).take 1)
  leNat (h.take 4) != i.seq || leNat ((h.drop 9).take 1) != cmdType w || leNat ((h.drop 10).take 1) != z.toNat || decide (4 < cmp) ||
    leNat ((h.drop 4).take 4) != (if z then 0 else wireCount (cmdType w) (cmdBlk w) cmp) || (cmp != 0 && !compressible w)

/-- Combine the received elements `ts` (none where not kept) with `old` (RECV: dst; otherwise src), giving the new ones. -/
def mergeColl (w : BitVec 512) (recv packed : Bool) (ts : List (Option Nat)) (old : List Nat) : List Nat × Bool :=
  let rs := (ts.zip old).map fun e =>
    match e.1 with
    | some t => if recv && !packed then (t, false) else collElem (cmdType w) (cmdOp w) t e.2
    | none => (e.2, false)
  (rs.map Prod.fst, rs.any Prod.snd)

/-- Elements of a compressed block: none where not kept. -/
def unpackBlock (type : Nat) (bs : List Byte) : List (Option Nat) :=
  let es := collEs type
  let m := leNat (bs.take 8)
  (List.range 64).map fun i =>
    if m / 2 ^ i % 2 = 1 then
      let r := ((List.range i).filter fun j => m / 2 ^ j % 2 == 1).length
      some (leNat ((bs.drop (8 + r * es)).take es))
    else none

/-- Elements taken at a time of a piece of n bytes: one, where a write to dst would change what is still to be read from src, since
elements are taken in ascending address order (R363); otherwise all of them. -/
def elemsAt (src dst : Word) (n count : Nat) : Nat := if src ≠ dst ∧ (dst - src).toNat < n then 1 else count

/-- Apply elements of received data at byte offset o of the block. -/
def applyElems (s : State) (x : Nat) (i : Instance_) (w : BitVec 512) (recv packed : Bool) (src dst : Word) (o : Nat) (ts : List (Option Nat)) :
    Except FcpErr (State × Bool) :=
  let es := collEs (cmdType w)
  let n := ts.length * es
  let at_ (a : Word) : Word := a + BitVec.ofNat 64 o
  (if recv && !packed then .ok (s, List.replicate n 0) else fcpAccess s x i.start false (at_ (if recv then dst else src)) (.load n false)).bind fun r =>
    let (vs, ov) := mergeColl w recv packed ts (splitElems es ts.length r.2)
    (fcpAccess r.1 x i.start false (at_ dst) (.store (vs.flatMap fun v => leBytes es v) false)).map fun t => (t.1, ov)

/-- Apply one piece of received data at byte offset o of the block, `m` elements at a time. -/
def applyRuns (x : Nat) (i : Instance_) (w : BitVec 512) (recv packed : Bool) (src dst : Word) (m : Nat) :
    Nat → Nat → List (Option Nat) → State → Bool → Except FcpErr (State × Bool)
  | 0, _, _, s, ov => .ok (s, ov)
  | n + 1, o, ts, s, ov =>
    if ts.isEmpty then .ok (s, ov)
    else
      (applyElems s x i w recv packed src dst o (ts.take m)).bind fun r =>
        applyRuns x i w recv packed src dst m n (o + m * collEs (cmdType w)) (ts.drop m) r.1 (ov || r.2)

/-- Apply one piece of received data at byte offset o of the block. -/
def applyPiece (s : State) (x : Nat) (i : Instance_) (w : BitVec 512) (recv packed : Bool) (src dst : Word) (o : Nat) (ts : List (Option Nat)) :
    Except FcpErr (State × Bool) :=
  let m := if recv then ts.length else elemsAt src dst (ts.length * collEs (cmdType w)) ts.length
  applyRuns x i w recv packed src dst m ts.length o ts s false

/-- Copy n bytes from src to dst, `m` at a time (R363). -/
def copyRuns (x start : Nat) (m : Nat) : Nat → Word → Word → State → Except FcpErr State
  | 0, _, _, s => .ok s
  | n + 1, src, dst, s =>
    (fcpAccess s x start false src (.load m false)).bind fun r =>
      (fcpAccess r.1 x start false dst (.store r.2 false)).bind fun r =>
        copyRuns x start m n (src + BitVec.ofNat 64 m) (dst + BitVec.ofNat 64 m) r.1

/-- Copy 256 bytes. -/
def copyPiece (s : State) (x start es : Nat) (src dst : Word) : Except FcpErr State :=
  let m := es * elemsAt src dst 256 (256 / es)
  copyRuns x start m (256 / m) src dst s

/-- Consume the compressed blocks that have arrived whole. -/
def consumeBlocks (x : Nat) (w : BitVec 512) (recv : Bool) (src dst : Word) (cmp : Nat) : Nat → State → Instance_ → Except FcpErr (State × Instance_)
  | 0, s, i => .ok (s, i)
  | n + 1, s, i =>
    let t := cmdType w
    let b := packedSize t cmp
    if i.data.length < b ∨ cmdBlk w / (64 * collEs t) ≤ i.blocks then .ok (s, i)
    else
      (applyPiece s x i w recv true src dst (i.blocks * 64 * collEs t) (unpackBlock t (i.data.take b))).bind fun r =>
        consumeBlocks x w recv src dst cmp n r.1 { i with data := i.data.drop b, blocks := i.blocks + 1, ovf := i.ovf || r.2 }

/-- Take one slot of the current transfer from p (R364, R365). -/
def takeSlot (gr : Grant) (x : Nat) (w : BitVec 512) (g : Grp) (p : Nat) (z recv : Bool) (src dst : Word) : Micro :=
  match grpCount gr.s x g p 0, grpCount gr.s x g p 12 with
  | .ok arr, .ok con =>
    if (arr + 2 ^ 32 - con) % 2 ^ 32 = 0 then .wait
    else
      let a := ownAddr gr.s (g.stg + (p * g.psub + con % max 1 g.psub) * 256)
      match holdAdd gr.s g gr.rd p with
      | none => .wait
      | some s =>
      match (fcpAccess s x 0 true a (.load 256 false)).bind fun r => (setCount r.1 x g p 12 (con + 1)).map fun s => (s, r.2) with
      | .error e => .fail gr e
      | .ok (s, bs) =>
        let i := gr.i
        let taken : Grant := { gr with s := s, moved := gr.moved + 256, rd := gr.rd ++ [p] }
        let step (r : Except FcpErr (State × Instance_)) : Micro :=
          match r with
          | .error e => .fail (if e.aired then gr else taken) e
          | .ok (s, i) => .go { taken with s := s, i := { i with inn := i.inn + 1 } }
        if i.inn = 0 then (if headMismatch i w z bs then .fail taken (.of 8) else step (.ok (s, { i with head := bs })))
        else
          let cmp := leNat ((i.head.drop 8).take 1)
          let es := collEs (cmdType w)
          if cmp = 0 then
            step ((applyPiece s x i w recv false src dst (256 * (i.inn - 1)) ((splitElems es (256 / es) bs).map some)).map fun r =>
              (r.1, { i with ovf := i.ovf || r.2 }))
          else step (consumeBlocks x w recv src dst cmp 33 s { i with data := i.data ++ bs })
  | .error e, _ => .fail gr e
  | _, .error e => .fail gr e

/-- Slots of the transfer being taken, once its header is known. -/
def takeTotal (i : Instance_) (w : BitVec 512) (z : Bool) : Nat :=
  if i.inn = 0 then 1 else slotCount w (leNat ((i.head.drop 8).take 1)) z

/-- Every slot sent has been consumed by its peer (R365). -/
def drained (s : State) (x : Nat) (g : Grp) : Except FcpErr Bool :=
  (List.range g.ranks.length).foldl (fun r p => r.bind fun ok =>
    (grpCount s x g p 4).bind fun a => (grpCount s x g p 8).map fun b => ok && a == b) (.ok true)

/-- The index of the ENDL that closes the LOOP before index i. -/
def matchEndl (prog : List Word) : Nat → Nat → Nat → Nat
  | 0, i, _ => i
  | n + 1, i, d =>
    match prog[i]? with
    | none => i
    | some w =>
      if swOp w = 7 then matchEndl prog n (i + 1) (d + 1)
      else if swOp w = 8 then (if d = 0 then i else matchEndl prog n (i + 1) (d - 1))
      else matchEndl prog n (i + 1) d

/-- The count of a LOOP (R359). -/
def loopCount (n : Nat) (w : Word) : Nat :=
  match bits w 58 2 with
  | 0 => bits w 0 16
  | 1 => n - bits w 0 16
  | _ => Nat.clog 2 n

/-- One small step of an instance. -/
def microStep (q : Nat) (w : BitVec 512) (gr : Grant) : Micro :=
  let x := cmdCtx w
  let g := grpOf (groupEntry gr.s x (cmdGrp w))
  let i := gr.i
  let sw := i.prog.getD i.step 0
  let (fwd, inv, skip, blk) := stepPeers g i sw
  let src := blockAddr w (swSb sw) blk
  let dst := blockAddr w (swDb sw) blk
  let on : Micro := .go { gr with i := nextStep i }
  if i.bad ≠ 0 then .fail gr (.of i.bad)
  else
    match swOp sw with
    | 0 => (match drained gr.s x g with
        | .error e => .fail gr e
        | .ok true => .done gr
        | .ok false => .wait)
    | 1 =>
      if skip ∨ slotCount w (swCmp sw) (swZ sw) ≤ i.out then on
      else sendSlot gr q x w g fwd (swCmp sw) (swZ sw) src
    | 2 => if skip ∨ (0 < i.inn ∧ takeTotal i w (swZ sw) ≤ i.inn) then on else takeSlot gr x w g inv (swZ sw) true src dst
    | 4 => if skip ∨ (0 < i.inn ∧ takeTotal i w false ≤ i.inn) then on else takeSlot gr x w g inv false false src dst
    | 3 =>
      if skip then on
      else if i.inn = 0 ∨ i.inn < takeTotal i w false then takeSlot gr x w g inv false false src dst
      else if slotCount w (swCmp sw) false ≤ i.out then on
      else sendSlot gr q x w g fwd (swCmp sw) false dst
    | 5 =>
      if cmdBlk w / 256 ≤ i.out then on
      else
        let o := BitVec.ofNat 64 (256 * i.out)
        match copyPiece gr.s x i.start (collEs (cmdType w)) (src + o) (dst + o) with
        | .error e => .fail gr e
        | .ok s => .go { gr with s := s, i := { i with out := i.out + 1 } }
    | 6 => if bits sw 0 1 = 1 then (match drained gr.s x g with
          | .error e => .fail gr e
          | .ok true => on
          | .ok false => .wait) else on
    | 7 =>
      let n := loopCount g.ranks.length sw
      if n = 0 then .go { gr with i := { nextStep i with step := matchEndl i.prog 1024 (i.step + 1) 0 + 1 } }
      else .go { gr with i := { nextStep i with loops := i.loops ++ [{ first := i.step + 1, count := n, c := 0 }] } }
    | _ =>
      match i.loops.getLast? with
      | none => on
      | some l =>
        if l.c + 1 < l.count then
          .go { gr with i := { nextStep i with step := l.first, loops := i.loops.dropLast ++ [{ l with c := l.c + 1 }] } }
        else .go { gr with i := { nextStep i with loops := i.loops.dropLast } }

/-- How a grant ended. -/
inductive Ended where
  | more
  | done
  | fail (e : FcpErr)
  deriving DecidableEq, Repr

/-- Run an instance until CHUNK bytes have moved, it would wait, or it ends. The number of steps never ends it: 2^100 is more than the
loops and blocks of any program come to (R350). -/
def runGrant (q chunk : Nat) (w : BitVec 512) : Nat → Grant → Grant × Ended
  | 0, gr => (gr, .more)
  | n + 1, gr =>
    if chunk ≤ gr.moved then (gr, .more)
    else
      match microStep q w gr with
      | .wait => (gr, .more)
      | .go g => runGrant q chunk w n g
      | .done g => (g, .done)
      | .fail g e => (g, .fail e)

/-- CHUNK in bytes (R350). -/
def chunkBytes (s : State) : Nat := 2 ^ (max 12 (min 20 s.page.chunk.toNat))

/-- The adds that end a grant (R365): one to each peer written, one to each peer read. -/
def grantAdds (gr : Grant) : List (Nat × Nat × Nat) :=
  (gr.wr.dedup.map fun p => (p, 0, gr.wr.count p)) ++ gr.rd.dedup.map fun p => (p, 4, gr.rd.count p)

/-- The group of a command. -/
def cmdGroup (s : State) (w : BitVec 512) : Grp := grpOf (groupEntry s (cmdCtx w) (cmdGrp w))

/-- Give back the landing slots held for adds that are not made. -/
def dropAdds (w : BitVec 512) (adds : List (Nat × Nat × Nat)) (s : State) : State :=
  adds.foldl (fun s e => if offDie s (cmdGroup s w) e.1 then freeUnit s 0 else s) s

/-- Make the adds that a grant owes: the state, those that wait for a page of this die, and the failure that ends them (R353). -/
def makeAdds (q : Nat) (w : BitVec 512) : List (Nat × Nat × Nat) → State → State × List (Nat × Nat × Nat) × Option FcpErr
  | [], s => (s, [], none)
  | (p, f, n) :: r, s =>
    match addCounter s (cmdCtx w) q (cmdGroup s w) p f n with
    | .ok t => makeAdds q w r t
    | .error e =>
      if e.aired then
        let m := makeAdds q w r s
        (m.1, (p, f, n) :: m.2.1, m.2.2)
      else (dropAdds w ((p, f, n) :: r) s, [], some e)

/-- Clear V of a group entry (R370). -/
def spoilGroup (s : State) (x g : Nat) : State :=
  let a := (ctxAt s x).grptab + 256 * g + 131
  hbmWrite s a [BitVec.ofNat 8 (readNat s.hbm a 1 % 128)]

/-- A command's instance fails (R353, R370): V of its group entry is cleared, nothing more is sent. -/
def failColl (s : State) (q : Nat) (w : BitVec 512) (i : Instance_) (e : FcpErr) : State :=
  completeCmd (logFcp (spoilGroup s (cmdCtx w) (cmdGrp w)) i.start e) q e.status i.ovf i.step

/-- The end of a grant that has not failed: its adds, then the end of the instance or what is kept of it (R365). An add of this die that
finds no frame for its page waits, with the context pre-empted. -/
def endGrant (s : State) (q : Nat) (c : Cmd) (i : Instance_) (adds : List (Nat × Nat × Nat)) (done : Bool) : State :=
  let m := makeAdds q c.words adds s
  match m.2.2 with
  | some e => failColl m.1 q c.words i e
  | none =>
    if done && m.2.1.isEmpty then completeCmd m.1 q 0 i.ovf 0
    else
      let t := setHead m.1 q { c with started := true, inst := some { i with adds := m.2.1 } }
      if m.2.1.isEmpty then t else starve t (cmdCtx c.words)

/-- Run the instance of a COLL for one grant (R350). The adds that the last grant could not make come first. -/
def grantColl (s : State) (q : Nat) (c : Cmd) (i : Instance_) : State :=
  let w := c.words
  if !i.adds.isEmpty then endGrant s q c i i.adds false
  else
    let (gr, e) := runGrant q (chunkBytes s) w (2 ^ 100) { s := s, i := i, moved := 0, wr := [], rd := [] }
    match e with
    | .more => endGrant gr.s q c gr.i (grantAdds gr) false
    | .done => endGrant gr.s q c gr.i (grantAdds gr) true
    | .fail e =>
      if e.aired then starve (endGrant gr.s q c gr.i (grantAdds gr) false) (cmdCtx w)
      else failColl (dropAdds w (grantAdds gr) gr.s) q w gr.i e

/-- Start an instance (R358): SEQ := SEQ + 1. -/
def startColl (s : State) (q : Nat) (c : Cmd) (prog : List Word) : State :=
  let x := cmdCtx c.words
  let a := (ctxAt s x).grptab + 256 * cmdGrp c.words + 132
  let n := (readNat s.hbm a 4 + 1) % 2 ^ 32
  let s := hbmWrite (startCmd s q c) a (leBytes 4 n)
  let i : Instance_ := { prog := prog, seq := n, step := 0, loops := [], out := 0, inn := 0, blocks := 0, data := [], head := [], ovf := false,
                         start := s.time, bad := 0, adds := [] }
  grantColl (setHead s q { c with started := true, inst := some i }) q c i

/-! ### Arbitration (R351) -/

/-- Another queue runs an instance of the same group. -/
def groupBusy (s : State) (q : Nat) (w : BitVec 512) : Bool :=
  s.fcp.cmds.any fun e => e.1 != q && (match e.2 with
    | c :: _ => c.inst.isSome && cmdCtx c.words == cmdCtx w && cmdGrp c.words == cmdGrp w
    | [] => false)

/-- Whether the head command of a queue can make progress now (R351). A command whose context does not exist here is ready to be refused.
A launch backs off only once it has started, when its queue waits for it [73]. -/
def headReady (s : State) (q : Nat) (c : Cmd) : Bool :=
  let w := c.words
  let here := (ctxAt? s (cmdCtx w)).isNone || (ctxAt s (cmdCtx w)).resident
  match cmdKind w with
  | 1 => !c.started && here
  | 2 => here && (match c.inst with
      | none => !groupBusy s q w
      | some i => !i.adds.isEmpty || microStep q w { s := s, i := i, moved := 0, wr := [], rd := [] } != .wait)
  | 3 => decide (cmdVal w ≤ (mget 0 s.fcp.dt (cmdDti w)).toNat)
  | _ => true

/-- A queue is ready. -/
def queueReady (s : State) (q : Nat) : Bool :=
  match queueCmds s q with
  | c :: _ => qdEn s q && decide (mget 0 s.fcp.readyAt q ≤ s.time) && headReady s q c
  | [] => false

/-- The queue the next grant goes to: the highest priority, the lowest index above the one last granted at it. -/
def nextQueue (s : State) : Option Nat :=
  let qs := (s.fcp.cmds.filter fun e => !e.2.isEmpty && queueReady s e.1).map Prod.fst
  let top := qs.foldl (fun m q => max m (qdPrio s q)) 0
  let cs := qs.filter fun q => qdPrio s q == top
  let least (xs : List Nat) : Option Nat := xs.foldl (fun b q => match b with | none => some q | some p => some (min p q)) none
  (least (cs.filter fun q => mget 0 s.fcp.lastQ top ≤ q)).or (least cs)

/-- FCP_GRANT (R351). -/
def execFcpGrant (s : State) : Host.Outcome State Fault Refusal :=
  match nextQueue s with
  | none => .next s
  | some q =>
    let s := { s with fcp := { s.fcp with lastQ := mset s.fcp.lastQ (qdPrio s q) (q + 1) } }
    match queueCmds s q with
    | [] => .next s
    | c :: _ =>
      if !c.started && cmdBad s c.words then .next (completeCmd s q 6 false 0)
      else
        match cmdKind c.words with
        | 1 => .next (grantLaunch s q c)
        | 2 =>
          match c.inst with
          | some i => .next (grantColl s q c i)
          | none =>
            match collCheck s c.words with
            | .error (e, step) =>
              .next (if e.aired then starve s (cmdCtx c.words) else completeCmd (logFcp s s.time e) q e.status false step)
            | .ok (s, prog) => .next (startColl s q c prog)
        | _ => .next (completeCmd (startCmd s q c) q 0 false 0)

/-- End the head command of a queue with ABORTED (R396); a launch that has started runs on without its command. -/
def abortHead (s : State) (q : Nat) : State :=
  match queueCmds s q with
  | [] => s
  | c :: _ =>
    match c.inst with
    | some i => completeCmd (spoilGroup s (cmdCtx c.words) (cmdGrp c.words)) q 0x0B i.ovf i.step
    | none =>
      let s := if cmdKind c.words = 1 ∧ c.started then
          { s with fcp := { s.fcp with launches := s.fcp.launches.map fun l => if l.queue = some q then { l with queue := none } else l } }
        else s
      completeCmd s q 0x0B false 0

/-- A fault of an FCP access at another die ends the instance of its queue at the next grant (R353): with VIOL where the peer is
unreachable or outside the domain, otherwise with FAULT. -/
def spoilInstance (s : State) (q : Nat) (viol : Bool) : State :=
  match queueCmds s q with
  | c :: _ => (match c.inst with | some i => setHead s q { c with inst := some { i with bad := if viol then 0x0A else 9 } } | none => s)
  | [] => s

end Sys2Proof.Machine
end

