-- ==== Sys2Proof/Machine/System.lean ====
section
/-! DEFINITION. Management commands (R396), layer gating (R405), retirement (R239, R403), soft errors and checked pairs (R237, R238,
R240), attestation (R408). -/

namespace Sys2Proof.Machine

/-! ### The management ring (R396)

Arguments in ARG bits 511:64, as successive 64-bit words from bit 64 up [10]. -/

/-- An accepted command waits. -/
def mgmtWaiting (s : State) : Bool := !s.cp.mcmds.isEmpty

/-- Argument word i of a command. -/
def mgmtArg (w : BitVec 512) (i : Nat) : Nat := rbits w (64 + 64 * i) 64

/-- A position argument of RELABEL: bit 63 absent, else 64 × shelf + port. -/
def argPosition (a : Nat) : Option Nat := if a / 2 ^ 63 = 1 then none else some a

/-- The command in a ring entry; none for an unknown OP or for reserved bits that are not zero. `n` words of ARG are used. -/
def mgmtInstr (w : BitVec 512) : Option Instr :=
  let a (i : Nat) : Nat := mgmtArg w i
  let x := rbits w 16 16
  let ok (ctx : Bool) (n : Nat) (i : Instr) : Option Instr :=
    if rbits w 32 32 = 0 ∧ (ctx ∨ x = 0) ∧ rbits w (64 + 64 * n) (448 - 64 * n) = 0 then some i else none
  match rbits w 0 8 with
  | 0x01 => ok true 0 (.preempt x)
  | 0x02 => ok true 1 (.restore x (a 0))
  | 0x03 => ok true 2 (.resume x (a 0) (a 1))
  | 0x04 => ok false 1 (.gate (a 0))
  | 0x05 => ok false 3 (.relabel (a 0) (argPosition (a 1)) (a 2))
  | 0x06 => ok false 1 (.abort (a 0))
  | 0x07 => ok false 4 (.setpeg (a 0) (a 1) (a 2) (a 3))
  | 0x08 => ok false 3 (.table (a 0) (a 1) (a 2))
  | 0x09 => ok false 2 (.tlen (a 0) (a 1))
  | 0x0A => ok false 2 (.attest (a 0) (a 1))
  | 0x0B => ok false 1 (.create (a 0))
  | 0x0C => ok true 0 (.destroy x)
  | _ => none

/-- The command the CP serves next; none when none waits or it is malformed. -/
def mgmtNext (s : State) : Option Instr := s.cp.mcmds.head?.bind fun c => mgmtInstr c.words

/-- Serve the oldest accepted command (R396, R399): its start, its effect, its STATUS byte, its end in the journal. -/
def serveHead (s : State) (f : State → State × Nat) : State :=
  match s.cp.mcmds with
  | [] => s
  | c :: r =>
    let (s, st) := f (journalMark { s with cp := { s.cp with mcmds := r } } 0x40 c 2 0 0)
    journalMark (hbmWrite s (c.addr + 1) (leBytes 1 st)) 0x40 c (if st = 0 then 3 else 4) st 0

/-- A command's effect: as the ring's next command when it is that, else the effect alone. -/
def serve (i : Instr) (f : State → State × Nat) (s : State) : Host.Outcome State Fault Refusal :=
  .next (if mgmtNext s = some i then serveHead s f else (f s).1)

/-- A malformed command at HEAD answers BADARG. -/
def serveBad (s : State) : State := if mgmtWaiting s ∧ (mgmtNext s).isNone then serveHead s fun s => (s, 3) else s

/-! ### Contexts and cores -/

/-- PREEMPT (R233, R396). -/
def execPreempt (x : Nat) (s : State) : Host.Outcome State Fault Refusal :=
  serve (.preempt x) (fun s =>
    match ctxAt? s x with
    | none => (s, 3)
    | some c => if c.resident then (preemptCtx s x 1, 0) else (s, 1)) s

/-- RESTORE (R236, R397). -/
def execRestore (x a : Nat) (s : State) : Host.Outcome State Fault Refusal := serve (.restore x a) (fun s => restoreCtx s x a) s

/-- Resume the stopped core k by an action (R225, R230): 0 the class rule, 1 the next bundle, 2 the task ends. -/
def resumeStopped (s : State) (k action : Nat) (st : Stop) : State :=
  if st.between then onCore s k thaw
  else
    match action with
    | 0 => onCore s k fun c => resumeCore c (resumesNext st.code)
    | 1 => onCore s k fun c => resumeCore c true
    | _ => endTask s k

/-- RESUME (R230, R396). A double trap allows only the third action. -/
def execResume (x n a : Nat) (s : State) : Host.Outcome State Fault Refusal :=
  serve (.resume x n a) (fun s =>
    match ctxAt? s x with
    | none => (s, 3)
    | some c =>
      if 2 < a ∨ c.ncore ≤ n then (s, 3)
      else
        match (coreAt s (coreKey x n)).stop with
        | none => (s, 1)
        | some st =>
          if !c.resident || (st.code == 0x11 && !st.between && a != 2) then (s, 1)
          else (resumeStopped s (coreKey x n) a st, 0)) s

/-- CREATE (R397). -/
def execCreate (a : Nat) (s : State) : Host.Outcome State Fault Refusal := serve (.create a) (fun s => createCtx s a) s

/-- DESTROY (R397). -/
def execDestroy (x : Nat) (s : State) : Host.Outcome State Fault Refusal := serve (.destroy x) (fun s => destroyCtx s x) s

/-- ABORT (R396). -/
def execAbort (q : Nat) (s : State) : Host.Outcome State Fault Refusal :=
  serve (.abort q) (fun s =>
    if 64 ≤ q then (s, 3) else if (queueCmds s q).isEmpty then (s, 1) else (abortHead s q, 0)) s

/-! ### Layer gating (R405) -/

/-- A bank byte of an even bank (R6). -/
def evenBank (a : Nat) : Bool := a / 65536 % 2 == 0

/-- Discard the contents of the odd banks. -/
def dropOddBanks (s : State) : State :=
  let keep (size : Nat) (g : Nat) : Bool := g % 2 == 0 || evenBank (g / 2 * size)
  { s with
    sram := s.sram.filter fun e => evenBank e.1
    capTags := s.capTags.filter (keep 16)
    rtags := s.rtags.filter fun e => keep 128 e.1
    poison := s.poison.filter (keep 1)
    prior := s.prior.filter fun o => keep 1 o.2.1 }

/-- A context created in checked mode exists. -/
def checkedExists (s : State) : Bool := s.ctxs.any fun e => match e.2 with | some x => x.checked | none => false

/-- GATE (R405). -/
def execGate (g : Nat) (s : State) : Host.Outcome State Fault Refusal :=
  serve (.gate g) (fun s =>
    if 3 < g then (s, 3)
    else if !(residents s).isEmpty then (s, 1)
    else if 2 ≤ g ∧ checkedExists s then (s, 2)
    else
      let s := if g % 2 = 1 then dropOddBanks s else s
      (writeCatalogue { s with shape := { s.shape with gate := g } }, 0)) s

/-! ### The fabric port's commands (R274, R280, R282, R290) -/

/-- Whether slot n has begun on this die. -/
def slotBegun (s : State) (n : Nat) : Bool := decide (n ≤ slotNow s)

/-- A rank may be given a position (R274): its default, or its own shelf's spare when no other rank holds it. -/
def labelOk (s : State) (r : Nat) (p : Nat × Nat) : Bool :=
  p == (r / 32, r % 32) ||
    (p == (r / 32, 32) && !((List.range 32).any fun i => 32 * (r / 32) + i != r && rankPos s (32 * (r / 32) + i) == some p))

/-- RELABEL (R274, R396): every die applies the change at slot n. -/
def execRelabel (r : Nat) (p : Option Nat) (n : Nat) (s : State) : Host.Outcome State Fault Refusal :=
  serve (.relabel r p n) (fun s =>
    let pos := p.map fun a => (a / 64, a % 64)
    if decide (1024 ≤ r) || (match pos with | some q => !labelOk s r q | none => false) then (s, 3)
    else if slotBegun s n then (s, 6)
    else ({ s with port := { s.port with relabelAt := s.port.relabelAt ++ [(n, r, pos)] } }, 0)) s

/-- The plane of a code: 0 shelf, 1 column. -/
def planeOf (n : Nat) : Plane := if n = 0 then .shelf else .column

/-- The code of a plane. -/
def planeCode (p : Plane) : Nat := match p with | .shelf => 0 | .column => 1

/-- SETPEG (R290): the size of a receive pool, while no context is resident. -/
def execSetpeg (pl p v z : Nat) (s : State) : Host.Outcome State Fault Refusal :=
  serve (.setpeg pl p v z) (fun s =>
    if 1 < pl ∨ 33 < p ∨ 3 < v ∨ z = 0 ∨ 64 < z then (s, 3)
    else if !(residents s).isEmpty then (s, 1)
    else ({ s with port := { s.port with pool := lput s.port.pool { plane := planeOf pl, port := p } v z } }, 0)) s

/-- A fabric and laser fault (R308): plane, lane, line, peer port, slot and pod time go to the CP. -/
def fabricFault (s : State) (sub : Nat) (pl : Plane) (lane line peer : Nat) : State :=
  logCp s 20 (sub + planeCode pl * 2 ^ 8 + lane % 256 * 2 ^ 16 + line % 256 * 2 ^ 24 + peer % 256 * 2 ^ 32) (slotNow s)

/-- Fields of a table entry's lane (R281). -/
def laneSh (e : BitVec 128) (l : Nat) : Nat := rbits e (8 * l) 6
def lanePat (e : BitVec 128) (l : Nat) : Nat := rbits e (8 * l + 6) 1

/-- The shifts of an entry's lanes in use. -/
def entryShifts (e : BitVec 128) : List Nat := ((List.range 16).map (laneSh e)).filter (· != 0x3F)

/-- The port a shift leads to. -/
def shiftPort (s : State) (pl : Plane) (h : Nat) : Nat := (portOn pl s.port.pos + h) % 34

/-- A lane of an entry holds a reserved value, the shift of a lane before it, or, outside service-mode test, shift 0 (R282). -/
def badLane (test : Bool) (e : BitVec 128) (l : Nat) : Bool :=
  let h := laneSh e l
  rbits e (8 * l + 7) 1 == 1 ||
    (h != 0x3F && (decide (33 < h) || (h == 0 && !test) || (List.range l).any fun i => laneSh e i == h))

/-- A lane of an entry sends toward a dead port. -/
def deadLane (s : State) (pl : Plane) (e : BitVec 128) (l : Nat) : Bool :=
  laneSh e l != 0x3F && !livePort s pl (shiftPort s pl (laneSh e l))

/-- The first lane of a table that a test finds: lane, line and peer port (R308). -/
def findLane (s : State) (pl : Plane) (t : List (BitVec 128)) (bad : BitVec 128 → Nat → Bool) : Option (Nat × Nat × Nat) :=
  t.findSome? fun e => ((List.range 16).find? (bad e)).map fun l =>
    let h := laneSh e l
    if h ≤ 33 then (l, h + 34 * lanePat e l, shiftPort s pl h) else (l, 0xFF, 0xFF)

/-- The live peers of a plane that no in-plane relay serves. -/
def livePeers (s : State) (pl : Plane) : List Nat :=
  (List.range 33).filter fun j =>
    j != portOn pl s.port.pos && livePort s pl j && !(s.port.relays.any fun e => e.1 == pl && e.2.1 == j)

/-- The check of R282: none when the table passes, else the fault's SUB, lane, line and peer port. LEN outside 1 to 64 is a reserved
value; it and a peer that the table does not reach have no lane or line (0xFF). -/
def tableFault (s : State) (pl : Plane) (t : List (BitVec 128)) : Option (Nat × Nat × Nat × Nat) :=
  let reach := (t.flatMap entryShifts).map (shiftPort s pl)
  if t.isEmpty ∨ 64 < t.length then some (6, 0xFF, 0xFF, 0xFF)
  else
    ((findLane s pl t (badLane s.port.svcTest)).map (Prod.mk 6)).or
      (((findLane s pl t (deadLane s pl)).map (Prod.mk 7)).or
        (((livePeers s pl).find? fun j => !reach.contains j).map fun j => (7, 0xFF, 0xFF, j)))

/-- A table image [10]: LEN in its first 8 bytes, the entries from byte 16 on. -/
def tableImage (s : State) (a : Nat) : List (BitVec 128) :=
  (List.range (min 65 (readNat s.hbm a 8))).map fun i => BitVec.ofNat 128 (readNat s.hbm (a + 16 + 16 * i) 16)

/-- TABLE (R282). -/
def execTable (pl a n : Nat) (s : State) : Host.Outcome State Fault Refusal :=
  serve (.table pl a n) (fun s =>
    let t := tableImage s a
    if 1 < pl ∨ hbmBytes s < a + 16 + 1024 then (s, 3)
    else
      match tableFault s (planeOf pl) t with
      | some (sub, lane, line, peer) => (fabricFault s sub (planeOf pl) lane line peer, 9)
      | none =>
        if n % t.length ≠ 0 then (s, 3)
        else if slotBegun s n then (s, 6)
        else ({ s with port := { s.port with shadowT := listSet s.port.shadowT pl (some (n, t)) } }, 0)) s

/-- TLEN (R280). -/
def execTlen (t n : Nat) (s : State) : Host.Outcome State Fault Refusal :=
  serve (.tlen t n) (fun s =>
    if t < 16 ∨ 1000 < t then (s, 3)
    else if slotBegun s n then (s, 6)
    else ({ s with port := { s.port with tlenAt := some (t, n) } }, 0)) s

/-! ### Attestation (R408) -/

/-- The first 128 bytes of the report. -/
def attestBody (s : State) (nonce : List Byte) : List Byte :=
  nonce ++ leBytes 32 (Config.imageDigest 0).toNat ++ leBytes 32 (Config.imageDigest 1).toNat ++ leBytes 8 s.shape.applied ++
    leBytes 8 (devshape s false).toNat ++ leBytes 16 0

/-- ATTEST (R408). -/
def execAttest (a r : Nat) (s : State) : Host.Outcome State Fault Refusal :=
  serve (.attest a r) (fun s =>
    if hbmBytes s < a + 32 ∨ hbmBytes s < r + 512 then (s, 3)
    else
      let b := attestBody s (readBytes s.hbm a 32)
      (hbmWrite s r (b ++ leBytes 384 (Config.deviceSign b).toNat), 0)) s

/-! ### Retirement (R239, R402, R403) -/

/-- The physical column of logical position (x, y) (R7). -/
def physColumn (s : State) (x y : Nat) : Nat := ((List.range 17).filter fun c => !(rowRetired s.shape y).contains c).getD x 16

/-- Retire a physical position (R239): every resident context is pre-empted, the core map gets the position, the row is rebuilt. -/
def retirePosition (s : State) (col row : Nat) : State :=
  let s := (residents s).foldl (fun s x => preemptCtx s x 0x12) s
  let s := appendRecord s [1, col, row]
  writeCatalogue { s with shape := rebuildMesh { s.shape with retired := s.shape.retired ++ [(col, row)] } }

/-- SRAM_BANK_RETIREMENT (R403): bank b of physical position p = 32 × row + column fails, and its whole position is retired. -/
def execSramBankRetirement (p b : Nat) (s : State) : Host.Outcome State Fault Refusal :=
  .next (if p % 32 < 17 ∧ p / 32 < 16 ∧ b < 32 then retirePosition s (p % 32) (p / 32) else s)

/-- HBM_CHANNEL_RETIREMENT (R403): it takes effect at the next boot; until then no frame on the channel is given out. -/
def execHbmChannelRetirement (h : Nat) (s : State) : Host.Outcome State Fault Refusal :=
  .next (if s.shape.badCh.contains h then s
    else writeCatalogue (appendRecord { s with shape := { s.shape with badCh := s.shape.badCh ++ [h] } } [3, h]))

/-! ### Soft errors and mismatches (R237, R238, R240) -/

/-- A soft-error or mismatch trap at the bundle about to issue, for the syllable of a slot. -/
def errorCause (code sub slot : Nat) : Cause := Cause.precise code sub slot

/-- The error words of an uncorrectable error: the eight aligned bytes that hold an address; bit 63 names a scratchpad offset. -/
def poisonWord (s : State) (k : Nat) (a : Word) : State :=
  let sp := bits a 63 1 == 1
  let x : Word := BitVec.ofNat 64 (bits a 0 63 / 8 * 8)
  match locateAny s k sp x 8 .load with
  | .ok (ps, s) =>
    let ks := ps.flatMap fun p => (List.range p.2.1).map fun i => (p.1.a + i) * 2 + p.1.sp.toNat
    { s with poison := s.poison ++ ks.filter fun k => !s.poison.contains k }
  | .error _ => s

/-- A trap of core k at its next bundle: retried by the CP, or forwarded. -/
def errorTrap (s : State) (k code sub slot : Nat) (retry : Bool) : State :=
  let c := coreAt s k
  if c.task.isNone || c.stop.isSome then s
  else if retry then retryTrap s k (errorCause code sub slot) else takeTrap s k (errorCause code sub slot)

/-- The pair of core k is retired. -/
def retirePair (s : State) (k : Nat) : State :=
  let p := corePos s (ctxAt s (keyCtx k)).checked (keyCore k)
  retirePosition s (physColumn s (p % 16) (p / 16)) (p / 16)

/-- The exposed result that lands next, as the entry in which a mismatch is found (R237). -/
def nextLanding (c : Core) : Option Exposed :=
  c.results.foldl (fun b r => match b with | none => some r | some x => if landsBefore r x then some r else b) none

/-- A pair's two cores compute the same function of the same state, so that only a physical fault makes them disagree: it comes
from outside [19]. The disagreeing result's entry keeps both values, beside the source operands it has had since its issue
(R237). -/
def keepBoth (stamp : Nat) (c : Core) : Core :=
  match nextLanding c with
  | none => c
  | some r => { c with results := c.results.map fun x => if x = r then { x with second := some (.v (Config.pairValue stamp)) } else x }

/-- The operation is computed again from the latched operands on both cores and the values agree (R238): one value remains, and it
lands as R232 states. -/
def agreed (c : Core) : Core :=
  let one (r : Exposed) : Exposed := { r with second := none }
  { c with results := c.results.map one, snap := c.snap.map fun n => { n with results := n.results.map one } }

/-- A checked-pair mismatch at core k (R237, R238): re-issued twice at one EPC, then the pair is retired. -/
def pairMismatch (s : State) (k sub slot : Nat) : State :=
  let c := coreAt s k
  let n := (if c.missPc = c.pc then c.mismatch else 0) + 1
  if !(ctxAt s (keyCtx k)).checked || c.task.isNone || c.stop.isSome then s
  else
    let s := onCore { s with tick := s.tick + 1 } k fun c =>
      { (if sub = 2 then keepBoth s.tick c else c) with mismatch := n, missPc := c.pc }
    if n ≤ 2 then logCp (onCore (errorTrap s k 9 sub slot true) k agreed) 9 k n
    else retirePair (errorTrap s k 9 sub slot false) k

/-- A beat of operation n of timeline t has failed for the third time (R240): the operation stops and waits for the resume, the trap
comes at its core's next boundary (R224). -/
def engineBeat (s : State) (k t n : Nat) : State :=
  match (queueOf (coreAt s k) t).find? fun o => o.n == n && o.fired && !o.ended && o.await != 2 with
  | some o =>
    engReport (onCore s k fun c => setQueue c t ((queueOf c t).map fun o => if o.n = n then { o with await := 2 } else o)) k t o
      { code := 8, sub := 4, gran := 0, agent := 0, time := 0 } 0 0
  | none => s

/-- SOFT_ERROR_RERUN (R238, R240): an error, with what it strikes. A residue error strikes the next conversion of its tile and K
block (R68). -/
def execSoftErrorRerun (k : Nat) (e : SoftError) (s : State) : Host.Outcome State Fault Refusal :=
  match e with
  | .correctable => .next (countErr s 0)
  | .beat third slot => .next (if third then errorTrap (countErr s 1) k 8 4 slot false else countErr s 1)
  | .engineBeat third t n => .next (if third then engineBeat (countErr s 1) k t n else countErr s 1)
  | .residue t tile block => .next (onCore s k fun c => { c with faulty := some (t, tile, block) })
  | .uncorrectable a _ => .next (poisonWord (countErr s 3) k a)
  | .laneParity slot =>
    let s := countErr s 4
    if (coreAt s k).parity = 0 then .next (errorTrap (onCore s k fun c => { c with parity := 1 }) k 8 3 slot true)
    else .next (errorTrap (onCore s k fun c => { c with parity := 0 }) k 8 3 slot false)
  | .mismatch sub slot => .next (pairMismatch s k sub slot)

end Sys2Proof.Machine
end

