-- ==== Sys2Proof/Machine/Landing.lean ====
section
/-! DEFINITION. The landing store (R292, R294): VC1 responses moved to their landing places: task accesses (R165), engine and fabric
operations (R313, R320, R321, R324, R325), chase records (R335), die units, seam acknowledgements (R328, R331). -/

namespace Sys2Proof.Machine

/-! ### The task's accesses -/

/-- The head element of an access. -/
def headElem (a : Access) : Option Elem := (elemsOf a.op).head?

/-- The bytes of an atomic's value, and the acquire time that follows them when the owner is checked (R175). -/
def splitAcquire (e : Elem) (bs : List Byte) : List Byte × Nat :=
  match e.op with
  | .atomic _ n _ _ => (bs.take n, leNat ((bs.drop n).take 8))
  | _ => (bs, 0)

/-- A task's request has been answered with bytes or a completion word. -/
def landTask (s : State) (r : Ret) (bs : List Byte) (tag : Bool) : State :=
  let s := freeSlots s r.core 13 1
  match accessOf (coreAt s r.core) r.id with
  | none => s
  | some a =>
    match a.op with
    | .arrive _ _ | .expect _ _ => onCore s r.core fun c => dropAccess c a.id
    | _ =>
      match headElem a with
      | some e =>
        let es := sectorOf a
        if es.length ≤ 1 then onCore s r.core fun c => elementDone c a e (splitAcquire e bs).1 tag (splitAcquire e bs).2
        else
          let lo := (spanOf e es).1
          onCore s r.core fun c => answerElems c a.id (es.map fun x => (x, (bs.drop (x.addr.toNat - lo)).take (memLen x.op)))
      | none => s

/-- A report from another die, as one of this core's (R165). -/
def landReport (code sub : Nat) (addr : Word) (agent : BitVec 25) (time kind : Nat) (epc : Word) : Report where
  code := code
  sub := sub
  addr := addr
  agent := agent
  time := time
  eng := false
  tl := 15
  obj := 0
  epc := epc
  kind := kind

/-- The kind of access that a fault at an address concerns (R165): the x vector of a saxpy is loaded. -/
def faultKind (a : Access) (addr : Word) : Nat :=
  match headElem a with
  | some e =>
    let inX := ((opRanges e.addr e.op).drop 1).any fun r => decide (r.1.toNat ≤ addr.toNat ∧ addr.toNat < r.1.toNat + r.2)
    if inX then 0 else (memKind e.op).code
  | none => 2

/-- A task's request has faulted at its owner: it stays unperformed and the core takes the report (R165, R213). -/
def faultTask (s : State) (r : Ret) (code sub : Nat) (addr : Word) (agent : BitVec 25) (time : Nat) : State :=
  let s := freeSlots s r.core 13 1
  match accessOf (coreAt s r.core) r.id with
  | none => s
  | some a =>
    takeReport (onCore s r.core fun c => onAccess c r.id fun b => { b with sent := false, slots := 0 }) r.core
      { landReport code sub addr agent time (faultKind a addr) a.epc with slot := a.slot, stg := a.stg }

/-! ### Engine and fabric operations -/

/-- The operation a response belongs to. -/
def opFor (s : State) (k t n : Nat) : Option EngOp := (queueOf (coreAt s k) t).find? fun o => o.n == n

/-- Replace an operation. -/
def putOp (s : State) (k t : Nat) (o : EngOp) : State := onCore s k fun c => setOp c t o

/-- An engine's own element access has been answered (R245). -/
def landElement (s : State) (k t n : Nat) (bs : List Byte) (poison : Bool) : State :=
  let s := freeEngine s k t
  match opFor s k t n with
  | some o => putOp s k t { o with log := o.log ++ [(bs, poison)], await := 0 }
  | none => s

/-- A block load's bytes or a block store's completion word have come: the operation goes on and completes, also while its context is
not resident, when its bytes go to the image (R348). -/
def landBlock (s : State) (k t : Nat) (o : EngOp) (bs : List Byte) : State :=
  let o := { o with replies := [bs], await := 0, slots := o.slots - 1 }
  let s := freeSlots (putOp s k t o) k t 1
  if (ctxAt s (keyCtx k)).resident then s else runFabric s k t o

/-- The index of the frame of a send that targets an address. -/
def frameIndex (o : EngOp) (addr : Word) : Option Nat :=
  (sendFrames (opSendMap o.shape) o.shape).findIdx? fun f => decide (f.addr.toNat ≤ addr.toNat ∧ addr.toNat < f.addr.toNat + 256)

/-- A completion word of a run or of an arrival (R320, R321). -/
def landDone (s : State) (k t n : Nat) : State :=
  match opFor s k t n with
  | none => freeSlots s k t 1
  | some o =>
    match o.kind with
    | .rstBlk _ _ _ _ _ => landBlock s k t o []
    | _ =>
      let s := onCore s k fun c => match c.livelock with
        | some (a, _, _, _) => if (frameIndex o a).isSome && o.await != 2 then clearLivelock c a 1 1 else c
        | none => c
      freeSlots (putOp s k t { o with slots := o.slots - 1 }) k t 1

/-- An engine report from another die. -/
def farReport (s : State) (k t : Nat) (o : EngOp) (code sub : Nat) (addr : Word) (agent : BitVec 25) (time : Nat) : State :=
  let kind := match o.kind with | .fsSend => 1 | .fsPost _ => 1 | .rwinAdd => 1 | _ => 0
  onCore s k fun c => addReport c { landReport code sub addr agent time kind o.epc with eng := true, tl := t, slot := o.slot, stg := o.stg }

/-- A frame of a send has faulted at its owner (R245, R295): it is sent again, as a run of its own, once the trap has been taken. When
it ended its run, the run's slot is given back. -/
def faultSend (s : State) (k t : Nat) (o : EngOp) (last : Bool) (code sub : Nat) (addr : Word) (agent : BitVec 25) (time : Nat) : State :=
  let i := (frameIndex o addr).getD 0
  let o' := { o with aux := o.aux ++ [BitVec.ofNat 64 i], ended := false, await := 2, slots := if last then o.slots - 1 else o.slots }
  let s := putOp s k t o'
  farReport (if last then freeSlots s k t 1 else s) k t o code sub addr agent time

/-- The frame with this index ends its run. -/
def endsRun (o : EngOp) (addr : Word) : Bool :=
  let fs := sendFrames (opSendMap o.shape) o.shape
  match frameIndex o addr with
  | some i => o.aux.contains (BitVec.ofNat 64 i) || (match fs[i]?, fs[i + 1]? with
      | some a, some b => ownerOf a.addr != ownerOf b.addr
      | _, _ => true)
  | none => true

/-- A request of t5 to t8 or t11 has faulted. -/
def faultFabric (s : State) (r : Ret) (code sub : Nat) (addr : Word) (agent : BitVec 25) (time : Nat) : State :=
  match opFor s r.core r.stream r.id with
  | none => freeSlots s r.core r.stream 1
  | some o =>
    match o.kind with
    | .fsSend => faultSend s r.core r.stream o (endsRun o addr) code sub addr agent time
    | .fsPost _ => faultSend s r.core r.stream o (endsRun o addr) code sub addr agent time
    | _ =>
      let s := freeSlots (putOp s r.core r.stream { o with await := 2, slots := o.slots - 1 }) r.core r.stream 1
      farReport s r.core r.stream o code sub addr agent time

/-- An engine's own element access has faulted. -/
def faultElement (s : State) (k t n code sub : Nat) (addr : Word) (agent : BitVec 25) (time : Nat) : State :=
  let s := freeEngine s k t
  match opFor s k t n with
  | some o => farReport (putOp s k t { o with await := 2 }) k t o code sub addr agent time
  | none => s

/-! ### Chase records (R335) -/

/-- Where a chase's record lands. -/
def recordOffset (s : State) (r : Ret) (basketIx slot : Nat) : Word :=
  BitVec.ofNat 64 (bkOff (basket (coreAt s r.core) basketIx) + 32 * slot)

/-- The trap of a failed chase with .trap. -/
def chaseReport (off : Word) (tag : Nat) (epc : Word) : Report where
  code := 0x0D
  sub := 0
  addr := off
  agent := 0
  time := 0
  eng := true
  tl := 11
  obj := tag
  epc := epc
  kind := 0

/-- Write the record; the operation then completes. -/
def landRecord (s : State) (r : Ret) (trap : Bool) (basketIx slot tag : Nat) (bs : List Byte) : State :=
  match opFor s r.core 11 r.id with
  | none => freeSlots s r.core 11 1
  | some o =>
    let off := recordOffset s r basketIx slot
    let s' := match performMem s r.core (engWho s r.core 11 o) true off (.store bs false) with
      | .ok (t, _) => t
      | .error b => engReport s r.core 11 o b off 1
    let s' := freeSlots (putOp s' r.core 11 { o with ended := true, await := 0, slots := 0 }) r.core 11 1
    if trap && leNat ((bs.drop 16).take 1) != 0 then
      onCore s' r.core fun c => { c with asyncs := c.asyncs ++ [chaseReport off tag o.epc] }
    else s'

/-! ### Seam acknowledgements (R328, R331) -/

/-- The rwin.reg of a window is answered. -/
def answerReg (s : State) (w : Window) (slot : Nat) (v : Word) : State :=
  onCore s w.core fun c =>
    let find? (l : List Access) : Option Access := l.find? fun a => match a.op with | .rwinReg _ (some i) _ => i == slot | _ => false
    match (find? c.accs).or ((c.snap.map fun n => n.accs).bind find?) with
    | some a => dropAccess (addReturn c { id := a.id, dest := a.dest, dead := a.dead, val := .s v }) a.id
    | none => c

/-- The rwin.abort of a window ends, also while its context is not resident (R348). -/
def answerAbort (s : State) (w : Window) : State :=
  match w.aborter with
  | some (k, n) => (match opFor s k 11 n with
      | some o =>
        let o := { o with replies := [[]], await := 0 }
        if (ctxAt s (keyCtx k)).resident then putOp s k 11 o else runFabric (putOp s k 11 o) k 11 o
      | none => s)
  | none => s

/-- Every seam has answered for a window that is over: its slot is free. -/
def freeOver (s : State) (slot : Nat) (w : Window) : State :=
  if !(w.waiting.isEmpty && w.told.isEmpty) then s
  else if w.status = 3 ∧ w.active then endSlot (answerAbort s w) slot w
  else setWindow s slot none

/-- A seam has answered for window `slot` (R328, R331): that it knows the window is over; or the registration, which ends with the last
acknowledgement or the first refusal. A seam that acknowledges a window already refused is told so. -/
def landWinack (s : State) (slot rank status : Nat) : State :=
  match windowAt s slot with
  | none => s
  | some w =>
    if w.told.contains rank then
      let w := { w with told := w.told.filter (· != rank) }
      freeOver (setWindow s slot (some w)) slot w
    else if !w.waiting.contains rank then s
    else
      let w := { w with waiting := w.waiting.filter (· != rank) }
      if w.status = 4 then
        if status = 0 then tellSeams (setWindow s slot (some { w with told := w.told ++ [rank] })) w.ctx slot [rank]
        else freeOver (setWindow s slot (some w)) slot w
      else
        let s := setWindow s slot (some w)
        if status ≠ 0 then answerReg (releaseWindow s slot rank) w slot (registerResult s status slot)
        else if w.waiting.isEmpty then answerReg (activateWindow s slot) w slot (registerResult s 0 slot)
        else s

/-! ### The move -/

/-- The landing place of a response is held by a bank lock or a retraining bus (R222, R292). -/
def landingHeld (s : State) (f : Frame) : Bool :=
  match f.body with
  | .chres r _ b e _ bs => accessHeld s none r.core true (recordOffset s r b e) (.store bs false)
  | .data r _ _ _ =>
    r.stream == 11 && (match opFor s r.core 11 r.id with
      | some o => (match o.kind with
          | .rldBlk _ _ off n _ => accessHeld s none r.core true (BitVec.ofNat 64 off) (.load n false)
          | _ => false)
      | none => false)
  | _ => false

/-- A die unit's response gives its landing slot back (R294). -/
def unitLanded (s : State) (r : Ret) : State := if 16 ≤ r.stream ∧ r.stream < 20 then freeUnit s (streamUnit r.stream) else s

/-- The die unit that made a request. -/
def unitAgent (s : State) (r : Ret) : Who := unitWho s (streamUnit r.stream)

/-- The requester that a response goes back to. -/
def bodyRet : Body → Option Ret
  | .data r _ _ _ => some r
  | .done r => some r
  | .fault r _ _ _ _ _ => some r
  | _ => none

/-- A response for a context that no longer exists: of it only a die unit's landing slot is left (R294). -/
def lostResponse (s : State) (f : Frame) : State := (bodyRet f.body).elim s (unitLanded s)

/-- Move one response; what it does to a core of a context that is not resident goes into the image (R348). -/
def landBody (s : State) (f : Frame) : State :=
  if (ctxAt? s f.ctx).isNone then lostResponse s f
  else
  match f.body with
  | .data r bs tag poison =>
    if r.stream = 13 then onImage s r.core fun s => landTask s r bs tag
    else if r.stream = 17 then decRecord (unitLanded s r) (keyCtx r.core) (BitVec.ofNat 64 (leNat bs))
    else if 20 ≤ r.stream then landElement s r.core (r.stream - 20) r.id bs poison
    else (match opFor s r.core r.stream r.id with
      | some o => landBlock s r.core r.stream o bs
      | none => s)
  | .done r =>
    let s := unitLanded (settleStores s f.ctx f.src r) r
    if r.stream = 13 then onImage s r.core fun s => landTask s r [] false
    else if 20 ≤ r.stream then landElement s r.core (r.stream - 20) r.id [] false
    else if 16 ≤ r.stream then (if r.stream = 16 then landedDec s r.id else s)
    else landDone s r.core r.stream r.id
  | .fault r code sub a agent time =>
    let s := unitLanded (dropStore s f.ctx f.src r a) r
    let lost (kind : Nat) : State :=
      if code = 5 then logRace s { code := 5, sub := sub, gran := a.toNat, agent := agent.toNat, time := time } (unitAgent s r) else logCp s kind a.toNat sub
    if r.stream = 13 then onImage s r.core fun s => faultTask s r code sub a agent time
    else if 20 ≤ r.stream then faultElement s r.core (r.stream - 20) r.id code sub a agent time
    else if r.stream = 18 then spoilInstance s r.id (code == 7 && (sub == 7 || sub == 12))
    else if r.stream = 17 then lost 7
    else if r.stream = 16 then landedDec (lost 3) r.id
    else onImage s r.core fun s => faultFabric s r code sub a agent time
  | .chres r trap b e tag bs => onImage s r.core fun s => landRecord s r trap b e tag bs
  | .winack name status =>
    let i := bits name 0 4
    (match windowAt s i with
     | some w => onImage s w.core fun s => landWinack s i f.src status
     | none => s)
  | _ => s

/-- LANDING_MOVE (R292): response i of the landing store, which waits while its landing place is held. -/
def execLandingMove (i : Nat) (s : State) : Host.Outcome State Fault Refusal :=
  match s.port.landing[i]? with
  | none => .next s
  | some f =>
    if landingHeld s f then .next s
    else .next (landBody { s with port := { s.port with landing := listDrop s.port.landing i } } f)

end Sys2Proof.Machine
end

