-- ==== Sys2Proof/Machine/Frames.lean ====
section
/-! DEFINITION. Frames arriving at the port: header checks (R288), hop sequence, acknowledgements and pegs (R290 to R292), forwarding
(R278, R295), order (R293), and what each kind does at its destination (R40, R165, R299, R304, R309, R315 to R328, R393, R410). -/

namespace Sys2Proof.Machine

/-! ### Kinds (R287, R315) -/

/-- The KIND of a body. -/
def bodyKind : Body → Nat
  | .mem _ _ _ _ op =>
    (match op with
     | .load _ _ => 0x10
     | .store _ _ => 0x00
     | .storeM _ => 0x00
     | .atomic _ _ _ _ => 0x11
     | .mop _ _ _ _ _ => 0x05
     | .fetchAdd _ _ => 0x11
     | .taskDec => 0x05
     | .taskPost _ => 0x05)
  | .send last _ _ _ _ _ => if last then 0x06 else 0x01
  | .fifo _ _ _ _ _ => 0x02
  | .contrib _ _ _ => 0x03
  | .wpart _ _ _ _ _ => 0x04
  | .chase _ => 0x12
  | .data _ _ _ _ => 0x20
  | .done _ => 0x21
  | .chres _ _ _ _ _ _ => 0x22
  | .bounce _ => 0x23
  | .fault _ _ _ _ _ _ => 0x24
  | .fqcred _ _ _ _ _ => 0x25
  | .winack _ _ => 0x26
  | .pegs _ => 0x30
  | .nak _ => 0x31
  | .arrive _ _ _ _ => 0x32
  | .expect _ _ _ _ _ => 0x33
  | .sstep _ _ _ => 0x34
  | .viol _ _ _ => 0x35
  | .darn _ => 0x36
  | .winreg _ _ _ => 0x37
  | .none => 0x3F

/-- The virtual channel of a KIND. -/
def kindVc (k : Nat) : Nat := if k < 0x10 then 2 else if k < 0x20 then 0 else if k < 0x30 then 1 else 3

/-- A header the receiver refuses (R288): a reserved field, HOPS above 6, a reserved KIND or one of the wrong VC. -/
def headerRefused (kind : Nat) (f : Frame) : Bool :=
  f.resv || decide (6 < f.hops) || bodyKind f.body != kind || kind == 0x3F || kindVc kind != f.vc.val

/-! ### Acknowledgement (R290 to R292) -/

/-- a comes before b on the 16-bit sequence. -/
def seqBefore (a b : Nat) : Bool := decide (1 ≤ (b + 65536 - a % 65536) % 65536 ∧ (b + 65536 - a % 65536) % 65536 < 32768)

/-- The SEQ the receiver expects next. -/
def expected (s : State) (l : Link) (v : Nat) : Nat := lget 0 s.port.inSeq l v

/-- Frames of a link and channel that still hold their receive slots. -/
def heldSlots (s : State) (l : Link) (v : Nat) : List Frame := (s.port.waiting.filter fun w => w.1 == l && w.2.vc.val == v).map Prod.snd

/-- The SEQs whose receive slots are held: of frames that wait, and of those whose response or copy has not been sent (R292). -/
def heldSeqs (s : State) (l : Link) (v : Nat) : List Nat :=
  (heldSlots s l v).map Frame.seq ++ (s.port.inHand.filter fun h => h.1 == l && h.2.1 == v).map fun h => h.2.2

/-- The ACKSEQ now due: frames are acknowledged when their slots are freed, up to the oldest still held. -/
def ackSeq (s : State) (l : Link) (v : Nat) : Nat :=
  let e := expected s l v
  (e + 65536 - ((heldSeqs s l v).map fun x => (e + 65536 - x % 65536) % 65536).foldl max 0) % 65536

/-- The rank at the far end of a link, a spare's where the relabel table gives it one (R274); 0x3FF where no rank is. -/
def linkRank (s : State) (l : Link) : Nat :=
  let p := match l.plane with | .shelf => (s.port.pos.1, l.port) | .column => (l.port, s.port.pos.2)
  ((List.range 1024).find? fun r => rankPos s r == some p).getD 0x3FF

/-- A control frame to the far end of a link. -/
def controlFrame (s : State) (l : Link) (b : Body) : Sent where
  link := l
  frame := { ctx := 0, vc := 3, sh := false, src := s.port.rank, dh := l.plane == .shelf && l.port == 33,
             dst := if l.plane = .shelf ∧ l.port = 33 then s.port.pos.1 else linkRank s l, hops := 1, seq := 0, pseq := 0, resv := false,
             body := b }
  sentAt := none
  tries := 0

/-- Queue an acknowledgement; one still queued for the link is superseded, its words for other channels kept. -/
def sendAck (s : State) (l : Link) (v : Nat) : State :=
  let old := s.port.queue.findSome? fun q => match q.frame.body with | .pegs ws => if q.link = l ∧ q.transit = false then some ws else none | _ => none
  let ws := ((old.getD []).filter fun w => w.1 != v) ++ [(v, ackSeq s l v)]
  let keep := s.port.queue.filter fun q => match q.frame.body with | .pegs _ => !decide (q.link = l ∧ q.transit = false) | _ => true
  { s with port := { s.port with queue := keep ++ [controlFrame s l (.pegs ws)] } }

/-- Queue a NAK for a channel: the SEQ expected. -/
def sendNak (s : State) (l : Link) (v : Nat) : State :=
  { s with port := { s.port with queue := s.port.queue ++ [controlFrame s l (.nak [(v, expected s l v)])] } }

/-- Note that a peer has been heard. -/
def noteHeard (s : State) (l : Link) : State :=
  { s with port := { s.port with heard := (l, s.time) :: s.port.heard.filter fun h => h.1 != l } }

/-- Acknowledge this die's frames up to ACKSEQ (R291): their replay copies go, each gives its peg back. -/
def applyAck (s : State) (l : Link) (w : Nat × Nat) : State :=
  let done (q : Sent) : Bool := q.link == l && q.frame.vc.val == w.1 && seqBefore q.frame.seq w.2
  let n := (s.port.replay.filter done).length
  { s with port := { s.port with
      replay := s.port.replay.filter fun q => !done q
      pegs := if n = 0 then s.port.pegs else lput s.port.pegs l w.1 (pegsOf s l w.1 + n) } }

/-- The unacknowledged frames of a link and channel are to be sent again (R291): they take lane frame times like others (R284). -/
def resendFrames (s : State) (l : Link) (v : Nat) : State :=
  { s with port := { s.port with replay := s.port.replay.map fun q =>
      if q.link = l ∧ q.frame.vc.val = v ∧ q.sentAt.isSome then { q with sentAt := none, tries := q.tries + 1 } else q } }

/-- The table in force on a plane. -/
def tableOf (s : State) (pl : Plane) : List (BitVec 128) := s.port.tables.getD (planeCode pl) []

/-- The oldest unacknowledged frame of a link and channel. -/
def oldestSent (s : State) (l : Link) (v : Nat) : Option Sent := s.port.replay.find? fun q => q.link == l && q.frame.vc.val == v

/-- A loss on a plane is to be repaired; SLOTINFO.DARN is 1 from the next slot on (R309). -/
def noteLoss (s : State) (pl : Plane) : State :=
  let p := s.port
  { s with port := { p with darn := true, darnFrom := if p.darn then p.darnFrom else slotNow s + 1
                            lossOn := if p.lossOn.contains pl then p.lossOn else p.lossOn ++ [pl] } }

/-- Mask a lane idle, which starts darning (R308, R309). -/
def maskLane (s : State) (pl : Plane) (l : Nat) : State :=
  let down := if s.port.lanesDown.contains (pl, l) then s.port.lanesDown else s.port.lanesDown ++ [(pl, l)]
  noteLoss { s with port := { s.port with lanesDown := down } } pl

/-- The lane that sends to the port of a link, or to the relay before it. -/
def laneTo (s : State) (l : Link) : Option Nat :=
  (List.range 16).find? fun i =>
    (tableOf s l.plane).any fun e => laneSh e i != 0x3F && shiftPort s l.plane (laneSh e i) == relayPort s l.plane l.port

/-- The line that a lane uses, by the first entry in which it sends; 0xFF when it never does. -/
def laneLine (s : State) (pl : Plane) (i : Nat) : Nat :=
  match (tableOf s pl).find? fun e => laneSh e i != 0x3F with
  | some e => laneSh e i + 34 * lanePat e i
  | none => 0xFF

/-- The lane that uses a line's shift; 0xFF when none does. -/
def lineLane (s : State) (pl : Plane) (w : Nat) : Nat :=
  ((List.range 16).find? fun i => (tableOf s pl).any fun e => laneSh e i == w % 34).getD 0xFF

/-- The record of a fault of a line, or of a lane (R308). -/
def lineFault (s : State) (sub : Nat) (pl : Plane) (w : Nat) : State := fabricFault s sub pl (lineLane s pl w) w (shiftPort s pl (w % 34))
def laneFault (s : State) (sub : Nat) (pl : Plane) (i : Nat) : State :=
  let w := laneLine s pl i
  fabricFault s sub pl i w (if w = 0xFF then 0xFF else shiftPort s pl (w % 34))

/-- Replay exhaustion (R291, R308): the fault is recorded, the lane masked, and the frames wait for the repaired table. -/
def replayExhausted (s : State) (l : Link) (v : Nat) : State :=
  let s := { s with port := { s.port with replay := s.port.replay.map fun q =>
      if q.link = l ∧ q.frame.vc.val = v then { q with sentAt := none, tries := 0 } else q } }
  match laneTo s l with
  | some i => maskLane (fabricFault s 8 l.plane i (laneLine s l.plane i) l.port) l.plane i
  | none => fabricFault s 8 l.plane 0xFF 0xFF l.port

/-- The sender has to send again from the oldest unacknowledged frame: after eight resends of it, the replay is exhausted. -/
def resendFrom (s : State) (l : Link) (v : Nat) : State :=
  match oldestSent s l v with
  | some q => if 8 ≤ q.tries ∧ q.sentAt.isSome then replayExhausted s l v else resendFrames s l v
  | none => s

/-! ### Answers -/

/-- Send a response to the source of a frame: a die or a host bridge. -/
def answer (s : State) (f : Frame) (b : Body) : State :=
  if f.sh then sendOrDrop s f.ctx 1 true f.src b else respond s f.ctx f.src b

/-- A fault report to the source (R165). -/
def answerFault (s : State) (f : Frame) (r : Ret) (b : Bad) (a : Word) : State :=
  answer s f (.fault r b.code b.sub (if b.code = 5 then BitVec.ofNat 64 b.gran else a) (BitVec.ofNat 25 b.agent) b.time)

/-- Count and log a frame that is discarded (R288, R410). -/
def discardFrame (s : State) (f : Frame) (kind : Nat) : State :=
  logCp { s with port := { s.port with dropped := s.port.dropped + 1 } } kind (bodyKind f.body) (f.ctx + f.src * 65536)

/-! ### Accesses at the owner (R165, R299, R315, R393) -/

/-- The agent of an access: hosts are of kind 3 (R176, R393). -/
def frameWho (f : Frame) (w : Who) : Who := if f.sh then { w with agent := agentId 3 f.src 0 0 } else w

/-- The bytes of an answer: an atomic's value is followed by the time it acquires. -/
def answerBytes (op : MemOp) (g : Got) (a : Word) : List Byte :=
  match op with
  | .atomic _ n _ _ => g.bytes.take n ++ leBytes 8 g.acq
  | _ => if g.poison then (List.range g.bytes.length).map fun i => Config.poisonByte (a.toNat + i) else g.bytes

/-- An operation that returns a value. -/
def returnsValue : MemOp → Bool
  | .load _ _ => true
  | .atomic _ _ _ _ => true
  | .fetchAdd _ _ => true
  | .store _ _ | .storeM _ | .mop _ _ _ _ _ | .taskDec | .taskPost _ => false

/-- Atomics and bank-side operations inside a registered window are refused (R205, R206, R326). -/
def windowRefused (s : State) (x : Nat) (a : Word) (op : MemOp) : Bool :=
  (match op with | .atomic _ _ _ _ => true | .mop _ _ _ _ _ => true | _ => false) && inWindow s x a (memLen op)

/-- A failed access at the owner: a stale generation is logged, an AIRED page brought back, and the report returned, with the address
that failed (R165, R167). -/
def accessFailed (s : State) (f : Frame) (r : Ret) (b : Bad) (a : Word) (op : MemOp) : State :=
  let s := if b.code = 7 ∧ b.sub = 6 then logCp s 6 a.toNat f.src else s
  let a' := b.at_.getD a
  let s := if b.code = 3 ∧ b.sub = 2 then resolveOrStarve s f.ctx (localOf a') (opPages a op) else s
  answerFault s f r b a'

/-- A request of another die's unit. -/
def unitRequest (f : Frame) (w : Who) (g : Option (BitVec 8)) : Bool := w.agent.toNat / 2 ^ 23 == 2 && g.isNone && !f.sh

/-- A request of another die's unit waits for AIRED pages at the owner (R353); a core's takes the fault back to its core (R165). -/
def ownerTry (s : State) (f : Frame) (w : Who) (g : Option (BitVec 8)) (a : Word) (op : MemOp) : Except Bad (State × Got) :=
  if unitRequest f w g then unitTry s f.ctx w a op 4 else performGen s (coreKey f.ctx 0) (frameWho f w) false g a op

/-- LOAD, ATOMIC, STORE and MOP. A host's store by a context address may enable a queue, too (R394). -/
def performFrame (s : State) (f : Frame) (w : Who) (r : Ret) (g : Option (BitVec 8)) (a : Word) (op : MemOp) : State :=
  if windowRefused s f.ctx a op then answerFault s f r { code := 7, sub := 11, gran := 0, agent := 0, time := 0 } a
  else
    match ownerTry s f w g a op with
    | .error b => accessFailed s f r b a op
    | .ok (t, got) =>
      let s := if f.sh then (newlyEnabled s t).foldl zeroQueue t else t
      if loadsPoison op got && r.stream == 13 then answerFault s f r poisonBad a
      else if returnsValue op then answer s f (.data r (answerBytes op got a) got.tag got.poison)
      else answer s f (.done r)

/-- SEND and SENDL (R320): the last frame of a run returns the run's completion word. -/
def performSend (s : State) (f : Frame) (last : Bool) (w : Who) (r : Ret) (g : Option (BitVec 8)) (a : Word) (bs : List Byte) : State :=
  match performGen s (coreKey f.ctx 0) (frameWho f w) false g a (.store bs false) with
  | .error b => accessFailed s f r b a (.store bs false)
  | .ok (s, _) => if last then answer s f (.done r) else s

/-- A physical access of a host (R393): none where the address names no storage. Before the CP has started only the control page
answers, and only reads (R407). -/
def physicalFrame (s : State) (f : Frame) (r : Ret) (a : Word) (op : MemOp) : Option State :=
  let p := bits a 0 52
  if bootStage s == 0 && ((match op with | .load _ _ => false | _ => true) || decide (p < pageBase ∨ pageBase + 4096 ≤ p)) then some s
  else
    match op with
    | .load n _ => (hostRead s p n).map fun bs => answer s f (.data r bs false false)
    | .store d _ => (hostWrite s p d).map fun s => answer s f (.done r)
    | .storeM d => (hostRead s p d.length).bind fun bs =>
        (hostWrite s p ((d.zip bs).map fun e => e.1.getD e.2)).map fun s => answer s f (.done r)
    | .atomic o n x y => (hostRead s p n).bind fun bs =>
        (hostWrite s p (leBytes n (atomicNew o n x.toNat y.toNat (leNat bs)))).map fun s => answer s f (.data r (bs ++ leBytes 8 s.time) false false)
    | .mop o t n x y => (hostRead s p n).bind fun bs =>
        (hostWrite s p (leBytes n (mopNew o t n x.toNat y.toNat (leNat bs)))).map fun s => answer s f (.done r)
    | .fetchAdd n x => (hostRead s p n).bind fun bs =>
        (hostWrite s p (leBytes n (leNat bs + x.toNat))).map fun s => answer s f (.data r bs false false)
    | .taskDec => some s
    | .taskPost _ => some s

/-! ### Frames at their destination -/

/-- A frame whose context does not exist here (R410). What is left of a context that has been removed, its windows at their seams and the
landing slots of die units, is still settled (R294, R331). -/
def unknownContext (s : State) (f : Frame) : State :=
  match f.body with
  | .mem _ r _ a _ => answerFault s f r (Bad.trans 1) a
  | .send _ _ r _ a _ => answerFault s f r (Bad.trans 1) a
  | .chase p => endChase s p 0 (chaseAt s p) 1 1
  | .winreg name _ [] => seamOver s f.ctx name
  | .winack name st =>
    (match windowAt s (bits name 0 4) with
     | some w => if w.ctx = f.ctx then landWinack s (bits name 0 4) f.src st else discardFrame s f 9
     | none => discardFrame s f 9)
  | _ => lostResponse (discardFrame s f 9) f

/-- Body kinds that name no context: the CP's announcements. -/
def contextFree : Body → Bool
  | .darn _ => true
  | _ => false

/-- The window a contribution is for, and its element type. -/
def contribType (s : State) (name : Word) : Nat :=
  match windowOf s name with
  | some (_, w) => wdType w.desc
  | none => 0

/-- A barrier operation at a home core that does not exist is a SPRANGE fault (R213). -/
def barrierFrame (s : State) (f : Frame) (core : Nat) (r : Ret) (e : BarEvent) : State :=
  let h := coreKey f.ctx core
  if coreExists s (ctxAt s f.ctx).checked core then barEvent s h e else answerFault s f r sprangeBad 0

/-- What a frame does at its destination. -/
def deliverBody (s : State) (f : Frame) : State :=
  match f.body with
  | .mem w r g a op => performFrame s f w r g a op
  | .send last w r g a bs => performSend s f last w r g a bs
  | .fifo core pair sc sp ws =>
    keepImage (fifoArrive s (coreKey f.ctx core) pair (f.src, sc, sp) ws) (coreKey f.ctx core) pair
  | .contrib name i bs => homeMerge s (nameSlot s name) i (frameElems (contribType s name) bs) [f.src]
  | .wpart name i half els merged => partMerge s f.src (nameSlot s name) name i half els merged
  | .chase p => chaseHere s p f.hops
  | .data _ _ _ _ => { s with port := { s.port with landing := s.port.landing ++ [f] } }
  | .done _ => { s with port := { s.port with landing := s.port.landing ++ [f] } }
  | .chres _ _ _ _ _ _ => { s with port := { s.port with landing := s.port.landing ++ [f] } }
  | .fault _ _ _ _ _ _ => { s with port := { s.port with landing := s.port.landing ++ [f] } }
  | .winack _ _ => { s with port := { s.port with landing := s.port.landing ++ [f] } }
  | .bounce p => { s with port := { s.port with bounced := s.port.bounced ++ [p] } }
  | .fqcred core pair sc sp n =>
    let k := coreKey f.ctx core
    keepImage (onCore s k fun c => setFifo c pair (takeCredits (fifoAt c pair) (f.src, sc, sp) n)) k pair
  | .arrive core bar r done =>
    barrierFrame s f core r { bar := bar, from_ := 1, n := 1, ret := if done then some (f.src, r) else none }
  | .expect core bar n r done =>
    barrierFrame s f core r { bar := bar, from_ := 2, n := n, ret := if done then some (f.src, r) else none }
  | .sstep grp k step => { s with fcp := { s.fcp with sstep := s.fcp.sstep ++ [(f.ctx, grp, k, step, f.src)] } }
  | .viol rank sub cap => logCp s 4 (sub + rank * 256) cap.toNat
  | .darn slot => { s with port := { s.port with darnAt := s.port.darnAt ++ [(slot, none)] } }
  | .winreg name _ [] => seamOver s f.ctx name
  | .winreg name d members =>
    let (s, st) := registerSeam s f.ctx name d members
    sendOrDrop s f.ctx 1 false (bits name 20 10) (.winack name st)
  | .pegs _ | .nak _ | .none => s

/-- Sources of frames: dies and host bridges. -/
def sourceKey (f : Frame) : Nat := f.src + 1024 * f.sh.toNat

/-- VC2 frames of a source performed here. -/
def countPerformed (s : State) (f : Frame) : State :=
  let bump (s : State) (k : Nat) : State := { s with port := { s.port with pseqIn := mset s.port.pseqIn k ((mget 0 s.port.pseqIn k + 1) % 65536) } }
  match f.body with
  | .wpart _ _ _ _ merged => (merged.filter (· != f.src)).foldl bump (bump s (sourceKey f))
  | _ => if f.vc = 2 then bump s (sourceKey f) else s

/-- A VC3 arrival that VC2 frames of its source must precede (R214, R293). -/
def mustWait (s : State) (f : Frame) : Bool :=
  match f.body with
  | .arrive _ _ _ _ => seqBefore (mget 0 s.port.pseqIn (sourceKey f)) f.pseq
  | _ => false

/-- A VC3 frame whose source has an arrival waiting here: it keeps its place behind it (R293). -/
def behindLater (later : List Frame) (f : Frame) : Bool := f.vc.val == 3 && later.any fun g => sourceKey g == sourceKey f

/-- Deliver a frame at its destination; none where a host's physical address names no storage. -/
def deliver (s : State) (f : Frame) : Except Nat State :=
  if f.ctx = 0xFFFF ∧ contextFree f.body = false then
    match f.body with
    | .mem _ r _ a op =>
      (match physicalFrame s f r a op with
       | some t => .ok (countPerformed t f)
       | none => .error a.toNat)
    | _ => .ok (countPerformed (discardFrame s f 9) f)
  else if contextFree f.body = false ∧ (ctxAt? s f.ctx).isNone then .ok (countPerformed (unknownContext s f) f)
  else if mustWait s f || behindLater s.port.later f then .ok { s with port := { s.port with later := s.port.later ++ [f] } }
  else .ok (countPerformed (deliverBody s f) f)

/-! ### Forwarding (R278, R279, R292, R295, R304) -/

/-- The rwin.add of this die that sends frame i of a window's contribution: core, timeline, operation. -/
def contribOp (s : State) (x i : Nat) (name : Word) : Option (Nat × Nat × EngOp) :=
  s.cores.findSome? fun e =>
    if keyCtx e.1 != x then none
    else e.2.engs.findSome? fun q =>
      (q.2.find? fun o => o.fired && o.kind == .rwinAdd && hfWin o.shape == name && decide (hfFirst o.shape ≤ i ∧ i < hfFirst o.shape + addTotal o)).map
        fun o => (e.1, q.1, o)

/-- A contribution of this die whose seam or home cannot be reached (R279): its operation reports it, and sends it again once the trap has
been taken. One that only passes this die is discarded and logged: it names no requester. -/
def contribLost (s : State) (f : Frame) (name : Word) (i : Nat) : State :=
  match if f.src = s.port.rank && !f.sh then contribOp s f.ctx i name else none with
  | some (k, t, o) =>
    onImage s k fun s =>
      let o := { o with aux := o.aux ++ [BitVec.ofNat 64 (i - hfFirst o.shape)], ended := false, await := 2 }
      farReport (putOp s k t o) k t o 7 12 name 0 0
  | none => discardFrame s f 9

/-- A WINREG of this home that cannot reach its seam: the registration is refused as UNREACH, and a seam that is told a window is over
counts as having answered (R279, R328). -/
def winregLost (s : State) (f : Frame) (name : Word) (members : List Nat) : State :=
  let i := bits name 0 4
  match if f.src = s.port.rank then windowAt s i else none with
  | some w => onImage s w.core fun s => landWinack s i f.dst (if members.isEmpty then 0 else 6)
  | none => discardFrame s f 9

/-- A frame whose owner cannot be reached: its requester is told (R279); what nobody awaits is discarded and logged. -/
def unsendable (s : State) (f : Frame) : State :=
  match f.body with
  | .mem _ r _ a _ => answerFault s f r unreachBad a
  | .send _ _ r _ a _ => answerFault s f r unreachBad a
  | .chase p => endChase s p 0 (chaseAt s p) 5 0
  | .contrib name i _ => contribLost s f name i
  | .winreg name _ members => winregLost s f name members
  | .arrive _ _ r true => answerFault s f r unreachBad 0
  | .expect _ _ _ r true => answerFault s f r unreachBad 0
  | _ => discardFrame s f 9

/-- Queue a frame that has come on a link for the next hop of its route. -/
def forwardFrame (s : State) (l : Link) (f : Frame) : State :=
  match nextLink s l f with
  | some n =>
    { s with port := { s.port with queue := s.port.queue ++ [{ link := n, frame := { f with hops := f.hops + 1 }, sentAt := none, tries := 0 }] } }
  | none => unsendable s f

/-- Pass a frame on as an in-plane relay. -/
def relayFrame (s : State) (n : Link) (f : Frame) : State :=
  { s with port := { s.port with
      queue := s.port.queue ++ [{ link := n, frame := { f with hops := f.hops + 1 }, sentAt := none, tries := 0, transit := true }] } }

/-- The frame just queued, if one was, frees the receive slot of frame f when it is sent (R292). -/
def holdSlot (s t : State) (l : Link) (f : Frame) : State :=
  match t.port.queue.getLast? with
  | some q =>
    if s.port.queue.length < t.port.queue.length then
      let h := (l, f.vc.val, f.seq)
      { t with port := { t.port with queue := t.port.queue.dropLast ++ [{ q with frees := some h }], inHand := t.port.inHand ++ [h] } }
    else t
  | none => t

/-- A receive slot is freed: an acknowledgement is due. -/
def freeHand (s : State) (h : Link × Nat × Nat) : State :=
  sendAck { s with port := { s.port with inHand := s.port.inHand.erase h } } h.1 h.2.1

/-- The seam record that merges a contribution passing through. -/
def seamFor (s : State) (f : Frame) : Option Seam :=
  match f.body with
  | .contrib name _ _ => (seamOf s name).bind fun m => if m.members.contains f.src then some m else none
  | _ => none

/-- A frame for another die: merged at the seam, or forwarded, its slot held until the copy is sent (R292, R304). -/
def passFrame (s : State) (l : Link) (f : Frame) : State :=
  match f.body, seamFor s f with
  | .contrib _ i bs, some m => seamMerge s m i bs f.src
  | _, _ => holdSlot s (forwardFrame s l f) l f

/-- Deliver a frame from its receive slot; a request's slot is held until its response, or the packet it passes on, has been sent (R292,
R295). -/
def deliverFrom (s : State) (l : Link) (f : Frame) : Except Nat State :=
  match deliver s f with
  | .ok t => .ok (if f.vc = 0 then holdSlot s t l f else t)
  | .error a => .error a

/-- The frame's destination is this die. -/
def isHere (s : State) (f : Frame) : Bool := !f.dh && f.dst == s.port.rank

/-! ### Waiting accesses (R222, R292, R293, R406) -/

/-- A memory-side access of the frame is held by a bank lock or a retraining bus. -/
def frameHeld (s : State) (f : Frame) : Bool :=
  (ctxAt? s f.ctx).isSome &&
    (match f.body with
     | .mem _ _ _ a op => accessHeld s none (coreKey f.ctx 0) false a op
     | .send _ _ _ _ a bs => accessHeld s none (coreKey f.ctx 0) false a (.store bs false)
     | .chase p => accessHeld s none (coreKey f.ctx 0) false (chaseAt s p) (.load 1 false)
     | _ => false)

/-- A die unit's request finds its page AIRED and no frame for it: it waits here (R168, R353). -/
def frameStarved (s : State) (f : Frame) : Bool :=
  match f.body with
  | .mem w _ g a op =>
    (ctxAt? s f.ctx).isSome && unitRequest f w g && !windowRefused s f.ctx a op &&
      (match ownerTry s f w g a op with | .error b => b.code == 3 && b.sub == 2 | .ok _ => false)
  | _ => false

/-- An accepted frame takes its effect, or keeps its receive slot: behind the frames of its link and channel that wait, while its access
is held, or while its page has no frame, with the context pre-empted. -/
def takeFrame (s : State) (l : Link) (f : Frame) : Except Nat State :=
  let keep (s : State) : State := { s with port := { s.port with waiting := s.port.waiting ++ [(l, f)] } }
  if isHere s f then
    if !(heldSlots s l f.vc.val).isEmpty || frameHeld s f then .ok (keep s)
    else if frameStarved s f then .ok (keep (starve s f.ctx))
    else deliverFrom s l f
  else .ok (passFrame s l f)

/-- The waiting frames again, in order; one that goes frees its slot. -/
def retryWaiting : List (Link × Frame) → State → Except Nat State
  | [], s => .ok s
  | (l, f) :: r, s =>
    if (match heldSlots s l f.vc.val with | g :: _ => g != f | [] => true) || frameHeld s f then retryWaiting r s
    else if frameStarved s f then retryWaiting r (starve s f.ctx)
    else
      match deliverFrom { s with port := { s.port with waiting := s.port.waiting.erase (l, f) } } l f with
      | .ok t => retryWaiting r (sendAck t l f.vc.val)
      | .error a => .error a

/-- The VC3 frames that waited, again: each source's in order. -/
def retryEach : List Frame → State → State
  | [], s => s
  | f :: r, s =>
    if mustWait s f || behindLater s.port.later f then retryEach r { s with port := { s.port with later := s.port.later ++ [f] } }
    else retryEach r (if contextFree f.body || (ctxAt? s f.ctx).isSome then deliverBody s f else unknownContext s f)

/-- The arrivals that waited for VC2 frames, and those behind them, again. -/
def retryLater (s : State) : State := retryEach s.port.later { s with port := { s.port with later := [] } }

/-! ### Acceptance (R288, R290, R291) -/

/-- The receive pool of a link and channel has no free slot: its sender has gone beyond its pegs (R290). -/
def poolFull (s : State) (l : Link) (v : Nat) : Bool := decide (poolOf s l v ≤ (heldSeqs s l v).length)

/-- Before the CP has started the port serves only a host's read of the control page (R407). -/
def served (s : State) (f : Frame) : Bool :=
  bootStage s != 0 ||
    (isHere s f && f.ctx == 0xFFFF && (match f.body with
      | .mem _ _ _ a (.load n _) => decide (pageBase ≤ bits a 0 52 ∧ bits a 0 52 + n ≤ pageBase + 4096)
      | _ => false))

/-- A frame of a kind arrives on a link. One whose plane hop ends elsewhere passes on. Control words that carry acknowledgements are
applied at once; the others in SEQ order, into a free receive slot. -/
def receive (kind : Nat) (l : Link) (f : Frame) (s : State) : Host.Outcome State Fault Refusal :=
  let v := f.vc.val
  match relayLink s l f with
  | some n => .next (if bootStage s = 0 then s else relayFrame s n f)
  | none =>
  if kind = 0x30 ∨ kind = 0x31 then
    if headerRefused kind f then .next (discardFrame s f 10)
    else
      let s := noteHeard s l
      match f.body with
      | .pegs ws => .next (ws.foldl (fun s w => applyAck s l w) s)
      | .nak ws => .next (ws.foldl (fun s w => resendFrom (applyAck s l w) l w.1) s)
      | _ => .next s
  else if f.seq % 65536 = expected s l v ∧ poolFull s l v then .next (sendNak s l v)
  else if f.seq % 65536 = expected s l v then
    let s := noteHeard s l
    let s := { s with port := { s.port with inSeq := lput s.port.inSeq l v ((f.seq + 1) % 65536) } }
    if headerRefused kind f then .next (sendAck (discardFrame s f 10) l v)
    else if !served s f then .next (sendAck s l v)
    else
      match takeFrame s l f with
      | .ok t => .next (sendAck t l v)
      | .error a => .fault (.absentPhysical a)
  else if seqBefore f.seq (expected s l v) then .next (sendAck s l v)
  else .next (sendNak s l v)

/-- STORE_FRAME (R315). -/
def execStoreFrame (l : Link) (f : Frame) (s : State) : Host.Outcome State Fault Refusal := receive 0x00 l f s

/-- SEND_FRAME (R320). -/
def execSendFrame (l : Link) (f : Frame) (s : State) : Host.Outcome State Fault Refusal := receive 0x01 l f s

/-- SENDL_FRAME (R320). -/
def execSendlFrame (l : Link) (f : Frame) (s : State) : Host.Outcome State Fault Refusal := receive 0x06 l f s

/-- FIFO_FRAME (R317). -/
def execFifoFrame (l : Link) (f : Frame) (s : State) : Host.Outcome State Fault Refusal := receive 0x02 l f s

/-- CONTRIB_FRAME (R304). -/
def execContribFrame (l : Link) (f : Frame) (s : State) : Host.Outcome State Fault Refusal := receive 0x03 l f s

/-- WPART_FRAME (R304). -/
def execWpartFrame (l : Link) (f : Frame) (s : State) : Host.Outcome State Fault Refusal := receive 0x04 l f s

/-- MOP_FRAME (R315). -/
def execMopFrame (l : Link) (f : Frame) (s : State) : Host.Outcome State Fault Refusal := receive 0x05 l f s

/-- LOAD_FRAME (R324). -/
def execLoadFrame (l : Link) (f : Frame) (s : State) : Host.Outcome State Fault Refusal := receive 0x10 l f s

/-- ATOMIC_FRAME (R326). -/
def execAtomicFrame (l : Link) (f : Frame) (s : State) : Host.Outcome State Fault Refusal := receive 0x11 l f s

/-- CHASE_FRAME (R333). -/
def execChaseFrame (l : Link) (f : Frame) (s : State) : Host.Outcome State Fault Refusal := receive 0x12 l f s

/-- DATA_FRAME (R292). -/
def execDataFrame (l : Link) (f : Frame) (s : State) : Host.Outcome State Fault Refusal := receive 0x20 l f s

/-- DONE_FRAME (R315). -/
def execDoneFrame (l : Link) (f : Frame) (s : State) : Host.Outcome State Fault Refusal := receive 0x21 l f s

/-- CHRES_FRAME (R335). -/
def execChresFrame (l : Link) (f : Frame) (s : State) : Host.Outcome State Fault Refusal := receive 0x22 l f s

/-- BOUNCE_FRAME (R336). -/
def execBounceFrame (l : Link) (f : Frame) (s : State) : Host.Outcome State Fault Refusal := receive 0x23 l f s

/-- FAULT_FRAME (R165). -/
def execFaultFrame (l : Link) (f : Frame) (s : State) : Host.Outcome State Fault Refusal := receive 0x24 l f s

/-- FQCRED_FRAME (R317). -/
def execFqcredFrame (l : Link) (f : Frame) (s : State) : Host.Outcome State Fault Refusal := receive 0x25 l f s

/-- WINACK_FRAME (R328). -/
def execWinackFrame (l : Link) (f : Frame) (s : State) : Host.Outcome State Fault Refusal := receive 0x26 l f s

/-- PEGRET_FRAME (R291). -/
def execPegretFrame (l : Link) (f : Frame) (s : State) : Host.Outcome State Fault Refusal := receive 0x30 l f s

/-- NAK_FRAME (R291). -/
def execNakFrame (l : Link) (f : Frame) (s : State) : Host.Outcome State Fault Refusal := receive 0x31 l f s

/-- ARRIVE_FRAME (R214). -/
def execArriveFrame (l : Link) (f : Frame) (s : State) : Host.Outcome State Fault Refusal := receive 0x32 l f s

/-- EXPECT_FRAME (R215). -/
def execExpectFrame (l : Link) (f : Frame) (s : State) : Host.Outcome State Fault Refusal := receive 0x33 l f s

/-- SSTEP_FRAME (R40). -/
def execSstepFrame (l : Link) (f : Frame) (s : State) : Host.Outcome State Fault Refusal := receive 0x34 l f s

/-- VIOL_FRAME (R299). -/
def execViolFrame (l : Link) (f : Frame) (s : State) : Host.Outcome State Fault Refusal := receive 0x35 l f s

/-- DARN_FRAME (R309). -/
def execDarnFrame (l : Link) (f : Frame) (s : State) : Host.Outcome State Fault Refusal := receive 0x36 l f s

/-- WINREG_FRAME (R304, R328). -/
def execWinregFrame (l : Link) (f : Frame) (s : State) : Host.Outcome State Fault Refusal := receive 0x37 l f s

/-- RESERVED_KIND_FRAME (R288): discarded, acknowledged, counted and logged. -/
def execReservedKindFrame (l : Link) (f : Frame) (s : State) : Host.Outcome State Fault Refusal := receive 0x3F l f s

/-- FRAME_CRC_FAILURE (R288, R291): the frame is discarded and counted, and its channel's sender is told the SEQ expected. -/
def execFrameCrcFailure (l : Link) (v : Fin 4) (s : State) : Host.Outcome State Fault Refusal := .next (sendNak (countErr s 5) l v.val)

end Sys2Proof.Machine
end

