-- ==== Sys2Proof/Machine/Port.lean ====
section
/-! DEFINITION. The port's own events: slots and what they send (R280 to R284, R290), resends (R291), optical faults (R307, R308),
darning (R309), and the changes that take effect at a named slot (R274, R280, R282). -/

namespace Sys2Proof.Machine

/-! ### Slots (R280, R281, R283) -/

/-- Frame times of a slot that carry frames (R283). -/
def slotFrames (tlen : Nat) : Nat :=
  let f := (4 * tlen - 4) * 2 / 17
  f - (f + 15) / 16

/-- Cycles of a mangle cycle (R281). -/
def mangleCycles (s : State) (pl : Plane) : Nat := max 1 (tableOf s pl).length * slotCycles s

/-- A line may carry light in a slot: it has not failed and is not being retuned (R307, R308). -/
def lineUsable (s : State) (pl : Plane) (w slot : Nat) : Bool :=
  !s.port.linesDown.contains (pl, w) && !s.port.retuning.any fun r => r.1 == pl && r.2.1 == w && decide (r.2.2.1 ≤ slot)

/-- Some line of a shift's pair may be used (R275, R307). -/
def shiftUsable (s : State) (pl : Plane) (h slot : Nat) : Bool := lineUsable s pl h slot || lineUsable s pl (h + 34) slot

/-- Both lines of a shift have failed: the shift is dead (R308). -/
def shiftDead (s : State) (pl : Plane) (h : Nat) : Bool := s.port.linesDown.contains (pl, h) && s.port.linesDown.contains (pl, h + 34)

/-- The ports a plane's lanes send to in a slot. -/
def slotPorts (s : State) (pl : Plane) (slot : Nat) : List Nat :=
  let t := tableOf s pl
  match t[slot % max 1 t.length]? with
  | none => []
  | some e => (List.range 16).filterMap fun l =>
      let h := laneSh e l
      if s.port.lanesDown.contains (pl, l) ∨ h = 0x3F ∨ shiftUsable s pl h slot = false then none else some (shiftPort s pl h)

/-! ### Sending (R284, R290) -/

/-- Acknowledgements take no peg, no SEQ and no replay copy (R290). -/
def isControl (f : Frame) : Bool := match f.body with | .pegs _ | .nak _ => true | _ => false

/-- The port that the lane of a queued frame sends to: a relayed frame goes straight to the end of its hop (R309). -/
def lanePort (s : State) (q : Sent) : Nat := if q.transit then q.link.port else relayPort s q.link.plane q.link.port

/-- A frame goes out by a plane's lane to port j on a channel. -/
def goesBy (s : State) (pl : Plane) (j v : Nat) (q : Sent) : Bool := q.link.plane == pl && q.frame.vc.val == v && lanePort s q == j

/-- What is left of a lane's slot, of the pegs and of the next SEQs; the frames sent and kept, and the receive slots freed. -/
structure Lane where
  room  : Nat
  pegs  : List (Link × Nat × Nat)
  seqs  : List (Link × Nat × Nat)
  sent  : List Sent
  kept  : List Sent
  freed : List (Link × Nat × Nat)
  deriving DecidableEq, Repr

/-- Send the frames that wait in the replay store to be sent again: the store, and the frame times left (R291). -/
def takeResends (now : Nat) (by_ : Sent → Bool) : List Sent → Nat → List Sent × Nat
  | [], n => ([], n)
  | q :: r, n =>
    if q.sentAt.isNone && by_ q && decide (0 < n) then
      let x := takeResends now by_ r (n - 1)
      ({ q with sentAt := some now } :: x.1, x.2)
    else
      let x := takeResends now by_ r n
      (q :: x.1, x.2)

/-- Take a channel's frames from the queue, oldest first, while frame times and pegs last (R284, R290). Acknowledgements and relayed
frames take no peg, SEQ or replay copy of this die. A peg count starts at `start`. -/
def takeQueued (now : Nat) (start : Link → Nat → Nat) (by_ : Sent → Bool) : List Sent → Lane → Lane
  | [], n => n
  | q :: r, n =>
    let l := q.link
    let v := q.frame.vc.val
    if by_ q = false ∨ n.room = 0 then takeQueued now start by_ r { n with kept := n.kept ++ [q] }
    else if isControl q.frame || q.transit then takeQueued now start by_ r { n with room := n.room - 1, freed := n.freed ++ q.frees.toList }
    else if lget (start l v) n.pegs l v = 0 then takeQueued now start by_ r { n with kept := n.kept ++ [q] }
    else
      let x := lget 0 n.seqs l v
      let q' : Sent := { q with frame := { q.frame with seq := x }, sentAt := some now, tries := 0, frees := none }
      takeQueued now start by_ r
        { n with room := n.room - 1, pegs := lput n.pegs l v (lget (start l v) n.pegs l v - 1), seqs := lput n.seqs l v ((x + 1) % 65536)
                 sent := n.sent ++ [q'], freed := n.freed ++ q.frees.toList }

/-- Send one channel's frames by a lane: those to be sent again, then new ones, which go to the replay store (R291). -/
def sendChannel (pl : Plane) (j : Nat) (sr : State × Nat) (v : Nat) : State × Nat :=
  let (s, room) := sr
  let x := takeResends s.time (goesBy s pl j v) s.port.replay room
  let n := takeQueued s.time (farPool s) (goesBy s pl j v) s.port.queue
    { room := x.2, pegs := s.port.pegs, seqs := s.port.outSeq, sent := [], kept := [], freed := [] }
  if n.room = room then (s, room)
  else
    let t := { s with port := { s.port with queue := n.kept, replay := x.1 ++ n.sent, pegs := n.pegs, outSeq := n.seqs } }
    (n.freed.foldl freeHand t, n.room)

/-- One lane's slot: VC3, VC1, VC0, VC2 (R284). -/
def sendLane (s : State) (pl : Plane) (j : Nat) : State := ([3, 1, 0, 2].foldl (sendChannel pl j) (s, slotFrames s.port.tlen)).1

/-- SLOT_START (R284, R317): the present slot, if it has not been started. -/
def execSlotStart (s : State) : Host.Outcome State Fault Refusal :=
  let n := slotNow s
  if n < s.port.nextSlot then .next s
  else
    let s := sendFifos s
    let s := (slotPorts s .shelf n).foldl (fun s j => sendLane s .shelf j) s
    let s := (slotPorts s .column n).foldl (fun s j => sendLane s .column j) s
    .next { s with port := { s.port with nextSlot := n + 1 } }

/-! ### Resends (R291) -/

/-- FRAME_RESEND_TIMEOUT (R291): four mangle cycles without an acknowledgement. -/
def execFrameResendTimeout (l : Link) (v : Fin 4) (s : State) : Host.Outcome State Fault Refusal :=
  match oldestSent s l v.val with
  | none => .next s
  | some q =>
    .next (if q.sentAt.getD s.time + 4 * mangleCycles s l.plane ≤ s.time then resendFrom s l v.val else s)

/-! ### Optical faults (R307, R308) -/

/-- A line fails: its partner is the line in use for the shift, and darning starts (R308, R309). -/
def failLine (s : State) (pl : Plane) (w : Nat) : State :=
  let down := if s.port.linesDown.contains (pl, w) then s.port.linesDown else s.port.linesDown ++ [(pl, w)]
  noteLoss { s with port := { s.port with linesDown := down, retuning := s.port.retuning.filter fun r => !(r.1 == pl && r.2.1 == w) } } pl

/-- RETUNE_START (R307): lanes move to the partner line from the next slot. -/
def execRetuneStart (pl : Plane) (w : Nat) (s : State) : Host.Outcome State Fault Refusal :=
  .next (lineFault { s with port := { s.port with retuning := s.port.retuning ++ [(pl, w, slotNow s + 1, s.time)] } } 1 pl w)

/-- RETUNE_END (R307). -/
def execRetuneEnd (pl : Plane) (w : Nat) (s : State) : Host.Outcome State Fault Refusal :=
  .next { s with port := { s.port with retuning := s.port.retuning.filter fun r => !(r.1 == pl && r.2.1 == w) } }

/-- A retune has at most 40 µs (R307, R308). -/
def cycles40us : Nat := 160000

/-- UNCORRECTABLE_DRIFT (R308): the line's error has passed 10 GHz, or its retune has not ended in time. -/
def execUncorrectableDrift (pl : Plane) (w : Nat) (s : State) : Host.Outcome State Fault Refusal :=
  .next (failLine (lineFault s 3 pl w) pl w)

/-- LINE_FAILURE (R308). -/
def execLineFailure (pl : Plane) (w : Nat) (s : State) : Host.Outcome State Fault Refusal :=
  .next (failLine (lineFault s 2 pl w) pl w)

/-- MODULATOR_LANE_DEATH (R308). -/
def execModulatorLaneDeath (pl : Plane) (l : Nat) (s : State) : Host.Outcome State Fault Refusal :=
  .next (maskLane (laneFault s 4 pl l) pl l)

/-- PASSBAND_SHIFT (R308): every line of the plane becomes unusable. -/
def execPassbandShift (pl : Plane) (s : State) : Host.Outcome State Fault Refusal :=
  .next ((List.range 68).foldl (fun s w => failLine s pl w) (fabricFault s 5 pl 0xFF 0xFF 0xFF))

/-- Frames queued toward a silent peer take the new route, those sent and never acknowledged are reported, and so are those that have no
route any more, to whichever source they came from (R279). -/
def rerouteFrames (s : State) (l : Link) : State :=
  let mine := s.port.queue.filter fun q => q.link == l && !isControl q.frame
  let drop (s : State) (q : Sent) : State := q.frees.toList.foldl freeHand (unsendable s q.frame)
  let lost := s.port.replay.filter fun q => q.link == l
  let s := { s with port := { s.port with queue := s.port.queue.filter fun q => q.link != l
                                          replay := s.port.replay.filter fun q => q.link != l } }
  let s := mine.foldl (fun s q =>
    match linkTo s q.frame.dh q.frame.dst with
    | some l' => { s with port := { s.port with queue := s.port.queue ++ [{ q with link := l' }] } }
    | none => drop s q) s
  lost.foldl drop s

/-- Nothing has been accepted from a live peer for 64 mangle cycles. -/
def peerSilent (s : State) (l : Link) : Bool :=
  let last := ((s.port.heard.find? fun h => h.1 == l).map Prod.snd).getD 0
  live s (portPosition s l) && decide (last + 64 * mangleCycles s l.plane ≤ s.time)

/-- The ports that a plane's table in force reaches. -/
def tablePorts (s : State) (pl : Plane) : List Nat := (((tableOf s pl).flatMap entryShifts).map (shiftPort s pl)).dedup

/-- PEER_SILENT (R308): a silent peer is marked not live. -/
def execPeerSilent (pl : Plane) (p : Nat) (s : State) : Host.Outcome State Fault Refusal :=
  let l : Link := { plane := pl, port := p }
  if peerSilent s l then
    let i := (laneTo s l).getD 0xFF
    let s := fabricFault s 9 pl i (laneLine s pl i) p
    .next (rerouteFrames { s with port := { s.port with dead := s.port.dead ++ [portPosition s l] } } l)
  else .next s

/-! ### Darning (R309) -/

/-- Set a lane of an entry. -/
def setLane (e : BitVec 128) (l v : Nat) : BitVec 128 := setRec e (8 * l) 8 v

/-- Lanes of a plane that still work. -/
def goodLanes (s : State) (pl : Plane) : List Nat := (List.range 16).filter fun l => !s.port.lanesDown.contains (pl, l)

/-- The table with its dead lanes idle. -/
def maskedTable (s : State) (pl : Plane) : List (BitVec 128) :=
  (tableOf s pl).map fun e => (List.range 16).foldl (fun e l => if s.port.lanesDown.contains (pl, l) then setLane e l 0x3F else e) e

/-- The shifts that the dead lanes carried, with their line selection. -/
def lostShifts (s : State) (pl : Plane) : List Nat :=
  (tableOf s pl).flatMap fun e => (List.range 16).filterMap fun l =>
    if s.port.lanesDown.contains (pl, l) ∧ laneSh e l ≠ 0x3F then some (rbits e (8 * l) 7) else none

/-- Place a shift on the first idle surviving lane of an entry that does not use it. -/
def placeShift (good : List Nat) (h : Nat) : List (BitVec 128) → List (BitVec 128)
  | [] => []
  | e :: r =>
    match good.find? fun l => laneSh e l == 0x3F with
    | some l => if (entryShifts e).contains (h % 64) then e :: placeShift good h r else setLane e l h :: r
    | none => e :: placeShift good h r

/-- The repaired table of a plane. -/
def repairedTable (s : State) (pl : Plane) : List (BitVec 128) :=
  (lostShifts s pl).foldl (fun t h => placeShift (goodLanes s pl) h t) (maskedTable s pl)

/-- The in-plane relay for a dead shift to port j: the lowest live port from which both shifts are usable. -/
def relayFor (s : State) (pl : Plane) (j : Nat) : Option Nat :=
  let i := portOn pl s.port.pos
  (List.range 33).find? fun k => k != i && k != j && livePort s pl k && !shiftDead s pl ((k + 34 - i) % 34) && !shiftDead s pl ((j + 34 - k) % 34)

/-- The relays that a plane's dead shifts need. -/
def relaysFor (s : State) (pl : Plane) : List (Plane × Nat × Nat) :=
  (List.range 34).filterMap fun j =>
    if j ≠ portOn pl s.port.pos ∧ livePort s pl j ∧ shiftDead s pl ((j + 34 - portOn pl s.port.pos) % 34) then
      (relayFor s pl j).map fun k => (pl, j, k)
    else none

/-- The plane whose loss is to be repaired next: no swap has been announced for it. -/
def darnNext (s : State) : Option Plane := s.port.lossOn.find? fun pl => !s.port.darnAt.any fun e => e.2 == some pl

/-- The first slot of the next mangle cycle of a plane. -/
def nextMangle (s : State) (pl : Plane) : Nat :=
  let n := max 1 (tableOf s pl).length
  (slotNow s / n + 1) * n

/-- The live dies on a grating of this die, a spare with them where it bears a rank. -/
def darnPeers (s : State) (pl : Plane) : List Nat :=
  (((List.range 33).filter fun j => j != portOn pl s.port.pos && livePort s pl j).map fun j => linkRank s { plane := pl, port := j }).filter
    fun r => r != 0x3FF

/-- DARNING_COMPUTE (R309): the swap slot is chosen and announced. -/
def execDarningCompute (s : State) : Host.Outcome State Fault Refusal :=
  match darnNext s with
  | none => .next s
  | some pl =>
    let n := nextMangle s pl
    let s := (darnPeers s pl).foldl (fun s r => sendOrDrop s 0xFFFF 3 false r (.darn n)) s
    .next { s with port := { s.port with darnAt := s.port.darnAt ++ [(n, some pl)] } }

/-- Append a loss to the retirement store unless it is there or has found it full. -/
def recordLoss (s : State) (body : List Nat) : State :=
  if (s.shape.records.any fun r => r.2 == body) || s.shape.unkept.contains body then s else appendRecord s body

/-- Append the losses of a plane. -/
def recordLosses (s : State) (pl : Plane) : State :=
  let s := (s.port.lanesDown.filter fun l => l.1 == pl).foldl (fun s l => recordLoss s [4, planeCode pl, l.2]) s
  (s.port.linesDown.filter fun l => l.1 == pl).foldl (fun s l => recordLoss s [5, planeCode pl, l.2]) s

/-- The swap of a plane whose loss this die repairs (R309): the repaired table and the relays are in force, the loss is recorded, the host
informed. -/
def darnPlane (n : Nat) (s : State) (pl : Plane) : State :=
  let p := s.port
  let left := p.lossOn.filter fun q => q != pl
  let s := { s with port := { p with
      tables := listSet p.tables (planeCode pl) (repairedTable s pl)
      relays := (p.relays.filter fun e => e.1 != pl) ++ relaysFor s pl
      lossOn := left, darn := !left.isEmpty } }
  logCp (writeCatalogue (recountLanes (recordLosses s pl))) 21 n 0

/-- DARN_TABLE_SWAP (R309): the swaps whose slot has come. One that another die has announced changes nothing here: this die repairs its
own losses alone. -/
def execDarnTableSwap (s : State) : Host.Outcome State Fault Refusal :=
  let due := s.port.darnAt.filter fun e => decide (e.1 ≤ slotNow s)
  .next ((due.filterMap fun e => e.2.map fun pl => (e.1, pl)).foldl (fun s e => darnPlane e.1 s e.2)
    { s with port := { s.port with darnAt := s.port.darnAt.filter fun e => !decide (e.1 ≤ slotNow s) } })

/-! ### Changes at a named slot (R274, R280, R282) -/

/-- SLOT_TABLE_SWAP (R282). -/
def execSlotTableSwap (pl : Plane) (s : State) : Host.Outcome State Fault Refusal :=
  match s.port.shadowT.getD (planeCode pl) none with
  | some (n, t) =>
    if slotNow s < n then .next s
    else
      let p := s.port
      .next { s with port := { p with tables := listSet p.tables (planeCode pl) t, shadowT := listSet p.shadowT (planeCode pl) none } }
  | none => .next s

/-- One change of the relabel table: the label, the die's own rank, the record. -/
def applyLabel (s : State) (e : Nat × Nat × Option (Nat × Nat)) : State :=
  let (_, r, p) := e
  let s := setLabel s r p
  let s := if p = some s.port.pos then { s with port := { s.port with rank := r } } else s
  appendRecord s (match p with | some q => [6, r, 1, q.1, q.2] | none => [6, r, 0, 0, 0])

/-- RELABEL_APPLY (R274): the changes whose slot has come, in the order of their commands. -/
def execRelabelApply (s : State) : Host.Outcome State Fault Refusal :=
  let now := s.port.relabelAt.filter fun e => decide (e.1 ≤ slotNow s)
  if now.isEmpty then .next s
  else
    let s := { s with port := { s.port with relabelAt := s.port.relabelAt.filter fun e => !decide (e.1 ≤ slotNow s) } }
    .next (writeCatalogue (now.foldl applyLabel s))

/-- TLEN_CHANGE_APPLY (R280): slot n begins the new length. -/
def execTlenChangeApply (s : State) : Host.Outcome State Fault Refusal :=
  match s.port.tlenAt with
  | some (t, n) =>
    if slotNow s < n then .next s
    else
      let p := s.port
      .next { s with port := { p with tlen := t, tlenAt := none, slotBase := (p.slotBase.1 + (n - p.slotBase.2) * slotCycles s, n) } }
  | none => .next s

end Sys2Proof.Machine
end

