-- ==== Sys2Proof/Machine/Bus.lean ====
section
/-! DEFINITION. Vertical-bus retraining (R406). -/

namespace Sys2Proof.Machine

/-- The position whose banks a global address names, for a core of this die. -/
def windowPos (s : State) (x : Nat) (a : Word) : Option Nat :=
  if ownerOf a = s.port.rank ∧ localOf a / 2 ^ 30 = 0x1FFFF then some (corePos s (ctxAt s x).checked (localOf a / 2 ^ 21 % 512)) else none

/-- An access of core k to the banks of position p waits in its queue. -/
def accessOn (s : State) (k p : Nat) (a : Access) : Bool :=
  (elemsOf a.op).any fun e =>
    (e.sp && corePos s (ctxAt s (keyCtx k)).checked (keyCore k) == p) || (!e.sp && windowPos s (keyCtx k) e.addr == some p)

/-- Replace the state of a bus. -/
def setVbus (s : State) (p : Nat) (b : Vbus) : State := { s with vbus := mset s.vbus p b }

/-- No bank is locked and no bus retrains. -/
def allFree (s : State) : State :=
  { s with cores := s.cores.map fun e => (e.1, { e.2 with lock := none })
           vbus := s.vbus.map fun e => (e.1, { e.2 with ends := none }) }

/-- Only the bus of position p retrains. -/
def onlyBus (s : State) (p : Nat) : State := setVbus (allFree s) p { vbusAt s p with ends := some 0 }

/-- Why the next step of an engine operation would stop. -/
def nextHalt (s : State) (k t : Nat) (o : EngOp) : Option Halt :=
  let r := Run.start s o
  if t < 4 then (cpStep k t o r).1.stop
  else if t = 4 then (mxStep k o r).1.stop
  else if t = 9 then (vpStep k o r).1.stop
  else if t = 10 then (eqStep k o r).1.stop
  else (fabStep k t o r).1.stop

/-- A die unit's job waits. -/
def jobWaits (s : State) (j : UnitJob) : Bool := match unitDo s j with | .wait _ => true | _ => false

/-- An engine operation that has fired waits at its next access. -/
def engWaits (s : State) (k t : Nat) (o : EngOp) : Bool := o.fired && !o.ended && o.await == 0 && nextHalt s k t o == some .wait

/-- A test holds of a state in which the bus of position p retrains, and does not in one in which all is free: what it tests is held by
that bus alone. -/
def heldBy (s : State) (p : Nat) (test : State → Bool) : Bool := test (onlyBus s p) && !test (allFree s)

/-- A transfer on the bus of position p is queued: a core's access, the next access of an engine operation, of a frame in its receive slot,
of a response in the landing store or of a die unit. -/
def busQueued (s : State) (p : Nat) : Bool :=
  (s.cores.any fun e => (ctxAt s (keyCtx e.1)).resident &&
    (e.2.accs.any (accessOn s e.1 p) || e.2.engs.any fun q => q.2.any fun o => heldBy s p fun s => engWaits s e.1 q.1 o)) ||
    (s.port.waiting.any fun w => heldBy s p fun s => frameHeld s w.2) || (s.port.landing.any fun f => heldBy s p fun s => landingHeld s f) ||
    s.cp.jobs.any fun j => heldBy s p fun s => jobWaits s j

/-- VBUS_RETRAIN_START (R406). -/
def execVbusRetrainStart (p : Nat) (s : State) : Host.Outcome State Fault Refusal :=
  let b := vbusAt s p
  .next (if b.ends.isNone && decide (b.due ≤ s.time) && !busQueued s p then setVbus s p { b with ends := some (s.time + 2400) } else s)

/-- VBUS_RETRAIN_FORCED (R406). -/
def execVbusRetrainForced (p : Nat) (s : State) : Host.Outcome State Fault Refusal :=
  let b := vbusAt s p
  .next (if b.ends.isNone && decide (b.due + 8000000 ≤ s.time) then setVbus s p { b with ends := some (s.time + 2400) } else s)

/-- VBUS_RETRAIN_END (R406): the next is due 32,000,000 cycles later. -/
def execVbusRetrainEnd (p : Nat) (s : State) : Host.Outcome State Fault Refusal :=
  match (vbusAt s p).ends with
  | some t => .next (if t ≤ s.time then setVbus s p { due := t + 32000000, ends := none } else s)
  | none => .next s

end Sys2Proof.Machine
end

