-- ==== Sys2Proof/Machine/DrtEvents.lean ====
section
/-! DEFINITION. Doreel Remote Transport packets at this die (R341 to R347): placement at the target, acknowledgements and failures at the
source, resends and losses. -/

namespace Sys2Proof.Machine

/-! ### The target's checks (R342, R345) -/

/-- The agent of a placement: race tags are neither checked nor changed (R342). -/
def drtWho (s : State) : Who := { agent := agentId 2 s.port.rank 5 0, q := s.time, rx := true }

/-- An entry covers bytes of a context address. -/
def regCovers (r : Registration) (a n : Nat) : Bool := decide (r.base ≤ a ∧ a + n ≤ r.base + r.len)

/-- The registration a packet may act on, or the CODE of its NACK: 4 no entry covers the bytes, 1 another generation, 3 closing, 2 not
permitted. -/
def packetCheck (s : State) (gen : BitVec 8) (a n perm : Nat) : Except Nat Registration :=
  let rs := s.drt.regs.filterMap fun e => e.2.bind fun r => if regCovers r a n then some r else none
  match rs.find? fun r => r.gen == gen with
  | none => .error (if rs.isEmpty then 4 else 1)
  | some r => if r.closing then .error 3 else if holdsPerms r.perms.toNat perm then .ok r else .error 2

/-- A packet in answer to another. -/
def answerPacket (s : State) (p : Packet) (op code : Nat) : Packet where
  op := op
  flagged := p.flagged
  tagged := false
  last := true
  src := ownSystemRank s
  dst := p.src
  mid := p.mid
  pidx := p.pidx
  gen := p.gen
  code := code
  len := 0
  addr := 0
  seqcnt := 0
  tags := 0
  data := []

/-- Send a packet. -/
def sendPacket (s : State) (p : Packet) : State := { s with drt := { s.drt with out := s.drt.out ++ [datagram s p] } }

/-- Acknowledge a packet. -/
def ackPacket (s : State) (p : Packet) : State := sendPacket s (answerPacket s p 6 0)

/-- Refuse a packet: it is counted, answered with its CODE and reported to this die's CP; a flagged message has failed. -/
def nackPacket (s : State) (p : Packet) (code : Nat) : State :=
  let d := s.drt
  let s := { s with drt := { d with nacks := d.nacks + 1, failed := if p.flagged ∧ p.op = 1 then d.failed ++ [(p.src, p.mid, code)] else d.failed } }
  logCp (sendPacket s (answerPacket s p 7 code)) 4 code p.src

/-- Answer a request with packets that are kept until the requester has acknowledged them (R342). -/
def servePackets (s : State) (p : Packet) (ps : List Packet) : State :=
  let m : Message := { mid := p.mid, core := 0, opNum := 0, kind := 3, dst := p.src, packets := ps, sentAt := s.time, start := s.time
                       need := 0, gotBytes := 0, localAddr := 0 }
  { s with drt := { s.drt with serving := s.drt.serving ++ [m], out := s.drt.out ++ ps.map (datagram s) } }

/-- Report that a flag has been placed, or that all before a flush has: a FLUSHDONE with the message's id. The manual names no other
packet for the report of R346 (DESIGN CHOICE [41]). -/
def reportDone (s : State) (p : Packet) : State := servePackets s p [answerPacket s p 8 0]

/-- A packet's index in the window; the packets of an answer are told apart from those of its request, which has the same id when the
die is its own target. -/
def seenIx (p : Packet) : Nat := p.pidx + (if p.op = 3 ∨ p.op = 8 then 2 ^ 32 else 0)

/-- A duplicate within the 1 ms window. -/
def isDuplicate (s : State) (p : Packet) : Bool :=
  s.drt.seen.any fun e => e.1 == p.src && e.2.1 == p.mid && e.2.2.1 == seenIx p && decide (s.time < e.2.2.2 + cycles1ms)

/-- Note a packet in the window, forgetting what has left it. -/
def noteSeen (s : State) (p : Packet) : State :=
  let old := s.drt.seen.filter fun e => decide (s.time < e.2.2.2 + cycles1ms)
  { s with drt := { s.drt with seen := old ++ [(p.src, p.mid, seenIx p, s.time)] } }

/-- A duplicate is dropped, acknowledged and counted. -/
def dropDuplicate (s : State) (p : Packet) : State := ackPacket { s with drt := { s.drt with dups := s.drt.dups + 1 } } p

/-- Store a packet's bytes under a registration's context, with the capability tags it restores (R346). -/
def placeBytesAt (s : State) (x a : Nat) (bs : List Byte) (tags : Nat) : Except Bad State :=
  match unitTry s x (drtWho s) (ownAddr s a) (.store bs false) 4 with
  | .error b => .error b
  | .ok (s, _) =>
    .ok ((List.range (bs.length / 16)).foldl (fun s i =>
      if tags / 2 ^ i % 2 = 1 then
        match locateAny s (coreKey x 0) false (ownAddr s (a + 16 * i)) 16 .store with
        | .ok ((p, _, _) :: _, s) => setTag s p true
        | .ok ([], _) => s
        | .error _ => s
      else s) s)

/-! ### Sequences (R347) -/

/-- A message of the sequence before a flag: its core and target are the flag's and it is one of the SEQCNT puts before it. -/
def inSequence (p : Packet) (src mid : Nat) : Bool :=
  src == p.src && mid / 2 ^ 20 == p.mid / 2 ^ 20 &&
    (let d := (p.mid % 2 ^ 20 + 2 ^ 20 - mid % 2 ^ 20) % 2 ^ 20; decide (1 ≤ d ∧ d ≤ p.seqcnt))

/-- A packet of a flagged message has been placed: once all have, the message has. -/
def countPlaced (s : State) (p : Packet) : State :=
  if !p.flagged then s
  else
    let d := s.drt
    let (n, total) := ((d.parts.find? fun e => e.1 == p.src && e.2.1 == p.mid).map fun e => e.2.2).getD (0, 0)
    let total := if p.last then p.pidx + 1 else total
    let rest := d.parts.filter fun e => !(e.1 == p.src && e.2.1 == p.mid)
    if n + 1 = total then { s with drt := { d with parts := rest, placed := d.placed ++ [(p.src, p.mid)] } }
    else { s with drt := { d with parts := rest ++ [(p.src, p.mid, n + 1, total)] } }

/-- The failure of a message of a flag's sequence. -/
def sequenceFailed (s : State) (p : Packet) : Option Nat := (s.drt.failed.find? fun e => inSequence p e.1 e.2.1).map fun e => e.2.2

/-- The messages of a flag's sequence have been placed. -/
def sequenceDone (s : State) (p : Packet) : Bool :=
  decide (p.seqcnt ≤ (s.drt.placed.filter fun e => inSequence p e.1 e.2).length)

/-- A flag's sequence is over: its messages are forgotten. -/
def endSequence (s : State) (p : Packet) : State :=
  let d := s.drt
  { s with drt := { d with placed := d.placed.filter fun e => !inSequence p e.1 e.2
                           failed := d.failed.filter fun e => !inSequence p e.1 e.2.1
                           flags := d.flags.filter fun q => !(q.src == p.src && q.mid == p.mid) } }

/-- Place a flag whose time has come, or fail it. -/
def placeFlag (s : State) (p : Packet) : State :=
  match (if p.flagged then sequenceFailed s p else none) with
  | some code => nackPacket (endSequence s p) p code
  | none =>
    match packetCheck s p.gen p.addr 8 permW with
    | .error code => nackPacket (endSequence s p) p code
    | .ok r =>
      match placeBytesAt s r.ctx p.addr (p.data.take 8) 0 with
      | .error _ => nackPacket (endSequence s p) p 2
      | .ok s => reportDone (endSequence s p) p

/-- A flag need not wait. -/
def flagReady (s : State) (p : Packet) : Bool := !p.flagged || (sequenceFailed s p).isSome || sequenceDone s p

/-- A FLUSHREQ can be answered: no flag of its core still waits (R346). -/
def flushReady (s : State) (p : Packet) : Bool :=
  !s.drt.flags.any fun q => q.op == 4 && q.src == p.src && q.mid / 2 ^ 21 == p.mid / 2 ^ 21

/-- Answer a FLUSHREQ. -/
def answerFlush (s : State) (p : Packet) : State :=
  reportDone { s with drt := { s.drt with flags := s.drt.flags.filter fun q => !(q.src == p.src && q.mid == p.mid) } } p

/-! ### Packets at the target -/

/-- PUT (R342, R346). -/
def takePut (s : State) (p : Packet) : State :=
  if isDuplicate s p then dropDuplicate s p
  else
    let s := noteSeen s p
    match packetCheck s p.gen p.addr p.len permW with
    | .error code => nackPacket s p code
    | .ok r =>
      let tags := if p.tagged ∧ holdsPerms r.perms.toNat permD then p.tags.toNat else 0
      match placeBytesAt s r.ctx p.addr (p.data.take p.len) tags with
      | .error _ => nackPacket s p 2
      | .ok s => ackPacket (countPlaced s p) p

/-- A GETDATA packet (R346): bytes from offset o of the request's range. -/
def getData (s : State) (p : Packet) (i o : Nat) (last : Bool) (bs : List Byte) : Packet :=
  { answerPacket s p 3 0 with pidx := i, last := last, len := bs.length, addr := p.addr + o, data := bs }

/-- The packets that answer a GETREQ, cut by cut. -/
def answerGet (p : Packet) (x : Nat) : List (Nat × Nat) → Nat → State → Except Bad (State × List Packet)
  | [], _, s => .ok (s, [])
  | (o, n) :: r, i, s =>
    match unitTry s x (drtWho s) (ownAddr s (p.addr + o)) (.load n false) 4 with
    | .error b => .error b
    | .ok (s, g) =>
      match answerGet p x r (i + 1) s with
      | .error b => .error b
      | .ok (s, ps) => .ok (s, getData s p (p.pidx + i) o (p.last && r.isEmpty) g.bytes :: ps)

/-- GETREQ (R346). -/
def takeGet (s : State) (p : Packet) : State :=
  if isDuplicate s p then dropDuplicate s p
  else
    let s := noteSeen s p
    match packetCheck s p.gen p.addr p.len permR with
    | .error code => nackPacket s p code
    | .ok r =>
      match answerGet p r.ctx (packetCuts p.len) 0 (ackPacket s p) with
      | .ok (t, ps) => servePackets t p ps
      | .error _ => nackPacket s p 2

/-- The packet waits among the flags and flushes. -/
def waitsHere (s : State) (p : Packet) : Bool := s.drt.flags.any fun q => q.src == p.src && q.mid == p.mid

/-- FLAG (R342, R347): acknowledged at arrival, placed when its sequence has been. -/
def takeFlag (s : State) (p : Packet) : State :=
  if waitsHere s p || isDuplicate s p then dropDuplicate s p
  else
    let s := ackPacket (noteSeen s p) p
    if flagReady s p then placeFlag s p else { s with drt := { s.drt with flags := s.drt.flags ++ [p] } }

/-- FLUSHREQ (R342, R346): acknowledged at arrival, answered when no flag of its core waits. -/
def takeFlush (s : State) (p : Packet) : State :=
  if waitsHere s p || isDuplicate s p then dropDuplicate s p
  else
    let s := ackPacket (noteSeen s p) p
    if flushReady s p then answerFlush s p else { s with drt := { s.drt with flags := s.drt.flags ++ [p] } }

/-! ### Packets at the source -/

/-- The outstanding message of a packet. -/
def messageOf (s : State) (p : Packet) : Option Message := s.drt.msgs.find? fun m => m.mid == p.mid && m.dst == p.src && p.dst == ownSystemRank s

/-- Replace a message. -/
def putMessage (s : State) (m : Message) : State :=
  { s with drt := { s.drt with msgs := s.drt.msgs.map fun x => if x.mid = m.mid then m else x } }

/-- GETDATA (R346): placed locally; a local fault is reported to the core, and the packet not acknowledged, so that it comes again. -/
def takeData (s : State) (p : Packet) : State :=
  match messageOf s p with
  | none => dropDuplicate s p
  | some m =>
    if isDuplicate s p then dropDuplicate s p
    else
      let (sp, a) := drtLocal m.localAddr
      let a := a + BitVec.ofNat 64 (4096 * p.pidx)
      let op : MemOp := .store (p.data.take p.len) false
      match (if sp then performMem s m.core (drtWho s) true a op else unitTry s (keyCtx m.core) (drtWho s) a op 4) with
      | .error b => (match opFor s m.core 12 m.opNum with | some o => engReport s m.core 12 o b a 1 | none => s)
      | .ok (s, _) =>
        let s := ackPacket (noteSeen s p) p
        let m := { m with gotBytes := m.gotBytes + p.len, packets := m.packets.filter fun q => q.pidx != p.pidx }
        if m.need ≤ m.gotBytes then endMessage s m none else putMessage s m

/-- What a flush's answer confirms: the rank holds no unconfirmed put of the core any more, unless one has begun since the FLUSHREQ. -/
def confirmFlush (s : State) (m : Message) : State :=
  if m.kind = 5 ∧ msgCount s m.core m.dst false = m.need then
    { s with drt := { s.drt with unflushed := s.drt.unflushed.filter fun e => e != (m.core, m.dst) } }
  else s

/-- FLUSHDONE (R346): a flush has been answered, or a flag placed. -/
def takeFlushDone (s : State) (p : Packet) : State :=
  match messageOf s p with
  | none => dropDuplicate s p
  | some m =>
    endMessage (confirmFlush (ackPacket (noteSeen s p) p) m) m none

/-- An acknowledgement of a packet that this die has sent in answer (R342). -/
def ackServed (s : State) (p : Packet) : State :=
  let go (m : Message) : Option Message :=
    if m.mid = p.mid ∧ m.dst = p.src then
      (let ps := m.packets.filter fun q => q.pidx != p.pidx
       if ps.isEmpty then none else some { m with packets := ps })
    else some m
  { s with drt := { s.drt with serving := s.drt.serving.filterMap go } }

/-- ACK (R342, R346): the packet's state goes; a put ends with its last. -/
def takeAck (s : State) (p : Packet) : State :=
  match (messageOf s p).filter fun m => m.packets.any fun q => q.pidx == p.pidx with
  | none => ackServed s p
  | some m =>
    let m := { m with packets := m.packets.filter fun q => q.pidx != p.pidx }
    if m.packets.isEmpty ∧ m.kind = 1 then endMessage s m none else putMessage s m

/-- NACK (R342, R343): the message fails with the CODE's kind. -/
def takeNack (s : State) (p : Packet) : State :=
  match messageOf s p with
  | none => s
  | some m => endMessage s m (some (p.code + 1))

/-- A packet by its OP; one of an unknown OP is dropped. -/
def takePacket (s : State) (p : Packet) : State :=
  match p.op with
  | 1 => takePut s p
  | 2 => takeGet s p
  | 3 => takeData s p
  | 4 => takeFlag s p
  | 5 => takeFlush s p
  | 6 => takeAck s p
  | 7 => takeNack s p
  | 8 => takeFlushDone s p
  | _ => s

/-- The packets of a cycle leave; those for this die itself come back by its own ports. -/
def leavePackets : Nat → State → State
  | 0, s => { s with drt := { s.drt with out := s.drt.out.filter fun d => d.packet.dst == ownSystemRank s } }
  | n + 1, s =>
    let mine := (s.drt.out.map Datagram.packet).filter fun p => p.dst == ownSystemRank s
    let s := { s with drt := { s.drt with out := [] } }
    if mine.isEmpty then s else leavePackets n (mine.foldl takePacket s)

/-! ### Events -/

/-- PUT (R342). -/
def execPut (p : Packet) (s : State) : Host.Outcome State Fault Refusal := .next (takePut s p)

/-- GETREQ (R346). -/
def execGetreq (p : Packet) (s : State) : Host.Outcome State Fault Refusal := .next (takeGet s p)

/-- GETDATA (R346). -/
def execGetdata (p : Packet) (s : State) : Host.Outcome State Fault Refusal := .next (takeData s p)

/-- FLAG (R347). -/
def execFlag (p : Packet) (s : State) : Host.Outcome State Fault Refusal := .next (takeFlag s p)

/-- FLUSHREQ (R346). -/
def execFlushreq (p : Packet) (s : State) : Host.Outcome State Fault Refusal := .next (takeFlush s p)

/-- FLUSHDONE (R346). -/
def execFlushdone (p : Packet) (s : State) : Host.Outcome State Fault Refusal := .next (takeFlushDone s p)

/-- ACK (R342). -/
def execAck (p : Packet) (s : State) : Host.Outcome State Fault Refusal := .next (takeAck s p)

/-- NACK (R342). -/
def execNack (p : Packet) (s : State) : Host.Outcome State Fault Refusal := .next (takeNack s p)

/-- DRT_FLAG_PLACE (R347): waiting packet i, a flag or a flush, is placed or answered once it may be. -/
def execDrtFlagPlace (i : Nat) (s : State) : Host.Outcome State Fault Refusal :=
  match s.drt.flags[i]? with
  | none => .next s
  | some p =>
    if p.op = 4 then .next (if flagReady s p then placeFlag s p else s)
    else .next (if flushReady s p then answerFlush s p else s)

/-- A message's unacknowledged packets are due, 50 µs after they were sent (R342). -/
def resendDue (s : State) (m : Message) : Bool := !m.packets.isEmpty && decide (m.sentAt + cycles50us ≤ s.time)

/-- DRT_PACKET_RESEND (R342): the unacknowledged packets of message i, an operation's or, after those, an answer. -/
def execDrtPacketResend (i : Nat) (s : State) : Host.Outcome State Fault Refusal :=
  let n := s.drt.msgs.length
  let send (m : Message) : State := { s with drt := { s.drt with out := s.drt.out ++ m.packets.map (datagram s) } }
  match s.drt.msgs[i]?, s.drt.serving[i - n]? with
  | some m, _ => .next (if resendDue s m then putMessage (send m) { m with sentAt := s.time } else s)
  | none, some m =>
    .next (if resendDue s m then
        let t := send m
        { t with drt := { t.drt with serving := listSet t.drt.serving (i - n) { m with sentAt := s.time } } }
      else s)
  | none, none => .next s

/-- DRT_MESSAGE_LOST (R342): message i, not wholly acknowledged and answered after 0.5 ms: an operation's has failed, an answer is
forgotten. -/
def execDrtMessageLost (i : Nat) (s : State) : Host.Outcome State Fault Refusal :=
  let n := s.drt.msgs.length
  match s.drt.msgs[i]?, s.drt.serving[i - n]? with
  | some m, _ => .next (if m.start + cycles500us ≤ s.time then endMessage s m (some 1) else s)
  | none, some m => .next (if m.start + cycles500us ≤ s.time then { s with drt := { s.drt with serving := listDrop s.drt.serving (i - n) } } else s)
  | none, none => .next s

/-- REGISTRATION_DRAINED (R345): the closing entry i has no placement under way; it is freed and its rma.rev completes. -/
def execRegistrationDrained (i : Nat) (s : State) : Host.Outcome State Fault Refusal :=
  match registration s i with
  | none => .next s
  | some r =>
    if r.closing && r.started == 0 then
      let s := { s with drt := { s.drt with regs := mput none s.drt.regs i none } }
      match r.waiter with
      | some (k, n) => .next (match opFor s k 12 n with
          | some o => putOp s k 12 { o with fired := true, ended := true, await := 0 }
          | none => s)
      | none => .next s
    else .next s

/-- DRT_PACKET_BAD_CRC (R341). -/
def execDrtPacketBadCrc (s : State) : Host.Outcome State Fault Refusal := .next { s with drt := { s.drt with badCrc := s.drt.badCrc + 1 } }

end Sys2Proof.Machine
end

