-- ==== Sys2Proof/Machine/Schedule.lean ====
section
/-! DEFINITION. The order of one cycle [4], [12]: what the die does next, and the end of a cycle.

What the outside has in store (`agenda`) comes first. Then, in stage 0, each core with work lands its due results and issues, traps or
is held; in stage 1 every unit's possible event is tried once; in stage 2 the barriers complete and apply their arrivals (R43). The
cycle then ends: semaphore changes combine (R210), words move, time advances. -/

namespace Sys2Proof.Machine

/-! ### Fetch (R76, R81, R125) -/

/-- Fetch one bundle at an address of this die, for a task of epoch e (R163). -/
def fetchBundle (s : State) (x e : Nat) (pc : Word) : Except Nat (Bundle × State) :=
  match locateAll s x .fetch (pieces (localOf pc) 32) with
  | .error f => .error f
  | .ok (ps, s) => .ok (BitVec.ofNat 256 (leNat (ps.flatMap fun p => codeRead s e p.1 p.2.1)), s)

/-- Fetch bundles one after another. -/
def fetchAll (x e : Nat) : List Word → State → Except (Nat × Word) (List Bundle × State)
  | [], s => .ok ([], s)
  | a :: r, s =>
    match fetchBundle s x e a with
    | .error f => .error (f, a)
    | .ok (b, s) =>
      match fetchAll x e r s with
      | .error e => .error e
      | .ok (bs, s) => .ok (b :: bs, s)

/-- The addresses of the bundle, or of the stage bundles of the composite, that a core issues next (R125). -/
def issueAddrs (c : Core) : List Word :=
  if c.seq.active then (List.range c.seq.sc).map fun i => c.seq.body + BitVec.ofNat 64 (32 * (i * c.seq.ii + c.seq.k)) else [c.pc]

/-- The bundles that core k issues next. -/
def fetchFor (s : State) (k : Nat) : Except (Nat × Word) (List Bundle × State) :=
  fetchAll (keyCtx k) (coreAt s k).epoch (issueAddrs (coreAt s k)) s

/-- The report of a failed fetch (R165). -/
def fetchReport (f : Nat) (a : Word) (pc : Word) : Report := badReport (Bad.trans f) a 3 pc

/-! ### A core's turn -/

/-- The bundle itself would take a precise trap (R225). -/
def wouldTrap (s : State) (ws : List Bundle) : Bool :=
  let c := curCore s
  let live := cutLoop c ws
  (encodingFails c ws).isSome ||
    ((headerHold c (liveHeaders live ws)).isNone &&
      (match checkGroup c (posedTests ((sylsOf ws).filter fun y => stageLive live y.stage) s) with
       | .trap _ => true
       | .hold _ | .ok => false))

/-- What a core does now: nothing more in this cycle; an event after which it goes on; its last event of the cycle. -/
inductive Turn where
  | skip
  | stay (i : Instr) (s : State)
  | go (i : Instr) (s : State)
  deriving DecidableEq, Repr

/-- The position of a core's hardware. -/
def keyPos (s : State) (k : Nat) : Nat := corePos s (ctxAt s (keyCtx k)).checked (keyCore k)

/-- A core with a running task that may issue: not stopped, no branch cycle, no retraining bus (R81, R230, R406). -/
def mayIssue (s : State) (k : Nat) : Bool :=
  let c := coreAt s k
  (ctxAt s (keyCtx k)).resident && c.task.isSome && !c.waits && c.stop.isNone && c.idle == 0 && (vbusAt s (keyPos s k)).ends.isNone

/-- The issue of a core's next bundle, or the trap that takes its place (R22, R25, R165, R225). -/
def issueTurn (s : State) (k : Nat) : Turn :=
  let c := coreAt s k
  let pending := !(pendingReports c).isEmpty
  if c.hold.isSome && decide (wdogLimit c ≤ c.held) then .go (.starvationTrap k) s
  else if c.after = .tend ∨ c.after = .eret then (if pending then .go (.pendingTrapTaken k) s else .go (.bundleIssue []) s)
  else
    match fetchFor s k with
    | .error (f, a) => if pending then .go (.pendingTrapTaken k) s else .stay (.accessReport k (fetchReport f a c.pc)) s
    | .ok (ws, s') =>
      if pending && !wouldTrap s' ws then .go (.pendingTrapTaken k) s
      else .go (.bundleIssue ws) (onCore s' k fun c => (issueAddrs c).foldl (fun c a => clearLivelock c a 32 3) c)

/-- The next event of core k: its control-register writes (R130), its results due (R91), its issue. -/
def coreNext (s : State) (k : Nat) : Turn :=
  let c := coreAt s k
  match c.csrws with
  | w :: _ => .stay (csrEvent w) s
  | [] =>
    if !(ctxAt s (keyCtx k)).resident then .skip
    else if (dueResult c).isSome then .stay (.resultWriteback k) s
    else if mayIssue s k then issueTurn s k
    else .skip

/-- The next event of the cores in turn. -/
def coreTurn : List Nat → State → Option Instr × State
  | [], s => (none, { s with turn := [] })
  | k :: r, s =>
    match coreNext { s with cur := k } k with
    | .skip => coreTurn r s
    | .stay i t => (some i, { t with turn := k :: r, cur := k })
    | .go i t => (some i, { t with turn := r, cur := k })

/-! ### The units' events -/

/-- One event if a condition holds. -/
def oneIf (b : Bool) (i : Instr) : List Instr := if b then [i] else []

/-- Indices of a list, the last first, so that removing one leaves the others. -/
def downFrom (n : Nat) : List Nat := (List.range n).reverse

/-- Events of the buses (R406). -/
def busEvents (s : State) : List Instr :=
  s.vbus.flatMap fun e =>
    match e.2.ends with
    | some t => oneIf (decide (t ≤ s.time)) (.vbusRetrainEnd e.1)
    | none =>
      oneIf (decide (e.2.due ≤ s.time)) (.vbusRetrainStart e.1) ++ oneIf (decide (e.2.due + 8000000 ≤ s.time)) (.vbusRetrainForced e.1)

/-- Channels of links with frames to be acknowledged. -/
def sentChannels (s : State) : List (Link × Fin 4) := (s.port.replay.map fun q => (q.link, q.frame.vc)).dedup

/-- Events of the port. -/
def portEvents (s : State) : List Instr :=
  oneIf s.port.tlenAt.isSome .tlenChangeApply ++ oneIf (!s.port.relabelAt.isEmpty) .relabelApply ++
    oneIf (s.port.shadowT.getD 0 none).isSome (.slotTableSwap .shelf) ++ oneIf (s.port.shadowT.getD 1 none).isSome (.slotTableSwap .column) ++
    oneIf (darnNext s).isSome .darningCompute ++ oneIf (!s.port.darnAt.isEmpty) .darnTableSwap ++
    oneIf (decide (s.port.nextSlot ≤ slotNow s)) .slotStart ++
    (s.port.retuning.filter fun r => decide (r.2.2.2 + cycles40us ≤ s.time)).map (fun r => .uncorrectableDrift r.1 r.2.1) ++
    [Plane.shelf, Plane.column].flatMap (fun pl => ((tablePorts s pl).filter fun j => peerSilent s { plane := pl, port := j }).map (.peerSilent pl)) ++
    (sentChannels s).map (fun c => .frameResendTimeout c.1 c.2) ++
    (downFrom s.port.landing.length).map .landingMove ++ (downFrom s.port.bounced.length).map .chaseReinject ++
    (downFrom s.port.seams.length).map .seamDeadlineFlush ++ s.port.windows.map (fun e => .windowDeadline e.1)

/-- Events of the DRT ports. -/
def drtEvents (s : State) : List Instr :=
  (downFrom s.drt.flags.length).map .drtFlagPlace ++ (List.range (s.drt.msgs.length + s.drt.serving.length)).map .drtPacketResend ++
    (downFrom (s.drt.msgs.length + s.drt.serving.length)).map .drtMessageLost ++
    s.drt.regs.flatMap fun e => match e.2 with | some r => oneIf r.closing (.registrationDrained e.1) | none => []

/-- An entry whose next element lies in the core's own scratchpad. -/
def ownScratch (a : Access) : Bool := match elemsOf a.op with | e :: _ => e.sp | [] => false

/-- The event of an entry of the access queue. -/
def accessEvents (k : Nat) (a : Access) : List Instr :=
  match a.op with
  | .tlAcq _ _ => [.tlAcqSatisfied k a.id]
  | _ => if ownScratch a then [] else [.accessPerform k a.id, .requestInject k a.id]

/-- The accesses of the cores to their own scratchpads: they come before those through the window (R183). -/
def ownEvents (s : State) : List Instr :=
  s.cores.flatMap fun e =>
    if (ctxAt s (keyCtx e.1)).resident && !gangsPending s (keyCtx e.1) then (e.2.accs.filter ownScratch).map fun a => .accessPerform e.1 a.id
    else []

/-- Events of the engines of a core. -/
def engineEvents (k : Nat) (c : Core) : List Instr :=
  c.engs.flatMap fun e => if e.2.isEmpty then [] else .engineOpFire k e.1 :: e.2.map fun o => .engineOpComplete k e.1 o.n

/-- Events of a core of a resident context. -/
def coreEvents (s : State) (k : Nat) (c : Core) : List Instr :=
  (match c.stop with
   | some st => oneIf (st.code == 3 && bits c.csr.tcause 16 8 == 2) (.airedFaultResolve k)
   | none =>
     oneIf (c.task.isNone && !(c.reports ++ c.asyncs).isEmpty) (.trapBetweenTasks k) ++
       oneIf (c.staged.isSome && c.task.isNone && !coreClaimed s k) (.stagedTaskStart k)) ++
    if gangsPending s (keyCtx k) then [] else
    c.accs.flatMap (accessEvents k) ++ engineEvents k c ++ c.rets.map (fun r => .loadReturn k r.id) ++
    (downFrom c.sdone.length).map (.sdoneSignal k) ++
    (if (c.hold.map Hold.obj) = some 0x106 then (c.fifos.filter fun f => f.2.peer.isSome).map fun f => .fqUnbindComplete k f.1 else [])

/-- Cores that the walker or the ready queue might give a task. -/
def choiceCores (s : State) : List Nat :=
  (s.fcp.launches.flatMap Launch.held ++ s.fcp.ready.flatMap (readyCores s)).dedup

/-- The levels that have an overflow list, from the highest down (R39). -/
def overflowLevels (s : State) : List Instr :=
  if s.fcp.overflow.isEmpty then []
  else ((downFrom 256).filter fun l => s.fcp.overflow.any fun r => r.prio == l).map .readyOverflowMove

/-- Events of the FCP. -/
def fcpEvents (s : State) : List Instr :=
  s.fcp.launches.flatMap (fun l => match l.phase with
    | .committed => [.superstepAdvance l.seq, .launchCompletion l.seq]
    | .finishing _ => [.launchCompletion l.seq]
    | .reserving | .backoff _ => [.launchBackoffExpiry l.seq]) ++
    overflowLevels s ++
    s.fcp.pendDec.map (fun d => .taskRecordDecrement d.1 d.2) ++ oneIf (nextQueue s).isSome .fcpGrant ++ (choiceCores s).map .coreTaskChoice

/-- Events of a core of a context that is not resident: its operations of t11 and t12 go on (R348). -/
def absentEvents (k : Nat) (c : Core) : List Instr :=
  [11, 12].flatMap fun t => (queueOf c t).map fun o => .engineOpComplete k t o.n

/-- The events of stage 1, each to be tried once. -/
def unitEvents (s : State) : List Instr :=
  oneIf (s.page.bootst == 0) .boot ++ (mgmtNext s).toList ++ busEvents s ++ ownEvents s ++ portEvents s ++ (s.cores.flatMap fun e => if (ctxAt s (keyCtx e.1)).resident then coreEvents s e.1 e.2 else absentEvents e.1 e.2) ++
    drtEvents s ++ fcpEvents s ++ oneIf (sweepDue s) .pageCompressorSweep

/-- The events of stage 2: completions that an expectation has brought about, then the cycle's arrivals (R43). -/
def barrierEvents (s : State) : List Instr :=
  (s.cores.flatMap fun e => (e.2.bars.filter fun b => barrierFull b.2).map fun b => .barrierDeferredCompletion e.1 b.1) ++
    (s.cores.filter fun e => !e.2.barEvs.isEmpty).map fun e => .barrierArrivalApplied e.1

/-! ### The choice -/

/-- Stage 2. -/
def pickBarrier (s : State) : Option Instr × State :=
  match s.todo with
  | i :: r => (some i, { s with todo := r })
  | [] => (none, s)

/-- Stage 1, then stage 2. -/
def pickUnit (s : State) : Option Instr × State :=
  match s.todo with
  | i :: r => (some i, { s with todo := r })
  | [] => pickBarrier { s with stage := 2, todo := barrierEvents s }

/-- Stage 0, then stage 1. -/
def pickCore (s : State) : Option Instr × State :=
  match coreTurn s.turn s with
  | (some i, t) => (some i, t)
  | (none, t) => pickUnit { t with stage := 1, todo := unitEvents t }

/-- What happens next: an event, or the end of the cycle. -/
def pick (s : State) : Option Instr × State :=
  match s.agenda with
  | i :: r => (some i, { s with agenda := r })
  | [] => if s.stage = 0 then pickCore s else if s.stage = 1 then pickUnit s else pickBarrier s

/-! ### The end of a cycle -/

/-- A core at the end of a cycle: its semaphore changes combine; while its context is resident the branch's own cycle and then
two branch cycles pass, the latter as issue cycles (R81), and
without a task what is in flight goes on. -/
def endCore (resident : Bool) (c : Core) : Core :=
  let c := if c.semOps.isEmpty then c else combineSems c
  if !resident then c
  else if 0 < c.idle ∧ c.stop.isNone then
    { c with idle := c.idle - 1, icycle := if c.idle < branchIdle then c.icycle + 1 else c.icycle }
  else if c.task.isNone ∧ c.stop.isNone ∧ !c.results.isEmpty then { c with icycle := c.icycle + 1 }
  else c

/-- A core with something to do in stage 0. -/
def hasTurn (s : State) (e : Nat × Core) : Bool :=
  !e.2.csrws.isEmpty || ((ctxAt s (keyCtx e.1)).resident && e.2.stop.isNone && (e.2.task.isSome || !e.2.results.isEmpty))

/-- The next cycle begins. -/
def beginCycle (s : State) : State :=
  { s with time := s.time + 1, stage := 0, todo := [], turn := (s.cores.filter (hasTurn s)).map Prod.fst }

/-- The end of a cycle (R210, R292, R317). -/
def endCycle (s : State) : Host.Outcome State Fault Refusal :=
  let s := keepAbsent s
  let s := { s with cores := s.cores.map fun e => (e.1, endCore (ctxAt s (keyCtx e.1)).resident e.2) }
  let s := retryUnits (leavePackets 4 (moveFifos (serveBad s)))
  match retryWaiting s.port.waiting s with
  | .error a => .fault (.absentPhysical a)
  | .ok t => .next (beginCycle (resumeWaiting (retryLater t)))

end Sys2Proof.Machine
end

