-- ==== Sys2Proof/Machine/Dispatch.lean ====
section
/-! DEFINITION. The meaning of every instruction, one arm each. -/

namespace Sys2Proof.Machine

/-- What an instruction does to the machine. -/
def exec (i : Instr) (s : State) : Host.Outcome State Fault Refusal :=
  match i with
  | .bundleIssue ws => Sys2Proof.Machine.execBundleIssue ws s
  | .sdoneSignal c i0 => Sys2Proof.Machine.execSdoneSignal c i0 s
  | .resultWriteback c => Sys2Proof.Machine.execResultWriteback c s
  | .loadReturn c i0 => Sys2Proof.Machine.execLoadReturn c i0 s
  | .starvationTrap c => Sys2Proof.Machine.execStarvationTrap c s
  | .accessReport c r => Sys2Proof.Machine.execAccessReport c r s
  | .pendingTrapTaken c => Sys2Proof.Machine.execPendingTrapTaken c s
  | .trapBetweenTasks c => Sys2Proof.Machine.execTrapBetweenTasks c s
  | .stagedTaskStart c => Sys2Proof.Machine.execStagedTaskStart c s
  | .coreTaskChoice c => Sys2Proof.Machine.execCoreTaskChoice c s
  | .taskRecordDecrement x a => Sys2Proof.Machine.execTaskRecordDecrement x a s
  | .readyOverflowMove l => Sys2Proof.Machine.execReadyOverflowMove l s
  | .launchBackoffExpiry n => Sys2Proof.Machine.execLaunchBackoffExpiry n s
  | .superstepAdvance n => Sys2Proof.Machine.execSuperstepAdvance n s
  | .launchCompletion n => Sys2Proof.Machine.execLaunchCompletion n s
  | .barrierArrivalApplied c => Sys2Proof.Machine.execBarrierArrivalApplied c s
  | .barrierDeferredCompletion c b => Sys2Proof.Machine.execBarrierDeferredCompletion c b s
  | .accessPerform c i0 => Sys2Proof.Machine.execAccessPerform c i0 s
  | .airedFaultResolve c => Sys2Proof.Machine.execAiredFaultResolve c s
  | .vbusRetrainStart p => Sys2Proof.Machine.execVbusRetrainStart p s
  | .vbusRetrainForced p => Sys2Proof.Machine.execVbusRetrainForced p s
  | .vbusRetrainEnd p => Sys2Proof.Machine.execVbusRetrainEnd p s
  | .engineOpFire c t => Sys2Proof.Machine.execEngineOpFire c t s
  | .engineOpComplete c t n => Sys2Proof.Machine.execEngineOpComplete c t n s
  | .tlAcqSatisfied c i0 => Sys2Proof.Machine.execTlAcqSatisfied c i0 s
  | .landingMove i0 => Sys2Proof.Machine.execLandingMove i0 s
  | .requestInject c i0 => Sys2Proof.Machine.execRequestInject c i0 s
  | .frameResendTimeout l v => Sys2Proof.Machine.execFrameResendTimeout l v s
  | .chaseReinject i0 => Sys2Proof.Machine.execChaseReinject i0 s
  | .seamDeadlineFlush i0 => Sys2Proof.Machine.execSeamDeadlineFlush i0 s
  | .windowDeadline i0 => Sys2Proof.Machine.execWindowDeadline i0 s
  | .slotTableSwap pl => Sys2Proof.Machine.execSlotTableSwap pl s
  | .fqUnbindComplete c i0 => Sys2Proof.Machine.execFqUnbindComplete c i0 s
  | .drtFlagPlace i0 => Sys2Proof.Machine.execDrtFlagPlace i0 s
  | .drtPacketResend i0 => Sys2Proof.Machine.execDrtPacketResend i0 s
  | .drtMessageLost m => Sys2Proof.Machine.execDrtMessageLost m s
  | .registrationDrained i0 => Sys2Proof.Machine.execRegistrationDrained i0 s
  | .preempt x => Sys2Proof.Machine.execPreempt x s
  | .restore x a => Sys2Proof.Machine.execRestore x a s
  | .resume x n k => Sys2Proof.Machine.execResume x n k s
  | .gate g => Sys2Proof.Machine.execGate g s
  | .relabel r p n => Sys2Proof.Machine.execRelabel r p n s
  | .abort q => Sys2Proof.Machine.execAbort q s
  | .setpeg pl p v z => Sys2Proof.Machine.execSetpeg pl p v z s
  | .table pl a n => Sys2Proof.Machine.execTable pl a n s
  | .tlen t n => Sys2Proof.Machine.execTlen t n s
  | .attest a r => Sys2Proof.Machine.execAttest a r s
  | .create a => Sys2Proof.Machine.execCreate a s
  | .destroy x => Sys2Proof.Machine.execDestroy x s
  | .wdogWrite v => Sys2Proof.Machine.execWdogWrite v s
  | .fpcsrWrite v => Sys2Proof.Machine.execFpcsrWrite v s
  | .parkcfgWrite v => Sys2Proof.Machine.execParkcfgWrite v s
  | .resvcfgWrite v => Sys2Proof.Machine.execResvcfgWrite v s
  | .drtcfgWrite v => Sys2Proof.Machine.execDrtcfgWrite v s
  | .drtstWrite v => Sys2Proof.Machine.execDrtstWrite v s
  | .eqstWrite v => Sys2Proof.Machine.execEqstWrite v s
  | .controlRegisterWrite a v => Sys2Proof.Machine.execControlRegisterWrite a v s
  | .bnkLock a n => Sys2Proof.Machine.execBnkLock a n s
  | .loopm a i0 s0 => Sys2Proof.Machine.execLoopm a i0 s0 s
  | .add d a b w => Sys2Proof.Machine.execAdd d a b w s
  | .sub d a b w => Sys2Proof.Machine.execSub d a b w s
  | .addi d a i0 => Sys2Proof.Machine.execAddi d a i0 s
  | .mul d a b w => Sys2Proof.Machine.execMul d a b w s
  | .mulh d a b => Sys2Proof.Machine.execMulh d a b s
  | .mulhu d a b => Sys2Proof.Machine.execMulhu d a b s
  | .mad d a b => Sys2Proof.Machine.execMad d a b s
  | .div d a b => Sys2Proof.Machine.execDiv d a b s
  | .divu d a b => Sys2Proof.Machine.execDivu d a b s
  | .rem d a b => Sys2Proof.Machine.execRem d a b s
  | .remu d a b => Sys2Proof.Machine.execRemu d a b s
  | .and d a b => Sys2Proof.Machine.execAnd d a b s
  | .or d a b => Sys2Proof.Machine.execOr d a b s
  | .xor d a b => Sys2Proof.Machine.execXor d a b s
  | .andn d a b => Sys2Proof.Machine.execAndn d a b s
  | .shl d a b w => Sys2Proof.Machine.execShl d a b w s
  | .shr d a b w => Sys2Proof.Machine.execShr d a b w s
  | .sra d a b w => Sys2Proof.Machine.execSra d a b w s
  | .shli d a c => Sys2Proof.Machine.execShli d a c s
  | .shri d a c => Sys2Proof.Machine.execShri d a c s
  | .srai d a c => Sys2Proof.Machine.execSrai d a c s
  | .min d a b => Sys2Proof.Machine.execMin d a b s
  | .max d a b => Sys2Proof.Machine.execMax d a b s
  | .minu d a b => Sys2Proof.Machine.execMinu d a b s
  | .maxu d a b => Sys2Proof.Machine.execMaxu d a b s
  | .cmp c p a b => Sys2Proof.Machine.execCmp c p a b s
  | .cmpi c p a i0 => Sys2Proof.Machine.execCmpi c p a i0 s
  | .sel d n a b => Sys2Proof.Machine.execSel d n a b s
  | .movi d i0 => Sys2Proof.Machine.execMovi d i0 s
  | .movhi d q h => Sys2Proof.Machine.execMovhi d q h s
  | .clz d a => Sys2Proof.Machine.execClz d a s
  | .popc d a => Sys2Proof.Machine.execPopc d a s
  | .bfx d a s0 w p => Sys2Proof.Machine.execBfx d a s0 w p s
  | .bfi d a w p => Sys2Proof.Machine.execBfi d a w p s
  | .addr d a b l s0 => Sys2Proof.Machine.execAddr d a b l s0 s
  | .pand d a b => Sys2Proof.Machine.execPand d a b s
  | .por d a b => Sys2Proof.Machine.execPor d a b s
  | .pxor d a b => Sys2Proof.Machine.execPxor d a b s
  | .pandn d a b => Sys2Proof.Machine.execPandn d a b s
  | .pnot d a => Sys2Proof.Machine.execPnot d a s
  | .shw h n a => Sys2Proof.Machine.execShw h n a s
  | .br p n o => Sys2Proof.Machine.execBr p n o s
  | .bp p n o => Sys2Proof.Machine.execBp p n o s
  | .call p n o => Sys2Proof.Machine.execCall p n o s
  | .jr d a => Sys2Proof.Machine.execJr d a s
  | .loopx a => Sys2Proof.Machine.execLoopx a s
  | .trap c a => Sys2Proof.Machine.execTrap c a s
  | .bkpt c => Sys2Proof.Machine.execBkpt c s
  | .csrr d c => Sys2Proof.Machine.execCsrr d c s
  | .csrw c a => Sys2Proof.Machine.execCsrw c a s
  | .csrx d c a => Sys2Proof.Machine.execCsrx d c a s
  | .vpark v => Sys2Proof.Machine.execVpark v s
  | .vunpark v => Sys2Proof.Machine.execVunpark v s
  | .vadd t d a b p r s0 => Sys2Proof.Machine.execVadd t d a b p r s0 s
  | .vsub t d a b p r s0 => Sys2Proof.Machine.execVsub t d a b p r s0 s
  | .vmul t d a b p r s0 => Sys2Proof.Machine.execVmul t d a b p r s0 s
  | .vfma t d a b p r n => Sys2Proof.Machine.execVfma t d a b p r n s
  | .vmin t d a b p => Sys2Proof.Machine.execVmin t d a b p s
  | .vmax t d a b p => Sys2Proof.Machine.execVmax t d a b p s
  | .vabs t d a p s0 => Sys2Proof.Machine.execVabs t d a p s0 s
  | .vadds t d a g p r => Sys2Proof.Machine.execVadds t d a g p r s
  | .vmuls t d a g p r => Sys2Proof.Machine.execVmuls t d a g p r s
  | .vfmas t d a g p r => Sys2Proof.Machine.execVfmas t d a g p r s
  | .vdiv t d a b p r => Sys2Proof.Machine.execVdiv t d a b p r s
  | .vsqrt t d a p r => Sys2Proof.Machine.execVsqrt t d a p r s
  | .vcmp c t d a b p => Sys2Proof.Machine.execVcmp c t d a b p s
  | .vsel d n a b => Sys2Proof.Machine.execVsel d n a b s
  | .vand d a b p => Sys2Proof.Machine.execVand d a b p s
  | .vor d a b p => Sys2Proof.Machine.execVor d a b p s
  | .vxor d a b p => Sys2Proof.Machine.execVxor d a b p s
  | .vandn d a b p => Sys2Proof.Machine.execVandn d a b p s
  | .vshl t d a b p => Sys2Proof.Machine.execVshl t d a b p s
  | .vshr t d a b p => Sys2Proof.Machine.execVshr t d a b p s
  | .vsra t d a b p => Sys2Proof.Machine.execVsra t d a b p s
  | .vshli t d a p i0 => Sys2Proof.Machine.execVshli t d a p i0 s
  | .vshri t d a p i0 => Sys2Proof.Machine.execVshri t d a p i0 s
  | .vsrai t d a p i0 => Sys2Proof.Machine.execVsrai t d a p i0 s
  | .vrcp d a p => Sys2Proof.Machine.execVrcp d a p s
  | .vrsq d a p => Sys2Proof.Machine.execVrsq d a p s
  | .vexp2 d a p => Sys2Proof.Machine.execVexp2 d a p s
  | .vlog2 d a p => Sys2Proof.Machine.execVlog2 d a p s
  | .vcvt t u d a p r h => Sys2Proof.Machine.execVcvt t u d a p r h s
  | .vbxi d a e => Sys2Proof.Machine.execVbxi d a e s
  | .vcvt8 d a x q p r f => Sys2Proof.Machine.execVcvt8 d a x q p r f s
  | .vpack t d a b p c => Sys2Proof.Machine.execVpack t d a b p c s
  | .vunpack t d a p h => Sys2Proof.Machine.execVunpack t d a p h s
  | .vperm t d a b p => Sys2Proof.Machine.execVperm t d a b p s
  | .vrot t d a p s0 n => Sys2Proof.Machine.execVrot t d a p s0 n s
  | .vbcast t d g p => Sys2Proof.Machine.execVbcast t d g p s
  | .vext t g a x y => Sys2Proof.Machine.execVext t g a x y s
  | .vred t o d a p r s0 => Sys2Proof.Machine.execVred t o d a p r s0 s
  | .vscan t o d a p r s0 => Sys2Proof.Machine.execVscan t o d a p r s0 s
  | .vdot4 t d a b p s0 => Sys2Proof.Machine.execVdot4 t d a b p s0 s
  | .vmovi t d p i0 => Sys2Proof.Machine.execVmovi t d p i0 s
  | .ld s0 z r x d a o => Sys2Proof.Machine.execLd s0 z r x d a o s
  | .st s0 z r d a o => Sys2Proof.Machine.execSt s0 z r d a o s
  | .vld s0 e r p d a => Sys2Proof.Machine.execVld s0 e r p d a s
  | .vldS s0 e r p d a g => Sys2Proof.Machine.execVldS s0 e r p d a g s
  | .vst s0 e r p d a => Sys2Proof.Machine.execVst s0 e r p d a s
  | .vgath s0 e r p d a b => Sys2Proof.Machine.execVgath s0 e r p d a b s
  | .vscat s0 e r p d a b => Sys2Proof.Machine.execVscat s0 e r p d a b s
  | .tlook d a => Sys2Proof.Machine.execTlook d a s
  | .tset d a => Sys2Proof.Machine.execTset d a s
  | .tinv a m => Sys2Proof.Machine.execTinv a m s
  | .mop o y z s0 d a => Sys2Proof.Machine.execMop o y z s0 d a s
  | .amo o q z s0 d a => Sys2Proof.Machine.execAmo o q z s0 d a s
  | .fence c f => Sys2Proof.Machine.execFence c f s
  | .tfence c => Sys2Proof.Machine.execTfence c s
  | .semSig a n => Sys2Proof.Machine.execSemSig a n s
  | .semSet a b => Sys2Proof.Machine.execSemSet a b s
  | .arrive a => Sys2Proof.Machine.execArrive a s
  | .arriveRlx a => Sys2Proof.Machine.execArriveRlx a s
  | .expect a b => Sys2Proof.Machine.execExpect a b s
  | .barInit a b => Sys2Proof.Machine.execBarInit a b s
  | .tlRd a f => Sys2Proof.Machine.execTlRd a f s
  | .tlInc a f => Sys2Proof.Machine.execTlInc a f s
  | .tlAcq d a f => Sys2Proof.Machine.execTlAcq d a f s
  | .taskDec a => Sys2Proof.Machine.execTaskDec a s
  | .taskPost a b => Sys2Proof.Machine.execTaskPost a b s
  | .bkOpen a x => Sys2Proof.Machine.execBkOpen a x s
  | .bkClose a => Sys2Proof.Machine.execBkClose a s
  | .bkGive a b => Sys2Proof.Machine.execBkGive a b s
  | .bkInit a b => Sys2Proof.Machine.execBkInit a b s
  | .cpGo h c w => Sys2Proof.Machine.execCpGo h c w s
  | .cpGath h c w => Sys2Proof.Machine.execCpGath h c w s
  | .cpScat h c w x => Sys2Proof.Machine.execCpScat h c w x s
  | .cpFill h c w => Sys2Proof.Machine.execCpFill h c w s
  | .cpChk h c w x => Sys2Proof.Machine.execCpChk h c w x s
  | .cpTabwL a b => Sys2Proof.Machine.execCpTabwL a b s
  | .cpTabwR a b => Sys2Proof.Machine.execCpTabwR a b s
  | .cpTabrL a b h => Sys2Proof.Machine.execCpTabrL a b h s
  | .cpTabrR a b => Sys2Proof.Machine.execCpTabrR a b s
  | .mxCfg a b => Sys2Proof.Machine.execMxCfg a b s
  | .mxGo h w g => Sys2Proof.Machine.execMxGo h w g s
  | .mxWload h w => Sys2Proof.Machine.execMxWload h w s
  | .mxDrain h a w => Sys2Proof.Machine.execMxDrain h a w s
  | .mxAcc a b i0 => Sys2Proof.Machine.execMxAcc a b i0 s
  | .mxHad a i0 => Sys2Proof.Machine.execMxHad a i0 s
  | .mxFmt a b => Sys2Proof.Machine.execMxFmt a b s
  | .mxZero a => Sys2Proof.Machine.execMxZero a s
  | .mxRd v a => Sys2Proof.Machine.execMxRd v a s
  | .vpFwd h w => Sys2Proof.Machine.execVpFwd h w s
  | .vpBwd h w => Sys2Proof.Machine.execVpBwd h w s
  | .vpMerge a b => Sys2Proof.Machine.execVpMerge a b s
  | .vpRd v a i0 => Sys2Proof.Machine.execVpRd v a i0 s
  | .eqUnite h w f => Sys2Proof.Machine.execEqUnite h w f s
  | .eqUniteNew a f => Sys2Proof.Machine.execEqUniteNew a f s
  | .eqFind h w f => Sys2Proof.Machine.execEqFind h w f s
  | .eqRelab h w o f => Sys2Proof.Machine.execEqRelab h w o f s
  | .eqSnap f => Sys2Proof.Machine.execEqSnap f s
  | .eqUndo f => Sys2Proof.Machine.execEqUndo f s
  | .eqCommit x f => Sys2Proof.Machine.execEqCommit x f s
  | .eqSize a b f => Sys2Proof.Machine.execEqSize a b f s
  | .fsSend h c w => Sys2Proof.Machine.execFsSend h c w s
  | .fsPost h c b w => Sys2Proof.Machine.execFsPost h c b w s
  | .fqBind i0 a => Sys2Proof.Machine.execFqBind i0 a s
  | .pegRd a b r => Sys2Proof.Machine.execPegRd a b r s
  | .rld k a b r x z => Sys2Proof.Machine.execRld k a b r x z s
  | .rst k a b r z => Sys2Proof.Machine.execRst k a b r z s
  | .ramo o q z k a b => Sys2Proof.Machine.execRamo o q z k a b s
  | .rwinReg a b => Sys2Proof.Machine.execRwinReg a b s
  | .rwinAdd w h c => Sys2Proof.Machine.execRwinAdd w h c s
  | .rwinPread a b => Sys2Proof.Machine.execRwinPread a b s
  | .rwinAbort a => Sys2Proof.Machine.execRwinAbort a s
  | .chase k a b t c => Sys2Proof.Machine.execChase k a b t c s
  | .capld k a s0 => Sys2Proof.Machine.execCapld k a s0 s
  | .capst k a s0 => Sys2Proof.Machine.execCapst k a s0 s
  | .capmkNew k a => Sys2Proof.Machine.execCapmkNew k a s
  | .capmkDer k a s0 => Sys2Proof.Machine.execCapmkDer k a s0 s
  | .capmkRev a => Sys2Proof.Machine.execCapmkRev a s
  | .capchk k a b z x => Sys2Proof.Machine.execCapchk k a b z x s
  | .rmaPut k a b t => Sys2Proof.Machine.execRmaPut k a b t s
  | .rmaGet k a b => Sys2Proof.Machine.execRmaGet k a b s
  | .rmaFlag k a b => Sys2Proof.Machine.execRmaFlag k a b s
  | .rmaReg k a => Sys2Proof.Machine.execRmaReg k a s
  | .rmaRev k => Sys2Proof.Machine.execRmaRev k s
  | .translationInvalidation r x c => Sys2Proof.Machine.execTranslationInvalidation r x c s
  | .invalidationAcknowledgement r c => Sys2Proof.Machine.execInvalidationAcknowledgement r c s
  | .seamPartialDiscard w => Sys2Proof.Machine.execSeamPartialDiscard w s
  | .softErrorRerun c e => Sys2Proof.Machine.execSoftErrorRerun c e s
  | .storeFrame l f => Sys2Proof.Machine.execStoreFrame l f s
  | .sendFrame l f => Sys2Proof.Machine.execSendFrame l f s
  | .sendlFrame l f => Sys2Proof.Machine.execSendlFrame l f s
  | .fifoFrame l f => Sys2Proof.Machine.execFifoFrame l f s
  | .contribFrame l f => Sys2Proof.Machine.execContribFrame l f s
  | .wpartFrame l f => Sys2Proof.Machine.execWpartFrame l f s
  | .mopFrame l f => Sys2Proof.Machine.execMopFrame l f s
  | .loadFrame l f => Sys2Proof.Machine.execLoadFrame l f s
  | .atomicFrame l f => Sys2Proof.Machine.execAtomicFrame l f s
  | .chaseFrame l f => Sys2Proof.Machine.execChaseFrame l f s
  | .dataFrame l f => Sys2Proof.Machine.execDataFrame l f s
  | .doneFrame l f => Sys2Proof.Machine.execDoneFrame l f s
  | .chresFrame l f => Sys2Proof.Machine.execChresFrame l f s
  | .bounceFrame l f => Sys2Proof.Machine.execBounceFrame l f s
  | .faultFrame l f => Sys2Proof.Machine.execFaultFrame l f s
  | .fqcredFrame l f => Sys2Proof.Machine.execFqcredFrame l f s
  | .winackFrame l f => Sys2Proof.Machine.execWinackFrame l f s
  | .pegretFrame l f => Sys2Proof.Machine.execPegretFrame l f s
  | .nakFrame l f => Sys2Proof.Machine.execNakFrame l f s
  | .arriveFrame l f => Sys2Proof.Machine.execArriveFrame l f s
  | .expectFrame l f => Sys2Proof.Machine.execExpectFrame l f s
  | .sstepFrame l f => Sys2Proof.Machine.execSstepFrame l f s
  | .violFrame l f => Sys2Proof.Machine.execViolFrame l f s
  | .darnFrame l f => Sys2Proof.Machine.execDarnFrame l f s
  | .winregFrame l f => Sys2Proof.Machine.execWinregFrame l f s
  | .retuneStart pl w => Sys2Proof.Machine.execRetuneStart pl w s
  | .retuneEnd pl w => Sys2Proof.Machine.execRetuneEnd pl w s
  | .uncorrectableDrift pl w => Sys2Proof.Machine.execUncorrectableDrift pl w s
  | .lineFailure pl w => Sys2Proof.Machine.execLineFailure pl w s
  | .modulatorLaneDeath pl l => Sys2Proof.Machine.execModulatorLaneDeath pl l s
  | .passbandShift pl => Sys2Proof.Machine.execPassbandShift pl s
  | .peerSilent pl p => Sys2Proof.Machine.execPeerSilent pl p s
  | .put p => Sys2Proof.Machine.execPut p s
  | .getreq p => Sys2Proof.Machine.execGetreq p s
  | .getdata p => Sys2Proof.Machine.execGetdata p s
  | .flag p => Sys2Proof.Machine.execFlag p s
  | .flushreq p => Sys2Proof.Machine.execFlushreq p s
  | .flushdone p => Sys2Proof.Machine.execFlushdone p s
  | .ack p => Sys2Proof.Machine.execAck p s
  | .nack p => Sys2Proof.Machine.execNack p s
  | .doorbell q t => Sys2Proof.Machine.execDoorbell q t s
  | .managementDoorbell t => Sys2Proof.Machine.execManagementDoorbell t s
  | .queueDescriptorEnable q => Sys2Proof.Machine.execQueueDescriptorEnable q s
  | .hostControlPageWrite o v => Sys2Proof.Machine.execHostControlPageWrite o v s
  | .frameCrcFailure l v => Sys2Proof.Machine.execFrameCrcFailure l v s
  | .reservedKindFrame l f => Sys2Proof.Machine.execReservedKindFrame l f s
  | .sramBankRetirement p b => Sys2Proof.Machine.execSramBankRetirement p b s
  | .hbmChannelRetirement h => Sys2Proof.Machine.execHbmChannelRetirement h s
  | .pageCompressorSweep => Sys2Proof.Machine.execPageCompressorSweep s
  | .slotStart => Sys2Proof.Machine.execSlotStart s
  | .darningCompute => Sys2Proof.Machine.execDarningCompute s
  | .darnTableSwap => Sys2Proof.Machine.execDarnTableSwap s
  | .relabelApply => Sys2Proof.Machine.execRelabelApply s
  | .tlenChangeApply => Sys2Proof.Machine.execTlenChangeApply s
  | .fcpGrant => Sys2Proof.Machine.execFcpGrant s
  | .boot => Sys2Proof.Machine.execBoot s
  | .nop => Sys2Proof.Machine.execNop s
  | .ret => Sys2Proof.Machine.execRet s
  | .tend => Sys2Proof.Machine.execTend s
  | .eret => Sys2Proof.Machine.execEret s
  | .rmaFlush => Sys2Proof.Machine.execRmaFlush s
  | .drtPacketBadCrc => Sys2Proof.Machine.execDrtPacketBadCrc s

end Sys2Proof.Machine
end

