-- ==== Sys2Proof/Machine/Place.lean ====
section
/-! DEFINITION. How a program stands for the machine when a loader has placed it [5].

A program of the K2 comes from outside: firmware reaches its last boot stage (R407), the host creates a context (R396), writes page
tables and code into HBM, and rings a doorbell for a launch (R27). What is set here is the state that all of this leads to for one core
with one bundle: a resident context, its page tables, the bundle, and a running task whose pc names it. -/

namespace Sys2Proof.Machine

/-- The bundle that runs the instruction with the given word: one syllable with nops elsewhere, or a whole bundle. -/
def wordBundle (nbits w : Nat) : Bundle :=
  if 32 < nbits then BitVec.ofNat 256 w
  else
    match decodeWord (w % 2 ^ 32) with
    | some (c, _) => bundleOf c (w % 2 ^ 32)
    | none => bundleOf .x (w % 2 ^ 32)

/-- The loaded context: logical core 0 of the die, checked off, its root table at 0x2000. -/
def loadedCtx : Ctx := { Ctx.absent with resident := true, status := 1, ncore := 1, ptroot := 0x2000 }

/-- The page tables (R161): a root node, a level-1 node, and a leaf that maps local address 0 upwards to physical address
0x10000000 upwards with every permission, not checked. -/
def loadedTables (m : Memory) : Memory := writeNat (writeNat m 0x2000 8 0x4001) 0x4000 8 0x1000001F

/-- The task that runs. -/
def loadedTask : Task where
  ctx := 0
  entry := 0
  regs := []
  q := 0
  launch := none
  record := none
  done := 0
  prio := 0

/-- The core that runs it: nothing pending, no trap, no loop. -/
def loadedCore (c : Core) : Core :=
  { c with
    task := some loadedTask
    begun := true
    staged := none
    stop := none
    pc := 0
    idle := 0
    results := []
    phase := .alone
    posed := []
    stg := 0
    after := .next
    csrws := []
    seq := Sequencer.init
    lock := none
    held := 0
    hold := none
    inH := false
    reports := []
    asyncs := [] }

/-- The loaded program: one bundle, ready to be fetched by the next step. -/
def placeBundle (s : State) (b : Bundle) : State :=
  let s := setCore (setCtx s 0 loadedCtx) 0 (loadedCore (coreAt s 0))
  { s with
    agenda := []
    stage := 0
    todo := []
    turn := [0]
    cur := 0
    tlb := []
    prior := []
    page := { s.page with bootst := bootWord 3 0 }
    vbus := mput { due := 0, ends := none } s.vbus 0 { vbusAt s 0 with ends := none }
    hbm := writeNat (loadedTables s.hbm) 0x10000000 32 b.toNat }

end Sys2Proof.Machine
end

