-- ==== Sys2Proof/Machine/Step.lean ====
section
/-! DEFINITION. One step of the die: the event that `pick` names, or the end of the cycle. -/

namespace Sys2Proof.Machine

/-- One step: what the outside has in store, what a core or unit does next, or the end of the cycle [4], [12]. -/
def step (s : State) : Host.Outcome State Fault Refusal :=
  match pick s with
  | (some i, t) => exec i t
  | (none, t) => endCycle t

/-- The state with one instruction stored where the next step fetches it, and the program it belongs to loaded [5]. -/
def State.withFetchWord (s : State) (nbits w : Nat) : State := placeBundle s (wordBundle nbits w)

end Sys2Proof.Machine
end

