-- ==== Sys2Proof/Safety.lean ====
section
/-! DEFINITION. What counts as a safe state and a safe run, in the terms the statements use. -/

namespace Sys2Proof.Machine

/-- Both memories are in canonical form. -/
def State.memWf (s : State) : Prop := s.hbm.wf = true ∧ s.sram.wf = true

/-- The register files of a core have the sizes of R85 to R88: 64 general registers, 8 handler-bank registers, 8 predicates, 32
vector registers, 16 capability registers. -/
def Core.shaped (c : Core) : Prop :=
  c.g.length = 64 ∧ c.hbank.length = 8 ∧ c.p.length = 8 ∧ c.v.length = 32 ∧ c.k.length = 16

/-- Every core record of a state has register files of the right sizes. -/
def State.shaped (s : State) : Prop := ∀ e ∈ s.cores, e.2.shaped

/-- A safe state: canonical memories, whole register files. -/
def State.safe (s : State) : Prop := s.memWf ∧ s.shaped

/-- A run of n steps from s stops at no fault and no refusal. -/
def runsOn : Nat → State → Prop
  | 0, _ => True
  | n + 1, s => match step s with
    | .next t => runsOn n t
    | .fault _ => False
    | .refused _ => False

/-- An outcome is a next state. -/
def answersNext (o : Host.Outcome State Fault Refusal) : Bool :=
  match o with
  | .next _ => true
  | .fault _ => false
  | .refused _ => false

/-! ### When a syllable can issue (R21, R79, R89, R165) -/

/-- Scalar name i can be read at issue: a FIFO alias is bound and holds a word (R89); no interlocked result is still to come for any
other register (R21, R93). -/
def gReadable (c : Core) (i : Nat) : Prop :=
  if 56 ≤ i then (fifoAt c (i - 56)).peer.isSome = true ∧ (fifoAt c (i - 56)).fi ≠ [] else pendingAt c (destG c i) = false

/-- Scalar name i can be written: a FIFO alias is bound and its `fo` has room for the results in flight and this one (R89). -/
def gWritable (c : Core) (i : Nat) : Prop :=
  56 ≤ i → (fifoAt c (i - 56)).peer.isSome = true ∧ (fifoAt c (i - 56)).fo.length + (fifoAt c (i - 56)).resv < 16

/-- A syllable that reads the scalar names `rg`, the vector names `rv` and the capability names `rk`, writes the scalar names `wg`
and needs `n` entries of the access queue can issue. -/
structure CanIssue (c : Core) (rg wg rv rk : List Nat) (n : Nat) : Prop where
  phase : c.phase ≠ .test
  reads : ∀ i ∈ rg, gReadable c i
  writes : ∀ i ∈ wg, gWritable c i
  vecs : ∀ i ∈ rv, pendingAt c (destV c i) = false
  caps : ∀ i ∈ rk, pendingAt c (.k i) = false
  room : entsUsed c + n ≤ 48

/-! ### What an issued syllable leaves -/

/-- The FIFO pairs whose words the bundle will pop once the names `rg` have been read (R89, R120). -/
def popped (c : Core) (rg : List Nat) : List Nat := (c.pops ++ (rg.filter (56 ≤ ·)).map (· - 56)).dedup

/-- The FIFO pairs with an entry of `fo` reserved for a result (R89). -/
def reservedFor (c : Core) : Dest → SMap Fifo
  | .fo i => mset c.fifos i { fifoAt c i with resv := (fifoAt c i).resv + 1 }
  | .none | .g _ | .hb _ | .p _ | .v _ | .k _ | .shape _ _ => c.fifos

/-- Of a state, only the record of the issuing core changes; it becomes `x`. Every byte of memory reads as before. -/
structure OnlyCore (s t : State) (x : Core) : Prop where
  state : t = { s with cores := t.cores }
  core : coreAt t s.cur = x
  others : ∀ k, k ≠ s.cur → coreAt t k = coreAt s k
  memory : ∀ sp a, readByte (store t sp) a = readByte (store s sp) a

/-- A syllable that has read the names `rg` leaves one result of latency `l` in flight and changes nothing else: no register, no
memory, no special register, no accumulator (R79, R91). -/
def Lands (s t : State) (rg : List Nat) (d : Dest) (v : Val) (l : Nat) (fl : BitVec 5) : Prop :=
  OnlyCore s t
    { curCore s with
      results := (curCore s).results ++ [{ dest := d, val := v, land := (curCore s).icycle + l, flags := fl,
                                           ord := 2 * (curCore s).issued + 1 }]
      pops := popped (curCore s) rg
      fifos := reservedFor (curCore s) d }

/-! ### Completion -/

/-- The syllable `i` reads the scalar names `rg`, writes the scalar name `d` and computes `v`: it completes and leaves exactly the
result `v` in flight to the place `d` names, with latency `l`; nothing else changes. -/
def Computes (i : Instr) (rg : List Nat) (d : Nat) (l : Nat) (v : Core → Word) : Prop :=
  ∀ s : State, CanIssue (curCore s) rg [d] [] [] 0 →
    ∃ t, exec i s = .next t ∧ Lands s t rg (destG (curCore s) d) (.s (v (curCore s))) l 0

/-- The same for a syllable that writes the predicate name `p` one issue cycle later. -/
def Decides (i : Instr) (rg : List Nat) (p : Nat) (v : Core → Word) : Prop :=
  ∀ s : State, CanIssue (curCore s) rg [] [] [] 0 →
    ∃ t, exec i s = .next t ∧ Lands s t rg (destP p) (.s (v (curCore s))) 1 0

/-- The syllable `i` completes at `s`; of the state only the issuing core's record changes, to `x`. -/
def Leaves (i : Instr) (s : State) (x : Core) : Prop := ∃ t, exec i s = .next t ∧ OnlyCore s t x

/-! ### Queued work -/

/-- An interlocked load supersedes what is still to come for the same register (R93); a scratchpad load has its latency (R92). -/
def cleared (c : Core) (d : Dest) (land : Nat) : Core := if land = 0 then overtake c d else c

/-- The issuing core with one more entry in its access queue (R165), having read the scalar names `rg`; it has performed nothing. -/
def queued (c : Core) (rg : List Nat) (a : Access) : Core :=
  { cleared c a.dest a.land with
    accs := (cleared c a.dest a.land).accs ++ [a]
    issued := c.issued + 1
    pops := popped c rg
    fifos := reservedFor c a.dest }

/-- The issuing core with a value that was known at issue still to come back to `d`, interlocked (R93). -/
def answered (c : Core) (rg : List Nat) (d : Dest) (v : Val) : Core :=
  { overtake c d with
    rets := (overtake c d).rets ++ [{ id := c.issued + 1, dest := d, dead := false, val := v }]
    issued := c.issued + 1
    pops := popped c rg
    fifos := reservedFor c d }

/-- The issuing core with one more operation in the queue of timeline `t`, under the timeline's next number (R217, R243). -/
def commanded (c : Core) (rg : List Nat) (t : Nat) (o : EngOp) : Core :=
  { overtake c (engDest o.kind) with
    engs := mset (overtake c (engDest o.kind)).engs t (mget [] (overtake c (engDest o.kind)).engs t ++ [o])
    tlOps := mset c.tlOps t o.n
    issued := c.issued + 1
    pops := popped c rg }

/-! ### Vector results -/

/-- The destination is a source as well unless every element is written (R85). -/
def merged (p : Fin 8) (d : Fin 32) : List Nat := if p == 0 then [] else [d.val]

/-- Bit e mod 64 of the governing predicate is set (R138). -/
def active (c : Core) (p e : Nat) : Prop := (readP c p).toNat.testBit (e % 64) = true

/-- Of elements of `w` bits, those that the predicate name `p` governs take the value of `f` and the others keep what `old` holds; the
flags are those that some governed element raises (R138). -/
def LaneResult (c : Core) (w p : Nat) (old x : VWord) (fl : BitVec 5) (f : Nat → Nat × BitVec 5) : Prop :=
  (∀ e < 2048 / w, (active c p e → elem w x e = (f e).1 % 2 ^ w) ∧ (¬active c p e → elem w x e = elem w old e)) ∧
  ∀ b < 5, fl.getLsbD b = true ↔ ∃ e < 2048 / w, active c p e ∧ (f e).2.getLsbD b = true

/-- The syllable reads the scalar names `rg` and the vector names `rv`, and writes the vector name `d` lane by lane (R138): it completes
with that one result in flight, of latency `l`; nothing else changes. -/
def Lanes (i : Instr) (rg rv : List Nat) (d : Fin 32) (p l w : Nat) (f : Core → Nat → Nat × BitVec 5) : Prop :=
  ∀ s : State, CanIssue (curCore s) rg [] rv [] 0 →
    ∃ t x fl, exec i s = .next t ∧ Lands s t rg (destV (curCore s) d) (.v x) l fl ∧
      LaneResult (curCore s) w p (readV (curCore s) d) x fl (f (curCore s))

/-- The syllable writes the whole vector register `d` with `f` (R149). -/
def Whole (i : Instr) (rv : List Nat) (d : Fin 32) (l : Nat) (f : Core → VWord × BitVec 5) : Prop :=
  ∀ s : State, CanIssue (curCore s) [] [] rv [] 0 →
    ∃ t, exec i s = .next t ∧ Lands s t [] (destV (curCore s) d) (.v (f (curCore s)).1) l (f (curCore s)).2

end Sys2Proof.Machine
end

