-- ==== Sys2Proof/Certificates/Slice0/Obligations.lean ====
section
/-! DEFINITION. The statements about the machine that the provers settle.

Each `Obligations.<Name>` says in its docstring which rule of the manual it formalises. The vocabulary of issue (`CanIssue`,
`OnlyCore`, `Lands`) is in Safety.lean; what several statements share stands in the namespace `Stmt`. -/

open Sys2Proof Sys2Proof.Machine

/-! ### Scalar instructions -/

namespace Sys2Proof.Stmt

/-- An exact integer as the result of a 64-bit form, or (`w`) of a form of 32 bits whose result is sign-extended (R113, R114). -/
def sized (w : Bool) (x : Int) : Word := if w then BitVec.ofInt 64 (Int.bmod x (2 ^ 32)) else BitVec.ofInt 64 x

/-- u(A) of the form's width, and s(A). -/
def uOf (w : Bool) (a : Word) : Int := if w then (a.toNat % 2 ^ 32 : Nat) else a.toNat
def sOf (w : Bool) (a : Word) : Int := if w then Int.bmod a.toNat (2 ^ 32) else a.toInt

/-- The width of the form. -/
def widthOf (w : Bool) : Nat := if w then 32 else 64

/-- The shifts of R117 of a value of the form's width by a count of any size: with exact integers, a left shift multiplies, a right
shift divides rounding down, and a count at or past the width is no case of its own. -/
def leftBy (w : Bool) (a : Word) (c : Nat) : Word := sized w (uOf w a * 2 ^ c)
def rightBy (w : Bool) (a : Word) (c : Nat) : Word := sized w (uOf w a / 2 ^ c)
def arithBy (w : Bool) (a : Word) (c : Nat) : Word := sized w (sOf w a / 2 ^ c)

/-- The conditions of R118. -/
def holds : Cond → Word → Word → Prop
  | .eq, a, b => a = b
  | .ne, a, b => a ≠ b
  | .lt, a, b => a.toInt < b.toInt
  | .ge, a, b => b.toInt ≤ a.toInt
  | .ltu, a, b => a.toNat < b.toNat
  | .geu, a, b => b.toNat ≤ a.toNat

/-- Bits pos + n - 1 to pos of a word, all ones. -/
def mask (pos n : Nat) : Word := BitVec.ofNat 64 (2 ^ pos * (2 ^ n - 1))

end Sys2Proof.Stmt

open Sys2Proof.Stmt

/-- R115, with the names of R113 and the .w forms of R114: what the arithmetic instructions write, their latency and their frame. -/
def Sys2Proof.Stmt.ScalarArithmeticResults : Prop :=
  (∀ (d a b : Fin 64) (w : Bool), Computes (.add d a b w) [a, b] d 1 fun c => sized w ((readG c a).toInt + (readG c b).toInt)) ∧
  (∀ (d a b : Fin 64) (w : Bool), Computes (.sub d a b w) [a, b] d 1 fun c => sized w ((readG c a).toInt - (readG c b).toInt)) ∧
  (∀ (d a : Fin 64) (i : BitVec 13), Computes (.addi d a i) [a] d 1 fun c => BitVec.ofInt 64 ((readG c a).toInt + i.toInt)) ∧
  (∀ (d a b : Fin 64) (w : Bool), Computes (.mul d a b w) [a, b] d 3 fun c => sized w ((readG c a).toInt * (readG c b).toInt)) ∧
  (∀ d a b : Fin 64, Computes (.mulh d a b) [a, b] d 3 fun c => BitVec.ofInt 64 ((readG c a).toInt * (readG c b).toInt / 2 ^ 64)) ∧
  (∀ d a b : Fin 64, Computes (.mulhu d a b) [a, b] d 3 fun c => BitVec.ofNat 64 ((readG c a).toNat * (readG c b).toNat / 2 ^ 64)) ∧
  (∀ d a b : Fin 64, Computes (.mad d a b) [a, b, d] d 3 fun c =>
    BitVec.ofInt 64 ((readG c d).toInt + (readG c a).toInt * (readG c b).toInt)) ∧
  (∀ d a b : Fin 64, Computes (.min d a b) [a, b] d 1 fun c => BitVec.ofInt 64 (min (readG c a).toInt (readG c b).toInt)) ∧
  (∀ d a b : Fin 64, Computes (.max d a b) [a, b] d 1 fun c => BitVec.ofInt 64 (max (readG c a).toInt (readG c b).toInt)) ∧
  (∀ d a b : Fin 64, Computes (.minu d a b) [a, b] d 1 fun c => BitVec.ofNat 64 (min (readG c a).toNat (readG c b).toNat)) ∧
  (∀ d a b : Fin 64, Computes (.maxu d a b) [a, b] d 1 fun c => BitVec.ofNat 64 (max (readG c a).toNat (readG c b).toNat))

/-- R115: the logic, move and count instructions, and addr with and without .loc. -/
def Sys2Proof.Stmt.ScalarLogicAndMoveResults : Prop :=
  (∀ d a b : Fin 64, Computes (.and d a b) [a, b] d 1 fun c => readG c a &&& readG c b) ∧
  (∀ d a b : Fin 64, Computes (.or d a b) [a, b] d 1 fun c => readG c a ||| readG c b) ∧
  (∀ d a b : Fin 64, Computes (.xor d a b) [a, b] d 1 fun c => readG c a ^^^ readG c b) ∧
  (∀ d a b : Fin 64, Computes (.andn d a b) [a, b] d 1 fun c => readG c a &&& ~~~(readG c b)) ∧
  (∀ (d : Fin 64) (n : Fin 8) (a b : Fin 64), Computes (.sel d n a b) [a, b] d 1 fun c =>
    if (readP c n).toNat % 2 = 1 then readG c a else readG c b) ∧
  (∀ (d : Fin 64) (i : BitVec 19), Computes (.movi d i) [] d 1 fun _ => BitVec.ofInt 64 i.toInt) ∧
  (∀ (d : Fin 64) (q : Fin 4) (h : BitVec 16), Computes (.movhi d q h) [d] d 1 fun c =>
    (readG c d &&& ~~~(mask (16 * q.val) 16)) ||| (h.zeroExtend 64 <<< (16 * q.val))) ∧
  (∀ d a : Fin 64, Computes (.clz d a) [a] d 1 fun c => BitVec.ofNat 64 (64 - (readG c a).toNat.size)) ∧
  (∀ d a : Fin 64, Computes (.popc d a) [a] d 1 fun c => BitVec.ofNat 64 ((List.range 64).countP fun i => (readG c a).toNat.testBit i)) ∧
  (∀ (d a b : Fin 64) (sh : Fin 8), Computes (.addr d a b false sh) [a, b] d 1 fun c =>
    BitVec.ofNat 64 ((readG c a).toNat + (readG c b).toNat * 2 ^ sh.val)) ∧
  (∀ (d a b : Fin 64) (sh : Fin 8), Computes (.addr d a b true sh) [a, b] d 1 fun c =>
    (readG c a &&& ~~~(mask 0 47)) ||| (BitVec.ofNat 64 ((readG c a).toNat + (readG c b).toNat * 2 ^ sh.val) &&& mask 0 47))

/-- R116: division truncates toward zero; its edge cases have fixed results; no division traps or sets a flag. -/
def Obligations.ScalarDivisionResults : Prop :=
  ∀ d a b : Fin 64,
    (∃ v, Computes (.div d a b) [a, b] d 24 v ∧ ∀ c,
      v c = if (readG c b).toInt = 0 then BitVec.ofInt 64 (-1) else BitVec.ofInt 64 (Int.tdiv (readG c a).toInt (readG c b).toInt)) ∧
    (∃ v, Computes (.divu d a b) [a, b] d 24 v ∧ ∀ c,
      v c = if (readG c b).toNat = 0 then BitVec.ofNat 64 (2 ^ 64 - 1) else BitVec.ofNat 64 ((readG c a).toNat / (readG c b).toNat)) ∧
    (∃ v, Computes (.rem d a b) [a, b] d 24 v ∧ ∀ c,
      ((readG c b).toInt = 0 → v c = readG c a) ∧
      ((readG c b).toInt ≠ 0 → (v c).toInt = (readG c a).toInt - Int.tdiv (readG c a).toInt (readG c b).toInt * (readG c b).toInt)) ∧
    (∃ v, Computes (.remu d a b) [a, b] d 24 v ∧ ∀ c,
      v c = if (readG c b).toNat = 0 then readG c a else BitVec.ofNat 64 ((readG c a).toNat % (readG c b).toNat))

/-- R117: the shifts, for every count: those past the width follow from exact integers. -/
def Sys2Proof.Stmt.ScalarShiftResults : Prop :=
  (∀ (d a b : Fin 64) (w : Bool), Computes (.shl d a b w) [a, b] d 1 fun c => leftBy w (readG c a) (readG c b).toNat) ∧
  (∀ (d a b : Fin 64) (w : Bool), Computes (.shr d a b w) [a, b] d 1 fun c => rightBy w (readG c a) (readG c b).toNat) ∧
  (∀ (d a b : Fin 64) (w : Bool), Computes (.sra d a b w) [a, b] d 1 fun c => arithBy w (readG c a) (readG c b).toNat) ∧
  (∀ (d a n : Fin 64), Computes (.shli d a n) [a] d 1 fun c => leftBy false (readG c a) n) ∧
  (∀ (d a n : Fin 64), Computes (.shri d a n) [a] d 1 fun c => rightBy false (readG c a) n) ∧
  (∀ (d a n : Fin 64), Computes (.srai d a n) [a] d 1 fun c => arithBy false (readG c a) n)

/-- R113 to R115, R117: what every scalar arithmetic, logic, move, count, address and shift instruction writes, its latency and its frame. -/
def Obligations.ScalarResults : Prop := Stmt.ScalarArithmeticResults ∧ Stmt.ScalarLogicAndMoveResults ∧ Stmt.ScalarShiftResults

/-- R118: cmp and cmpi write one predicate with every bit set to the outcome; cmpi sign-extends I before an unsigned comparison as well. A
destination of p0 is no place, and the result is discarded. -/
def Obligations.ComparisonResults : Prop :=
  (∀ (k : Cond) (p : Fin 8) (a b : Fin 64), ∃ v, Decides (.cmp k p a b) [a, b] p v ∧
    ∀ c, (holds k (readG c a) (readG c b) → v c = BitVec.allOnes 64) ∧ (¬holds k (readG c a) (readG c b) → v c = 0)) ∧
  (∀ (k : Cond) (p : Fin 8) (a : Fin 64) (i : BitVec 13), ∃ v, Decides (.cmpi k p a i) [a] p v ∧
    ∀ c, (holds k (readG c a) (BitVec.ofInt 64 i.toInt) → v c = BitVec.allOnes 64) ∧
      (¬holds k (readG c a) (BitVec.ofInt 64 i.toInt) → v c = 0)) ∧
  destP 0 = .none ∧ ∀ (c : Core) (v : Word), writeDest c .none (.s v) = c

/-- R121: predicate logic combines all 64 bits. -/
def Sys2Proof.Stmt.PredicateLogicResults : Prop :=
  (∀ d a b : Fin 8, Decides (.pand d a b) [] d fun c => readP c a &&& readP c b) ∧
  (∀ d a b : Fin 8, Decides (.por d a b) [] d fun c => readP c a ||| readP c b) ∧
  (∀ d a b : Fin 8, Decides (.pxor d a b) [] d fun c => readP c a ^^^ readP c b) ∧
  (∀ d a b : Fin 8, Decides (.pandn d a b) [] d fun c => readP c a &&& ~~~(readP c b)) ∧
  (∀ d a : Fin 8, Decides (.pnot d a) [] d fun c => ~~~(readP c a))

/-- R119: field extraction and insertion, for the fields that lie within the word. -/
def Sys2Proof.Stmt.BitFieldResults : Prop :=
  (∀ (d a : Fin 64) (w p : Fin 64), p.val + (w.val + 1) ≤ 64 →
    Computes (.bfx d a false w p) [a] d 1 fun c => BitVec.ofNat 64 ((readG c a).toNat / 2 ^ p.val % 2 ^ (w.val + 1))) ∧
  (∀ (d a : Fin 64) (w p : Fin 64), p.val + (w.val + 1) ≤ 64 →
    Computes (.bfx d a true w p) [a] d 1 fun c => BitVec.ofInt 64 (Int.bmod ((readG c a).toNat / 2 ^ p.val : Nat) (2 ^ (w.val + 1)))) ∧
  (∀ (d a : Fin 64) (w p : Fin 64), p.val + (w.val + 1) ≤ 64 →
    Computes (.bfi d a w p) [a, d] d 1 fun c =>
      (readG c d &&& ~~~(mask p (w.val + 1))) ||| ((readG c a <<< p.val) &&& mask p (w.val + 1)))

/-- R119, R121: predicate logic and bit fields. -/
def Obligations.PredicateLogicAndBitFields : Prop := Stmt.PredicateLogicResults ∧ Stmt.BitFieldResults

/-! ### Control flow, prefixes, task end and return -/

namespace Sys2Proof.Stmt

/-- The address of the fetch block of the bundle at `pc` (R82). -/
def fetchBlock (pc : Word) : Nat := pc.toNat / 64 * 64

/-- The target of a BB branch, from its signed block offset (R82). -/
def blockTarget (pc : Word) (o : BitVec 18) : Word := BitVec.ofInt 64 (fetchBlock pc + o.toInt * 64)

/-- A core with the link of a call or jr in flight to the name `d` (R82, R122, R123). -/
def linked (c : Core) (d : Nat) : Core :=
  { c with
    results := c.results ++ [{ dest := destG c d, val := .s (BitVec.ofNat 64 (fetchBlock c.pc + 64)), land := c.icycle + 1, flags := 0,
                                ord := 2 * c.issued + 1 }]
    fifos := reservedFor c (destG c d) }

/-- The three conditions on a jr or ret target, all met (R123). -/
def goodTarget (s : State) (t : Word) : Prop := t.toNat % 64 = 0 ∧ t.toNat / 2 ^ 57 = 0 ∧ t.toNat / 2 ^ 47 % 1024 = s.port.rank

end Sys2Proof.Stmt

/-- R122, with the target of R82: br, bp and call note a transfer of control exactly when their condition holds, and call then leaves
its link in flight to g55; not taken, they change nothing. -/
def Sys2Proof.Stmt.ConditionalBranchesTaken : Prop :=
  ∀ (s : State) (p : Fin 8) (n : Bool) (o : BitVec 18),
    let c := curCore s
    let bit0 : Prop := ((readP c p).toNat % 2 = 1) ↔ (n = false)
    let any : Prop := (readP c p ≠ 0) ↔ (n = false)
    (CanIssue c [] [] [] [] 0 →
      (bit0 → Leaves (.br p n o) s { c with after := .branch (blockTarget c.pc o) }) ∧ (¬bit0 → Leaves (.br p n o) s c) ∧
      (any → Leaves (.bp p n o) s { c with after := .branch (blockTarget c.pc o) }) ∧ (¬any → Leaves (.bp p n o) s c)) ∧
    (CanIssue c [] [55] [] [] 0 →
      (bit0 → Leaves (.call p n o) s { linked c 55 with after := .branch (blockTarget c.pc o) }) ∧ (¬bit0 → Leaves (.call p n o) s c))

/-- R123: jr and ret go to a target that meets the three conditions, jr with its link unless it names g0; a target that fails one
takes a precise alignment trap whose SUB names the first that fails and whose TVAL holds the target. -/
def Sys2Proof.Stmt.IndirectBranchTargets : Prop :=
  (∀ (s : State) (d a : Fin 64), CanIssue (curCore s) [a] [d] [] [] 0 → goodTarget s (readG (curCore s) a) →
    Leaves (.jr d a) s
      { (if d.val = 0 then curCore s else linked (curCore s) d) with
        after := .branch (readG (curCore s) a), pops := popped (curCore s) [a] }) ∧
  (∀ s : State, CanIssue (curCore s) [55] [] [] [] 0 → goodTarget s (readG (curCore s) 55) →
    Leaves .ret s { curCore s with after := .branch (readG (curCore s) 55) }) ∧
  (∀ (s : State) (d a : Fin 64) (t : Word), CanIssue (curCore s) [a] [d] [] [] 0 → (curCore s).phase = .alone → readG (curCore s) a = t →
    (t.toNat % 64 ≠ 0 → exec (.jr d a) s = .next (takeTrap s s.cur { Cause.precise 0x02 2 2 with tval := t })) ∧
    (t.toNat % 64 = 0 → ¬(t.toNat / 2 ^ 57 = 0 ∧ t.toNat / 2 ^ 47 % 1024 = s.port.rank) →
      exec (.jr d a) s = .next (takeTrap s s.cur { Cause.precise 0x02 3 2 with tval := t }))) ∧
  (∀ (s : State) (t : Word), CanIssue (curCore s) [55] [] [] [] 0 → (curCore s).phase = .alone → readG (curCore s) 55 = t →
    (t.toNat % 64 ≠ 0 → exec .ret s = .next (takeTrap s s.cur { Cause.precise 0x02 2 2 with tval := t })) ∧
    (t.toNat % 64 = 0 → ¬(t.toNat / 2 ^ 57 = 0 ∧ t.toNat / 2 ^ 47 % 1024 = s.port.rank) →
      exec .ret s = .next (takeTrap s s.cur { Cause.precise 0x02 3 2 with tval := t })))

/-- R81, R122, R123: where the branches, the call, the indirect jump and the return go. -/
def Obligations.BranchTargets : Prop := Stmt.ConditionalBranchesTaken ∧ Stmt.IndirectBranchTargets

/-- R124, R222, R128: loopm sets up the sequencer and goes to its body, or past it when N is 0; bnk.lock takes the mask and the count
of bundles; loopx shortens the loop to the iteration of its own stage when its predicate says so; loopm in handler state and loopx
outside a composite are illegal. -/
def Sys2Proof.Stmt.PrefixesAndLoopExit : Prop :=
  (∀ (s : State) (a : Fin 64) (ii : Fin 16) (sc : Fin 8), CanIssue (curCore s) [a] [] [] [] 0 → (curCore s).inH = false →
    let c := curCore s
    let n := (readG c a).toNat % 2 ^ 32
    Leaves (.loopm a ii sc) s
      { c with
        seq := { active := decide (n ≠ 0), n := n, ii := ii.val + 1, sc := sc.val + 1, body := c.pc + 32, j := 0, k := 0, rho := 0 }
        after := .loop (if n = 0 then c.pc + 32 + BitVec.ofNat 64 (32 * ((ii.val + 1) * (sc.val + 1))) else c.pc + 32) }) ∧
  (∀ (s : State) (a : Fin 64) (ii : Fin 16) (sc : Fin 8), CanIssue (curCore s) [a] [] [] [] 0 → (curCore s).phase = .alone →
    (curCore s).inH = true → exec (.loopm a ii sc) s = .next (takeTrap s s.cur (Cause.precise 0x01 1 0))) ∧
  (∀ (s : State) (a : Fin 64) (n : Fin 16), CanIssue (curCore s) [a] [] [] [] 0 →
    Leaves (.bnkLock a n) s
      { curCore s with lock := some { mask := BitVec.ofNat 32 (readG (curCore s) a).toNat, left := n.val } }) ∧
  (∀ (s : State) (p : Fin 8), CanIssue (curCore s) [] [] [] [] 0 → (curCore s).seq.active = true →
    let c := curCore s
    Leaves (.loopx p) s
      (if (readP c p).toNat % 2 = 1 then { c with seq := { c.seq with n := min c.seq.n (c.seq.j - c.stg + 1) } } else c)) ∧
  (∀ (s : State) (p : Fin 8), CanIssue (curCore s) [] [] [] [] 0 → (curCore s).phase = .alone → (curCore s).seq.active = false →
    exec (.loopx p) s = .next (takeTrap s s.cur (Cause.precise 0x01 1 2)))

/-- R25, R229, R132: tend notes the task's end once every interlocked load and tl.acq of the task has returned, and eret the return
once the handler's operations have completed; until then the bundle is held on OBJ 0x103 or 0x105 of R409, and the eret's hold alone
counts as issue cycles for the results in flight. An eret outside handler state is illegal.
(Which operations eret waits for is a reading: log entry 29.) -/
def Obligations.TaskEndAndReturnConditions : Prop :=
  ∀ s : State, CanIssue (curCore s) [] [] [] [] 0 →
    let c := curCore s
    let loads : Prop := c.rets = [] ∧ ∀ a ∈ c.accs, a.dest = .none ∧ (∀ t n, a.op ≠ .tlAcq t n)
    let ended : Prop := c.results = [] ∧ c.accs = [] ∧ c.rets = [] ∧
      ∀ n, c.snap = some n → ∀ e ∈ c.engs, ∀ o ∈ e.2, o.order ≤ n.issued
    (loads → Leaves .tend s { c with after := .tend }) ∧
    (c.inH = true → ended → Leaves .eret s { c with after := .eret }) ∧
    (c.phase = .alone →
      (¬loads → Leaves .tend s { c with held := c.held + 1, hold := some { sub := 4, obj := 0x103, tl := 15, slot := 2 } }) ∧
      (c.inH = true → ¬ended → Leaves .eret s
        { c with held := c.held + 1, hold := some { sub := 4, obj := 0x105, tl := 15, slot := 2 }, icycle := c.icycle + 1 }) ∧
      (c.inH = false → exec .eret s = .next (takeTrap s s.cur (Cause.precise 0x01 1 2))))

/-- R84: nop has no effect. R246: shw writes A into field n of a shadow copy one issue cycle later, and touches no active copy. -/
def Sys2Proof.Stmt.NopAndShapeWrite : Prop :=
  (∀ s : State, exec .nop s = .next s) ∧
  (∀ (s : State) (h n : Fin 16) (a : Fin 64), CanIssue (curCore s) [a] [] [] [] 0 →
    ∃ t, exec (.shw h n a) s = .next t ∧ Lands s t [a] (.shape h n) (.s (readG (curCore s) a)) 1 0) ∧
  (∀ (c : Core) (h n : Nat) (w : Word), (writeDest c (.shape h n) (.s w)).active = c.active ∧
    mget 0 (writeDest c (.shape h n) (.s w)).shadow (16 * h + n) = w)

/-- R83, R123, R124, R222 and the shape writes: prefixes, the loop exit, nop, shw. -/
def Obligations.PrefixesNopAndShapeWrites : Prop := Stmt.PrefixesAndLoopExit ∧ Stmt.NopAndShapeWrite

/-! ### Control registers and the spill map -/

namespace Sys2Proof.Stmt

/-- The plain control registers: each address reads the field of its own (R90). -/
def plainCsrs (x : Csrs) : List (Nat × Word) :=
  [(0x011, x.wdog), (0x012, x.fpcsr), (0x013, x.mxst), (0x014, x.parkcfg), (0x018, x.syncst), (0x019, x.gxcfg), (0x01A, x.gxoob),
   (0x020, x.tcause), (0x021, x.epc), (0x022, x.tval), (0x023, x.tinfo), (0x024, x.tvec), (0x025, x.tdeleg), (0x043, x.drtst),
   (0x048, x.eqst)]

/-- The addresses that R90 and the later chapters assign. -/
def assignedCsrs : List Nat :=
  [0x010, 0x011, 0x012, 0x013, 0x014, 0x015, 0x016, 0x017, 0x018, 0x019, 0x01A, 0x020, 0x021, 0x022, 0x023, 0x024, 0x025, 0x026, 0x030,
   0x031, 0x032, 0x033, 0x040, 0x041, 0x042, 0x043, 0x044, 0x048]

/-- Those that can be written. -/
def writableCsrs : List Nat :=
  [0x011, 0x012, 0x013, 0x014, 0x018, 0x019, 0x01A, 0x024, 0x025, 0x030, 0x031, 0x032, 0x033, 0x041, 0x042, 0x043, 0x044, 0x048]

/-- A PARKCFG write that R134 refuses. -/
def parkRefused (c : Core) (v : Word) : Prop :=
  (∃ q ∈ c.spill, ∃ t p, q.loc = .col t p ∧ v.getLsbD t = false) ∨
  ((∃ q ∈ c.spill, ∃ o, q.loc = .spill o) ∧ (v.toNat / 2 ^ 16 % 256 ≠ c.csr.parkcfg.toNat / 2 ^ 16 % 256 ∨ v.getLsbD 25 = false))

/-- A csrw or csrx of `v` to address `a` is legal (R90, R134). -/
def writeLegal (c : Core) (a : Nat) (v : Word) : Prop := a ∈ writableCsrs ∧ (a = 0x014 → ¬parkRefused c v)

/-- A write event puts `x` into the control registers of the issuing core, drops the pending write of register `a`, and changes nothing
else. -/
def WritesCsr (i : Instr) (a : Nat) (x : Nat → Csrs → Csrs) : Prop :=
  ∀ s : State, Leaves i s
    { curCore s with
      csr := x (s.page.npm1.toNat % 256) (curCore s).csr
      csrws := (curCore s).csrws.eraseP fun w => w.1 == a }

/-- Fields hi to lo of `new` in the place of those of `old`. -/
def field (old new : Word) (lo n : Nat) : Word := (old &&& ~~~(mask lo n)) ||| (new &&& mask lo n)

end Sys2Proof.Stmt

/-- R130, R90: csrr reads every assigned register; a plain one gives its own field. csrr of an unassigned address is illegal. -/
def Sys2Proof.Stmt.ControlRegisterReads : Prop :=
  (∀ (s : State) (d : Fin 64) (a : BitVec 12), CanIssue (curCore s) [] [d] [] [] 0 → a.toNat ∈ assignedCsrs →
    ∃ t v, exec (.csrr d a) s = .next t ∧ Lands s t [] (destG (curCore s) d) (.s v) 1 0 ∧
      (∀ e ∈ plainCsrs (curCore s).csr, a.toNat = e.1 → v = e.2) ∧
      (a.toNat = 0x016 → v.toNat = (curCore s).q % 2 ^ 37) ∧
      (a.toNat = 0x017 → v = BitVec.ofNat 64 s.time) ∧
      (a.toNat = 0x026 → v.toNat = (if (curCore s).inH then 1 else 0) + (if (curCore s).asyncs = [] then 0 else 2))) ∧
  (∀ (s : State) (d : Fin 64) (a : BitVec 12), CanIssue (curCore s) [] [d] [] [] 0 → (curCore s).phase = .alone → a.toNat ∉ assignedCsrs →
    exec (.csrr d a) s = .next (takeTrap s s.cur (Cause.precise 0x01 7 2)))

/-- R130, R90, R134: csrw and csrx of a writable register note the write, which is made after the bundle's reads; csrx also leaves the
old value in flight. Any other address, and a PARKCFG write that R134 refuses, is illegal and changes nothing. -/
def Sys2Proof.Stmt.ControlRegisterWrites : Prop :=
  (∀ (s : State) (a : BitVec 12) (g : Fin 64), CanIssue (curCore s) [g] [] [] [] 0 → writeLegal (curCore s) a.toNat (readG (curCore s) g) →
    Leaves (.csrw a g) s
      { curCore s with csrws := (curCore s).csrws ++ [(a.toNat, readG (curCore s) g)], pops := popped (curCore s) [g] }) ∧
  (∀ (s : State) (d g : Fin 64) (a : BitVec 12), CanIssue (curCore s) [g] [d] [] [] 0 →
    writeLegal (curCore s) a.toNat (readG (curCore s) g) →
    ∃ t v, exec (.csrx d a g) s = .next t ∧ csrRead s s.cur a.toNat = some v ∧
      OnlyCore s t
        { curCore s with
          results := (curCore s).results ++ [{ dest := destG (curCore s) d, val := .s v, land := (curCore s).icycle + 1, flags := 0,
                                               ord := 2 * (curCore s).issued + 1 }]
          csrws := (curCore s).csrws ++ [(a.toNat, readG (curCore s) g)]
          pops := popped (curCore s) [g]
          fifos := reservedFor (curCore s) (destG (curCore s) d) }) ∧
  (∀ (s : State) (d g : Fin 64) (a : BitVec 12), (curCore s).phase = .alone → ¬writeLegal (curCore s) a.toNat (readG (curCore s) g) →
    (CanIssue (curCore s) [g] [] [] [] 0 → exec (.csrw a g) s = .next (takeTrap s s.cur (Cause.precise 0x01 7 2))) ∧
    (CanIssue (curCore s) [g] [d] [] [] 0 → exec (.csrx d a g) s = .next (takeTrap s s.cur (Cause.precise 0x01 7 2))))

/-- R129, R130: csrr, csrw and csrx at issue. -/
def Obligations.ControlRegisterAccess : Prop := Stmt.ControlRegisterReads ∧ Stmt.ControlRegisterWrites

/-- R23, R55, R134, R294, R343, R391, and the access columns of the other registers with R3: what each write event stores. -/
def Obligations.ControlRegisterWriteEvents : Prop :=
  (∀ v : Word, WritesCsr (.wdogWrite v) 0x011 fun _ x => { x with wdog := BitVec.ofNat 64 (max 0x400 (v.toNat % 2 ^ 32)) }) ∧
  (∀ v : Word, WritesCsr (.fpcsrWrite v) 0x012 fun _ x => { x with fpcsr := v &&& (mask 0 5 ||| mask 8 2 ||| mask 11 2) }) ∧
  (∀ v : Word, WritesCsr (.parkcfgWrite v) 0x014 fun _ x => { x with parkcfg := v &&& (mask 0 24 ||| mask 25 1) }) ∧
  (∀ v : Word, WritesCsr (.resvcfgWrite v) 0x041 fun _ x => { x with resvcfg := BitVec.ofNat 64 (max 1 (min 64 (v.toNat % 128))) }) ∧
  (∀ v : Word, WritesCsr (.drtcfgWrite v) 0x042 fun n x =>
    { x with drtcfg := if 16 ≤ n ∧ v.toNat % 2 = 0 then x.drtcfg else BitVec.ofNat 64 (v.toNat % 2) }) ∧
  (∀ v : Word, WritesCsr (.drtstWrite v) 0x043 fun _ x =>
    { x with drtst := if v.toNat % 2 ^ 16 = 0 then 0 else field x.drtst v 0 16 }) ∧
  (∀ v : Word, WritesCsr (.eqstWrite v) 0x048 fun _ x =>
    { x with eqst := if v.toNat / 2 ^ 32 = 0 then 0 else field x.eqst v 32 32 }) ∧
  (∀ v : Word, WritesCsr (.controlRegisterWrite 0x013 v) 0x013 fun _ x => { x with mxst := v &&& mask 0 33 }) ∧
  (∀ v : Word, WritesCsr (.controlRegisterWrite 0x018 v) 0x018 fun _ x => { x with syncst := field x.syncst v 0 2 }) ∧
  (∀ v : Word, WritesCsr (.controlRegisterWrite 0x019 v) 0x019 fun _ x => { x with gxcfg := v }) ∧
  (∀ v : Word, WritesCsr (.controlRegisterWrite 0x01A v) 0x01A fun _ x => { x with gxoob := v &&& mask 0 32 }) ∧
  (∀ v : Word, WritesCsr (.controlRegisterWrite 0x024 v) 0x024 fun _ x => { x with tvec := v &&& (mask 0 1 ||| mask 6 51) }) ∧
  (∀ v : Word, WritesCsr (.controlRegisterWrite 0x025 v) 0x025 fun _ x =>
    { x with tdeleg := v &&& (mask 1 2 ||| mask 5 3 ||| mask 10 2 ||| mask 13 1 ||| mask 15 2) }) ∧
  (∀ (v : Word) (i : Fin 4), WritesCsr (.controlRegisterWrite (0x030 + BitVec.ofNat 12 i) v) (0x030 + i.val) fun _ x =>
    { x with cpoob := x.cpoob.set i (v &&& mask 0 32) }) ∧
  (∀ v : Word, WritesCsr (.controlRegisterWrite 0x044 v) 0x044 fun _ x => { x with fqst := v &&& mask 0 32 })

/-- R133, R136, R137: vpark pushes the register's physical index and place onto the spill map, the place the lowest free column
pair of an eligible tile, whose two columns take the image (bytes 127:0 in the even one, row by row), or, when there is none, the next
256 bytes of the spill basket, where the image is stored by an access of the core; a full map is an illegal instruction. vunpark pops the top entry of the same register and returns its image as an interlocked
load; any other top is an illegal instruction. -/
def Obligations.SpillMapStack : Prop :=
  (∀ (s : State) (v : Fin 32) (t p : Nat), CanIssue (curCore s) [] [] [v] [] 0 → parkPlace (curCore s) = some (.col t p) →
    let c := curCore s
    let place (w : Nat) : Nat := t * 1024 + w % 32 * 32 + (2 * p + w / 32)
    ∃ m, Leaves (.vpark v) s { c with tiles := m, spill := { idx := physV c v, loc := .col t p } :: c.spill } ∧
      (∀ w < 64, (mget 0 m (place w)).toNat = elem 32 (readV c v) w) ∧
      (∀ j, (∀ w < 64, j ≠ place w) → mget 0 m j = mget 0 c.tiles j) ∧
      t < 16 ∧ p < 16 ∧ c.csr.parkcfg.getLsbD t = true ∧ tileBusy c t = false ∧ (∀ q ∈ c.spill, q.loc ≠ .col t p)) ∧
  (∀ (s : State) (v : Fin 32) (o : Nat), CanIssue (curCore s) [] [] [v] [] 1 → parkPlace (curCore s) = some (.spill o) →
    let c := curCore s
    c.csr.parkcfg.getLsbD 25 = true ∧ freePair c = none ∧ o = bkOff (spillBasket c) + 256 * parkedSpill c ∧
    ∃ a : Access, a.op = .mem [{ sp := true, addr := BitVec.ofNat 64 o, ix := 0, op := .store (imageBytes (readV c v)) false }] .none 0 ∧
      a.dest = .none ∧ a.ents = 1 ∧ a.id = c.issued + 1 ∧ a.epc = c.pc ∧
      Leaves (.vpark v) s
        { c with
          spill := { idx := physV c v, loc := .spill o } :: c.spill
          accs := c.accs ++ [a], issued := c.issued + 1 }) ∧
  (∀ (s : State) (v : Fin 32), CanIssue (curCore s) [] [] [v] [] 0 → (curCore s).phase = .alone → parkPlace (curCore s) = none →
    exec (.vpark v) s = .next (takeTrap s s.cur (Cause.precise 0x01 4 2))) ∧
  (∀ (s : State) (v : Fin 32) (p : Parked) (r : List Parked) (t k : Nat), CanIssue (curCore s) [] [] [] [] 0 →
    (curCore s).spill = p :: r → p.idx = physV (curCore s) v → p.loc = .col t k →
    let c := overtake (curCore s) (destV (curCore s) v)
    ∃ img, (∀ w < 64, elem 32 img w = (mget 0 (curCore s).tiles (t * 1024 + w % 32 * 32 + (2 * k + w / 32))).toNat) ∧
    Leaves (.vunpark v) s
      { c with
        spill := r
        rets := c.rets ++ [{ id := c.issued + 1, dest := destV (curCore s) v, dead := false, val := .v img }]
        issued := c.issued + 1 }) ∧
  (∀ (s : State) (v : Fin 32) (p : Parked) (r : List Parked) (o : Nat), CanIssue (curCore s) [] [] [] [] 1 →
    (curCore s).spill = p :: r → p.idx = physV (curCore s) v → p.loc = .spill o →
    let c := overtake (curCore s) (destV (curCore s) v)
    ∃ a : Access, a.op = .mem [{ sp := true, addr := BitVec.ofNat 64 o, ix := 0, op := .load 256 false }] (.vector 256) 0 ∧
      a.dest = destV (curCore s) v ∧ a.ents = 1 ∧ a.id = c.issued + 1 ∧ a.land = 0 ∧
      Leaves (.vunpark v) s { c with spill := r, accs := c.accs ++ [a], issued := c.issued + 1 }) ∧
  (∀ (s : State) (v : Fin 32), CanIssue (curCore s) [] [] [] [] 0 → (curCore s).phase = .alone →
    (∀ p r, (curCore s).spill = p :: r → p.idx ≠ physV (curCore s) v) →
    exec (.vunpark v) s = .next (takeTrap s s.cur (Cause.precise 0x01 5 2)))

/-! ### Traps -/

namespace Sys2Proof.Stmt

/-- TCAUSE, EPC, TVAL and TINFO say the cause `k` at the bundle `pc` (R226). -/
def Says (x : Csrs) (k : Cause) (pc : Word) : Prop :=
  bits x.tcause 0 8 = k.code % 256 ∧ bits x.tcause 16 8 = k.sub % 256 ∧ bits x.tcause 27 3 = k.slot % 8 ∧
  bits x.tcause 31 1 = k.asy.toNat ∧ bits x.tcause 32 1 = k.eng.toNat ∧ bits x.tcause 33 3 = k.stg % 8 ∧
  bits x.tcause 36 4 = k.tl % 16 ∧ bits x.tcause 48 16 = k.obj % 65536 ∧ bits x.tcause 8 8 = 0 ∧ bits x.tcause 24 3 = 0 ∧
  bits x.tcause 40 8 = 0 ∧ x.epc = pc ∧ x.tval = k.tval ∧ x.tinfo = k.tinfo

/-- A trap of class `code` goes to the task handler of core `x` (R227, R228): delegable, delegated, a handler present, and its entry
owned by this die. -/
def Delegated (s : State) (x : Core) (code : Nat) : Prop :=
  code ∈ [0x01, 0x02, 0x05, 0x06, 0x07, 0x0A, 0x0B, 0x0D, 0x0F, 0x10] ∧ x.csr.tdeleg.toNat.testBit code = true ∧
  x.csr.tvec.toNat % 2 = 1 ∧ x.csr.tvec.toNat / 2 ^ 47 % 1024 = s.port.rank

/-- The registers that no trap touches. -/
def SameRegisters (x y : Core) : Prop :=
  y.g = x.g ∧ y.hbank = x.hbank ∧ y.p = x.p ∧ y.v = x.v ∧ y.k = x.k ∧ y.q = x.q ∧ y.tiles = x.tiles ∧ y.sems = x.sems ∧
  y.bars = x.bars ∧ y.tl = x.tl ∧ y.baskets = x.baskets ∧ y.fifos = x.fifos ∧ y.spill = x.spill ∧ y.active = x.active ∧
  y.shadow = x.shadow ∧ y.engs = x.engs

/-- The exposed pipeline and the unperformed accesses are frozen: into the snapshot, unless it already holds an earlier trap's; the
bank lock ends (R222, R228, R232). -/
def Frozen (x y : Core) : Prop :=
  y.held = 0 ∧ y.hold = none ∧
  (x.snap = none → y.results = [] ∧ y.accs = [] ∧ y.rets = [] ∧ y.lock = none ∧
    ∃ n, y.snap = some n ∧ n.results = x.results ∧ n.icycle = x.icycle ∧ n.accs = x.accs ∧ n.rets = x.rets ∧ n.seq = x.seq ∧ n.pc = x.pc)

end Sys2Proof.Stmt

/-- R228, R226, R227: a delegated trap of a core that is not in handler state freezes the pipeline, says its cause, enters handler
state with the sequencer inactive and no rotation, and goes on at TVEC.ENTRY after its own cycle and two branch cycles, in the same task with its
registers, acquire time and memory as they were. -/
def Sys2Proof.Stmt.DelegatedTrapEntry : Prop :=
  ∀ (s : State) (k : Nat) (c : Cause), (coreAt s k).inH = false → Delegated s (coreAt s k) c.code →
    let x := coreAt s k
    let t := takeTrap s k c
    let y := coreAt t k
    y.inH = true ∧ y.pc = BitVec.ofNat 64 (x.csr.tvec.toNat / 64 % 2 ^ 51 * 64) ∧ y.idle = 3 ∧ y.seq.active = false ∧ y.seq.rho = 0 ∧
    Says y.csr c x.pc ∧ Frozen x y ∧ SameRegisters x y ∧ y.task = x.task ∧ y.stop = x.stop ∧ t = { s with cores := t.cores } ∧
    (∀ j, j ≠ k → coreAt t j = coreAt s j) ∧ (∀ sp a, readByte (store t sp) a = readByte (store s sp) a)

/-- R230, R231, R226: a trap that does not go to the task handler stops the core, says its cause, and the CP writes a 64-byte record at
TRING + 64 × (THEAD mod 4,096) and increments THEAD in the context's header; no other byte of memory changes. HANDLER is 1 only for a
trap that the CP resolves (an AIRED page, R224). -/
def Sys2Proof.Stmt.UndelegatedTrapStopsCore : Prop :=
  ∀ (s : State) (k : Nat) (c : Cause), (coreAt s k).inH = false → ¬Delegated s (coreAt s k) c.code →
    let x := coreAt s k
    let t := takeTrap s k c
    let y := coreAt t k
    let z := ctxAt s (keyCtx k)
    let at_ := z.tring + 64 * (z.thead % 4096)
    let th := z.area + 0x40
    y.stop = some { code := c.code, between := false, need := c.need } ∧ y.inH = false ∧ Says y.csr c x.pc ∧ Frozen x y ∧ SameRegisters x y ∧
    y.task = x.task ∧ (ctxAt t (keyCtx k)).thead = z.thead + 1 ∧ t = { s with cores := t.cores, ctxs := t.ctxs, hbm := t.hbm } ∧
    (∀ j, j ≠ k → coreAt t j = coreAt s j) ∧
    (∀ a, ¬(at_ ≤ a ∧ a < at_ + 64) → ¬(th ≤ a ∧ a < th + 8) → readByte t.hbm a = readByte s.hbm a) ∧
    (∀ a, readByte t.sram a = readByte s.sram a) ∧
    ((at_ + 64 ≤ th ∨ th + 8 ≤ at_) →
      readNat t.hbm th 8 = (z.thead + 1) % 2 ^ 64 ∧ readNat t.hbm at_ 8 = y.csr.tcause.toNat ∧ readNat t.hbm (at_ + 8) 8 = x.pc.toNat ∧
      readNat t.hbm (at_ + 16) 8 = c.tval.toNat ∧ readNat t.hbm (at_ + 24) 8 = c.tinfo.toNat ∧
      readNat t.hbm (at_ + 32) 2 = keyCore k ∧ readNat t.hbm (at_ + 34) 2 = keyCtx k % 65536 ∧
      readNat t.hbm (at_ + 36) 1 = (if c.code = 3 ∧ c.sub = 2 then 1 else 0) ∧ readNat t.hbm (at_ + 37) 3 = 0 ∧
      readNat t.hbm (at_ + 40) 8 = s.time % 2 ^ 64 ∧ readNat t.hbm (at_ + 48) 8 = (z.trapSeq + 1) % 2 ^ 64 ∧
      readNat t.hbm (at_ + 56) 8 = 0)

/-- R229: a trap raised in handler state is a double trap (code 0x11), whatever its class: it stops the core. -/
def Sys2Proof.Stmt.HandlerTrapIsDoubleTrap : Prop :=
  ∀ (s : State) (k : Nat) (c : Cause), (coreAt s k).inH = true →
    (coreAt (takeTrap s k c) k).stop = some { code := 0x11, between := false, need := c.need } ∧
    bits (coreAt (takeTrap s k c) k).csr.tcause 0 8 = 0x11 ∧ (coreAt (takeTrap s k c) k).csr.epc = (coreAt s k).pc ∧
    SameRegisters (coreAt s k) (coreAt (takeTrap s k c) k)

/-- R224 to R232: taking a trap: into the task's handler, into the stopped state, and out of handler state.
(The image of the header that the CP keeps is log entry 11.) -/
def Obligations.TrapEntry : Prop := Stmt.DelegatedTrapEntry ∧ Stmt.UndelegatedTrapStopsCore ∧ Stmt.HandlerTrapIsDoubleTrap

/-- R131, R226, R224: trap and bkpt take their own trap, precise at their bundle: class 0x10 with A in TVAL and the code in TINFO, and
class 0x0F with the code in TINFO. That entry is their whole effect. -/
def Sys2Proof.Stmt.TrapInstructions : Prop :=
  (∀ (s : State) (k : BitVec 12) (a : Fin 64), CanIssue (curCore s) [a] [] [] [] 0 → (curCore s).phase = .alone →
    exec (.trap k a) s = .next (takeTrap s s.cur
      { Cause.precise 0x10 0 2 with tval := readG (curCore s) a, tinfo := BitVec.ofNat 64 k.toNat })) ∧
  (∀ (s : State) (k : BitVec 12), CanIssue (curCore s) [] [] [] [] 0 → (curCore s).phase = .alone →
    exec (.bkpt k) s = .next (takeTrap s s.cur { Cause.precise 0x0F 0 2 with tinfo := BitVec.ofNat 64 k.toNat }))

/-- R229, R224, R232: the return from the handler reloads the snapshot: the sequencer, the bank lock's state, the accesses, the pc of
the trapped bundle (or, for breakpoint and software trap, the next one), and each result lands after the issue cycles it had left. -/
def Sys2Proof.Stmt.ReturnReloadsSnapshot : Prop :=
  ∀ (x : Core) (n : Snapshot), x.snap = some n → x.results = [] → x.accs = [] → x.rets = [] →
    let y := resumeCore x false
    let z := resumeCore x true
    y.inH = false ∧ y.stop = none ∧ y.snap = none ∧ y.pc = n.pc ∧ y.seq = n.seq ∧ y.after = n.after ∧ y.lock = n.lock ∧
    y.accs = n.accs.map (fun a => if a.land = 0 then a else { a with land := x.icycle + (a.land - n.icycle) }) ∧ y.rets = n.rets ∧
    y.results.map Exposed.dest = n.results.map Exposed.dest ∧ y.results.map Exposed.val = n.results.map Exposed.val ∧
    y.results.map (fun r => r.land - x.icycle) = n.results.map (fun r => r.land - n.icycle) ∧
    y.g = x.g ∧ y.p = x.p ∧ y.v = x.v ∧ y.k = x.k ∧ y.csr = x.csr ∧
    z.inH = false ∧ z.stop = none ∧ (n.seq.active = false → z.pc = n.pc + 32)

/-- R131, R229: the trap instructions, and the return that reloads the snapshot. -/
def Obligations.TrapsAndReturns : Prop := Stmt.TrapInstructions ∧ Stmt.ReturnReloadsSnapshot

/-! ### Vector instructions -/

namespace Sys2Proof.Stmt

/-- A pattern of type t as an integer, and an exact integer as a pattern: wrapped, or clamped to the type's range (R113). -/
def numOf (t : ElTy) (x : Nat) : Int := if t.isSigned then Int.bmod x (2 ^ t.bits) else (x : Int)
def patOf (t : ElTy) (sat : Bool) (z : Int) : Nat :=
  let lo : Int := if t.isSigned then -(2 ^ (t.bits - 1)) else 0
  let hi : Int := if t.isSigned then 2 ^ (t.bits - 1) - 1 else 2 ^ t.bits - 1
  ((if sat then max lo (min hi z) else z) % 2 ^ t.bits).toNat

/-- Element e of a vector name, and the scalar operand S, as patterns and as integers of type t. -/
def pat (c : Core) (t : ElTy) (v : Fin 32) (e : Nat) : Nat := elem t.bits (readV c v) e
def num (c : Core) (t : ElTy) (v : Fin 32) (e : Nat) : Int := numOf t (pat c t v e)
def sca (c : Core) (t : ElTy) (g : Fin 64) : Nat := (readG c g).toNat % 2 ^ t.bits

/-- An operand of a floating-point type with subnormals flushed under FTZ, and a rounded result flushed likewise (R54). -/
def fpIn (c : Core) (t : ElTy) (x : Nat) : FVal := (fmtOf t).input (ftz c) x
def fpOut (c : Core) (t : ElTy) (x : Nat × BitVec 5) : Nat × BitVec 5 := (fmtOf t).flush (ftz c) x

end Sys2Proof.Stmt

/-- R139, R138: the arithmetic instructions on integer types, exact and then wrapped or saturated; no flag is raised; elements that the
predicate switches off keep what vd held. -/
def Sys2Proof.Stmt.VectorIntegerArithmetic : Prop :=
  ∀ (t : ElTy) (d a b : Fin 32) (g : Fin 64) (p : Fin 8) (r : Rm) (sat : Bool), t.isFp = false →
    Lanes (.vadd t d a b p r sat) [] (a.val :: b.val :: merged p d) d p 2 t.bits (fun c e => (patOf t sat (num c t a e + num c t b e), 0)) ∧
    Lanes (.vsub t d a b p r sat) [] (a.val :: b.val :: merged p d) d p 2 t.bits (fun c e => (patOf t sat (num c t a e - num c t b e), 0)) ∧
    Lanes (.vmul t d a b p r sat) [] (a.val :: b.val :: merged p d) d p 4 t.bits (fun c e => (patOf t sat (num c t a e * num c t b e), 0)) ∧
    Lanes (.vmin t d a b p) [] (a.val :: b.val :: merged p d) d p 2 t.bits (fun c e => (patOf t false (min (num c t a e) (num c t b e)), 0)) ∧
    Lanes (.vmax t d a b p) [] (a.val :: b.val :: merged p d) d p 2 t.bits (fun c e => (patOf t false (max (num c t a e) (num c t b e)), 0)) ∧
    Lanes (.vabs t d a p sat) [] (a.val :: merged p d) d p 2 t.bits (fun c e => (patOf t sat |num c t a e|, 0)) ∧
    Lanes (.vadds t d a g p r) [g] (a.val :: merged p d) d p 2 t.bits (fun c e => (patOf t false (num c t a e + numOf t (sca c t g)), 0)) ∧
    Lanes (.vmuls t d a g p r) [g] (a.val :: merged p d) d p 4 t.bits (fun c e => (patOf t false (num c t a e * numOf t (sca c t g)), 0))

/-- R139, R53, R54: the arithmetic instructions on fp32 and bf16: operands flushed under FTZ, the exact result rounded once in the mode
the selector names, the result flushed; vfma and vfmas take vd as the addend. -/
def Obligations.VectorFloatArithmetic : Prop :=
  ∀ (t : ElTy) (d a b : Fin 32) (g : Fin 64) (p : Fin 8) (r : Rm) (sat ng : Bool), t.isFp = true →
    let F := fmtOf t
    Lanes (.vadd t d a b p r sat) [] (a.val :: b.val :: merged p d) d p 2 t.bits
      (fun c e => fpOut c t (F.add (rounding c r) (fpIn c t (pat c t a e)) (fpIn c t (pat c t b e)))) ∧
    Lanes (.vsub t d a b p r sat) [] (a.val :: b.val :: merged p d) d p 2 t.bits
      (fun c e => fpOut c t (F.add (rounding c r) (fpIn c t (pat c t a e)) (FVal.negIf true (fpIn c t (pat c t b e))))) ∧
    Lanes (.vmul t d a b p r sat) [] (a.val :: b.val :: merged p d) d p 4 t.bits
      (fun c e => fpOut c t (F.mul (rounding c r) (fpIn c t (pat c t a e)) (fpIn c t (pat c t b e)))) ∧
    Lanes (.vfma t d a b p r ng) [] [a, b, d] d p 4 t.bits
      (fun c e => fpOut c t (F.fma (rounding c r) (FVal.negIf ng (fpIn c t (pat c t a e))) (fpIn c t (pat c t b e)) (fpIn c t (pat c t d e)))) ∧
    Lanes (.vmin t d a b p) [] (a.val :: b.val :: merged p d) d p 2 t.bits
      (fun c e => F.minmax false (fpIn c t (pat c t a e)) (fpIn c t (pat c t b e))) ∧
    Lanes (.vmax t d a b p) [] (a.val :: b.val :: merged p d) d p 2 t.bits
      (fun c e => F.minmax true (fpIn c t (pat c t a e)) (fpIn c t (pat c t b e))) ∧
    (∃ f, Lanes (.vabs t d a p sat) [] (a.val :: merged p d) d p 2 t.bits f ∧ ∀ c e,
      (∀ sg, fpIn c t (pat c t a e) = .nan sg → f c e = (F.qnan, if sg then 16 else 0)) ∧
      (∀ n m k, fpIn c t (pat c t a e) = .fin n m k → f c e = (F.encode (.fin false m k), 0)) ∧
      (∀ n, fpIn c t (pat c t a e) = .inf n → f c e = (F.top, 0))) ∧
    Lanes (.vadds t d a g p r) [g] (a.val :: merged p d) d p 2 t.bits
      (fun c e => fpOut c t (F.add (rounding c r) (fpIn c t (pat c t a e)) (fpIn c t (sca c t g)))) ∧
    Lanes (.vmuls t d a g p r) [g] (a.val :: merged p d) d p 4 t.bits
      (fun c e => fpOut c t (F.mul (rounding c r) (fpIn c t (pat c t a e)) (fpIn c t (sca c t g)))) ∧
    Lanes (.vfmas t d a g p r) [g] [a, d] d p 4 t.bits
      (fun c e => fpOut c t (F.fma (rounding c r) (fpIn c t (pat c t a e)) (fpIn c t (sca c t g)) (fpIn c t (pat c t d e)))) ∧
    Lanes (.vdiv t d a b p r) [] (a.val :: b.val :: merged p d) d p 16 t.bits
      (fun c e => fpOut c t (F.div (rounding c r) (fpIn c t (pat c t a e)) (fpIn c t (pat c t b e)))) ∧
    Lanes (.vsqrt t d a p r) [] (a.val :: merged p d) d p 16 t.bits
      (fun c e => fpOut c t (F.sqrt (rounding c r) (fpIn c t (pat c t a e)))) ∧
    Lanes (.vrcp d a p) [] (a.val :: merged p d) d p 8 32 (fun c e => rcp32 (ftz c) (pat c .fp32 a e)) ∧
    Lanes (.vrsq d a p) [] (a.val :: merged p d) d p 8 32 (fun c e => rsq32 (ftz c) (pat c .fp32 a e)) ∧
    Lanes (.vexp2 d a p) [] (a.val :: merged p d) d p 8 32 (fun c e => exp2_32 (ftz c) (pat c .fp32 a e)) ∧
    Lanes (.vlog2 d a p) [] (a.val :: merged p d) d p 8 32 (fun c e => log2_32 (ftz c) (pat c .fp32 a e))

/-- R141, R142: select, logic and shifts, lane by lane; a count at or past the width is no case of its own when the arithmetic is exact. -/
def Sys2Proof.Stmt.VectorLogicAndShifts : Prop :=
  ∀ (t : ElTy) (d a b : Fin 32) (p n : Fin 8) (i : BitVec 8),
    let w := t.bits
    Lanes (.vsel d n a b) [] [a, b] d 0 2 32 (fun c e => (if (readP c n).toNat.testBit e then pat c .i32 a e else pat c .i32 b e, 0)) ∧
    Lanes (.vand d a b p) [] (a.val :: b.val :: merged p d) d p 2 32 (fun c e => (pat c .i32 a e &&& pat c .i32 b e, 0)) ∧
    Lanes (.vor d a b p) [] (a.val :: b.val :: merged p d) d p 2 32 (fun c e => (pat c .i32 a e ||| pat c .i32 b e, 0)) ∧
    Lanes (.vxor d a b p) [] (a.val :: b.val :: merged p d) d p 2 32 (fun c e => (pat c .i32 a e ^^^ pat c .i32 b e, 0)) ∧
    Lanes (.vandn d a b p) [] (a.val :: b.val :: merged p d) d p 2 32 (fun c e => (pat c .i32 a e &&& (2 ^ 32 - 1 - pat c .i32 b e), 0)) ∧
    Lanes (.vshl t d a b p) [] (a.val :: b.val :: merged p d) d p 2 w (fun c e => (pat c t a e * 2 ^ pat c t b e, 0)) ∧
    Lanes (.vshr t d a b p) [] (a.val :: b.val :: merged p d) d p 2 w (fun c e => (pat c t a e / 2 ^ pat c t b e, 0)) ∧
    Lanes (.vsra t d a b p) [] (a.val :: b.val :: merged p d) d p 2 w
      (fun c e => ((Int.bmod (pat c t a e) (2 ^ w) / 2 ^ pat c t b e % 2 ^ w).toNat, 0)) ∧
    Lanes (.vshli t d a p i) [] (a.val :: merged p d) d p 2 w (fun c e => (pat c t a e * 2 ^ i.toNat, 0)) ∧
    Lanes (.vshri t d a p i) [] (a.val :: merged p d) d p 2 w (fun c e => (pat c t a e / 2 ^ i.toNat, 0)) ∧
    Lanes (.vsrai t d a p i) [] (a.val :: merged p d) d p 2 w
      (fun c e => ((Int.bmod (pat c t a e) (2 ^ w) / 2 ^ i.toNat % 2 ^ w).toNat, 0))

/-- R138 to R141: integer arithmetic, logic and shifts of vectors. -/
def Obligations.VectorIntegerAndLogic : Prop := Stmt.VectorIntegerArithmetic ∧ Stmt.VectorLogicAndShifts

/-- R144, R145, R146, R147: conversions. vcvt writes the destination elements that its mapping names, by conv of R52; vcvt8 writes a
quarter of the bytes or reads one; vbxi imports two blocks; vpack and vunpack change the width of integers. -/
def Sys2Proof.Stmt.VectorConversions : Prop :=
  (∀ (t u : ElTy) (d a : Fin 32) (p : Fin 8) (r : Rm) (h : Bool),
    ∃ f, Lanes (.vcvt t u d a p r h) [] [a, d] d p 3 t.bits f ∧ ∀ (c : Core) (e : Nat),
      let n := 2048 / t.bits
      let m := 2048 / u.bits
      let k := if h then 1 else 0
      (n = m → f c e = convElem c t u r (pat c u a e)) ∧
      (n < m → f c e = convElem c t u r (pat c u a (k * n + e))) ∧
      (m < n → (k * m ≤ e ∧ e < k * m + m → f c e = convElem c t u r (pat c u a (e - k * m))) ∧
        (¬(k * m ≤ e ∧ e < k * m + m) → f c e = (pat c t d e, 0)))) ∧
  (∀ (d a : Fin 32) (q : Fin 4) (p : Fin 8) (r : Rm) (f5 : Bool),
    (∃ f, Lanes (.vcvt8 d a false q p r f5) [] [a, d] d p 3 8 f ∧ ∀ (c : Core) (e : Nat),
      (64 * q.val ≤ e ∧ e < 64 * q.val + 64 →
        f c e = (if f5 then e5m2 else e4m3).conv (rounding c r) (fp8sat c) (fp32.decode (elem 32 (readV c a) (e - 64 * q.val)))) ∧
      (¬(64 * q.val ≤ e ∧ e < 64 * q.val + 64) → f c e = (elem 8 (readV c d) e, 0))) ∧
    (∃ f, Lanes (.vcvt8 d a true q p r f5) [] [a, d] d p 3 32 f ∧ ∀ (c : Core) (e : Nat),
      let v := (if f5 then e5m2 else e4m3).decode (elem 8 (readV c a) (64 * q.val + e))
      (v.isNan = false → f c e = (fp32.encode v, 0)) ∧ (v.isNan = true → (f c e).1 = 0x7FC00000))) ∧
  (∀ d a : Fin 32, ∃ f g, Whole (.vbxi d a false) [a] d 3 f ∧ Whole (.vbxi d a true) [a] d 3 g ∧ ∀ c : Core,
    let block (b : Nat) : Block := importBlock ((List.range 64).map fun j => elem 16 (readV c a) (64 * b + j))
    (f c).2 = 0 ∧ (g c).2 = 0 ∧
    (∀ b < 2, ∀ j < 64, Int.bmod (elem 16 (f c).1 (64 * b + j)) (2 ^ 16) = Int.bmod ((block b).mant.getD j 0) (2 ^ 16)) ∧
    elem 8 (g c).1 0 = (block 0).scale % 256 ∧ elem 8 (g c).1 1 = (block 1).scale % 256 ∧
    (∀ e, 2 ≤ e → e < 256 → elem 8 (g c).1 e = 0)) ∧
  (∀ (t : ElTy) (d a b : Fin 32) (p : Fin 8) (tr : Bool), t.bits < 32 → t.isFp = false →
    let u : ElTy := if t.bits = 16 then .i32 else .i16
    Lanes (.vpack t d a b p tr) [] (a.val :: b.val :: merged p d) d p 3 t.bits
      (fun c e => (patOf t (!tr) (if e < 2048 / u.bits then num c u a e else num c u b (e - 2048 / u.bits)), 0))) ∧
  (∀ (t u : ElTy) (d a : Fin 32) (p : Fin 8) (h : Bool), 8 < t.bits → t.isFp = false →
    u.bits * 2 = t.bits → u.isSigned = t.isSigned → u.isFp = false →
    Lanes (.vunpack t d a p h) [] (a.val :: merged p d) d p 3 t.bits
      (fun c e => (patOf t false (num c u a ((if h then 1 else 0) * (2048 / t.bits) + e)), 0)))

/-- R148: permutes, rotations, broadcasts, extraction and immediates, for every type. -/
def Sys2Proof.Stmt.VectorMoves : Prop :=
  ∀ (t : ElTy) (d a b : Fin 32) (g : Fin 64) (p : Fin 8) (n : BitVec 8),
    let m := 2048 / t.bits
    Lanes (.vperm t d a b p) [] (a.val :: b.val :: merged p d) d p 3 t.bits
      (fun c e => (if pat c t b e < m then pat c t a (pat c t b e) else 0, 0)) ∧
    Lanes (.vrot t d a p false n) [] (a.val :: merged p d) d p 3 t.bits (fun c e => (pat c t a ((e + n.toNat) % m), 0)) ∧
    Lanes (.vrot t d a p true n) [] (a.val :: merged p d) d p 3 t.bits
      (fun c e => (if e + n.toNat < m then pat c t a (e + n.toNat) else 0, 0)) ∧
    Lanes (.vbcast t d g p) [g] (merged p d) d p 2 t.bits (fun c _ => (sca c t g, 0)) ∧
    Lanes (.vmovi t d p n) [] (merged p d) d p 2 t.bits
      (fun _ _ => (if t.isFp then ((fmtOf t).round .rne (n.toInt < 0) n.toInt.natAbs 0).1 else patOf t false n.toInt, 0)) ∧
    (∀ (x : Fin 32) (y : Fin 8) (s : State), CanIssue (curCore s) [] [g] [a] [] 0 →
      ∃ t', exec (.vext t g a x y) s = .next t' ∧
        Lands s t' [] (destG (curCore s) g) (.s (BitVec.ofInt 64 (num (curCore s) t a (32 * y.val + x.val)))) 3 0)

/-- R143 to R149: conversions and moves of vectors. -/
def Obligations.VectorConversionsAndMoves : Prop := Stmt.VectorConversions ∧ Stmt.VectorMoves

/-- R140: vcmp writes the whole predicate: bit i, where its governing bit is set, is the AND of the comparison over the lane's elements,
and elsewhere what it held at issue. -/
def Sys2Proof.Stmt.VectorComparisons : Prop :=
  ∀ (k : Cond) (t : ElTy) (d p : Fin 8) (a b : Fin 32) (s : State), CanIssue (curCore s) [] [] [a, b] [] 0 →
    let c := curCore s
    ∃ t' v fl, exec (.vcmp k t d a b p) s = .next t' ∧ Lands s t' [] (destP d) (.s v) 2 fl ∧
      (∀ i < 64, v.getLsbD i = if (readP c p).getLsbD i
        then (List.range (2048 / t.bits / 64)).all fun j => (cmpElem c t k (pat c t a (i + 64 * j)) (pat c t b (i + 64 * j))).1
        else (readP c d).getLsbD i) ∧
      (t.isFp = false → fl = 0 ∧ ∀ x y, x < 2 ^ t.bits → y < 2 ^ t.bits → ((cmpElem c t k x y).1 = true ↔ (match k with
        | .eq => x = y
        | .ne => x ≠ y
        | .lt => numOf t x < numOf t y
        | .ge => numOf t y ≤ numOf t x
        | .ltu => x < y
        | .geu => y ≤ x)))

/-- R149, R150, R62, R63: reductions write one value to bytes 3:0 and zero above, scans write the participating lanes, and vdot4 adds
four exact products to a 32-bit lane. For 32-bit integers without saturation the tree's sum is the sum of the participating lanes. -/
def Sys2Proof.Stmt.VectorReductions : Prop :=
  (∀ (t : ElTy) (o : RedOp) (d a : Fin 32) (p : Fin 8) (r : Rm) (sat : Bool),
    ∃ f, Whole (.vred t o d a p r sat) [a] d 8 f ∧ ∀ c : Core,
      (∀ e, 1 ≤ e → e < 64 → elem 32 (f c).1 e = 0) ∧ elem 32 (f c).1 0 = (redValue c t o r sat (readP c p) (readV c a)).1 % 2 ^ 32 ∧
      (o = .add → t = .n32 → sat = false →
        elem 32 (f c).1 0 = ((List.range 64).filter fun e => (readP c p).getLsbD e).foldl (fun n e => n + elem 32 (readV c a) e) 0 % 2 ^ 32)) ∧
  (∀ (t : ElTy) (o : RedOp) (d a : Fin 32) (p : Fin 8) (r : Rm) (sat : Bool),
    ∃ f, Whole (.vscan t o d a p r sat) (a.val :: merged p d) d 8 f ∧ ∀ c : Core, ∀ e < 64,
      (¬active c p e → elem 32 (f c).1 e = elem 32 (readV c d) e) ∧
      (active c p e → elem 32 (f c).1 e = (scanValue c t o r sat (readP c p) (readV c a)).1.getD e 0 % 2 ^ 32) ∧
      (active c p e → o = .add → t = .n32 → sat = false →
        elem 32 (f c).1 e =
          ((List.range (e + 1)).filter fun j => (readP c p).getLsbD j).foldl (fun n j => n + elem 32 (readV c a) j) 0 % 2 ^ 32)) ∧
  (∀ (t : ElTy) (d a b : Fin 32) (p : Fin 8) (sat : Bool), t = .i8 ∨ t = .n8 →
    let u : ElTy := if t = .i8 then .i32 else .n32
    Lanes (.vdot4 t d a b p sat) [] [a, b, d] d p 4 32
      (fun c e => (patOf u sat (num c u d e + num c t a e * num c t b e + num c t a (e + 64) * num c t b (e + 64) +
        num c t a (e + 128) * num c t b (e + 128) + num c t a (e + 192) * num c t b (e + 192)), 0)))

/-- R142, R150, R151: vector comparisons, reductions and scans. -/
def Obligations.VectorComparisonsAndReductions : Prop := Stmt.VectorComparisons ∧ Stmt.VectorReductions

/-- R53, R52: rounding is correct. For fp32 and bf16 and every exact value m × 2^e: unless the result overflows, the pattern stands for a
value q × 2^k with k no less than the format's least exponent, the difference from the exact value is as the mode says, and IX is
raised exactly when there is one. -/
def Obligations.RoundingIsCorrect : Prop :=
  ∀ (f : Fmt) (r : Rm) (neg : Bool) (m : Nat) (e : Int), f = fp32 ∨ f = bf16 → 0 < m →
    let x := f.round r neg m e
    let exact : ℚ := m * (2 : ℚ) ^ e
    (x.2 &&& fOF) = 0 →
    ∃ q k, f.decode x.1 = .fin neg q k ∧ 1 - (f.bias : Int) - f.frac ≤ k ∧ q < 2 ^ (f.frac + 1) ∧
      ((x.2 &&& fIX) = 0 ↔ (q : ℚ) * (2 : ℚ) ^ k = exact) ∧
      (r = .rne → |(q : ℚ) * (2 : ℚ) ^ k - exact| ≤ (2 : ℚ) ^ k / 2 ∧
        (|(q : ℚ) * (2 : ℚ) ^ k - exact| = (2 : ℚ) ^ k / 2 → q % 2 = 0)) ∧
      (r = .rtz ∨ (r = .rup ∧ neg = true) ∨ (r = .rdn ∧ neg = false) →
        (q : ℚ) * (2 : ℚ) ^ k ≤ exact ∧ exact < ((q : ℚ) + 1) * (2 : ℚ) ^ k) ∧
      ((r = .rup ∧ neg = false) ∨ (r = .rdn ∧ neg = true) →
        ((q : ℚ) - 1) * (2 : ℚ) ^ k < exact ∧ exact ≤ (q : ℚ) * (2 : ℚ) ^ k)

/-! ### Memory instructions -/

namespace Sys2Proof.Stmt

/-- The effective address of R196: in a scratchpad A + d; else the offset stays inside the 47-bit local address and keeps the owner. -/
def place (sp : Bool) (a : Word) (d : Int) : Word :=
  if sp then BitVec.ofInt 64 (a.toNat + d)
  else BitVec.ofInt 64 ((a.toNat / 2 ^ 47 * 2 ^ 47 : Nat) + ((a.toNat : Int) + d) % 2 ^ 47)

/-- A global address whose owner is outside the domain is not accessed (R153, R197); other faults show when the access is performed. -/
def inReach (s : State) (sp : Bool) (w : Word) : Prop :=
  sp = true ∨ w.toNat / 2 ^ 57 ≠ 0 ∨ w.toNat / 2 ^ 47 % 1024 ∈ (curCtx s).members

/-- The task stream has a landing slot free for a request to this rank, after those that its waiting requests and the bundle's earlier
syllables need; its own die needs none (R294, R314). -/
def slotFree (s : State) (rank : Nat) : Prop :=
  rank = s.port.rank ∨
    (slotsHeld (curCore s) 13 + (slotsWanted s + 1) ≤ (curCore s).csr.resvcfg.toNat % 128 ∧ landingUsed s + (slotsWanted s + 1) ≤ 8192)

/-- In reach, with a landing slot free where the owner is another die. -/
def reach (s : State) (sp : Bool) (w : Word) : Prop :=
  inReach s sp w ∧ (sp = true ∨ w.toNat / 2 ^ 57 ≠ 0 ∨ slotFree s (w.toNat / 2 ^ 47 % 1024))

/-- What an access of the issuing task carries (R175, R176): the task's agent identifier, its acquire time, its bundle. -/
def request (s : State) (op : AccOp) (d : Dest) (land ents : Nat) (img : VWord) (rx : Bool) : Access where
  id := (curCore s).issued + 1
  op := op
  dest := d
  dead := false
  land := land
  ents := ents
  img := img
  sent := false
  slots := 0
  who := { agent := BitVec.ofNat 25 (s.port.rank % 1024 * 2 ^ 13 + s.cur % 512 % 512 * 16 + (curCore s).serial % 16)
           q := (curCore s).q, rx := rx }
  epc := (curCore s).pc
  slot := (curCore s).slot
  stg := (curCore s).stg

/-- The bytes an access would read hold no uncorrectable error (R240): those of this die by their marks, those of another die by a free
value. -/
def sound (s : State) (sp : Bool) (w : Word) (n : Nat) (k : Kind) : Prop :=
  (sp = true ∨ w.toNat / 2 ^ 47 % 1024 = s.port.rank → ∀ ps t, locateAny s s.cur sp w n k = .ok (ps, t) → poisoned s ps = false) ∧
    (sp = false → w.toNat / 2 ^ 47 % 1024 ≠ s.port.rank → Config.farPoison s.time w.toNat = false)

/-- The count at which a load's result lands: six issue cycles on from a scratchpad, else when it returns (R92, R93). -/
def landing (c : Core) (sp : Bool) : Nat := if sp then c.icycle + 6 else 0

/-- One element of a memory access. -/
def one (sp : Bool) (w : Word) (op : MemOp) : AccOp := .mem [{ sp := sp, addr := w, ix := 0, op := op }] .none 0

/-- The elements of a vector access at element width `w` bytes: the governed ones, in order (R200). -/
def elements (c : Core) (sp : Bool) (w p : Nat) (at_ : Nat → Word) (op : Nat → MemOp) : List Elem :=
  ((List.range (256 / w)).filter fun e => (readP c p).toNat.testBit (e % 64)).map fun e => { sp := sp, addr := at_ e, ix := e, op := op e }

/-- The lanes that a gather or scatter accesses: governed, with an index below the limit of GXCFG (R202, R203). -/
def lanesIn (c : Core) (p b : Nat) : List Nat :=
  (List.range 64).filter fun i => (readP c p).toNat.testBit i && decide (elem 32 (readV c b) i < c.csr.gxcfg.toNat % 2 ^ 32)

/-- The governed lanes whose index is not below the limit. -/
def lanesOut (c : Core) (p b : Nat) : List Nat :=
  (List.range 64).filter fun i => (readP c p).toNat.testBit i && !decide (elem 32 (readV c b) i < c.csr.gxcfg.toNat % 2 ^ 32)

/-- GXOOB has counted the lanes out of range, saturating at 2^32 − 1 (R202, R203). -/
def counted (c : Core) (p b : Nat) : Core :=
  { c with csr := { c.csr with gxoob := BitVec.ofNat 64 (min (2 ^ 32 - 1) (c.csr.gxoob.toNat + (lanesOut c p b).length)) } }

/-- The keys of a table rise strictly. -/
def rising {α : Type} (m : SMap α) : Prop := (m.map Prod.fst).Pairwise (· < ·)

/-- Bytes of an element width (R200). -/
def wide : El → Nat
  | .w4 => 4
  | .w2 => 2
  | .w1 => 1

end Sys2Proof.Stmt

/-- R196, R199: ld and st put one access of 1, 2, 4 or 8 bytes in the queue, at loc(A, offset × size); st captures the low bytes of gd
at issue. Nothing else changes: no register, no byte of memory. An access to another die for which the task stream has no landing slot
free holds its bundle (R294, R409; how the slots of a bundle are counted is log entry 109). -/
def Sys2Proof.Stmt.ScalarLoadsAndStoresIssue : Prop :=
  ∀ (s : State) (sp : Bool) (z : Fin 4) (r x : Bool) (d a : Fin 64) (o : BitVec 7),
    let c := curCore s
    let n : Nat := 2 ^ z.val
    let w := place sp (readG c a) (o.toInt * n)
    w.toNat % n = 0 →
    (reach s sp w →
      (CanIssue c [a] [d] [] [] 1 → sound s sp w n .load →
        Leaves (.ld sp z r x d a o) s (queued c [a] (request s
          (.mem [{ sp := sp, addr := w, ix := 0, op := .load n false }] (.scalar n x) 0) (destG c d) (landing c sp) 1 0 r))) ∧
      (CanIssue c [a, d] [] [] [] 1 →
        Leaves (.st sp z r d a o) s (queued c [a, d] (request s
          (one sp w (.store (leBytes n (readG c d).toNat) false)) .none 0 1 0 r)))) ∧
    (inReach s sp w → ¬reach s sp w → c.phase = .alone →
      let held := noteHold s { sub := 4, obj := 0x104, tl := 15, slot := 5, stg := 0 }
      (CanIssue c [a] [d] [] [] 1 → exec (.ld sp z r x d a o) s = .next held) ∧
      (CanIssue c [a, d] [] [] [] 1 → exec (.st sp z r d a o) s = .next held))

/-- R196, R200, R201: vld, vld.s and vst put one access in the queue whose elements are the governed ones, element e at
loc(A, e × stride); a load starts from the image that vd holds at issue. No load here reads bytes that hold an uncorrectable error (R240). -/
def Sys2Proof.Stmt.VectorLoadsAndStoresIssue : Prop :=
  ∀ (s : State) (sp : Bool) (e : El) (r : Bool) (p : Fin 8) (d : Fin 32) (a g : Fin 64),
    let c := curCore s
    let w := wide e
    let at_ (stride : Int) (k : Nat) : Word := place sp (readG c a) (k * stride)
    let fits (stride : Int) : Prop := ∀ k < 256 / w, active c p k → (at_ stride k).toNat % w = 0 ∧ reach s sp (at_ stride k)
    let clean (stride : Int) : Prop := ∀ k < 256 / w, active c p k → sound s sp (at_ stride k) w .load
    let load (rg : List Nat) (stride : Int) : Core := queued c rg (request s
      (.mem (elements c sp w p (at_ stride) fun _ => .load w false) (.vector w) 0) (destV c d) (landing c sp) 1 (readV c d) r)
    (CanIssue c [a] [] (merged p d) [] 1 → fits w → clean w → Leaves (.vld sp e r p d a) s (load [a] w)) ∧
    (CanIssue c [a, g] [] (merged p d) [] 1 → fits (readG c g).toInt → clean (readG c g).toInt →
      Leaves (.vldS sp e r p d a g) s (load [a, g] (readG c g).toInt)) ∧
    (CanIssue c [a] [] [d] [] 1 → fits w →
      Leaves (.vst sp e r p d a) s (queued c [a] (request s
        (.mem (elements c sp w p (at_ w) fun k => .store (leBytes w (elem (8 * w) (readV c d) k)) false) .none 0) .none 0 1 0 r)))

/-- R202, R203: vgath and vscat access, for each governed lane with an index below LIMIT, the element at loc(A, index × width); GXOOB
counts the other governed lanes, which a gather fills with FILL. -/
def Sys2Proof.Stmt.GatherAndScatterIssue : Prop :=
  ∀ (s : State) (sp : Bool) (e : El) (r : Bool) (p : Fin 8) (d : Fin 32) (a : Fin 64) (b : Fin 32),
    let c := curCore s
    let w := wide e
    let at_ (i : Nat) : Word := place sp (readG c a) ((elem 32 (readV c b) i * w : Nat) : Int)
    let fits : Prop := ∀ i ∈ lanesIn c p b, (at_ i).toNat % w = 0 ∧ reach s sp (at_ i)
    let list (op : Nat → MemOp) : List Elem := (lanesIn c p b).map fun i => { sp := sp, addr := at_ i, ix := i, op := op i }
    (CanIssue c [a] [] ([b.val] ++ if p == 0 && e == .w4 then [] else [d.val]) [] 2 → fits → (∀ i ∈ lanesIn c p b, sound s sp (at_ i) w .load) →
      ∃ img, Leaves (.vgath sp e r p d a b) s (queued (counted c p b) [a] (request s
          (.mem (list fun _ => .load w false) (.vector w) 0) (destV c d) 0 2 img r)) ∧
        ∀ k < 256 / w, elem (8 * w) img k =
          if k ∈ lanesOut c p b then c.csr.gxcfg.toNat / 2 ^ 32 % 2 ^ (8 * w) else elem (8 * w) (readV c d) k) ∧
    (CanIssue c [a] [] [d, b] [] 2 → fits →
      Leaves (.vscat sp e r p d a b) s (queued (counted c p b) [a] (request s
        (.mem (list fun i => .store (leBytes w (elem (8 * w) (readV c d) i)) false) .none 0) .none 0 2 0 r)))

/-- R197 to R203: loads, stores, gathers and scatters at issue. -/
def Obligations.LoadsAndStoresIssue : Prop := Stmt.ScalarLoadsAndStoresIssue ∧ Stmt.VectorLoadsAndStoresIssue ∧ Stmt.GatherAndScatterIssue

/-- R205, R206: mop and amo put one access of 4 or 8 bytes at loc(A, 0) in the queue with the operands read at issue; amo's old value
comes back to gd. The saxpy form takes its two addresses, both within one 4 KiB page and of one owner, and its element count. -/
def Obligations.AtomicsIssue : Prop :=
  ∀ (s : State) (z sp : Bool) (d a : Fin 64),
    let c := curCore s
    let n := if z then 8 else 4
    let w := place sp (readG c a) 0
    let v := readG c d
    let u := readG c (d.val + 1)
    let at_ (op : MemOp) : Access := request s (one sp w op) .none 0 1 0 false
    let free (k : Nat) : Prop := sp = true ∨ w.toNat / 2 ^ 57 ≠ 0 ∨ inWindow s (keyCtx s.cur) w k = false
    (∀ (o : MopOp) (y : MopTy), o ≠ .cas → o ≠ .saxpy → CanIssue c [a, d] [] [] [] 1 → w.toNat % n = 0 → reach s sp w → free n →
      Leaves (.mop o y z sp d a) s (queued c [a, d] (at_ (.mop o y n v 0)))) ∧
    (∀ y : MopTy, CanIssue c [a.val, d.val, d.val + 1] [] [] [] 1 → w.toNat % n = 0 → reach s sp w → free n →
      Leaves (.mop .cas y z sp d a) s (queued c [a.val, d.val, d.val + 1] (at_ (.mop .cas y n v u)))) ∧
    (∀ y : MopTy, let k := v.toNat / 2 ^ 32
      CanIssue c [a.val, d.val, d.val + 1] [] [] [] 1 → 1 ≤ k → k ≤ 1024 → w.toNat % 4 = 0 → u.toNat % 4 = 0 →
      w.toNat % 4096 + 4 * k ≤ 4096 → u.toNat % 4096 + 4 * k ≤ 4096 → reach s sp w →
      (sp = false → w.toNat / 2 ^ 47 % 1024 = u.toNat / 2 ^ 47 % 1024) → free (4 * k) →
      Leaves (.mop .saxpy y z sp d a) s (queued c [a.val, d.val, d.val + 1] (at_ (.mop .saxpy y n v u)))) ∧
    (∀ (o : AmoOp) (q : Fin 4), w.toNat % n = 0 → reach s sp w → free n → sound s sp w n .atomic →
      CanIssue c ([a.val, d.val] ++ if o = .cas then [d.val + 1] else []) [d] [] [] 1 →
      Leaves (.amo o q z sp d a) s (queued c ([a.val, d.val] ++ if o = .cas then [d.val + 1] else []) (request s
        (.mem [{ sp := sp, addr := w, ix := 0, op := .atomic o n v (if o = .cas then u else 0) }] (.scalar n false) q) (destG c d) 0 1 0 false)))

/-- R155, R153, R197: a scalar access at an address that is not a multiple of its size takes an alignment trap, and one whose owner is
outside the domain a violation, both precise with the address in TVAL; so does a load of bytes of this die that hold an uncorrectable error (R240); the bundle's effects
do not happen. -/
def Obligations.MemoryTestsTrap : Prop :=
  ∀ (s : State) (sp : Bool) (z : Fin 4) (r x : Bool) (d a : Fin 64) (o : BitVec 7),
    let c := curCore s
    let n : Nat := 2 ^ z.val
    let w := place sp (readG c a) (o.toInt * n)
    c.phase = .alone →
    (CanIssue c [a] [d] [] [] 1 →
      (w.toNat % n ≠ 0 → exec (.ld sp z r x d a o) s = .next (takeTrap s s.cur { Cause.precise 0x02 1 5 with tval := w })) ∧
      (w.toNat % n = 0 → ¬inReach s sp w → exec (.ld sp z r x d a o) s = .next (takeTrap s s.cur { Cause.precise 0x07 7 5 with tval := w })) ∧
      (w.toNat % n = 0 → inReach s sp w → sp = true ∨ (w.toNat / 2 ^ 57 = 0 ∧ w.toNat / 2 ^ 47 % 1024 = s.port.rank) →
        ¬sound s sp w n .load → exec (.ld sp z r x d a o) s = .next (takeTrap s s.cur { Cause.precise 0x08 2 5 with tval := w }))) ∧
    (CanIssue c [a, d] [] [] [] 1 →
      (w.toNat % n ≠ 0 → exec (.st sp z r d a o) s = .next (takeTrap s s.cur { Cause.precise 0x02 1 5 with tval := w })) ∧
      (w.toNat % n = 0 → ¬inReach s sp w → exec (.st sp z r d a o) s = .next (takeTrap s s.cur { Cause.precise 0x07 7 5 with tval := w })))

/-- R174, R207: fence and tfence put one entry in the queue. R158, R204: tlook puts in flight the basket and index of the entry that
holds the block, or all ones; tset leaves the block in the entry it names and in no other; tinv.e empties one entry and tinv.a every
entry that holds the block. -/
def Obligations.FencesAndTagTable : Prop :=
  (∀ (s : State) (f : FenceKind) (x : Fin 4), CanIssue (curCore s) [] [] [] [] 1 →
    Leaves (.fence x f) s { queued (curCore s) [] (request s (.fence x f) .none 0 1 0 false) with pops := (curCore s).pops } ∧
    Leaves (.tfence x) s { queued (curCore s) [] (request s (.tfence x [] false) .none 0 1 0 false) with pops := (curCore s).pops }) ∧
  (∀ (s : State) (d a : Fin 64), CanIssue (curCore s) [a] [d] [] [] 0 →
    let c := curCore s
    let b := (readG c a).toNat / 2 ^ 12 % 2 ^ 45
    ∃ t v, exec (.tlook d a) s = .next t ∧ Lands s t [a] (destG c d) (.s v) 6 0 ∧
      ((v = -1 ∧ ∀ i < 256, ∀ e, mget none c.tags i = some e → e.block ≠ b) ∨
        ∃ i < 256, ∃ e, mget none c.tags i = some e ∧ e.block = b ∧ v = BitVec.ofNat 64 (e.basket * 256 + i) ∧
          ∀ j < i, ∀ f, mget none c.tags j = some f → f.block ≠ b)) ∧
  (∀ (s : State) (d a : Fin 64), CanIssue (curCore s) [a, d] [] [] [] 0 → rising (curCore s).tags →
    let c := curCore s
    let b := (readG c a).toNat / 2 ^ 12 % 2 ^ 45
    ∃ tags, Leaves (.tset d a) s { c with tags := tags, pops := popped c [a, d] } ∧
      ∀ i, mget none tags i =
        if i = (readG c d).toNat % 256 then some { block := b, basket := (readG c d).toNat / 256 % 256 }
        else (mget none c.tags i).filter fun e => e.block != b) ∧
  (∀ (s : State) (a : Fin 64), CanIssue (curCore s) [a] [] [] [] 0 → rising (curCore s).tags →
    let c := curCore s
    (∃ tags, Leaves (.tinv a false) s { c with tags := tags, pops := popped c [a] } ∧
      ∀ i, mget none tags i = if i = (readG c a).toNat % 256 then none else mget none c.tags i) ∧
    (∃ tags, Leaves (.tinv a true) s { c with tags := tags, pops := popped c [a] } ∧
      ∀ i, mget none tags i = (mget none c.tags i).filter fun e => e.block != (readG c a).toNat / 2 ^ 12 % 2 ^ 45))

/-! ### Registers, results, and accesses performed -/

namespace Sys2Proof.Stmt

/-- Access `a` stands first in the queue of core k, is not under way, and no report of the core's own holds it (R165). -/
structure Stands (s : State) (k : Nat) (a : Access) (r : List Access) : Prop where
  queue : (coreAt s k).accs = a :: r
  alone : ∀ b ∈ r, b.id ≠ a.id
  noSnap : (coreAt s k).snap = none
  unsent : a.sent = false
  quiet : ∀ x ∈ (coreAt s k).reports, x.eng = true

/-- A release-ordered operation: what the queue held before it was performed by the cycle before this one (R170). -/
structure Heads (s : State) (k : Nat) (a : Access) (r : List Access) : Prop extends Stands s k a r where
  due : a.ripe ≤ s.time
  noted : releases a.op = true → a.ripe ≠ 0

/-- An element that this die performs: in the scratchpad, at a non-canonical address (which faults), or of this die's own memory; no
bank lock and no retraining bus holds it. -/
def here (s : State) (k : Nat) (e : Elem) : Prop :=
  (e.sp = true ∨ e.addr.toNat / 2 ^ 57 ≠ 0 ∨ e.addr.toNat / 2 ^ 47 % 1024 = s.port.rank) ∧ accessHeld s (some k) k e.sp e.addr e.op = false

/-- The queues of two cores hold the same operations, but for the accesses that each operation's engine-issue edge has noted (R170). -/
def sameQueues (g h : SMap (List EngOp)) : Prop :=
  let bare (m : SMap (List EngOp)) : SMap (List EngOp) := m.map fun q => (q.1, q.2.map fun o => { o with edge := [] })
  bare g = bare h

/-- Nothing changes but the record of core k, which becomes `x` up to the note of repeated faults (R165) and what its operations' edges
note (R170). -/
def leavesCore (s u : State) (k : Nat) (x : Core) : Prop :=
  u = { s with cores := u.cores } ∧ (∃ l g, coreAt u k = { x with livelock := l, engs := g } ∧ sameQueues g x.engs) ∧
    ∀ j, j ≠ k → coreAt u j = coreAt s j

/-- The value that n loaded bytes give a scalar register, zero-extended or (`x`) sign-extended (R199). -/
def extended (x : Bool) (n : Nat) (bs : List Byte) : Word :=
  if x then BitVec.ofInt 64 (Int.bmod (leNat bs % 2 ^ (8 * n) : Nat) (2 ^ (8 * n))) else BitVec.ofNat 64 (leNat bs % 2 ^ (8 * n))

/-- The value an atomic stores (R206), from the old value, the operand and the exchange value, at a width of w bits. -/
def atomicValue (w : Nat) : AmoOp → BitVec w → BitVec w → BitVec w → BitVec w
  | .swap, _, x, _ => x
  | .add, o, x, _ => o + x
  | .and, o, x, _ => o &&& x
  | .or, o, x, _ => o ||| x
  | .xor, o, x, _ => o ^^^ x
  | .max, o, x, _ => if o.toInt < x.toInt then x else o
  | .min, o, x, _ => if x.toInt < o.toInt then x else o
  | .maxu, o, x, _ => if o.toNat < x.toNat then x else o
  | .minu, o, x, _ => if x.toNat < o.toNat then x else o
  | .cas, o, x, y => if o = x then y else o
  | .fadd, o, x, _ => BitVec.ofNat w (fp32.add .rne (fp32.decode o.toNat) (fp32.decode x.toNat)).1

/-- Exactly the bytes of [a, a + n) of one storage may differ, and they hold `bs`. -/
def stored (s t : State) (p : Phys) (bs : List Byte) : Prop :=
  (∀ i < bs.length, readByte (store t p.sp) (p.a + i) = bs.getD i 0) ∧
  (∀ x, (x < p.a ∨ p.a + bs.length ≤ x) → readByte (store t p.sp) x = readByte (store s p.sp) x) ∧
  ∀ x, readByte (store t (!p.sp)) x = readByte (store s (!p.sp)) x

/-- cov(id, t) of R177 for an agent `b` with acquire time `q` at time `now`. -/
def covers (q now : Nat) (same : Prop) (t : Nat) : Prop :=
  same ∨ 2 ^ 36 ≤ (((now : Int) - t) % 2 ^ 37) ∨ (1 ≤ (((q : Int) - t) % 2 ^ 37) ∧ (((q : Int) - t) % 2 ^ 37) ≤ 2 ^ 36 - 1)

end Sys2Proof.Stmt

/-- R87, R127, R228: what a name reads and where it writes. g0 reads zero and discards a write, p0 reads all ones and discards a write;
g32 to g47 and v16 to v31 rotate; in handler state g48 to g55 are the handler bank. A landed write changes that one register. -/
def Sys2Proof.Stmt.RegisterNames : Prop :=
  ∀ (c : Core) (w : Word) (x : VWord), c.shaped →
    (readG c 0 = 0 ∧ writeDest c (destG c 0) (.s w) = c ∧ readP c 0 = -1 ∧ writeDest c (destP 0) (.s w) = c) ∧
    (∀ i, 1 ≤ i → i < 32 → readG c i = c.g.getD i 0 ∧ writeDest c (destG c i) (.s w) = { c with g := c.g.set i w }) ∧
    (∀ i < 16, readG c (32 + i) = c.g.getD (32 + (i + c.seq.rho) % 16) 0 ∧
      writeDest c (destG c (32 + i)) (.s w) = { c with g := c.g.set (32 + (i + c.seq.rho) % 16) w }) ∧
    (∀ i < 8, c.inH = false → readG c (48 + i) = c.g.getD (48 + i) 0 ∧
      writeDest c (destG c (48 + i)) (.s w) = { c with g := c.g.set (48 + i) w }) ∧
    (∀ i < 8, c.inH = true → readG c (48 + i) = c.hbank.getD i 0 ∧
      writeDest c (destG c (48 + i)) (.s w) = { c with hbank := c.hbank.set i w }) ∧
    (∀ i, 1 ≤ i → i < 8 → readP c i = c.p.getD i 0 ∧ writeDest c (destP i) (.s w) = { c with p := c.p.set i w }) ∧
    (∀ i < 16, readV c i = c.v.getD i 0 ∧ writeDest c (destV c i) (.v x) = { c with v := c.v.set i x }) ∧
    (∀ i < 16, readV c (16 + i) = c.v.getD (16 + (i + c.seq.rho) % 16) 0 ∧
      writeDest c (destV c (16 + i)) (.v x) = { c with v := c.v.set (16 + (i + c.seq.rho) % 16) x }) ∧
    (∀ i < 16, ∀ (y : BitVec 128) (t : Bool), readK (writeDest c (.k i) (.k y t)) i = (y, t))

/-- R89: an alias g56 + i reads the next word of fi and its write appends to fo; the pops of a bundle take one word each. -/
def Sys2Proof.Stmt.FifoAliases : Prop :=
  ∀ (c : Core) (i : Nat) (w : Word), i < 8 →
    (∀ x r, (fifoAt c i).fi = x :: r → readG c (56 + i) = x) ∧
    (let d := writeDest c (destG c (56 + i)) (.s w)
     (fifoAt d i).fo = (fifoAt c i).fo ++ [w] ∧ (fifoAt d i).fi = (fifoAt c i).fi ∧
       (∀ j, j ≠ i → fifoAt d j = fifoAt c j) ∧ d = { c with fifos := d.fifos }) ∧
    (c.pops = [i] → (fifoAt (applyPops c) i).fi = (fifoAt c i).fi.tail ∧ (fifoAt (applyPops c) i).owed = (fifoAt c i).owed + 1 ∧
      (∀ j, j ≠ i → fifoAt (applyPops c) j = fifoAt c j) ∧ applyPops c = { c with pops := [], fifos := (applyPops c).fifos })

/-- R85 to R89, R228: what the names of registers and of FIFO aliases read and write. -/
def Obligations.RegisterAndFifoNames : Prop := Stmt.RegisterNames ∧ Stmt.FifoAliases

/-- R91, R93, R56: a fixed-latency result whose count has been reached is written to its place, after which a load still pending to the
same register no longer writes it; its flags accumulate in FPCSR. An interlocked result is written unless a later write has
superseded it. An access report is noted for its core. -/
def Obligations.ResultsLand : Prop :=
  (∀ (s : State) (k : Nat) (r : Exposed), (coreAt s k).results = [r] → r.land ≤ (coreAt s k).icycle →
    ∃ t, exec (.resultWriteback k) s = .next t ∧ t = { s with cores := t.cores } ∧ (∀ j, j ≠ k → coreAt t j = coreAt s j) ∧
      (coreAt t k).results = [] ∧ (coreAt t k).csr = { (coreAt s k).csr with fpcsr := (coreAt s k).csr.fpcsr ||| r.flags.zeroExtend 64 } ∧
      (coreAt t k).g = (writeDest (coreAt s k) r.dest r.val).g ∧ (coreAt t k).hbank = (writeDest (coreAt s k) r.dest r.val).hbank ∧
      (coreAt t k).p = (writeDest (coreAt s k) r.dest r.val).p ∧ (coreAt t k).v = (writeDest (coreAt s k) r.dest r.val).v ∧
      (coreAt t k).k = (writeDest (coreAt s k) r.dest r.val).k ∧ (coreAt t k).shadow = (writeDest (coreAt s k) r.dest r.val).shadow ∧
      (coreAt t k).fifos = (writeDest (coreAt s k) r.dest r.val).fifos ∧
      ((∃ i, r.dest = .g i ∨ r.dest = .hb i ∨ r.dest = .v i ∨ r.dest = .p i ∨ r.dest = .k i) →
        (∀ a ∈ (coreAt t k).accs, a.dest = r.dest → a.land = 0 ∨ a.land ≤ (coreAt s k).icycle → a.dead = true) ∧ ∀ a ∈ (coreAt t k).rets, a.dest = r.dest → a.dead = true)) ∧
  (∀ (s : State) (k : Nat) (r : Return), (coreAt s k).rets = [r] →
    ∃ t, exec (.loadReturn k r.id) s = .next t ∧ t = { s with cores := t.cores } ∧ (∀ j, j ≠ k → coreAt t j = coreAt s j) ∧
      coreAt t k = (if r.dead then { coreAt s k with rets := [] } else { writeDest (coreAt s k) r.dest r.val with rets := [] })) ∧
  (∀ (s : State) (k : Nat) (r : Report), r.code ≠ 3 →
    ∃ t, exec (.accessReport k r) s = .next t ∧ t = { s with cores := t.cores } ∧ (∀ j, j ≠ k → coreAt t j = coreAt s j) ∧
      coreAt t k = { coreAt s k with reports := (coreAt s k).reports ++ [r] })

/-- R165, R199: the first access of a core's queue, of one element at this die, is performed. A load's value goes on its way to its
register, zero- or sign-extended, with the latency left for a scratchpad load, and interlocked for one that comes back past its latency; a store leaves the queue; an acquiring atomic raises the
task's acquire time. An access that faults is not performed: it stays in the queue and is reported, with the slot of its syllable and
the pages it needs. -/
def Sys2Proof.Stmt.AccessesPerform : Prop :=
  ∀ (s : State) (k : Nat) (a : Access) (r : List Access) (e : Elem) (fmt : LoadFmt) (o : Nat),
    Heads s k a r → a.op = .mem [e] fmt o → here s k e →
    (∀ b, performMem s k a.who e.sp e.addr e.op = .error b → b.code ≠ 7 → (coreAt s k).livelock = none →
      ∃ u, exec (.accessPerform k a.id) s = .next u ∧ leavesCore s u k
        { coreAt s k with reports := (coreAt s k).reports ++
          [{ code := b.code, sub := b.sub, addr := if b.code = 5 then BitVec.ofNat 64 b.gran else b.at_.getD e.addr,
             agent := BitVec.ofNat 25 b.agent, time := b.time, eng := false, tl := 15, obj := 0, epc := a.epc,
             kind := if b.rd then 0 else (memKind e.op).code, slot := a.slot, stg := a.stg,
             need := if b.code = 3 ∧ e.sp = false then opPages e.addr e.op else [] }] }) ∧
    (∀ t g, performMem s k a.who e.sp e.addr e.op = .ok (t, g) → t.cores = s.cores → g.poison = false →
      (∀ n x, n ≤ 8 → fmt = .scalar n x → (∃ m c, e.op = .load m c) →
        let past : Prop := a.land < (coreAt s k).icycle ∨ (a.land = (coreAt s k).icycle ∧ (coreAt s k).hold ≠ none)
        (a.land = 0 ∨ a.dead = true ∨ ¬past →
          ∃ u, exec (.accessPerform k a.id) s = .next u ∧ leavesCore t u k
            (if a.land = 0 then
              { coreAt t k with accs := r, rets := (coreAt t k).rets ++
                  [{ id := a.id, dest := a.dest, dead := a.dead, val := .s (extended x n g.bytes) }] }
            else if a.dead then { coreAt t k with accs := r }
            else
              { coreAt t k with accs := r, results := (coreAt t k).results ++
                  [{ dest := a.dest, val := .s (extended x n g.bytes), land := a.land, flags := 0, ord := 2 * a.id }] })) ∧
        (a.land ≠ 0 → a.dead = false → past →
          ∃ u, exec (.accessPerform k a.id) s = .next u ∧ u = { t with cores := u.cores } ∧ (∀ j, j ≠ k → coreAt u j = coreAt t j) ∧
            (coreAt u k).accs.map Access.id = r.map Access.id ∧ (coreAt u k).results = (coreAt t k).results ∧
            ∃ y ∈ (coreAt u k).rets, y.id = a.id ∧ y.dest = a.dest ∧ y.val = .s (extended x n g.bytes))) ∧
      (fmt = .none → (∃ d c, e.op = .store d c) →
        ∃ u, exec (.accessPerform k a.id) s = .next u ∧ leavesCore t u k { coreAt t k with accs := r }) ∧
      (∀ n x y p, n ≤ 8 → fmt = .scalar n false → e.op = .atomic p n x y → a.land = 0 → (o = 1 ∨ o = 3) →
        ∃ u, exec (.accessPerform k a.id) s = .next u ∧ u = { t with cores := u.cores } ∧ (coreAt u k).q = max (coreAt t k).q g.acq ∧
          (coreAt u k).accs.map Access.id = r.map Access.id ∧
          (coreAt u k).rets = (coreAt t k).rets ++ [{ id := a.id, dest := a.dest, dead := a.dead, val := .s (extended false n g.bytes) }]))

/-- R160, R206, R297: where an access of one piece lies at place p and its race check passes, a load returns the bytes there and changes
no byte; a store leaves exactly its bytes; an atomic returns the old bytes and leaves the new value; no other byte changes, and the
capability tag of a granule written to is cleared. -/
def Obligations.LocalMemoryOperations : Prop :=
  ∀ (s s1 s2 : State) (k : Nat) (who : Who) (sp : Bool) (a : Word) (p : Phys) (chk : Bool),
    (∀ n c, locateAny s k sp a n .load = .ok ([(p, n, chk)], s1) → raceAll s1 sp who false false a [(p, n, chk)] = .ok s2 →
      ∃ t g, performMem s k who sp a (.load n c) = .ok (t, g) ∧ g.bytes = (List.range n).map (fun i => readByte (store s1 p.sp) (p.a + i)) ∧
        ∀ q x, readByte (store t q) x = readByte (store s1 q) x) ∧
    (∀ d, locateAny s k sp a d.length .store = .ok ([(p, d.length, chk)], s1) →
      raceAll s1 sp who false true a [(p, d.length, chk)] = .ok s2 →
      ∃ t g, performMem s k who sp a (.store d false) = .ok (t, g) ∧ stored s1 t p d ∧
        ∀ i < d.length, 2 * ((p.a + i) / 16) + p.sp.toNat ∉ t.capTags) ∧
    (∀ (o : AmoOp) (n : Nat) (x y : Word), (n = 4 ∨ (n = 8 ∧ o ≠ .fadd)) →
      locateAny s k sp a n .atomic = .ok ([(p, n, chk)], s1) → raceAll s1 sp who true true a [(p, n, chk)] = .ok s2 →
      let old : BitVec (8 * n) := BitVec.ofNat (8 * n) (leNat ((List.range n).map fun i => readByte (store s1 p.sp) (p.a + i)))
      ∃ t g, performMem s k who sp a (.atomic o n x y) = .ok (t, g) ∧
        g.bytes = (List.range n).map (fun i => readByte (store s1 p.sp) (p.a + i)) ∧
        stored s1 t p (leBytes n (atomicValue (8 * n) o old (x.truncate (8 * n)) (y.truncate (8 * n))).toNat))

/-- R177: the race check of one granule, on its tag. -/
def Obligations.RaceDetection : Prop :=
  ∀ (tag : BitVec 128) (own atomic : Bool) (b q now : Nat),
    let rk := tag.toNat / 2 ^ 126
    let rid := tag.toNat / 2 ^ 101 % 2 ^ 25
    let rtime := tag.toNat / 2 ^ 64 % 2 ^ 37
    let wv := tag.toNat / 2 ^ 63 % 2 = 1
    let wa := tag.toNat / 2 ^ 62 % 2 = 1
    let wid := tag.toNat / 2 ^ 37 % 2 ^ 25
    let wtime := tag.toNat % 2 ^ 37
    let same (i : Nat) : Prop := if own = true ∧ i / 2 ^ 23 = 0 ∧ b / 2 ^ 23 = 0 then i / 16 = b / 16 else i = b
    let lost : Prop := wv ∧ ¬covers q now (same wid) wtime ∧ ¬(atomic = true ∧ wa)
    (lost → ∀ w, raceCheck tag own atomic w b q now = .error (wid, wtime)) ∧
    (¬lost →
      ((rk = 1 ∧ ¬covers q now (same rid) rtime) ∨ (rk = 2 ∧ ¬covers q now False rtime) →
        raceCheck tag own atomic true b q now = .error (rid, rtime)) ∧
      (¬((rk = 1 ∧ ¬covers q now (same rid) rtime) ∨ (rk = 2 ∧ ¬covers q now False rtime)) →
        ∃ t, raceCheck tag own atomic true b q now = .ok t ∧ t.toNat / 2 ^ 126 = 0 ∧ t.toNat / 2 ^ 63 % 2 = 1 ∧
          t.toNat / 2 ^ 62 % 2 = atomic.toNat ∧ t.toNat / 2 ^ 37 % 2 ^ 25 = b % 2 ^ 25 ∧ t.toNat % 2 ^ 37 = now % 2 ^ 37) ∧
      ∃ t, raceCheck tag own atomic false b q now = .ok t ∧ t.toNat % 2 ^ 64 = tag.toNat % 2 ^ 64 ∧
        t.toNat / 2 ^ 101 % 2 ^ 25 = b % 2 ^ 25 ∧ t.toNat / 2 ^ 64 % 2 ^ 37 = now % 2 ^ 37 ∧
        (t.toNat / 2 ^ 126 = 1 ↔ rk = 0 ∨ same rid ∨ covers q now (same rid) rtime) ∧
        (t.toNat / 2 ^ 126 = 2 ↔ ¬(rk = 0 ∨ same rid ∨ covers q now (same rid) rtime)))

/-- R165, R174, R207, R218: an access waits in its queue, unperformed, while an earlier one is a full or an acquire fence, a tfence or a
tl.acq. R170: a release whose earlier accesses are done takes effect from the next cycle on. -/
def Sys2Proof.Stmt.AccessesWait : Prop :=
  (∀ (s : State) (k : Nat) (a : Access) (r : List Access), Stands s k a r → releases a.op = true → a.ripe = 0 →
    exec (.requestInject k a.id) s = .next s ∧
    ∃ u, exec (.accessPerform k a.id) s = .next u ∧ leavesCore s u k { coreAt s k with accs := { a with ripe := s.time + 1 } :: r }) ∧
  (∀ (s : State) (k : Nat) (a : Access) (r : List Access), Stands s k a r → s.time < a.ripe →
    exec (.accessPerform k a.id) s = .next s) ∧
  ∀ (s : State) (k : Nat) (a b : Access) (m r : List Access),
    (coreAt s k).accs = b :: m ++ a :: r → (∀ x ∈ b :: m, x.id ≠ a.id) →
    ((∃ f sc, b.op = .fence sc f ∧ f ≠ .rel) ∨ (∃ sc w st, b.op = .tfence sc w st) ∨ (∃ t n, b.op = .tlAcq t n)) →
    (∀ w, a.op ≠ .arrive w true) →
    exec (.accessPerform k a.id) s = .next s ∧ exec (.requestInject k a.id) s = .next s

/-- R165, R199, R222, R406: an access is performed, or waits. (The fields of a report are as in log entry 24.) -/
def Obligations.AccessesPerformOrWait : Prop := Stmt.AccessesPerform ∧ Stmt.AccessesWait

/-- R173, R294: the first access of a queue whose element belongs to another die takes a landing slot and its request enters the
transmit queue for the first hop of the route; where no route can be formed it is reported as unreachable (R279). -/
def Obligations.RemoteRequestsInject : Prop :=
  ∀ (s : State) (k : Nat) (a : Access) (r : List Access) (e : Elem) (fmt : LoadFmt) (o : Nat) (els : List Elem),
    Heads s k a r → a.op = .mem (e :: els) fmt o → a.slots = 0 → a.who.rx = false →
    e.sp = false → e.addr.toNat / 2 ^ 57 = 0 → e.addr.toNat / 2 ^ 47 % 1024 ≠ s.port.rank →
    slotsHeld (coreAt s k) 13 + 1 ≤ (coreAt s k).csr.resvcfg.toNat % 128 → landingUsed s + 1 ≤ 8192 →
    (∀ l, linkTo s false (e.addr.toNat / 2 ^ 47 % 1024) = some l →
      ∃ (t : State) (q : Sent), exec (.requestInject k a.id) s = .next t ∧ t.port.queue = s.port.queue ++ [q] ∧ q.link = l ∧ q.frame.src = s.port.rank ∧
        q.frame.dst = e.addr.toNat / 2 ^ 47 % 1024 ∧ q.frame.vc = vcOf e.op ∧
        q.frame.body = .mem a.who { core := k, stream := 13, id := a.id } none e.addr e.op ∧
        (coreAt t k).accs = { a with sent := true, slots := 1 } :: r ∧ slotsHeld (coreAt t k) 13 = slotsHeld (coreAt s k) 13 + 1 ∧
        t.hbm = s.hbm ∧ t.sram = s.sram ∧ (coreAt t k).g = (coreAt s k).g) ∧
    (linkTo s false (e.addr.toNat / 2 ^ 47 % 1024) = none →
      ∃ (t : State) (x : Report), exec (.requestInject k a.id) s = .next t ∧ (coreAt t k).reports = (coreAt s k).reports ++ [x] ∧ x.code = 7 ∧ x.sub = 12 ∧
        x.addr = e.addr ∧ (coreAt t k).accs = (coreAt s k).accs ∧ t.port = s.port ∧ t.hbm = s.hbm ∧ t.sram = s.sram)

/-! ### Synchronisation -/

namespace Sys2Proof.Stmt

/-- The change that semaphore operations of one cycle make to semaphore i (R210). -/
def semAfter (old : Nat) (ops : List SemOp) (i : Nat) : Nat :=
  let set := ((ops.filterMap fun o => match o with | .set j v => if j = i then some v else none | _ => none).getLast?).getD old
  let take := (ops.filterMap fun o => match o with | .take j n => if j = i then some n else none | _ => none).sum
  let inc := (ops.filterMap fun o => match o with | .inc j n => if j = i then some n else none | _ => none).sum
  set - take + inc

/-- A barrier name (R213): bits 63:30 zero, and local, or its home rank in the domain. -/
def goodName (s : State) (w : Word) : Prop :=
  w.toNat / 2 ^ 30 = 0 ∧ (w.toNat / 2 ^ 10 % 2 = 1 ∨ w.toNat / 2 ^ 20 % 1024 ∈ (curCtx s).members)

/-- A barrier of a core (R42). -/
def bar (c : Core) (b : Nat) : Barrier := mget Barrier.init c.bars b

/-- Of a core record, the barriers change to `m`. -/
def barsOf (c : Core) (m : SMap Barrier) : Core := { c with bars := m }

/-- A timeline by its code (R218). -/
def timeline (s : State) (c : Core) (f : Nat) : Word := if f < 64 then mget 0 c.tl f else mget 0 s.fcp.dt (f - 64)

/-- The fields ST, NEXT and HOLD of a basket-table entry (R220). -/
def bkState (w : Word) : Nat := w.toNat / 2 ^ 44 % 4
def bkNextOf (w : Word) : Nat := w.toNat / 2 ^ 46 % 16
def bkHolder (w : Word) : Nat := w.toNat / 2 ^ 50 % 16
def bkBytes (w : Word) : Nat := w.toNat / 2 ^ 22 % 2 ^ 22
def bkRingOf (w : Word) : Nat := w.toNat / 2 ^ 54 % 256

/-- A basket-table entry after a move: ST, HOLD and NEXT are new, the fields the loader sets are kept. -/
def moved (w w' : Word) (st hold next : Nat) : Prop :=
  bkState w' = st ∧ bkHolder w' = hold ∧ bkNextOf w' = next ∧ w'.toNat % 2 ^ 44 = w.toNat % 2 ^ 44 ∧ w'.toNat / 2 ^ 54 = w.toNat / 2 ^ 54

end Sys2Proof.Stmt

/-- R210, R211: sem.sig and sem.set note their change in the issue cycle, and nothing else changes. The changes of one cycle combine: the
last value set, less the takes, plus the increments, saturating at 65,535 and then setting SSAT with the index of the first. An owed
signal is delivered when everything its bundle waits for has completed (R208, R209). -/
def Obligations.SemaphoreChanges : Prop :=
  (∀ (s : State) (a b : Fin 64) (n : Fin 128),
    let c := curCore s
    (CanIssue c [a] [] [] [] 0 →
      Leaves (.semSig a n) s { c with semOps := c.semOps ++ [.inc ((readG c a).toNat % 256) n], pops := popped c [a] }) ∧
    (CanIssue c [a, b] [] [] [] 0 →
      Leaves (.semSet a b) s
        { c with semOps := c.semOps ++ [.set ((readG c a).toNat % 256) ((readG c b).toNat % 65536)], pops := popped c [a, b] })) ∧
  (∀ (c : Core), rising c.sems →
    (combineSems c).semOps = [] ∧
    (∀ i, mget 0 (combineSems c).sems i =
      if c.semOps.any (fun o => o.index == i) then min 65535 (semAfter (mget 0 c.sems i) c.semOps i) else mget 0 c.sems i) ∧
    ((combineSems c).csr.syncst.toNat % 2 = 1 ↔ c.csr.syncst.toNat % 2 = 1 ∨
      ∃ i, c.semOps.any (fun o => o.index == i) = true ∧ 65535 < semAfter (mget 0 c.sems i) c.semOps i)) ∧
  (∀ (s : State) (k : Nat) (o : Owed) (r : List Owed),
    (coreAt s k).sdone = o :: r →
    (∀ i ∈ o.accs, (∀ a ∈ (coreAt s k).accs, a.id ≠ i) ∧ (∀ a ∈ (coreAt s k).rets, a.id ≠ i) ∧
      (∀ x ∈ (coreAt s k).results, x.ord ≠ 2 * i) ∧
      ∀ n, (coreAt s k).snap = some n → (∀ a ∈ n.accs, a.id ≠ i) ∧ (∀ a ∈ n.rets, a.id ≠ i) ∧ ∀ x ∈ n.results, x.ord ≠ 2 * i) →
    o.land ≤ (coreAt s k).icycle → (∀ t n, o.op = some (t, n) → ∀ p ∈ mget [] (coreAt s k).engs t, p.n ≠ n) →
    ∃ t, exec (.sdoneSignal k 0) s = .next t ∧ t = { s with cores := t.cores } ∧
      coreAt t k = { coreAt s k with sdone := r, semOps := (coreAt s k).semOps ++ [.inc o.sem o.inc] })

/-- R213 to R216: arrive, arrive.rlx and expect put one entry in the access queue; bar.init sets its barrier, of its own core, and no
other. A name with bits 63:30 set is an illegal operand. -/
def Sys2Proof.Stmt.BarrierInstructionsIssue : Prop :=
  ∀ (s : State) (a b : Fin 64),
    let c := curCore s
    let w := readG c a
    (CanIssue c [a] [] [] [] 1 → goodName s w →
      Leaves (.arrive a) s (queued c [a] (request s (.arrive w false) .none 0 1 0 false)) ∧
      Leaves (.arriveRlx a) s (queued c [a] (request s (.arrive w true) .none 0 1 0 false))) ∧
    (CanIssue c [a, b] [] [] [] 1 → goodName s w →
      Leaves (.expect a b) s (queued c [a, b] (request s (.expect w ((readG c b).toNat % 65536)) .none 0 1 0 false))) ∧
    (let x := (readG c b).toNat
     let l := readG c (b.val + 1)
     CanIssue c [a.val, b.val, b.val + 1] [] [] [] 0 → w.toNat / 2 ^ 30 = 0 → w.toNat / 2 ^ 10 % 2 = 1 → x / 2 ^ 32 = 0 →
      x / 2 ^ 25 % 128 ≤ 64 → (x / 2 ^ 25 % 128 ≠ 0 → l.toNat % 8 = 0) →
      ∃ m, Leaves (.barInit a b) s { barsOf c m with pops := popped c [a.val, b.val, b.val + 1] } ∧
        bar (barsOf c m) (w.toNat % 1024) =
          { base := x % 65536, extra := 0, arr := 0, ph := 0, rlen := x / 2 ^ 25 % 128, rlist := l
            sem := if x / 2 ^ 24 % 2 = 1 then some (x / 2 ^ 16 % 256) else none } ∧
        ∀ i, i ≠ w.toNat % 1024 → bar (barsOf c m) i = bar c i) ∧
    (CanIssue c [a] [] [] [] 1 → c.phase = .alone → w.toNat / 2 ^ 30 ≠ 0 →
      exec (.arrive a) s = .next (takeTrap s s.cur (Cause.precise 0x01 2 6)))

/-- R42 to R44, R214, R215: a local arrival leaves the queue for its barrier. An arrival counts in its phase; when it brings ARR to a
target greater than zero, the phase number advances, ARR and EXTRA are cleared and SEM is incremented. An expectation raises EXTRA, to
65,535 − BASE at most. A phase whose target an expectation has met completes at the first test of a cycle. -/
def Sys2Proof.Stmt.BarrierPhases : Prop :=
  (∀ (s : State) (k : Nat) (a : Access) (r : List Access) (w : Word),
    Heads s k a r → w.toNat / 2 ^ 10 % 2 = 1 → coreExists s (ctxAt s (keyCtx k)).checked (keyCore k) = true →
    (∀ x, a.op = .arrive w x →
      ∃ t, exec (.accessPerform k a.id) s = .next t ∧ t = { s with cores := t.cores } ∧
        coreAt t k = { coreAt s k with accs := r, barEvs := (coreAt s k).barEvs ++ [{ bar := w.toNat % 1024, from_ := 0, n := 1, ret := none }] }) ∧
    (∀ n, a.op = .expect w n →
      ∃ t, exec (.accessPerform k a.id) s = .next t ∧ t = { s with cores := t.cores } ∧
        coreAt t k = { coreAt s k with accs := r, barEvs := (coreAt s k).barEvs ++ [{ bar := w.toNat % 1024, from_ := 2, n := n, ret := none }] })) ∧
  (∀ (s : State) (k : Nat) (e : BarEvent), (coreAt s k).barEvs = [e] → (ctxAt s (keyCtx k)).resident = true → e.ret = none →
    let x := bar (coreAt s k) e.bar
    x.rlen = 0 → ¬(0 < x.base + x.extra ∧ x.arr = x.base + x.extra) →
    ∃ t, exec (.barrierArrivalApplied k) s = .next t ∧ (coreAt t k).barEvs = [] ∧
      (∀ i, i ≠ e.bar → bar (coreAt t k) i = bar (coreAt s k) i) ∧ t.hbm = s.hbm ∧ t.sram = s.sram ∧
      (coreAt t k).g = (coreAt s k).g ∧
      (e.from_ < 2 → x.arr < 65535 →
        if x.arr + 1 = x.base + x.extra then
          bar (coreAt t k) e.bar = { x with ph := (x.ph + 1) % 65536, arr := 0, extra := 0 } ∧
          (coreAt t k).semOps = (coreAt s k).semOps ++ (match x.sem with | some i => [.inc i 1] | none => [])
        else bar (coreAt t k) e.bar = { x with arr := x.arr + 1 } ∧ (coreAt t k).semOps = (coreAt s k).semOps) ∧
      (e.from_ < 2 → x.arr = 65535 → (coreAt t k).csr.syncst.toNat / 2 % 2 = 1) ∧
      (e.from_ = 2 → x.base ≤ 65535 → bar (coreAt t k) e.bar = { x with extra := min (x.extra + e.n) (65535 - x.base) })) ∧
  (∀ (s : State) (k b : Nat), (ctxAt s (keyCtx k)).resident = true →
    let x := bar (coreAt s k) b
    0 < x.base + x.extra → x.arr = x.base + x.extra → x.rlen = 0 →
    ∃ t, exec (.barrierDeferredCompletion k b) s = .next t ∧ t = { s with cores := t.cores } ∧
      bar (coreAt t k) b = { x with ph := (x.ph + 1) % 65536, arr := 0, extra := 0 } ∧
      (∀ i, i ≠ b → bar (coreAt t k) i = bar (coreAt s k) i) ∧ (coreAt t k).g = (coreAt s k).g ∧
      (coreAt t k).semOps = (coreAt s k).semOps ++ (match x.sem with | some i => [.inc i 1] | none => []))

/-- R42 to R44, R213 to R216: barrier instructions and barrier phases. -/
def Obligations.Barriers : Prop := Stmt.BarrierInstructionsIssue ∧ Stmt.BarrierPhases

/-- R217 to R219: tl.rd samples a timeline at issue and returns it interlocked; tl.inc, tl.acq, task.dec and task.post wait in the access
queue. A tl.inc that is performed adds one to its timeline and returns the new value. A tl.acq is satisfied when its timeline has
reached its value, and then raises the task's acquire time to the completion time of that operation. -/
def Obligations.TimelinesAndTaskRecords : Prop :=
  (∀ (s : State) (d a b : Fin 64) (f : Fin 128),
    let c := curCore s
    let w := readG c a
    (CanIssue c [] [d] [] [] 0 → Leaves (.tlRd d f) s { answered c [] (destG c d) (.s (timeline s c f)) with pops := c.pops }) ∧
    (CanIssue c [] [d] [] [] 1 → Leaves (.tlInc d f) s { queued c [] (request s (.tlInc f) (destG c d) 0 1 0 false) with pops := c.pops }) ∧
    (CanIssue c [a] [d] [] [] 1 → Leaves (.tlAcq d a f) s (queued c [a] (request s (.tlAcq f w) (destG c d) 0 1 0 false))) ∧
    (w.toNat % 64 = 0 → reach s false w →
      (CanIssue c [a] [] [] [] 1 → Leaves (.taskDec a) s (queued c [a] (request s (one false w .taskDec) .none 0 1 0 false))) ∧
      (CanIssue c [a, b] [] [] [] 1 →
        Leaves (.taskPost a b) s (queued c [a, b] (request s
          (.mem [{ sp := false, addr := w, ix := 0, op := .taskPost ((readG c b).toNat % 2 ^ 32) }] .none 4) .none 0 1 0 false))))) ∧
  (∀ (s : State) (k : Nat) (a : Access) (r : List Access), Heads s k a r →
    (∀ f, a.op = .tlInc f →
      ∃ t m, exec (.accessPerform k a.id) s = .next t ∧ t = { s with cores := t.cores } ∧
        coreAt t k = { coreAt s k with
          accs := r, tl := mset (coreAt s k).tl f (mget 0 (coreAt s k).tl f + 1), tlTimes := m
          rets := (coreAt s k).rets ++ [{ id := a.id, dest := a.dest, dead := a.dead, val := .s (mget 0 (coreAt s k).tl f + 1) }] }) ∧
    (∀ f n, a.op = .tlAcq f n →
      (n.toNat ≤ (timeline s (coreAt s k) f).toNat →
        ∃ t, exec (.tlAcqSatisfied k a.id) s = .next t ∧ t = { s with cores := t.cores } ∧
          (coreAt t k).rets = (coreAt s k).rets ++
            [{ id := a.id, dest := a.dest, dead := a.dead, val := .s (timeline s (coreAt s k) f) }] ∧
          (coreAt t k).accs.map Access.id = r.map Access.id ∧ (coreAt t k).g = (coreAt s k).g ∧
          (coreAt t k).q = if n = 0 then (coreAt s k).q else
            max (coreAt s k).q (if f < 64 then mget 0 (coreAt s k).tlTimes (16 * n.toNat + f) else mget 0 s.fcp.dtTimes (64 * n.toNat + (f - 64)))) ∧
      ((timeline s (coreAt s k) f).toNat < n.toNat → exec (.tlAcqSatisfied k a.id) s = .next s)))

/-- R159, R220, R221: bk.open takes a free or full basket whose NEXT permits tasks, and acquires its last transition; bk.close and
bk.give wait in the access queue, and then make a basket held by tasks full or free, its ring's semaphore following; bk.init sets OFF,
SIZE, RING and NEXT. A basket in another state holds bk.open; a basket of size 0 is an illegal operand.
(That opening acquires the time of the last transition is a reading: log entry 27.) -/
def Obligations.Baskets : Prop :=
  ∀ (s : State) (a b : Fin 64),
    let c := curCore s
    let i := (readG c a).toNat % 256
    let w := basket c i
    let v := (readG c b).toNat
    (∀ x : Bool, CanIssue c [a] [] [] [] 0 → bkBytes w ≠ 0 →
      (bkState w = (if x then 2 else 0) → (bkNextOf w = 13 ∨ bkNextOf w = 14) →
        ∃ w', moved w w' (if x then 3 else 1) 13 14 ∧
          Leaves (.bkOpen a x) s { c with baskets := mset c.baskets i w', q := max c.q (mget 0 c.bkTimes i), pops := popped c [a] }) ∧
      (c.phase = .alone → ¬(bkState w = (if x then 2 else 0) ∧ (bkNextOf w = 13 ∨ bkNextOf w = 14)) →
        Leaves (.bkOpen a x) s { c with held := c.held + 1, hold := some { sub := 2, obj := i, tl := 15, slot := 6 } })) ∧
    (CanIssue c [a] [] [] [] 1 → bkBytes w ≠ 0 → bkHolder w = 13 → (bkState w = 1 ∨ bkState w = 3) →
      Leaves (.bkClose a) s (queued c [a] (request s (.bkClose i 14) .none 0 1 0 false))) ∧
    (CanIssue c [a, b] [] [] [] 1 → bkBytes w ≠ 0 → bkHolder w = 13 → (bkState w = 1 ∨ bkState w = 3) → v % 16 ≠ 15 →
      Leaves (.bkGive a b) s (queued c [a, b] (request s (.bkClose i (v % 16)) .none 0 1 0 false))) ∧
    (CanIssue c [a, b] [] [] [] 0 → v / 2 ^ 52 = 0 → v % 2 ^ 22 % 256 = 0 → v / 2 ^ 22 % 2 ^ 22 % 256 = 0 → v / 2 ^ 22 % 2 ^ 22 ≠ 0 →
      oneRange s s.cur (v % 2 ^ 22) (v / 2 ^ 22 % 2 ^ 22) = true → bkState w = 0 →
      ∃ w', Leaves (.bkInit a b) s { c with baskets := mset c.baskets i w', pops := popped c [a, b] } ∧
        w'.toNat % 2 ^ 44 = v % 2 ^ 44 ∧ bkRingOf w' = v / 2 ^ 44 % 256 ∧ bkNextOf w' = 14 ∧ bkState w' = 0 ∧ bkHolder w' = bkHolder w) ∧
    (CanIssue c [a] [] [] [] 1 → c.phase = .alone → bkBytes w = 0 →
      exec (.bkClose a) s = .next (takeTrap s s.cur (Cause.precise 0x01 2 6))) ∧
    (∀ (k : Nat) (x : Access) (r : List Access) (j n : Nat), Heads s k x r → x.op = .bkClose j n → n < 16 →
      let y := basket (coreAt s k) j
      bkHolder y = 13 → (bkState y = 1 ∨ bkState y = 3) → bkRingOf y = 255 →
      ∃ t y', exec (.accessPerform k x.id) s = .next t ∧ t = { s with cores := t.cores } ∧ moved y y' (if bkState y = 1 then 2 else 0) 15 n ∧
        coreAt t k = { coreAt s k with
          accs := r, baskets := mset (coreAt s k).baskets j y', bkTimes := mset (coreAt s k).bkTimes j s.time })

/-! ### Engine commands -/

namespace Sys2Proof.Stmt

/-- The operation that a command on timeline t queues (R217, R243): the timeline's next number, with the shape copy, loop-table, format
and ring entries and the FP8 mode captured at issue. -/
def command (s : State) (t : Nat) (k : EngKind) (shape : List Word) (loops : List (BitVec 128)) (rings : List Nat) : EngOp where
  n := mget 0 (curCore s).tlOps t + 1
  kind := k
  shape := shape
  loops := loops
  fmt := (List.range 16).map fun i => mget 0x00404000 (curCore s).fmtTab i
  rings := rings.map fun i => (i, mget 0 (curCore s).ringTab i)
  fp8sat := (curCore s).csr.fpcsr.getLsbD 12
  q := s.time
  epc := (curCore s).pc
  slot := (curCore s).slot
  stg := (curCore s).stg
  order := (curCore s).issued + 1
  fired := false
  ended := false
  dead := false
  inB := []
  outB := []
  pos := 0
  aux := []
  replies := []
  slots := 0
  await := 0

/-- The copy of shape register h that a command captures: the shadow copy when it swaps (R243). -/
def captureOf (c : Core) (h : Nat) (sw : Bool) : List Word :=
  (List.range 16).map fun n => mget 0 (if sw then c.shadow else c.active) (16 * h + n)

/-- With .sw the two copies of shape register h have changed places; every other field of every copy is kept (R243). -/
def Swapped (c d : Core) (h : Nat) (sw : Bool) : Prop :=
  d = { c with active := d.active, shadow := d.shadow } ∧
  ∀ i, if sw = true ∧ i / 16 = h then mget 0 d.active i = mget 0 c.shadow i ∧ mget 0 d.shadow i = mget 0 c.active i
    else mget 0 d.active i = mget 0 c.active i ∧ mget 0 d.shadow i = mget 0 c.shadow i

/-- The tests of a command at issue all pass (R244, R312). -/
def passes (t : Tests) : Prop := t.opnd = none ∧ t.align = none ∧ t.dom = none ∧ t.hold = none

/-- The command `i`, which names shape register h, captures it and queues one operation on timeline t; nothing else changes. -/
def Commands (i : Instr) (rg : List Nat) (t h : Nat) (sw : Bool) (k : State → EngKind) (tests : State → Tests)
    (shape : State → List Word) (loops : State → List (BitVec 128)) (rings : State → List Nat) : Prop :=
  ∀ s : State, CanIssue (curCore s) rg [] [] [] 0 → rising (curCore s).active → rising (curCore s).shadow → passes (tests s) →
    ∃ d, Swapped (curCore s) d h sw ∧ Leaves i s (commanded d rg t (command s t (k s) (shape s) (loops s) (rings s)))

/-- The shape that a command of a fabric context carries: the captured copy and the mapping of its target (R312, R319). -/
def mapped (h : Nat) (sw : Bool) (s : State) : List Word :=
  let sh := captureOf (curCore s) (8 + h) sw
  sh ++ (sendMap s sh).words

/-- A plain command: it names no shape register. -/
def Plain (i : Instr) (rg : List Nat) (t : Nat) (ok : State → Prop) (k : State → EngKind) : Prop :=
  ∀ s : State, CanIssue (curCore s) rg [] [] [] 0 → (mget [] (curCore s).engs t).length < 16 → ok s →
    Leaves i s (commanded (curCore s) rg t (command s t (k s) [] [] []))

/-- An EQE command that returns a value still can only be issued with its destination writable. -/
def PlainTo (i : Instr) (rg wg : List Nat) (t : Nat) (ok : State → Prop) (k : State → EngKind) : Prop :=
  ∀ s : State, CanIssue (curCore s) rg wg [] [] 0 → (mget [] (curCore s).engs t).length < 16 → ok s →
    Leaves i s (commanded (curCore s) rg t (command s t (k s) [] [] []))

/-- The bytes of a general-register pair as one 128-bit source. -/
def pairOf (c : Core) (b : Nat) : Nat := (readG c b).toNat + 2 ^ 64 * (readG c (b + 1)).toNat

end Sys2Proof.Stmt

/-- R242, R243: a copy, matrix, projection, equivalence, send or contribution command with a shape register, all of whose tests pass,
queues one numbered operation with everything it captures, and with .sw exchanges the two copies of its shape register. -/
def Sys2Proof.Stmt.ShapedEngineCommands : Prop :=
  (∀ (h c : Fin 4) (w : Bool),
    let copy (i : Instr) (k : EngKind) : Prop := Commands i [] c (4 + h) w (fun _ => k) (fun s => cpTests s k h c w)
      (fun s => captureOf (curCore s) (4 + h) w)
      (fun s =>
        let f := (captureOf (curCore s) (4 + h) w).getD 12 0
        (List.range (f.toNat / 2 ^ 33 % 8)).map fun l => mget 0 (curCore s).loopTab (f.toNat / 2 ^ 24 % 64 + l))
      (fun s => ringsNamed ((captureOf (curCore s) (4 + h) w).getD 13 0))
    copy (.cpGo h c w) .cpGo ∧ copy (.cpGath h c w) .cpGath ∧ (∀ x, copy (.cpScat h c w x) (.cpScat x)) ∧
      copy (.cpFill h c w) .cpFill ∧ ∀ x, copy (.cpChk h c w x) (.cpChk x)) ∧
  (∀ (h : Fin 4) (w g : Bool) (a : Fin 64),
    let sh (s : State) : List Word := captureOf (curCore s) h w
    let rings (s : State) : List Nat := ringsNamed ((sh s).getD 15 0)
    Commands (.mxGo h w g) [] 4 h w (fun _ => .mxGo g) (fun s => mxTests s (.mxGo g) false (sh s) (mxLoops (curCore s) (sh s))) sh
      (fun s =>
        let f := (sh s).getD 13 0
        (List.range (f.toNat / 2 ^ 4 % 8)).map fun l => mget 0 (curCore s).mxTab (f.toNat % 16 + l)) rings ∧
    Commands (.mxWload h w) [] 4 h w (fun _ => .mxWload) (fun s => mxTests s .mxWload false (sh s) []) sh (fun _ => []) rings ∧
    (let k (s : State) : EngKind := .mxDrain ((readG (curCore s) a).toNat % 16) ((readG (curCore s) a).toNat / 16 % 16)
     Commands (.mxDrain h a w) [a] 4 h w k (fun s => mxTests s (k s) (decide ((readG (curCore s) a).toNat / 256 ≠ 0)) (sh s) []) sh
      (fun _ => []) rings)) ∧
  (∀ (h f : Fin 4) (w : Bool) (o : RelabOp),
    let sh (s : State) : List Word := captureOf (curCore s) (12 + h) w
    let vp (i : Instr) (k : EngKind) (fwd : Bool) : Prop := Commands i [] 9 (12 + h) w (fun _ => k)
      (fun s => { noTests with opnd := vpOpnd s fwd (sh s), align := layoutAlign [layoutAt (sh s) 0, layoutAt (sh s) 4]
                               hold := fullHold (curCore s) 9 }) sh (fun _ => []) (fun _ => [])
    let eq (i : Instr) (k : EngKind) : Prop := Commands i [] 10 (12 + h) w (fun _ => k)
      (fun s => { noTests with
        opnd := engIllegal (bits ((sh s).getD 12 0) 40 24 != 0 || (sh s).getD 13 0 != 0 || (sh s).getD 14 0 != 0 || (sh s).getD 15 0 != 0 ||
          (eqLayouts k (sh s)).any fun l => l.bad || l.ew != 3 || l.sp == 2)
        align := layoutAlign (eqLayouts k (sh s)), hold := fullHold (curCore s) 10 }) sh (fun _ => []) (fun _ => [])
    vp (.vpFwd h w) .vpFwd true ∧ vp (.vpBwd h w) .vpBwd false ∧ eq (.eqUnite h w f) (.eqUnite f) ∧ eq (.eqFind h w f) (.eqFind f) ∧
      eq (.eqRelab h w o f) (.eqRelab f o))

/-- R319 to R321, R330: fs.send and rwin.add with a shape register whose tests pass queue one operation on their context's timeline, with
the target mapping taken at issue; fs.post names its barrier too. -/
def Obligations.FabricCommands : Prop :=
  ∀ (h c : Fin 4) (b : Fin 64) (w : Bool) (s : State),
    let x := curCore s
    let sh := captureOf x (8 + h) w
    let rings := ringsNamed (sh.getD 13 0)
    let src := layoutAt sh 0
    rising x.active → rising x.shadow → (mget [] x.engs (5 + c.val)).length < 16 → layoutAlign [src, layoutAt sh 4] = none →
    ((curCtx s).service = false → sh.getD 12 0 &&& 0x800000000 ≠ 0 → pendingAt x (.k (hfCapk sh)) = false) →
    (sendIllegal s sh = false → sendFail s sh = none →
      (CanIssue x [] [] [] [] 0 →
        ∃ d, Swapped x d (8 + h) w ∧ Leaves (.fsSend h c w) s (commanded d [] (5 + c) (command s (5 + c) .fsSend (mapped h w s) [] rings))) ∧
      (CanIssue x [b] [] [] [] 0 → (readG x b).toNat / 2 ^ 30 = 0 → (readG x b).toNat / 2 ^ 10 % 2 = 0 →
        (readG x b).toNat / 2 ^ 20 % 1024 ∈ (curCtx s).members →
        (∀ p ∈ rowEnds (layoutAt sh 4) (hfTh sh) (hfTw sh), ownerOf ((sendMap s sh).target p.1) = (readG x b).toNat / 2 ^ 20 % 1024 ∧
          ownerOf ((sendMap s sh).target p.2) = (readG x b).toNat / 2 ^ 20 % 1024) →
        ∃ d, Swapped x d (8 + h) w ∧
          Leaves (.fsPost h c b w) s (commanded d [b] (5 + c) (command s (5 + c) (.fsPost (readG x b)) (mapped h w s) [] rings)))) ∧
    (CanIssue x [] [] [] [] 0 → hfReserved sh = false → src.bad = false → (hfTw sh * hfTh sh * src.eb) % 256 = 0 →
      (src.sp = 0 → ownerOf src.base = s.port.rank) → bits (sh.getD 13 0) 16 16 = 0xFF → ringOk x (sh.getD 13 0) [src] [] = true →
      (windowOf s (hfWin sh) = none → src.ew = 2 ∨ src.ew = 3) →
      (∀ i y, windowOf s (hfWin sh) = some (i, y) → hfFirst sh + hfTw sh * hfTh sh * src.eb / 256 ≤ y.desc.toNat % 2 ^ 11 ∧
        src.ew = if y.desc.toNat / 2 ^ 30 % 4 = 0 then 2 else 3) →
      ∃ d, Swapped x d (8 + h) w ∧ Leaves (.rwinAdd w h c) s (commanded d [] (5 + c) (command s (5 + c) .rwinAdd (mapped h w s) [] rings)))

/-- R242, R243, R270, R378, R379, R384, R388, R390, R331: the engine commands without a shape register queue one operation; a queue of 16
holds the command. -/
def Sys2Proof.Stmt.PlainEngineCommands : Prop :=
  (∀ (a b : Fin 64) (i : Bool) (v : Fin 32),
    let g (s : State) (r : Fin 64) : Nat := (readG (curCore s) r).toNat
    let unparked (s : State) (ts : List Nat) : Prop := ∀ t ∈ ts, (curCore s).csr.parkcfg.getLsbD t = false
    Plain (.mxAcc a b i) [a, b] 4 (fun s => g s a / 256 = 0 ∧ unparked s [g s a % 16, g s a / 16 % 16])
      (fun s => .mxAcc (g s a % 16) (g s a / 16 % 16) (BitVec.ofNat 32 (g s b)) i) ∧
    Plain (.mxHad a i) [a] 4 (fun s => g s a / 16 = 0 ∧ g s a % 2 = 0 ∧ unparked s [g s a, g s a + 1]) (fun s => .mxHad (g s a) i) ∧
    Plain (.mxZero a) [a] 4 (fun s => g s a / 65536 = 0 ∧ ∀ t < 16, (g s a).testBit t = true → (curCore s).csr.parkcfg.getLsbD t = false)
      (fun s => .mxZero (g s a)) ∧
    Plain (.mxRd v a) [a] 4 (fun s => g s a / 256 = 0 ∧ unparked s [g s a % 16])
      (fun s => .mxRd (destV (curCore s) v) (g s a % 16) (g s a / 16)) ∧
    Plain (.vpMerge a b) [a, b] 9 (fun s => g s a % 64 = 0 ∧ g s b % 64 = 0 ∧ g s a ≠ g s b) (fun s => .vpMerge (g s a) (g s b)) ∧
    Plain (.vpRd v a i) [a] 9 (fun s => g s a % 64 = 0) (fun s => .vpRd (destV (curCore s) v) (g s a) i)) ∧
  (∀ (a b : Fin 64) (f : Fin 4) (x : Bool),
    Plain (.eqUniteNew a f) [a] 10 (fun _ => True) (fun s => .eqNew f (readG (curCore s) a)) ∧
    Plain (.eqSnap f) [] 10 (fun _ => True) (fun _ => .eqSnap f) ∧ Plain (.eqUndo f) [] 10 (fun _ => True) (fun _ => .eqUndo f) ∧
    Plain (.eqCommit x f) [] 10 (fun _ => True) (fun _ => .eqCommit f x) ∧
    PlainTo (.eqSize a b f) [a] [b] 10 (fun _ => True) (fun s => .eqSize f (destG (curCore s) b) (readG (curCore s) a))) ∧
  (∀ (a b : Fin 64),
    let named (s : State) (st : Nat → Prop) : Prop := ∃ i x, windowOf s (readG (curCore s) a) = some (i, x) ∧ st x.status
    Plain (.rwinPread a b) [a, b] 11
      (fun s => let w := readG (curCore s) b
        named s (· = 2) ∧ w.toNat % 256 = 0 ∧ w.toNat / 2 ^ 57 = 0 ∧ w.toNat / 2 ^ 47 = s.port.rank ∧ s.port.rank ∈ (curCtx s).members)
      (fun s => .rwinPread ((readG (curCore s) a).toNat % 16) (readG (curCore s) b)) ∧
    Plain (.rwinAbort a) [a] 11 (fun s => named s fun x => x = 0 ∨ x = 2) (fun s => .rwinAbort ((readG (curCore s) a).toNat % 16))) ∧
  (∀ (s : State) (a : Fin 64), CanIssue (curCore s) [a] [] [] [] 0 → (curCore s).phase = .alone → 16 ≤ (mget [] (curCore s).engs 4).length →
    (readG (curCore s) a).toNat = 0 →
    Leaves (.mxZero a) s { curCore s with held := (curCore s).held + 1, hold := some { sub := 4, obj := 0x100, tl := 4, slot := 6 } })

/-- R243 and the engine chapters: the commands that go to the engines' queues. -/
def Obligations.EngineCommands : Prop := Stmt.ShapedEngineCommands ∧ Stmt.PlainEngineCommands

/-- R249, R253, R261, R270: the table instructions set one entry, and no other, or return one entry interlocked; a table index out of
range is an illegal operand. -/
def Obligations.TableInstructions : Prop :=
  ∀ (s : State) (a b : Fin 64),
    let c := curCore s
    let i := (readG c a).toNat
    let v := pairOf c b
    (CanIssue c [a.val, b.val, b.val + 1] [] [] [] 0 → rising c.loopTab → i < 64 → v / 2 ^ 112 = 0 → v % 2 ^ 32 = 0 →
      ∃ m, Leaves (.cpTabwL a b) s { c with loopTab := m, pops := popped c [a.val, b.val, b.val + 1] } ∧
        ∀ j, (mget 0 m j : BitVec 128) = if j = i then BitVec.ofNat 128 v else mget 0 c.loopTab j) ∧
    (CanIssue c [a.val, b.val, b.val + 1] [] [] [] 0 → rising c.mxTab → i < 16 → v / 2 ^ 112 = 0 → v / 2 ^ 34 % 4 = 0 → v / 2 ^ 32 % 2 = 0 →
      ∃ m, Leaves (.mxCfg a b) s { c with mxTab := m, pops := popped c [a.val, b.val, b.val + 1] } ∧
        ∀ j, (mget 0 m j : BitVec 128) = if j = i then BitVec.ofNat 128 v else mget 0 c.mxTab j) ∧
    (CanIssue c [a, b] [] [] [] 0 → rising c.fmtTab → i < 16 →
      ∃ m, Leaves (.mxFmt a b) s { c with fmtTab := m, pops := popped c [a, b] } ∧
        ∀ j, (mget 0x00404000 m j : BitVec 32) = if j = i then BitVec.ofNat 32 (readG c b).toNat else mget 0x00404000 c.fmtTab j) ∧
    (CanIssue c [a, b] [] [] [] 0 → rising c.ringTab → i < 32 → ringSourceBad c i (readG c b) = false →
      ∃ m, Leaves (.cpTabwR a b) s { c with ringTab := m, pops := popped c [a, b] } ∧
        ∀ j, (mget 0 m j : Word) = if j = i then readG c b else mget 0 c.ringTab j) ∧
    (CanIssue c [a] [b] [] [] 0 → i < 64 → ∀ h : Bool,
      Leaves (.cpTabrL a b h) s (answered c [a] (destG c b)
        (.s (BitVec.ofNat 64 ((mget 0 c.loopTab i : BitVec 128).toNat / (if h then 2 ^ 64 else 1)))))) ∧
    (CanIssue c [a] [b] [] [] 0 → i < 32 → Leaves (.cpTabrR a b) s (answered c [a] (destG c b) (.s (mget 0 c.ringTab i)))) ∧
    (CanIssue c [a, b] [] [] [] 0 → c.phase = .alone → 16 ≤ i →
      exec (.mxFmt a b) s = .next (takeTrap s s.cur (Cause.precise 0x01 2 6)))

namespace Sys2Proof.Stmt

/-- An access of an operation at this die, with nothing holding it, is performed and leaves `u` with the bytes `d`, none of them poisoned
(R245). -/
def Gives (s : State) (k t : Nat) (o : EngOp) (sp : Bool) (a : Word) (op : MemOp) (u : State) (d : List Byte) : Prop :=
  (sp = true ∨ (a.toNat / 2 ^ 57 = 0 ∧ a.toNat / 2 ^ 47 % 1024 = s.port.rank ∧ s.port.rank ∈ (ctxAt s (keyCtx k)).members)) ∧
  accessHeld s none k sp a op = false ∧
  ∃ v g, performMem s k (engWho s k t o) sp a op = .ok (v, g) ∧ g.poison = false ∧ g.bytes = d ∧ u = performedAt v k a op

/-- The same for a byte address of a layout, which may lie in a basket set (R251). -/
def Reaches (s : State) (k t : Nat) (o : EngOp) (bs : List Nat) (l : Layout) (a : Word) (op : MemOp) (u : State) (d : List Byte) : Prop :=
  ∃ sp x, layoutPlace (coreAt s k) bs l a = some (sp, x) ∧ Gives s k t o sp x op u d

/-- Element (y, x) of a layout reads as `v`, with the state `u` after the read: outside the view it is the fill constant (R248). -/
def Reads (s : State) (k t : Nat) (o : EngOp) (bs : List Nat) (l : Layout) (y x : Int) (u : State) (v : Nat) : Prop :=
  if l.inside y x = true then
    ∃ d, Reaches s k t o bs l (l.addr y x) (.load l.eb false) u d ∧
      v = if l.ew = 0 then (if x % 2 = 0 then leNat d % 16 else leNat d / 16) else leNat d
  else u = s ∧ v = l.fillElem

/-- Element (y, x) of a layout is written with `v`, with the state `u` after the write: outside the view nothing is written, and of a byte
that holds two elements the other stays (R248). -/
def Writes (s : State) (k t : Nat) (o : EngOp) (bs : List Nat) (l : Layout) (y x : Int) (v : Nat) (u : State) : Prop :=
  if l.inside y x = true then
    if l.ew = 0 then
      ∃ m d e, Reaches s k t o bs l (l.addr y x) (.load 1 false) m d ∧
        Reaches m k t o bs l (l.addr y x)
          (.store (leBytes 1 (if x % 2 = 0 then leNat d / 16 * 16 + v % 16 else leNat d % 16 + v % 16 * 16)) false) u e
    else ∃ e, Reaches s k t o bs l (l.addr y x) (.store (leBytes l.eb v) false) u e
  else u = s

/-- Element (y, x) of a layout is added to at the memory side (R257). -/
def AddsTo (s : State) (k t : Nat) (o : EngOp) (bs : List Nat) (l : Layout) (y x : Int) (flt : Bool) (v : Nat) (u : State) : Prop :=
  if l.inside y x = true then
    ∃ e, Reaches s k t o bs l (l.addr y x) (.mop .add (if flt then .flt else .nat) 4 (BitVec.ofNat 64 v) 0) u e
  else u = s

/-- A step has gone through: it leaves `u` and carries `aux`. -/
def Steps (p : Run × List Word) (u : State) (aux : List Word) : Prop := p.1.s = u ∧ p.1.stop = none ∧ p.2 = aux

/-- The present step of a copy (R254, R256): its row, its column, and an element counted from a layout's origin by the loops' steps. -/
def copyRow (o : EngOp) : Nat := o.pos / cpRowSteps o.kind (o.shape.getD 12 0)
def copyCol (o : EngOp) : Nat := o.pos % cpRowSteps o.kind (o.shape.getD 12 0)
def copyAt (o : EngOp) (origin : Int) (step : CopyLoop → Int) (i : Int) : Int :=
  let ls := o.loops.map copyLoop
  origin + stepSum (digits (ls.map CopyLoop.cnt) (copyRow o / cpTh (o.shape.getD 12 0))) ls step + i

/-- The element that CONV gives (R255). -/
def converted (o : EngOp) (v : Nat) : Nat :=
  convCopy (cpConv (o.shape.getD 12 0)) o.fp8sat (bits (o.shape.getD 14 0) 0 32) v

/-- An operation of t4 stands first, may fire, and has nothing before it (R170, R251, R381). -/
structure Fires (s : State) (k : Nat) (o : EngOp) : Prop where
  resident : (ctxAt s (keyCtx k)).resident = true
  given : o.given = true
  due : o.from_ ≤ s.time
  queue : mget [] (coreAt s k).engs 4 = [o]
  array : mget [] (coreAt s k).engs 9 = []
  fresh : o.ended = false ∧ o.await = 0 ∧ o.fired = false ∧ o.pos = 0 ∧ o.inB = [] ∧ o.outB = [] ∧ o.log = []
  tiles : rising (coreAt s k).tiles

/-- It has run to its end: of the state only its core's record has changed, and of that record tiles, queues, MXST and the notes of residue
checks. -/
def RunsOut (s t : State) (k : Nat) (o : EngOp) : Prop :=
  t = { s with cores := t.cores } ∧ (∀ j, j ≠ k → coreAt t j = coreAt s j) ∧
  (∃ o', mget [] (coreAt t k).engs 4 = [o'] ∧ o'.ended = true ∧ o'.n = o.n) ∧
  coreAt t k = { coreAt s k with
    tiles := (coreAt t k).tiles, engs := (coreAt t k).engs, residue := (coreAt t k).residue, faulty := (coreAt t k).faulty
    csr := { (coreAt s k).csr with mxst := (coreAt t k).csr.mxst } }

/-- Word i of the tiles. -/
def tileWord (c : Core) (i : Nat) : Nat := (mget 0 c.tiles i : BitVec 32).toNat

/-- The rotated value of element j of a row (R268), from the row's 64 fp32 patterns. -/
def rotated (i32 : Bool) (row : List Nat) (j : Nat) : Nat :=
  match blockSum .bx8 .bx8 (bx8Block row).1 (hadBlock j) with
  | some sm => (hadBack i32 (accumulate false 0 ((bx8Block row).1.isNan .bx8) sm (((bx8Block row).1.scale : Int) - 127 + (118 - 127)))).x
  | none => (hadBack i32 (.plain 0)).x

end Sys2Proof.Stmt

/-- R170, R217, R251, R270: the cycle after the task's earlier accesses are performed an operation may start. From then
on the next operation of a matrix queue fires when the array is free: a mx.zero leaves the named tiles zero and every other tile, and every byte of memory, as it was; a mx.acc adds one tile, scaled, to
another; a mx.had rotates the rows of a pair of tiles. An operation that has ended completes in the cycle after: it leaves its queue, the timeline reaches its number, and a mx.rd writes the rows it names. -/
def Sys2Proof.Stmt.EngineOperationsRun : Prop :=
  (∀ (s : State) (k t : Nat) (o : EngOp), mget [] (coreAt s k).engs t = [o] → o.given = false → o.ended = false → o.await = 0 →
    o.fired = false → (coreAt s k).accs = [] → (coreAt s k).snap = none →
    ∃ u, exec (.engineOpFire k t) s = .next u ∧ u = { s with cores := u.cores } ∧
      mget [] (coreAt u k).engs t = [{ o with given := true, from_ := s.time + 1 }] ∧
      coreAt u k = { coreAt s k with engs := (coreAt u k).engs }) ∧
  (∀ (s : State) (k : Nat) (o : EngOp) (m : Nat), Fires s k o → o.kind = .mxZero m →
    ∃ t, exec (.engineOpFire k 4) s = .next t ∧ RunsOut s t k o ∧ (coreAt t k).csr = (coreAt s k).csr ∧
      ∀ i, tileWord (coreAt t k) i = if i / 1024 < 16 ∧ m.testBit (i / 1024) = true then 0 else tileWord (coreAt s k) i) ∧
  (∀ (s : State) (k : Nat) (o : EngOp) (d q : Nat) (g : BitVec 32) (i32 : Bool), Fires s k o → o.kind = .mxAcc d q g i32 →
    ∃ t, exec (.engineOpFire k 4) s = .next t ∧ RunsOut s t k o ∧
      (∀ i < 1024, tileWord (coreAt t k) (d * 1024 + i) =
        (accElem i32 g.toNat (tileWord (coreAt s k) (d * 1024 + i)) (tileWord (coreAt s k) (q * 1024 + i))).x % 2 ^ 32) ∧
      ∀ i, i / 1024 ≠ d → tileWord (coreAt t k) i = tileWord (coreAt s k) i) ∧
  (∀ (s : State) (k : Nat) (o : EngOp) (x : Nat) (i32 : Bool), Fires s k o → o.kind = .mxHad x i32 → (coreAt s k).faulty = none →
    ∃ t, exec (.engineOpFire k 4) s = .next t ∧ RunsOut s t k o ∧
      (∀ r < 32, ∀ j < 64, tileWord (coreAt t k) ((x + j / 32) * 1024 + r * 32 + j % 32) =
        rotated i32 ((List.range 64).map fun c => tileF32 i32 (tileWord (coreAt s k) ((x + c / 32) * 1024 + r * 32 + c % 32))) j % 2 ^ 32) ∧
      ∀ i, i / 1024 ≠ x → i / 1024 ≠ x + 1 → tileWord (coreAt t k) i = tileWord (coreAt s k) i) ∧
  (∀ (s : State) (k t : Nat) (o : EngOp), (ctxAt s (keyCtx k)).resident = true → mget [] (coreAt s k).engs t = [o] →
    o.ended = true → o.slots = 0 → o.kind ≠ .rwinAdd → o.ripe = 0 →
    ∃ u, exec (.engineOpComplete k t o.n) s = .next u ∧ u = { s with cores := u.cores } ∧
      mget [] (coreAt u k).engs t = [{ o with ripe := s.time + 1 }] ∧ coreAt u k = { coreAt s k with engs := (coreAt u k).engs }) ∧
  (∀ (s : State) (k t : Nat) (o : EngOp), (ctxAt s (keyCtx k)).resident = true → mget [] (coreAt s k).engs t = [o] →
    o.ended = true → o.slots = 0 → o.kind ≠ .rwinAdd → o.ripe ≠ 0 → o.ripe ≤ s.time →
    o.inB = [] → o.outB = [] → mget 0 (coreAt s k).tlOps t < 2 ^ 64 →
    (mget 0 (coreAt s k).tl t : Word).toNat ≤ mget 0 (coreAt s k).tlOps t →
    ∃ u, exec (.engineOpComplete k t o.n) s = .next u ∧ u = { s with cores := u.cores } ∧ mget [] (coreAt u k).engs t = [] ∧
      (mget 0 (coreAt u k).tl t : Word).toNat = mget 0 (coreAt s k).tlOps t ∧ (∀ j, j ≠ t → (mget 0 (coreAt u k).tl j : Word) = mget 0 (coreAt s k).tl j) ∧
      (∀ d x p, o.kind = .mxRd d x p → o.dead = false → present (coreAt s k) o.order = true →
        ∃ y, (coreAt u k).v = (writeDest (coreAt s k) d (.v y)).v ∧
          ∀ i < 64, elem 32 y i = (mget 0 (coreAt s k).tiles (x * 1024 + (2 * p + i / 32) * 32 + i % 32) : BitVec 32).toNat) ∧
      ((∀ d x p, o.kind ≠ .mxRd d x p) → (∀ d a i, o.kind ≠ .vpRd d a i) → (∀ f d a, o.kind ≠ .eqSize f d a) →
        (coreAt u k).g = (coreAt s k).g ∧ (coreAt u k).v = (coreAt s k).v))

/-- R248, R253 to R259: each step of a copy: cp.go and the rows of cp.gath and cp.scat move one element, converted by CONV, from the source to
the destination, a block of 64 where CONV asks for one; a fill writes the fill constant; an index out of range is counted and its row
filled or left out; a scatter with .add adds at the memory side; cp.chk folds each element into a CRC-32C and stores the result. -/
def Sys2Proof.Stmt.CopySteps : Prop :=
  ∀ (s u w : State) (k t v : Nat) (o : EngOp), o.log = [] →
    let f := o.shape.getD 12 0
    let src := layoutAt o.shape 0
    let dst := layoutAt o.shape 4
    let ixl := layoutAt o.shape 8
    let i : Int := (copyRow o % cpTh f : Nat)
    let plain : Prop := cpConv f ≠ 7 ∧ cpConv f ≠ 8
    let p := cpStep k t o (Run.start s o)
    let from_ (j : Nat) : State → Nat → Prop := Reads s k t o o.inB src (copyAt o src.row0 CopyLoop.sdr i) (copyAt o src.col0 CopyLoop.sdc j)
    let into (s : State) (j : Nat) : Nat → State → Prop :=
      Writes s k t o o.outB dst (copyAt o dst.row0 CopyLoop.ddr i) (copyAt o dst.col0 CopyLoop.ddc j)
    let col := copyCol o
    let row : Nat := (o.aux.getD 0 0).toNat
    let index (limit : Nat) : Prop := col = 0 → Reads s k t o o.inB ixl (ixl.row0 + (copyRow o : Nat)) ixl.col0 u v →
      if ixl.inside (ixl.row0 + (copyRow o : Nat)) ixl.col0 = true ∧ v < limit then Steps p u [BitVec.ofNat 64 v, 0]
      else Steps p (countOob u k t) [BitVec.ofNat 64 v, 1]
    (o.kind = .cpGo → plain → from_ col u v → into u col (converted o v) w → Steps p w o.aux) ∧
    (o.kind = .cpGo → ¬plain → ∀ r xs, readSpan k t o o.inB src (copyAt o src.row0 CopyLoop.sdr i) (copyAt o src.col0 CopyLoop.sdc (64 * col : Nat))
        false 64 (Run.start s o) = (r, xs) →
      let b := if cpConv f = 7 then (bx8Block xs).1 else importBlock xs
      let y := copyAt o dst.row0 CopyLoop.ddr i
      let x := copyAt o dst.col0 CopyLoop.ddc (64 * col : Nat)
      p = (writeScale (writeSpan k t o o.outB dst y x (b.mant.map fun q => (q % 65536).toNat % 2 ^ (8 * dst.eb)) r) k t o o.outB dst y x b.scale,
        o.aux)) ∧
    (o.kind = .cpFill → into s col dst.fillElem w → Steps p w o.aux) ∧
    (o.kind = .cpGath → index src.vh ∧
      (plain → col ≠ 0 → o.aux.getD 1 0 = 0 → Reads s k t o o.inB src row (copyAt o src.col0 CopyLoop.sdc (col - 1 : Nat)) u v →
        into u (col - 1) (converted o v) w → Steps p w o.aux) ∧
      (plain → col ≠ 0 → o.aux.getD 1 0 = 1 → into s (col - 1) (converted o src.fillElem) w → Steps p w o.aux)) ∧
    (∀ add, o.kind = .cpScat add → index dst.vh ∧
      (col ≠ 0 → o.aux.getD 1 0 = 1 → Steps p s o.aux) ∧
      (add = false → plain → col ≠ 0 → o.aux.getD 1 0 = 0 → from_ (col - 1) u v →
        Writes u k t o o.outB dst row (copyAt o dst.col0 CopyLoop.ddc (col - 1 : Nat)) (converted o v) w → Steps p w o.aux) ∧
      (add = true → col ≠ 0 → o.aux.getD 1 0 = 0 → from_ (col - 1) u v →
        AddsTo u k t o o.outB dst row (copyAt o dst.col0 CopyLoop.ddc (col - 1 : Nat)) (cpAty f) v w → Steps p w o.aux)) ∧
    (∀ cmp, o.kind = .cpChk cmp →
      let crc : Nat := match o.aux with | x :: _ => x.toNat | [] => 0xFFFFFFFF
      (o.pos + 1 ≠ cpSteps o → from_ col u v → Steps p u [BitVec.ofNat 64 ((leBytes src.eb v).foldl crcByte crc)]) ∧
      (o.pos + 1 = cpSteps o →
        let c := crc ^^^ 0xFFFFFFFF
        ∀ d, Reaches s k t o o.outB dst dst.base (.store (leBytes 8 (c + if cmp then 2 ^ 33 + (if c ≠ bits (o.shape.getD 14 0) 0 32 then 2 ^ 32 else 0) else 0)) false) w d →
        Steps p w o.aux))

/-- R262 to R267: the steps of mx.go, mx.wload and mx.drain: a tile start clears, keeps or fades the unit's tiles; a K step adds to every
element of the unit the sum of its block pair, and to nothing else; a block of weights lands in the weight buffer at its place; an element
of a tile is drained, converted, to its destination. -/
def Sys2Proof.Stmt.MatrixSteps : Prop :=
  (∀ (c : Core) (sh : List Word) (e : BitVec 32) (t : Nat) (wide : Bool), t < 16 → rising c.tiles →
    let us := unitTiles t wide
    (∀ i, tileWord (tileStart c sh e us) i =
      if i / 1024 ∈ us then
        (if mxAccm sh = 1 then tileWord c i else if mxAccm sh = 2 then (fadeElem (ftI32 e) (mxGam sh) (tileWord c i)).x % 2 ^ 32 else 0)
      else tileWord c i) ∧
    (∀ (as : List Block) (kb bn : Int), as.length = 32 → ∀ h r x, h < us.length → r < 32 → x < 32 →
      let b := imageBlock c sh (OpFmt.ofCode (ftFb e)) kb (bn + (32 * h + x : Nat))
      let i := us.getD h 0 * 1024 + r * 32 + x
      tileWord (kStep c sh e us as kb bn) i = (addPair (ftI32 e) (OpFmt.ofCode (ftFa e)) (OpFmt.ofCode (ftFb e))
        (as.getD r { scale := 0, mant := [] }) b (tileWord c i)).x % 2 ^ 32) ∧
    (∀ (as : List Block) (kb bn : Int) (i : Nat), i / 1024 ∉ us → tileWord (kStep c sh e us as kb bn) i = tileWord c i)) ∧
  (∀ (s : State) (k : Nat) (o : EngOp) (g : Bool), o.kind = .mxGo g → o.log = [] →
    let ls := o.loops.map mxLoop
    let li := ls.filter MxLoop.k
    let no := digits ((ls.filter fun l => !l.k).map MxLoop.cnt) (o.pos / groupSteps o)
    let p := o.pos % groupSteps o
    let e := o.fmt.getD (if mxFlv o.shape = 7 then 0 else no.getD (mxFlv o.shape) 0 % 16) 0
    let us := unitTiles ((mxT0 o.shape + (List.zipWith (fun n (l : MxLoop) => n * l.ts) no (ls.filter fun l => !l.k)).foldl (· + ·) 0) % 16) (ftWide e)
    (p = 0 → Steps (mxStep k o (Run.start s o)) (onCore s k fun c => tileStart c o.shape e us) o.aux) ∧
    (1 ≤ p → p ≤ trips li * mxKpb o.shape → ∀ r as,
      let ns := no ++ digits (li.map MxLoop.cnt) ((p - 1) / mxKpb o.shape)
      let b := (p - 1) % mxKpb o.shape
      readRows k 4 o (layoutAt o.shape 0) (OpFmt.ofCode (ftFa e)) ((layoutAt o.shape 0).row0 + stepSum ns ls MxLoop.ar)
        ((layoutAt o.shape 0).col0 + stepSum ns ls MxLoop.ac + (64 * b : Nat)) 32 (Run.start s o) = (r, as) →
      r.stop = none → (coreAt r.s k).faulty = none →
      ∃ q, Steps (mxStep k o (Run.start s o)) q o.aux ∧ q = { r.s with cores := q.cores } ∧
        ∀ i, tileWord (coreAt q k) i =
          tileWord (kStep (coreAt r.s k) o.shape e us as (stepSum ns ls MxLoop.bk + (b : Int)) (stepSum ns ls MxLoop.bn)) i)) ∧
  (∀ (s : State) (k : Nat) (o : EngOp) (r : Run) (b : Block), o.kind = .mxWload → o.log = [] → mxSpr o.shape = false →
    let f := OpFmt.ofCode (mxWf o.shape)
    let kb := o.pos % mxKblk o.shape
    let i := o.pos / mxKblk o.shape * mxKblk o.shape + kb
    readBlock k 4 o (layoutAt o.shape 8) f true ((layoutAt o.shape 8).row0 + (64 * kb : Nat)) ((layoutAt o.shape 8).col0 + (o.pos / mxKblk o.shape : Nat))
      (Run.start s o) = (r, b) → r.stop = none →
    ∃ u, Steps (mxStep k o (Run.start s o)) u o.aux ∧ u = { r.s with cores := u.cores } ∧
      coreAt u k = { coreAt r.s k with wbuf := (coreAt u k).wbuf } ∧
      ∀ (d : Byte) (a : Nat), mget d (coreAt u k).wbuf a =
        let at_ := mxWbase o.shape + i * f.bytes
        let sc := mxWbase o.shape + mxNcol o.shape * mxKblk o.shape * f.bytes + i
        if a = sc then BitVec.ofNat 8 b.scale
        else if at_ ≤ a ∧ a < at_ + (packMant f b.mant).length then BitVec.ofNat 8 ((packMant f b.mant).getD (a - at_) 0)
        else mget d (coreAt r.s k).wbuf a) ∧
  (∀ (s u : State) (k x e : Nat) (o : EngOp), o.kind = .mxDrain x e → o.log = [] → 32 ≤ o.pos → o.pos + 1 < 2080 →
    let f := o.fmt.getD e 0
    let d := layoutAt o.shape 4
    let row := (o.pos - 32) / 64
    let col := (o.pos - 32) % 64
    let q := drainElem (ftI32 f) o.fp8sat (mxDs o.shape) (ftDrf f) (tileWord (coreAt s k) ((x + col / 32) * 1024 + row * 32 + col % 32))
    (ftDrf f ≠ 0 → ftWide f = true ∨ col < 32 →
      (if mxDmode o.shape = true then AddsTo s k 4 o o.outB d (d.row0 + (row : Int)) (d.col0 + (col : Int)) (ftDrf f == 4) q.1 u
        else Writes s k 4 o o.outB d (d.row0 + (row : Int)) (d.col0 + (col : Int)) q.1 u) →
      Steps (mxStep k o (Run.start s o)) u (if q.2 = true ∨ o.aux ≠ [] then [1] else [])))

/-- R376 to R380: vp.merge stores the merge of two records in the first; a step of vp.fwd starts a row with its labels, adds a block to a
tile's logits, updates the row's state with a tile, or stores the row's record; a step of vp.bwd adds to or stores one element. -/
def Sys2Proof.Stmt.ProjectionSteps : Prop :=
  ∀ (s u : State) (k : Nat) (o : EngOp) (d : List Byte), o.log = [] →
    let p := vpStep k o (Run.start s o)
    let sh := o.shape
    (∀ a b r q x y, o.kind = .vpMerge a b → readRecord (Run.start s o) k o a = (r, x) → readRecord r k o b = (q, y) → q.stop = none →
      Gives q.s k 9 o true (BitVec.ofNat 64 a) (.store (projBytes (mergeRecords x y)) false) u d → q.todo = [] → Steps p u o.aux) ∧
    (o.kind = .vpFwd →
      let n := fwdRowSteps sh
      let row := o.pos / n
      let j := o.pos % n - 1
      let tile := j / (vpKblk sh + 1)
      let x := FwdState.of o.aux
      (o.pos % n + 1 = n → vpK sh ≤ 64 →
        Gives s k 9 o true (BitVec.ofNat 64 (vpRbase sh + row * recBytes (vpK sh))) (.store (projBytes (rowRecord sh row x)) false) u d →
        Steps p u []) ∧
      (1 ≤ o.pos % n → o.pos % n + 1 ≠ n → j % (vpKblk sh + 1) = vpKblk sh → Steps p s (fwdUpdate sh tile x).words) ∧
      (1 ≤ o.pos % n → o.pos % n + 1 ≠ n → j % (vpKblk sh + 1) < vpKblk sh →
        p = ((fwdBlock k o row tile (j % (vpKblk sh + 1)) x (Run.start s o)).1, (fwdBlock k o row tile (j % (vpKblk sh + 1)) x (Run.start s o)).2.words)) ∧
      (o.pos % n = 0 → row ≠ 0 → p = ((fwdBegin k o row (Run.start s o)).1, (fwdBegin k o row (Run.start s o)).2.words))) ∧
    (o.kind = .vpBwd → o.pos % bwdTileSteps sh ≠ 0 →
      let i := o.pos % bwdTileSteps sh - 1
      let hid := 64 * vpKblk sh
      let v := o.aux.getD i 0
      let z := i - vpRows sh * hid
      (i < vpRows sh * hid →
        Gives s k 9 o (vpHsp sh) (sh.getD 12 0 + BitVec.ofNat 64 (i / hid * vpHpitch sh + 4 * (i % hid))) (.mop .add .flt 4 v 0) u d →
        Steps p u o.aux) ∧
      (vpRows sh * hid ≤ i → z % 32 < tileCols sh (o.pos / bwdTileSteps sh) →
        Gives s k 9 o (vpGsp sh) (sh.getD 14 0 + BitVec.ofNat 64 (z / 32 * vpGpitch sh + 4 * (32 * (o.pos / bwdTileSteps sh) + z % 32)))
          (if vpDmode sh = true then .mop .add .flt 4 v 0 else .store (leBytes 4 v.toNat) false) u d →
        Steps p u o.aux) ∧
      (vpRows sh * hid ≤ i → tileCols sh (o.pos / bwdTileSteps sh) ≤ z % 32 → Steps p s o.aux))

/-- R384 to R391: a step of the equivalence engine on a forest of the context: a unite, a find and a size go through the forest and leave it as
the item does; an index out of range is counted and changes no forest; a snapshot opens the log and a commit closes it or frees the slot;
an undo restores what the log holds and closes it. A snapshot that is open, or none, and a forest that the context does not own give ERR. -/
def Sys2Proof.Stmt.EquivalenceSteps : Prop :=
  ∀ (s : State) (k fs : Nat) (o : EngOp) (f : Forest), o.log = [] → o.aux ≠ eqEnd →
    let p := eqStep k o (Run.start s o)
    let r0 := Run.start s o
    (mget none s.forests fs = some f → f.owner = keyCtx k →
      (o.kind = .eqUnite fs → ∀ r q a b oa ob, eqIndex r0 k o (layoutAt o.shape 0) f.n o.pos 0 = (r, a, oa) →
        eqIndex r k o (layoutAt o.shape 0) f.n o.pos 1 = (q, b, ob) → q.stop = none →
        (oa = true ∨ ob = true → Steps p (eqOob q.s k) []) ∧
        (oa = false → ob = false → eqInside q.s k o = false → ∀ e, eqUniteItem { s := q.s, f := f, k := k, todo := q.todo, log := q.log } a b = .ok e →
          Steps p (setForest e.s fs (some e.f)) [])) ∧
      (o.kind = .eqFind fs → o.pos % 2 = 0 → ∀ r a oa, eqIndex r0 k o (layoutAt o.shape 0) f.n (o.pos / 2) 0 = (r, a, oa) → r.stop = none →
        (oa = true → Steps p (eqOob r.s k) [0xFFFFFFFF]) ∧
        (oa = false → eqInside r.s k o = false → ∀ e x, eqFindItem { s := r.s, f := f, k := k, todo := r.todo, log := r.log } a = .ok (e, x) →
          Steps p (setForest e.s fs (some e.f)) [BitVec.ofNat 64 x])) ∧
      (o.kind = .eqFind fs → o.pos % 2 = 1 → ∀ u, Writes s k 10 o [] (layoutAt o.shape 4) ((layoutAt o.shape 4).row0 + (o.pos / 2 : Nat))
        (layoutAt o.shape 4).col0 (o.aux.headD 0).toNat u → Steps p u []) ∧
      (∀ op, o.kind = .eqRelab fs op → o.pos < eqCnt o.shape → ∀ r a oa, eqIndex r0 k o (layoutAt o.shape 8) f.n o.pos 0 = (r, a, oa) →
        r.stop = none →
        (oa = true → Steps p (eqOob r.s k) (o.aux ++ [0, 0])) ∧
        (oa = false → eqInside r.s k o = false → ∀ e x, eqFindItem { s := r.s, f := f, k := k, todo := r.todo, log := r.log } a = .ok (e, x) →
          Steps p (setForest e.s fs (some e.f)) (o.aux ++ [BitVec.ofNat 64 (x + 1), BitVec.ofNat 64 a]))) ∧
      (∀ op, o.kind = .eqRelab fs op → eqCnt o.shape ≤ o.pos →
        let rows := relabRows o.aux
        let q := o.pos - eqCnt o.shape
        ∀ root, ((rows.map Prod.fst).dedup)[q / eqTw o.shape]? = some root → ∀ r vs,
          relabRead k o (q % eqTw o.shape) ((rows.filter fun x => x.1 == root).map fun x => x.2.2) r0 = (r, vs) → r.stop = none → r.todo = [] →
          ∀ u, Writes r.s k 10 o [] (layoutAt o.shape 4) root ((layoutAt o.shape 4).col0 + (q % eqTw o.shape : Nat)) (relabValue op vs) u →
            Steps p u o.aux) ∧
      (∀ d a, o.kind = .eqSize fs d a →
        (f.n ≤ a.toNat → Steps p (eqOob s k) [0]) ∧
        (a.toNat < f.n → eqInside s k o = false → ∀ e x, eqSizeItem { s := s, f := f, k := k, todo := [], log := [] } a.toNat = .ok (e, x) →
          Steps p (setForest e.s fs (some e.f)) [BitVec.ofNat 64 x])) ∧
      (o.kind = .eqSnap fs →
        Steps p (match f.open_ with | none => setForest s fs (some { f with open_ := some 0 }) | some _ => eqErr s k 4) []) ∧
      (∀ free, o.kind = .eqCommit fs free →
        Steps p (match f.open_ with | some _ => setForest s fs (if free then none else some { f with open_ := none }) | none => eqErr s k 3) []) ∧
      (o.kind = .eqUndo fs → (f.open_ = none → Steps p (eqErr s k 3) []) ∧
        ∀ n e, f.open_ = some n → eqInside s k o = false → eqUndoFrom 0 n { s := s, f := f, k := k, todo := [], log := [] } = .ok e →
          Steps p (setForest e.s fs (some { e.f with open_ := none })) [])) ∧
    ((∀ g, mget none s.forests fs = some g → g.owner ≠ keyCtx k) → eqSlot o.kind = fs → (∀ g a, o.kind ≠ .eqNew g a) →
      Steps p (eqErr s k 1) eqEnd)

/-- R217, R248 to R271, R376 to R391: engine operations fire, go on step by step, and complete. -/
def Obligations.EngineOperations : Prop := Stmt.EngineOperationsRun ∧ Stmt.CopySteps ∧ Stmt.MatrixSteps ∧ Stmt.ProjectionSteps ∧ Stmt.EquivalenceSteps

/-! ### Capabilities, remote accesses, FIFOs, chases, DRT -/

namespace Sys2Proof.Stmt

/-- The access check passes for n bytes at A through kN, and leads to offset x of a rank, under a generation: R298 on the capability
register in ordinary mode, R300 and R312 on the window handle in bits 63:48 of A in service mode. -/
def reaches (s : State) (k need n : Nat) (a : Word) (rank x : Nat) (gen : Option (BitVec 8)) : Prop :=
  let c := (readK (curCore s) k).1.toNat
  if (curCtx s).service then
    let e := (winEntry s (a.toNat / 2 ^ 48)).toNat
    k = 0 ∧ e / 2 ^ 127 = 1 ∧ e / 2 ^ 117 % 16 = a.toNat / 2 ^ 48 / 4096 ∧ e / 2 ^ 121 % 64 &&& need = need ∧ x = a.toNat % 2 ^ 47 ∧
      e % 2 ^ 47 ≤ x ∧ x + n ≤ e / 2 ^ 47 % 2 ^ 47 + 1 ∧ rank = e / 2 ^ 107 % 1024 ∧ gen = none
  else
    (readK (curCore s) k).2 = true ∧ c / 2 ^ 92 % 16 = 0 ∧ c / 2 ^ 120 = s.port.pod ∧ c / 2 ^ 104 % 64 &&& need = need ∧
      x = c % 2 ^ 47 + a.toNat ∧ a.toNat + n ≤ c / 2 ^ 47 % 2 ^ 45 ∧ x + n ≤ 2 ^ 47 ∧ rank = c / 2 ^ 110 % 1024 ∧
      gen = some (BitVec.ofNat 8 (c / 2 ^ 96))

/-- The check of a DRT operation through kN (R298, R346): a capability of TYPE 2, in ordinary mode. -/
def reachesDrt (s : State) (k need n : Nat) (a : Word) : Prop :=
  let c := (readK (curCore s) k).1.toNat
  (curCtx s).service = false ∧ (readK (curCore s) k).2 = true ∧ c / 2 ^ 92 % 16 = 2 ∧ c / 2 ^ 104 % 64 &&& need = need ∧
    a.toNat + n ≤ c / 2 ^ 47 % 2 ^ 45 ∧ c % 2 ^ 47 + a.toNat + n ≤ 2 ^ 47

/-- Permission bits (R296). -/
def bitR : Nat := 1
def bitW : Nat := 2
def bitA : Nat := 4

/-- The global address of offset x of a rank. -/
def remoteAddr (rank x : Nat) : Word := BitVec.ofNat 64 (rank * 2 ^ 47 + x)

/-- The issuing core with one more remote access in its queue; one to another die holds a landing slot. -/
def remote (s : State) (i : Instr) (rg : List Nat) (rank x : Nat) (op : MemOp) (fmt : LoadFmt) (order : Nat) (gen : Option (BitVec 8))
    (d : Dest) (rx : Bool) : Prop :=
  let far := decide (rank ≠ s.port.rank)
  ∃ m, (∀ j, mget 0 m j = mget 0 (curCore s).landing j + if far ∧ j = 13 then 1 else 0) ∧
    Leaves i s (queued { curCore s with landing := m } rg
      { request s (.remote { sp := false, addr := remoteAddr rank x, ix := 0, op := op } fmt order gen) d 0 1 0 rx with
        slots := if far then 1 else 0 })

/-- A capability with these fields (R296). -/
def capability (v : BitVec 128) (pod rank perms : Nat) (gen : BitVec 8) (type len base : Nat) : Prop :=
  v.toNat / 2 ^ 120 = pod % 256 ∧ v.toNat / 2 ^ 110 % 1024 = rank % 1024 ∧ v.toNat / 2 ^ 104 % 64 = perms ∧
    v.toNat / 2 ^ 96 % 256 = gen.toNat ∧ v.toNat / 2 ^ 92 % 16 = type ∧ v.toNat / 2 ^ 47 % 2 ^ 45 = len ∧ v.toNat % 2 ^ 47 = base

/-- The credits that a giver has given to a pair that is not bound to it (R316, R317). -/
def given (gifts : List ((Nat × Nat × Nat) × Nat)) (giver : Nat × Nat × Nat) : Nat :=
  ((gifts.find? fun g => g.1 == giver).map Prod.snd).getD 0

end Sys2Proof.Stmt

/-- R312, R323 to R326: a scalar rld, rst or ramo whose check passes, of bytes that hold no uncorrectable error (R240), puts one access in
the queue at the place its capability or handle leads to, under its generation; a block rld or rst of 128 or 256 bytes queues an operation on t11.
(Errors in bytes of another die are a free value: log entry 14.) -/
def Obligations.RemoteAccessesIssue : Prop :=
  ∀ (s : State) (k : Fin 16) (a b : Fin 64) (r x : Bool) (z : Fin 8) (rank off : Nat) (gen : Option (BitVec 8)),
    let c := curCore s
    let ad := readG c a
    let n := 2 ^ z.val
    (z.val < 4 → off % n = 0 → slotFree s rank →
      (CanIssue c [a] [b] [] [k] 1 → reaches s k bitR n ad rank off gen → sound s false (remoteAddr rank off) n .load →
        remote s (.rld k a b r x z) [a] rank off (.load n false) (.scalar n x) 0 gen (destG c b) r) ∧
      (CanIssue c [a, b] [] [] [k] 1 → reaches s k bitW n ad rank off gen →
        remote s (.rst k a b r z) [a, b] rank off (.store (leBytes n (readG c b).toNat) false) .none 0 gen .none r)) ∧
    (∀ (o : AmoOp) (q : Fin 4) (y : Bool),
      let n := if y then 8 else 4
      let rg := [a.val] ++ if o == .cas then [b.val, b.val + 1] else [b.val]
      off % n = 0 → slotFree s rank → CanIssue c rg [b] [] [k] 1 → reaches s k bitA n ad rank off gen →
      (rank = s.port.rank → inWindow s (keyCtx s.cur) (remoteAddr rank off) n = false) → sound s false (remoteAddr rank off) n .atomic →
      remote s (.ramo o q y k a b) rg rank off (.atomic o n (readG c b) (if o = .cas then readG c (b.val + 1) else 0)) (.scalar n false) q gen
        (destG c b) false) ∧
    (z.val = 4 ∨ z.val = 5 →
      let n := if z.val = 4 then 128 else 256
      let l := (readG c b).toNat
      CanIssue c [a, b] [] [] [k] 0 → off % 32 = 0 → l % 32 = 0 → l < 2 ^ 22 → allocated s s.cur l n = true →
      (mget [] c.engs 11).length < 16 →
      (reaches s k bitR n ad rank off gen →
        Leaves (.rld k a b r x z) s (commanded c [a, b] 11 (command s 11 (.rldBlk (remoteAddr rank off) gen l n r) [] [] []))) ∧
      (reaches s k bitW n ad rank off gen →
        Leaves (.rst k a b r z) s (commanded c [a, b] 11 (command s 11 (.rstBlk (remoteAddr rank off) gen l n r) [] [] []))))

/-- R298, R302, R312: the access check names the first test that fails, in TCAUSE.SUB of a precise capability violation whose OBJ is the
capability register: 1 untagged, 2 another type, 3 another pod, 4 a missing permission, 5 out of range. capchk returns the same number
instead, or 0 when the check passes. -/
def Sys2Proof.Stmt.CapabilityChecks : Prop :=
  ∀ (s : State) (k : Fin 16) (a b : Fin 64),
    let c := curCore s
    let v := (readK c k).1.toNat
    let ad := readG c a
    let sub (need n : Nat) : Nat :=
      if (readK c k).2 = false then 1 else if v / 2 ^ 92 % 16 ≠ 0 then 2 else if v / 2 ^ 120 ≠ s.port.pod then 3
      else if v / 2 ^ 104 % 64 &&& need ≠ need then 4
      else if v / 2 ^ 47 % 2 ^ 45 < ad.toNat + n ∨ 2 ^ 47 < v % 2 ^ 47 + ad.toNat + n then 5 else 0
    (curCtx s).service = false →
    (∀ (x : AccKind) (z : Fin 8), CanIssue c [a] [b] [] [k] 0 →
      let need := match x with | .r => 1 | .w => 2 | .a => 4 | .c => 8 | .m => 16
      Leaves (.capchk k a b z x) s (answered c [a] (destG c b) (.s (BitVec.ofNat 64 (sub need (2 ^ z.val)))))) ∧
    (CanIssue c [a, b] [] [] [k] 1 → c.phase = .alone → (BitVec.ofNat 64 (v % 2 ^ 47) + ad).toNat % 8 = 0 → sub 2 8 ≠ 0 →
      exec (.rst k a b false 3) s = .next (takeTrap s s.cur
        { Cause.precise 0x07 (sub 2 8) 6 with obj := k, tval := BitVec.ofNat 64 (v % 2 ^ 47) + ad }))

/-- R338, R339: capld, of bytes without an uncorrectable error, and capst put a 16-byte access in the queue, capst with its register's tag; capmk.new puts a capability of this die
in flight and adds a region of its range, or an untagged zero where it cannot; capmk.der derives within its source, never beyond it;
capmk.rev gives each region of the address a new generation. -/
def Sys2Proof.Stmt.CapabilityInstructions : Prop :=
  ∀ (s : State) (k src : Fin 16) (a : Fin 64) (sp : Bool),
    let c := curCore s
    let g := readG c a
    let m := (readG c (a.val + 1)).toNat
    (g.toNat % 16 = 0 → reach s sp g →
      (CanIssue c [a] [] [] [] 1 → sound s sp g 16 .load → Leaves (.capld k a sp) s (queued c [a] (request s
        (.mem [{ sp := sp, addr := g, ix := 0, op := .load 16 true }] .cap 0) (.k k) 0 1 0 false))) ∧
      (CanIssue c [a] [] [] [k] 1 → Leaves (.capst k a sp) s (queued c [a] (request s
        (one sp g (.store (leBytes 16 (readK c k).1.toNat) (readK c k).2)) .none 0 1 0 false)))) ∧
    (CanIssue c [a.val, a.val + 1] [] [] [] 0 → m / 2 ^ 45 % 8 = 0 → m / 2 ^ 54 % 4 = 0 → m / 2 ^ 60 = 0 → m / 2 ^ 56 % 16 ≤ 1 →
      let ok : Prop := g.toNat / 2 ^ 57 = 0 ∧ g.toNat / 2 ^ 47 = s.port.rank ∧ s.regions.length < 1024 ∧
        ∀ r ∈ s.regions, ¬(r.base < g.toNat % 2 ^ 47 + m % 2 ^ 45 ∧ g.toNat % 2 ^ 47 < r.base + r.len)
      (ok → ∃ t v, exec (.capmkNew k a) s = .next t ∧ Lands s { t with regions := s.regions, regGen := s.regGen } [a.val, a.val + 1] (.k k) (.k v true) 1 0 ∧
        capability v s.port.pod s.port.rank (m / 2 ^ 48 % 64) s.regGen (m / 2 ^ 56 % 16) (m % 2 ^ 45) (g.toNat % 2 ^ 47) ∧
        t.regions = s.regions ++ [{ base := g.toNat % 2 ^ 47, len := m % 2 ^ 45, gen := s.regGen, ctx := s.cur / 512 }] ∧
        t.regGen = s.regGen + 1) ∧
      (¬ok → ∃ t, exec (.capmkNew k a) s = .next t ∧ Lands s t [a.val, a.val + 1] (.k k) (.k 0 false) 1 0)) ∧
    (CanIssue c [a.val, a.val + 1] [] [] [src] 0 → m / 2 ^ 54 = 0 → m / 2 ^ 45 % 8 = 0 →
      let v := (readK c src).1.toNat
      let ok : Prop := (readK c src).2 = true ∧ v / 2 ^ 109 % 2 = 1 ∧ v / 2 ^ 104 % 64 &&& (m / 2 ^ 48 % 64) = m / 2 ^ 48 % 64 ∧
        v % 2 ^ 47 ≤ g.toNat ∧ g.toNat + m % 2 ^ 45 ≤ v % 2 ^ 47 + v / 2 ^ 47 % 2 ^ 45
      (ok → ∃ t w, exec (.capmkDer k a src) s = .next t ∧ Lands s t [a.val, a.val + 1] (.k k) (.k w true) 1 0 ∧
        capability w (v / 2 ^ 120) (v / 2 ^ 110) (m / 2 ^ 48 % 64) (BitVec.ofNat 8 (v / 2 ^ 96)) (v / 2 ^ 92 % 16) (m % 2 ^ 45) (g.toNat % 2 ^ 47)) ∧
      (¬ok → ∃ t, exec (.capmkDer k a src) s = .next t ∧ Lands s t [a.val, a.val + 1] (.k k) (.k 0 false) 1 0)) ∧
    (CanIssue c [a] [] [] [] 0 →
      let hit (r : Region) : Prop := r.base ≤ g.toNat % 2 ^ 47 ∧ g.toNat % 2 ^ 47 < r.base + r.len
      ∃ t, exec (.capmkRev a) s = .next t ∧ OnlyCore s { t with regions := s.regions, regGen := s.regGen } { c with pops := popped c [a] } ∧
        t.regions.length = s.regions.length ∧ ∀ (i : Nat) (r : Region), s.regions[i]? = some r → ∃ q : Region, t.regions[i]? = some q ∧ q.base = r.base ∧
          q.len = r.len ∧ q.ctx = r.ctx ∧ (hit r → q.gen = s.regGen) ∧ (¬hit r → q.gen = r.gen))

/-- R296 to R302, R338 to R340: capability checks and capability instructions. -/
def Obligations.Capabilities : Prop := Stmt.CapabilityChecks ∧ Stmt.CapabilityInstructions

/-- R316, R322, R328: fq.bind binds a pair to its peer with an empty fi and the credits that this peer has given it, and gives the peer 64 credits, or
unbinds it; peg.rd returns the
pegs, pool and next hop toward a rank, or a stream's landing reservation; rwin.reg puts the read of its descriptor in the queue. -/
def Obligations.FifoBindingPegsAndWindows : Prop :=
  ∀ (s : State) (i : Fin 8) (a b : Fin 64),
    let c := curCore s
    let w := readG c a
    let f := mget Fifo.init c.fifos i
    (CanIssue c [a] [] [] [] 0 → w.toNat / 2 ^ 63 = 1 → w.toNat / 2 ^ 30 % 2 ^ 33 = 0 → w.toNat / 2 ^ 3 % 256 = 0 → f.peer = none →
      w.toNat / 2 ^ 20 % 1024 ∈ (curCtx s).members →
      let rank := w.toNat / 2 ^ 20 % 1024
      let peer := w.toNat / 2 ^ 11 % 512
      let name := (rank, peer, w.toNat % 8)
      let bound : Fifo := { f with
        peer := some name, fi := [], owed := 0, unbinding := false, cred := given f.gifts name, gifts := f.gifts.filter fun g => g.1 != name }
      ∃ t, exec (.fqBind i a) s = .next t ∧
        (rank ≠ s.port.rank → mget Fifo.init (curCore t).fifos i = bound ∧
          ∀ l, linkTo s false rank = some l → ∃ q, t.port.queue = s.port.queue ++ [q] ∧ q.link = l ∧ q.frame.dst = rank ∧ q.frame.vc = 1 ∧
            q.frame.body = .fqcred peer (w.toNat % 8) (s.cur % 512) i 64) ∧
        (rank = s.port.rank → s.cur / 512 * 512 + peer ≠ s.cur →
          let me := (s.port.rank, s.cur % 512, i.val)
          let z := mget Fifo.init (coreAt s (s.cur / 512 * 512 + peer)).fifos (w.toNat % 8)
          let z' := mget Fifo.init (coreAt t (s.cur / 512 * 512 + peer)).fifos (w.toNat % 8)
          mget Fifo.init (curCore t).fifos i = bound ∧ z'.peer = z.peer ∧ z'.fo = z.fo ∧
          (z.peer = some me → z'.cred = z.cred + 64) ∧ (z.peer ≠ some me → z'.cred = z.cred ∧ given z'.gifts me = given z.gifts me + 64)) ∧
        (∀ j, j ≠ i.val → s.cur / 512 * 512 + peer ≠ s.cur ∨ rank ≠ s.port.rank → mget Fifo.init (curCore t).fifos j = mget Fifo.init c.fifos j) ∧
        (curCore t).g = c.g ∧ t.hbm = s.hbm ∧ t.sram = s.sram) ∧
    (CanIssue c [a] [] [] [] 0 → w.toNat / 2 ^ 63 = 0 → w.toNat / 2 ^ 30 % 2 ^ 33 = 0 → w.toNat / 2 ^ 3 % 256 = 0 → f.peer.isSome = true → f.fi = [] → f.fo = [] → f.resv = 0 → fifoSending s s.cur i = false →
      ∃ m, Leaves (.fqBind i a) s { c with fifos := m, pops := popped c [a] } ∧ mget Fifo.init m i = { Fifo.init with gifts := f.gifts } ∧
        ∀ j, j ≠ i.val → mget Fifo.init m j = mget Fifo.init c.fifos j) ∧
    (CanIssue c [a] [b] [] [] 0 →
      (w.toNat < 4096 →
        let r := w.toNat % 1024
        let ch := w.toNat / 1024
        Leaves (.pegRd a b false) s (answered c [a] (destG c b) (.s
          (if r = s.port.rank then 0 else match routeTo s r with
            | some ((pl, p) :: _) =>
              let l : Link := { plane := pl, port := match pl with | .shelf => p.2 | .column => p.1 }
              BitVec.ofNat 64 (pegsOf s l ch % 128 + (match pl with | .shelf => 0 | .column => 2 ^ 7) + poolOf s l ch % 128 * 2 ^ 8 + rankAt s p * 2 ^ 16)
            | _ => BitVec.ofNat 64 (2 ^ 15))))) ∧
      ((w.toNat ≤ 4 ∨ w.toNat = 13) →
        let stream := if w.toNat < 4 then 5 + w.toNat else if w.toNat = 4 then 11 else 13
        Leaves (.pegRd a b true) s (answered c [a] (destG c b) (.s
          (BitVec.ofNat 64 (slotsHeld c stream % 128 + c.csr.resvcfg.toNat % 128 * 2 ^ 8 + (8192 - landingUsed s) * 2 ^ 16)))))) ∧
    (CanIssue c [a] [b] [] [] 1 → w.toNat % 32 = 0 → w.toNat / 2 ^ 57 = 0 → w.toNat / 2 ^ 47 = s.port.rank → s.port.rank ∈ (curCtx s).members →
      Leaves (.rwinReg a b) s (queued c [a] (request s (.rwinReg w none []) (destG c b) 0 1 0 false)))

/-- R332, R333, R344 to R346: a chase whose descriptor and start pass queues an operation with its packet on t11; rma.put, rma.get, rma.flag
and rma.flush queue theirs on t12 with the capability read at issue; rma.reg takes the lowest free registration; rma.rev closes the
registration its capability names. -/
def Obligations.ChasesAndDrtCommands : Prop :=
  (∀ (s : State) (k : Fin 16) (a b : Fin 64) (t cp : Bool),
    let c := curCore s
    let o := readG c a
    let l := readG c b
    let n := leNat ((descBytes s o.toNat 32).drop 16 |>.take 1) % 16
    let bs := descBytes s o.toNat (32 + 16 * n)
    let start : Word := BitVec.ofNat 64 (leNat (bs.take 8))
    let steps := chaseSteps n (bs.drop 32)
    CanIssue c [a, b] [] [] (if cp then [k.val] else []) 0 → (mget [] c.engs 11).length < 16 → o.toNat % 32 = 0 →
    chaseIllegal s o = false → landingIllegal c l = false → chaseFail s k cp start (steps.any fun z => z.k) = none →
    ∃ p, Leaves (.chase k a b t cp) s (commanded c [a, b] 11 (command s 11 (.chase p) [] [] [])) ∧ p.steps = steps ∧ p.nstep = n ∧ p.s = 0 ∧
      p.hops = 0 ∧ p.k = k ∧ p.trap = t ∧ p.basket = l.toNat % 256 ∧ p.slot = l.toNat / 2 ^ 8 % 256 ∧ p.tag = l.toNat / 2 ^ 16 % 65536 ∧
      p.addend = BitVec.ofNat 64 (leNat ((bs.drop 8).take 8)) ∧ p.ret = { core := s.cur, stream := 11, id := mget 0 c.tlOps 11 + 1 } ∧
      (cp = false → p.p = start ∧ p.cap = none) ∧
      (cp = true → (curCtx s).service = false → p.p = start ∧ p.cap = some (readK c k).1)) ∧
  (∀ (s : State) (k : Fin 16) (a b : Fin 64) (t : Bool),
    let c := curCore s
    let ad := readG c a
    let l := readG c b
    let n := readG c (b.val + 1)
    let v := (readK c k).1
    (mget [] c.engs 12).length < 16 →
    (CanIssue c [a.val, b.val, b.val + 1] [] [] [k] 0 → 1 ≤ n.toNat → n.toNat ≤ 2 ^ 20 →
      (l.toNat / 2 ^ 63 = 1 ∨ l.toNat / 2 ^ 57 ≠ 0 ∨ l.toNat / 2 ^ 47 = s.port.rank) →
      ((t = true → n.toNat % 16 = 0 ∧ l.toNat % 16 = 0 ∧ (v.toNat % 2 ^ 47 + ad.toNat) % 16 = 0) → reachesDrt s k bitW n.toNat ad →
        Leaves (.rmaPut k a b t) s (commanded c [a.val, b.val, b.val + 1] 12 (command s 12 (.rmaPut v ad l n.toNat t) [] [] []))) ∧
      (reachesDrt s k bitR n.toNat ad →
        Leaves (.rmaGet k a b) s (commanded c [a.val, b.val, b.val + 1] 12 (command s 12 (.rmaGet v ad l n.toNat) [] [] [])))) ∧
    (CanIssue c [a, b] [] [] [k] 0 → ad.toNat % 8 = 0 → reachesDrt s k bitW 8 ad →
      Leaves (.rmaFlag k a b) s (commanded c [a, b] 12 (command s 12 (.rmaFlag v ad l) [] [] []))) ∧
    (CanIssue c [] [] [] [] 0 → Leaves .rmaFlush s { commanded c [] 12 (command s 12 .rmaFlush [] [] []) with pops := c.pops }) ∧
    (CanIssue c [] [] [] [k] 0 → (curCtx s).service = false → (readK c k).2 = true → v.toNat / 2 ^ 92 % 16 = 2 →
      ∀ i r, openRegistration s v = some (i, r) →
        ∃ u, exec (.rmaRev k) s = .next u ∧
          OnlyCore s { u with drt := s.drt } { commanded c [] 12 (command s 12 (.rmaRev i) [] [] []) with pops := c.pops } ∧
          u.drt = { s.drt with regs := u.drt.regs } ∧
          ∀ j, mget none u.drt.regs j = if j = i then some { r with closing := true, waiter := some (s.cur, mget 0 c.tlOps 12 + 1) }
            else mget none s.drt.regs j)) ∧
  (∀ (s : State) (k : Fin 16) (a : Fin 64),
    let c := curCore s
    let g := (readG c a).toNat
    let m := (readG c (a.val + 1)).toNat
    CanIssue c [a.val, a.val + 1] [] [] [] 0 → g / 2 ^ 57 = 0 → g / 2 ^ 47 = s.port.rank → m / 2 ^ 45 % 8 = 0 → m / 2 ^ 54 = 0 →
    (∀ i < 4096, mget none s.drt.regs i = none → (∀ j < i, mget none s.drt.regs j ≠ none) →
      ∃ t v, exec (.rmaReg k a) s = .next t ∧ Lands s { t with drt := s.drt } [a.val, a.val + 1] (.k k) (.k v true) 1 0 ∧
        capability v s.port.pod s.port.rank (m / 2 ^ 48 % 64) s.drt.gen 2 (m % 2 ^ 45) (g % 2 ^ 47) ∧ t.drt.gen = s.drt.gen + 1 ∧
        ∀ j, mget none t.drt.regs j = if j = i then some
          { base := g % 2 ^ 47, len := m % 2 ^ 45, perms := BitVec.ofNat 6 (m / 2 ^ 48), gen := s.drt.gen, ctx := s.cur / 512
            closing := false, started := 0, waiter := none } else mget none s.drt.regs j) ∧
    ((∀ i < 4096, mget none s.drt.regs i ≠ none) →
      ∃ t, exec (.rmaReg k a) s = .next t ∧ Lands s t [a.val, a.val + 1] (.k k) (.k 0 false) 1 0))

/-! ### Traps taken after their cause, tasks, launches -/

namespace Sys2Proof.Stmt

/-- An event of core k: nothing changes but that core's record, which becomes `x`. -/
def CoreEvent (i : Instr) (s : State) (k : Nat) (x : Core) : Prop :=
  ∃ t, exec i s = .next t ∧ t = { s with cores := t.cores } ∧ coreAt t k = x ∧ ∀ j, j ≠ k → coreAt t j = coreAt s j

/-- The launch of a sequence number. -/
def launched (s : State) (n : Nat) : Option Launch := s.fcp.launches.find? fun l => l.seq == n

/-- Of a list of launches, the one numbered as `l` is replaced. -/
def withLaunch (s : State) (l : Launch) : State :=
  { s with fcp := { s.fcp with launches := s.fcp.launches.map fun m => if m.seq = l.seq then l else m } }

/-- The DEP field of a record at place p (R36). -/
def depAt (s : State) (p : Phys) : Nat := leNat ((List.range 4).map fun i => readByte (store s p.sp) (p.a + 16 + i))

/-- Every byte outside [a, a + n) of the storage of p reads as before, and every byte of the other storage. -/
def keepsBut (s t : State) (p : Phys) (a n : Nat) : Prop :=
  (∀ x, (x < a ∨ a + n ≤ x) → readByte (store t p.sp) x = readByte (store s p.sp) x) ∧
  ∀ x, readByte (store t (!p.sp)) x = readByte (store s (!p.sp)) x

/-- The launch after core k of its rectangle has granted its request: the last grant commits them all (R31). -/
def grantedTo (s : State) (l : Launch) (k : Nat) : Launch :=
  if (l.held ++ [k]).length = (lrCores s l.ctx l.record).length then
    { l with held := l.held ++ [k], phase := .committed, k := 0, had := false }
  else { l with held := l.held ++ [k], phase := .reserving }

/-- The launch after it has released its reservations for 2^k × 256 cycles (R32). -/
def released (s : State) (l : Launch) : Launch :=
  { l with held := [], phase := .backoff (s.time + 2 ^ l.k * 256), k := min 8 (l.k + 1) }

/-- A launch is over: it is no more, and its command, unless it was aborted, completes (R41). -/
def launchOver (s : State) (l : Launch) : State :=
  let u := { s with fcp := { s.fcp with launches := s.fcp.launches.filter fun m => m.seq != l.seq } }
  match l.queue with
  | some q => completeCmd u q 0 false 0
  | none => u

/-- Every operation issued on a core has been performed (R40). -/
def allDone (c : Core) : Prop :=
  c.accs = [] ∧ c.rets = [] ∧ (∀ e ∈ c.engs, e.2 = []) ∧ ∀ n, c.snap = some n → n.accs = [] ∧ n.rets = []

/-- The cause of a trap that reports r (R165, R226). -/
def causeOf (r : Report) : Cause :=
  { code := r.code, sub := r.sub, slot := r.slot, stg := r.stg, obj := r.obj, tl := if r.eng then r.tl else 15, eng := r.eng, asy := true
    tval := r.addr, tinfo := if r.code = 5 then BitVec.ofNat 64 (r.agent.toNat * 2 ^ 37 + r.time % 2 ^ 37) else 0, need := r.need }

end Sys2Proof.Stmt

/-- R22, R165, R225, R226, R240, R409: a bundle whose watchdog has reached its limit takes a starvation trap that names the condition,
its slot and its object; a pending report is taken at a bundle boundary as an asynchronous trap with its code, place, address, timeline
and recorded agent, or retried at once where the CP does so; a report for a core with no running task stops it between tasks, unless
the CP resolves its cause. Under the limit, and with no report, nothing happens. -/
def Obligations.DeferredTraps : Prop :=
  (∀ (s : State) (k : Nat) (h : Hold), (coreAt s k).hold = some h → (coreAt s k).task.isSome = true → (coreAt s k).stop = none →
    ((coreAt s k).csr.wdog.toNat % 2 ^ 32 ≤ (coreAt s k).held →
      exec (.starvationTrap k) s =
        .next (takeTrap s k { Cause.precise 0x06 h.sub h.slot with stg := h.stg, obj := h.obj, tl := h.tl })) ∧
    ((coreAt s k).held < (coreAt s k).csr.wdog.toNat % 2 ^ 32 → exec (.starvationTrap k) s = .next s)) ∧
  (∀ (s : State) (k : Nat) (r : Report), (coreAt s k).reports = [r] → (coreAt s k).asyncs = [] → (coreAt s k).stop = none →
    let u := onCore s k fun c => { c with reports := [] }
    ((coreAt s k).task.isSome = true →
      (r.retry = false → exec (.pendingTrapTaken k) s = .next (takeTrap u k (causeOf r))) ∧
      (r.retry = true → exec (.pendingTrapTaken k) s = .next (retryTrap u k (causeOf r)))) ∧
    ((coreAt s k).task = none → r.retry = false → ¬(r.code = 3 ∧ r.sub = 2) →
      exec (.trapBetweenTasks k) s = .next (stopCore u k { causeOf r with eng := true } true
        (stagedEntry s k)))) ∧
  (∀ (s : State) (k : Nat), (coreAt s k).reports = [] → (coreAt s k).asyncs = [] →
    exec (.pendingTrapTaken k) s = .next s ∧ exec (.trapBetweenTasks k) s = .next s)

/-- R24, R25: a staged task starts on a core whose hardware runs none: its registers g1 to g8 are preloaded, its pc is the entry, the
sequencer, the bank lock and the handler state are clear; memory, the engines and the other cores are not touched. R34, R35, R39: the
iteration that the walker hands to a free core is staged there unless a ready task has the higher priority, and its launch moves on
to the next one. R37, R38: a ready task that a core takes is staged with its record's fields, and its entry leaves the queue.
(The candidate order at equal priority is log entry 4.) -/
def Obligations.TasksStart : Prop :=
  (∀ (s : State) (k : Nat) (x : Task), (coreAt s k).staged = some x → (coreAt s k).task = none → (coreAt s k).stop = none →
    (ctxAt s (k / 512)).resident = true → coreClaimed s k = false →
    ∃ t, exec (.stagedTaskStart k) s = .next t ∧ t = { s with cores := t.cores, tick := s.tick + 1 } ∧
      (∀ j, j ≠ k → coreAt t j = coreAt s j) ∧
      (let c := coreAt t k
       c.task = some x ∧ c.staged = none ∧ c.pc = x.entry ∧ c.serial = (coreAt s k).serial + 1 ∧ readG c 0 = 0 ∧
         (∀ i, 1 ≤ i → i ≤ 8 → readG c i = x.regs.getD (i - 1) 0) ∧ c.q = x.q ∧ c.epoch = s.epoch ∧ c.seq.active = false ∧
         c.seq.rho = 0 ∧ c.lock = none ∧ c.inH = false ∧ c.snap = none ∧ c.hold = none ∧ c.engs = (coreAt s k).engs ∧
         c.tiles = (coreAt s k).tiles ∧ c.csr = (coreAt s k).csr ∧ c.k = (coreAt s k).k ∧ c.sems = (coreAt s k).sems ∧
         c.bars = (coreAt s k).bars ∧ c.baskets = (coreAt s k).baskets)) ∧
  (∀ (s : State) (k : Nat) (l : Launch) (o : Nat), (ctxAt s (k / 512)).resident = true → coreFree s k = true →
    walkerCandidate s k = some (l, o) → walkerPick s l = some k → (∀ r, readyHead s k = some r → effPrio s r ≤ l.record.toNat / 2 ^ 184 % 256) →
    l.given = [] →
    ∃ t, exec (.coreTaskChoice k) s = .next t ∧ (∃ y, (coreAt t k).staged = some y ∧ y.ctx = l.ctx ∧ y.launch = some (l.seq, o) ∧
        y.entry.toNat = l.record.toNat % 2 ^ 57 ∧ y.regs.length = 8 ∧
        y.regs.getD 6 0 = BitVec.ofNat 64 (l.record.toNat / 2 ^ 64) ∧ y.q = l.start) ∧
      t = { s with cores := t.cores, fcp := { s.fcp with launches := t.fcp.launches } } ∧ (∀ j, j ≠ k → coreAt t j = coreAt s j) ∧
      coreAt t k = { coreAt s k with staged := (coreAt t k).staged } ∧
      ∀ m ∈ s.fcp.launches, m.seq = l.seq → ∃ m' ∈ t.fcp.launches, m'.seq = l.seq ∧ m'.ord = l.ord + 1 ∧ m'.running = l.running + 1) ∧
  (∀ (s t : State) (k : Nat) (r : Ready) (g : Got), (ctxAt s (k / 512)).resident = true → coreFree s k = true →
    coreChoice s k = some (.ready r) → r.ctx = k / 512 → takesReady s k r = true →
    performMem s (coreKey r.ctx 0) (fcpAgent s r.q false) false r.addr (.load 64 false) = .ok (t, g) → g.poison = false →
    let w : BitVec 512 := BitVec.ofNat 512 (leNat g.bytes)
    recordBad t w = false →
    ∃ u, exec (.coreTaskChoice k) s = .next u ∧ u.fcp.ready = t.fcp.ready.erase r ∧
      ∃ y, (coreAt u k).staged = some y ∧ y.ctx = r.ctx ∧ y.record = some r ∧ y.launch = none ∧ y.entry.toNat = w.toNat % 2 ^ 57 ∧
        y.regs.length = 8 ∧ y.regs.getD 6 0 = BitVec.ofNat 64 (w.toNat / 2 ^ 64) ∧ y.done.toNat = w.toNat / 2 ^ 448 ∧ y.q = r.q)

/-- R31, R32, R36 to R41: a decrement of a reachable record lowers DEP by one, makes the record ready or rejected at zero, and counts an
underflow when DEP was 0; an overflow entry moves into the ready queue; a launch requests the next core of its rectangle, is granted it
when no launch holds it or the holder has a higher sequence number, which then releases, and releases and backs off for 2^k × 256
cycles from a committed core or a lower number; the last grant commits them all. A finished superstep is followed by the next. A
finished launch releases its cores and decrements its DONEREC; its command completes once that is done, at another die once its owner has
answered. (One request a cycle is log entry 21.) -/
def Obligations.RecordsAndLaunches : Prop :=
  (∀ (s s1 s2 : State) (x : Nat) (a : Word) (p : Phys) (chk : Bool), s.memWf → a.toNat / 2 ^ 47 % 1024 = s.port.rank →
    (x, a) ∉ s.fcp.pendDec → locateAny s (coreKey x 0) false a 64 .atomic = .ok ([(p, 64, chk)], s1) →
    raceAll s1 false (fcpAgent s s.time false) false true a [(p, 64, chk)] = .ok s2 →
    (2 ≤ depAt s1 p → ∃ t, exec (.taskRecordDecrement x a) s = .next t ∧ depAt t p = depAt s1 p - 1 ∧ keepsBut s1 t p (p.a + 16) 4 ∧
      t.fcp = s1.fcp) ∧
    (depAt s1 p = 1 → ∃ t, exec (.taskRecordDecrement x a) s = .next t ∧ depAt t p = 0 ∧
      (∀ y, (y < p.a + 16 ∨ p.a + 20 ≤ y) → y ≠ p.a + 29 → readByte (store t p.sp) y = readByte (store s1 p.sp) y) ∧
      ((readByte (store t p.sp) (p.a + 29) = 1 ∧ ∃ e : Ready, e.addr = a ∧ e.at_ = s1.time ∧ e.q = s1.time ∧
          (t.fcp = { s1.fcp with ready := s1.fcp.ready ++ [e] } ∨ t.fcp = { s1.fcp with overflow := s1.fcp.overflow ++ [e] })) ∨
        (readByte (store t p.sp) (p.a + 29) = 5 ∧ t.fcp = s1.fcp))) ∧
    (depAt s1 p = 0 → ∃ t, exec (.taskRecordDecrement x a) s = .next t ∧ t.fcp = { s1.fcp with underflow := s1.fcp.underflow + 1 } ∧
      keepsBut s1 t p 0 0)) ∧
  (∀ (s u : State) (x : Nat) (a : Word) (l : Link), a.toNat / 2 ^ 47 % 1024 ≠ s.port.rank → (x, a) ∉ s.fcp.pendDec →
    takeUnit s 0 = some u → linkTo u false (a.toNat / 2 ^ 47 % 1024) = some l →
    ∃ (t : State) (q : Sent), exec (.taskRecordDecrement x a) s = .next t ∧ t = { u with port := t.port } ∧ t.port.queue = u.port.queue ++ [q] ∧ q.link = l ∧
      q.frame.dst = a.toNat / 2 ^ 47 % 1024 ∧ q.frame.vc = 2 ∧
      ∃ w r, q.frame.body = .mem w r none a .taskDec) ∧
  (∀ (s : State) (l : Nat) (r : Ready), s.fcp.overflow.find? (fun r => r.prio == l) = some r → s.fcp.ready.length < 65536 →
    exec (.readyOverflowMove l) s =
      .next { s with fcp := { s.fcp with ready := s.fcp.ready ++ [r], overflow := s.fcp.overflow.erase r } }) ∧
  (∀ (s : State) (l : Launch) (k : Nat), launched s l.seq = some l →
    (l.phase = .reserving ∨ ∃ t, l.phase = .backoff t ∧ t ≤ s.time) → (ctxAt s l.ctx).resident = true →
    (lrCores s l.ctx l.record)[l.held.length]? = some k →
    (holders s l k = [] → exec (.launchBackoffExpiry l.seq) s = .next (withLaunch s (grantedTo s l k))) ∧
    (∀ m, holders s l k = [m] → m.phase ≠ .committed → l.seq < m.seq →
      exec (.launchBackoffExpiry l.seq) s = .next (withLaunch (withLaunch s (released s m)) (grantedTo s l k))) ∧
    ((∃ m ∈ holders s l k, m.phase = .committed ∨ m.seq < l.seq) →
      exec (.launchBackoffExpiry l.seq) s = .next (withLaunch s (released s l)))) ∧
  (∀ (s : State) (l : Launch), launched s l.seq = some l → l.phase = .committed → l.running = 0 → nextIteration l = none →
    (∀ k ∈ l.held, allDone (coreAt s k)) →
    (l.step < l.record.toNat / 2 ^ 180 % 16 → (l.record.toNat / 2 ^ 479 % 2 = 0 ∨ (l.told = true ∧ peersReached s l = true)) →
      ∃ t, exec (.superstepAdvance l.seq) s = .next t ∧ t = { s with fcp := t.fcp } ∧
        t.fcp.launches = (withLaunch s { l with step := l.step + 1, ord := 0, last := 0, told := false, start := s.time + 1 }).fcp.launches) ∧
    (l.step < l.record.toNat / 2 ^ 180 % 16 → l.record.toNat / 2 ^ 479 % 2 = 1 → l.told = false →
      exec (.superstepAdvance l.seq) s = .next (withLaunch (tellPeers s l) { l with told := true })) ∧
    (l.record.toNat / 2 ^ 180 % 16 ≤ l.step →
      let a : Word := BitVec.ofNat 64 (l.record.toNat / 2 ^ 384)
      (a = 0 → exec (.launchCompletion l.seq) s = .next (launchOver s l)) ∧
      (a ≠ 0 → a.toNat / 2 ^ 47 % 1024 = s.port.rank → accessHeld s none (coreKey l.ctx 0) false a .taskDec = false →
        ∀ v g, performMem s (coreKey l.ctx 0) (fcpAgent s s.time false) false a .taskDec = .ok (v, g) →
        exec (.launchCompletion l.seq) s = .next (launchOver v l)) ∧
      (a ≠ 0 → a.toNat / 2 ^ 47 % 1024 ≠ s.port.rank → ∀ v o, takeUnit s 0 = some v → linkTo v false (a.toNat / 2 ^ 47 % 1024) = some o →
        ∃ (t : State) (q : Sent), exec (.launchCompletion l.seq) s = .next t ∧ t = { s with port := t.port, fcp := t.fcp } ∧
          t.fcp.launches = (withLaunch v { l with held := [], phase := .finishing 1 }).fcp.launches ∧
          t.port.queue = v.port.queue ++ [q] ∧ q.link = o ∧ q.frame.dst = a.toNat / 2 ^ 47 % 1024 ∧
          ∃ w, q.frame.body = .mem w { core := coreKey l.ctx 0, stream := 16, id := l.seq } none a .taskDec))) ∧
  (∀ (s : State) (l : Launch), launched s l.seq = some l →
    (l.phase = .finishing 1 → exec (.launchCompletion l.seq) s = .next s) ∧
    (l.phase = .finishing 2 → exec (.launchCompletion l.seq) s = .next (launchOver s l)))

/-! ### Events of the die -/

namespace Sys2Proof.Stmt

/-- Only SECNT word i moves: up by one (R393). -/
def Counts (s t : State) (i : Nat) : Prop :=
  t = { s with page := { s.page with secnt := t.page.secnt } } ∧ t.page.secnt.length = 8 ∧
    t.page.secnt.getD i 0 = s.page.secnt.getD i 0 + 1 ∧ ∀ j, j ≠ i → t.page.secnt.getD j 0 = s.page.secnt.getD j 0

/-- The state with one more SECNT event (R393). -/
def secntPlus (s : State) (i : Nat) : State :=
  { s with page := { s.page with secnt := s.page.secnt.set i (s.page.secnt.getD i 0 + 1) } }

/-- One field of a core's record changes. -/
def coreSet (s : State) (k : Nat) (f : Core → Core) : State := { s with cores := mset s.cores k (f (coreAt s k)) }

/-- The error cause of a bundle about to issue, for the syllable of a slot (R226). -/
def bundleError (code sub slot : Nat) : Cause :=
  { code := code, sub := sub, slot := slot, stg := 0, obj := 0, tl := 15, eng := false, asy := false, tval := 0, tinfo := 0 }

/-- SECNT has its eight words. -/
def eight (s : State) : Prop := s.page.secnt.length = 8

end Sys2Proof.Stmt

/-- R406: a vertical bus whose retrain is due and on which no transfer is queued retrains for 2,400 cycles; eight million cycles later it
retrains in any case; the next one is due 32,000,000 cycles after the last ended. -/
def Sys2Proof.Stmt.BusRetraining : Prop :=
  ∀ (s : State) (p d e : Nat),
    (vbusAt s p = { due := d, ends := none } →
      (d ≤ s.time → busQueued s p = false →
        exec (.vbusRetrainStart p) s = .next { s with vbus := mset s.vbus p { due := d, ends := some (s.time + 2400) } }) ∧
      (s.time < d ∨ busQueued s p = true → exec (.vbusRetrainStart p) s = .next s) ∧
      (d + 8000000 ≤ s.time →
        exec (.vbusRetrainForced p) s = .next { s with vbus := mset s.vbus p { due := d, ends := some (s.time + 2400) } }) ∧
      (s.time < d + 8000000 → exec (.vbusRetrainForced p) s = .next s)) ∧
    (vbusAt s p = { due := d, ends := some e } →
      (e ≤ s.time → exec (.vbusRetrainEnd p) s = .next { s with vbus := mset s.vbus p { due := e + 32000000, ends := none } }) ∧
      (s.time < e → exec (.vbusRetrainEnd p) s = .next s))

/-- R68, R237 to R240, R402, R403: a corrected error is counted and nothing else; a failed read beat is read again, the third one traps; a
residue error waits for the next conversion of its tile and K block; an uncorrectable error poisons what it strikes; a lane-parity error
re-issues the bundle, and a second one is forwarded; a mismatch of a checked pair re-issues it, twice at one bundle, and then the pair is
retired. An engine operation whose beat has failed three times waits for the
trap that its core takes. A failed bank retires its whole position, a failed HBM channel is recorded for the next boot. -/
def Sys2Proof.Stmt.ErrorsAndRetirement : Prop :=
  (∀ (s : State) (k : Nat), eight s →
    (∃ t, exec (.softErrorRerun k .correctable) s = .next t ∧ Counts s t 0) ∧
    (∀ i, ∃ t, exec (.softErrorRerun k (.beat false i)) s = .next t ∧ Counts s t 1) ∧
    (∀ i n, ∃ t, exec (.softErrorRerun k (.engineBeat false i n)) s = .next t ∧ Counts s t 1) ∧
    (∀ (i : Nat) (o : EngOp), mget [] (coreAt s k).engs i = [o] → o.fired = true → o.ended = false → o.await = 0 →
      ∃ (t : State) (x : Report), exec (.softErrorRerun k (.engineBeat true i o.n)) s = .next t ∧ t = { secntPlus s 1 with cores := t.cores } ∧
        mget [] (coreAt t k).engs i = [{ o with await := 2 }] ∧ (coreAt t k).reports = (coreAt s k).reports ++ [x] ∧ x.code = 8 ∧ x.sub = 4 ∧
        x.eng = true ∧ x.tl = i) ∧
    (∀ (c t b : Nat), exec (.softErrorRerun k (.residue c t b)) s = .next (coreSet s k fun x => { x with faulty := some (c, t, b) })) ∧
    (∀ (a : Word) (z : Bool), ∃ t, exec (.softErrorRerun k (.uncorrectable a z)) s = .next t ∧
      t = { secntPlus s 3 with hbm := t.hbm, tlb := t.tlb, poison := t.poison } ∧ ∀ y ∈ s.poison, y ∈ t.poison) ∧
    ((coreAt s k).task.isSome = true → (coreAt s k).stop = none → ∀ i,
      exec (.softErrorRerun k (.beat true i)) s = .next (takeTrap (secntPlus s 1) k (bundleError 8 4 i)) ∧
      ((coreAt s k).parity = 0 → exec (.softErrorRerun k (.laneParity i)) s =
        .next (retryTrap (coreSet (secntPlus s 4) k fun x => { x with parity := 1 }) k (bundleError 8 3 i))) ∧
      ((coreAt s k).parity ≠ 0 → exec (.softErrorRerun k (.laneParity i)) s =
        .next (takeTrap (coreSet (secntPlus s 4) k fun x => { x with parity := 0 }) k (bundleError 8 3 i)))) ∧
    ((ctxAt s (k / 512)).checked = false → ∀ sub i, exec (.softErrorRerun k (.mismatch sub i)) s = .next s) ∧
    ((ctxAt s (k / 512)).checked = true → (coreAt s k).task.isSome = true → (coreAt s k).stop = none → ∀ sub i,
      let n := (if (coreAt s k).missPc = (coreAt s k).pc then (coreAt s k).mismatch else 0) + 1
      let u := coreSet { s with tick := s.tick + 1 } k fun c =>
        { (if sub = 2 then keepBoth s.tick c else c) with mismatch := n, missPc := c.pc }
      (n ≤ 2 → exec (.softErrorRerun k (.mismatch sub i)) s =
        .next (logCp (coreSet (retryTrap u k (bundleError 9 sub i)) k agreed) 9 k n)) ∧
      (2 < n → exec (.softErrorRerun k (.mismatch sub i)) s = .next (retirePair (takeTrap u k (bundleError 9 sub i)) k)))) ∧
  (∀ (s : State) (p b : Nat), p % 32 < 17 → p / 32 < 16 → b < 32 → (∀ e ∈ s.ctxs, ∀ x, e.2 = some x → x.resident = false) →
    s.shape.records.length < Config.storeCapacity →
    ∃ t, exec (.sramBankRetirement p b) s = .next t ∧ t = { s with shape := t.shape } ∧
      t.shape.retired = s.shape.retired ++ [(p % 32, p / 32)] ∧ t.shape.meshW ≤ 16 ∧
      t.shape.records = s.shape.records ++ [(s.shape.stored + 1, [1, p % 32, p / 32])]) ∧
  (∀ (s : State) (h : Nat), h ∉ s.shape.badCh → s.shape.records.length < Config.storeCapacity →
    ∃ t, exec (.hbmChannelRetirement h) s = .next t ∧ t = { s with shape := t.shape } ∧ t.shape.badCh = s.shape.badCh ++ [h] ∧
      t.shape.hbmCh = s.shape.hbmCh ∧ t.shape.records = s.shape.records ++ [(s.shape.stored + 1, [3, h])])

/-- R237 to R240, R402, R403, R406: retraining, soft errors, mismatches, retirement. -/
def Obligations.RetrainingErrorsAndRetirement : Prop := Stmt.BusRetraining ∧ Stmt.ErrorsAndRetirement

/-- R163, R164, R167, R168, R331: an invalidation that arrives drops every cached translation of its context and no other; the last
acknowledgement ends the tfence that waited. The page compressor's hand clears the A bit of a page it passes, which then stays; a page
whose A bit is clear is aired when the zone has room: its entry becomes V = 0 and AIR = 1 and its frame is free; with no free-frame mark
set nothing moves. A fault that the CP has resolved lets its core go on. A seam discards an aborted window and acknowledges.
(Free frames are those that airing has freed: log entry 15; the compressed form of the zone: log entry 46.) -/
def Obligations.TranslationsAndAiring : Prop :=
  (∀ (s : State) (r x c : Nat),
    ∃ t, exec (.translationInvalidation r x c) s = .next t ∧ t = { s with tlb := t.tlb, epoch := s.epoch + 1, prior := t.prior, cp := t.cp } ∧
      (∀ e, e ∈ t.tlb ↔ e ∈ s.tlb ∧ e.1 ≠ x) ∧ t.cp.log = s.cp.log ++ [{ kind := 8, a := r, b := c, time := s.time }]) ∧
  (∀ (s : State) (r k : Nat) (a : Access) (sc : Nat) (w : List Nat), (ctxAt s (k / 512)).resident = true → (coreAt s k).accs = [a] →
    (coreAt s k).snap = none → a.op = .tfence sc w true →
    (w = [r] → exec (.invalidationAcknowledgement r k) s = .next (coreSet s k fun x => { x with accs := [] })) ∧
    (∀ q, q ≠ r → q ∈ w → ∃ (t : State) (b : Access), exec (.invalidationAcknowledgement r k) s = .next t ∧ (coreAt t k).accs = [b] ∧ b.id = a.id ∧
      ∃ w', b.op = .tfence sc w' true ∧ ∀ z, z ∈ w' ↔ z ∈ w ∧ z ≠ r)) ∧
  (∀ s : State, s.memWf → (s.page.lowmark = 0 ∨ s.page.airsize = 0 → exec .pageCompressorSweep s = .next s) ∧
    (s.page.lowmark ≠ 0 → s.page.airsize ≠ 0 → s.airing.free.length < s.page.lowmark.toNat →
      ∀ l, nextLeaf s (allLeaves s) = some l →
        (readNat s.hbm l.ea 8 / 2 ^ 6 % 2 = 1 →
          ∃ t, exec .pageCompressorSweep s = .next t ∧
            t = { s with hbm := t.hbm, tlb := t.tlb, airing := { s.airing with hand := l.frame + 32768 } } ∧
            (∀ x, (x < l.ea ∨ l.ea + 8 ≤ x) → readByte t.hbm x = readByte s.hbm x) ∧
            readNat t.hbm l.ea 8 = readNat s.hbm l.ea 8 - 64) ∧
        (readNat s.hbm l.ea 8 / 2 ^ 6 % 2 = 0 →
          let z := s.page.airbase.toNat + s.airing.used
          let zn := Config.compressedSize (readBytes s.hbm l.frame 32768)
          (zoneFits s (readBytes s.hbm l.frame 32768) = true → l.ea + 8 ≤ z ∨ z + zn ≤ l.ea → ∃ t, exec .pageCompressorSweep s = .next t ∧
            t = { s with hbm := t.hbm, tlb := t.tlb, prior := t.prior, airing := t.airing, capTags := t.capTags, poison := t.poison } ∧
            (∀ x, (x < l.ea ∨ l.ea + 8 ≤ x) → (x < z ∨ z + zn ≤ x) → readByte t.hbm x = readByte s.hbm x) ∧
            readNat t.hbm l.ea 8 % 2 = 0 ∧ readNat t.hbm l.ea 8 / 2 ^ 9 % 2 = 1 ∧ t.airing.free = s.airing.free ++ [l.frame] ∧
            t.airing.hand = l.frame + 32768 ∧
            t.airing.used = s.airing.used + zn ∧
            mget { bytes := [], tags := [], prior := [] } t.airing.zone s.airing.next =
              { bytes := readBytes s.hbm l.frame 32768, tags := frameTags s l.frame, prior := framePrior s l.frame }) ∧
          (zoneFits s (readBytes s.hbm l.frame 32768) = false →
            exec .pageCompressorSweep s = .next { s with airing := { s.airing with hand := l.frame + 32768 } })))) ∧
  (∀ (s : State) (k : Nat) (st : Stop), (coreAt s k).stop = some st → st.code = 3 → (coreAt s k).csr.tcause.toNat / 2 ^ 16 % 256 = 2 →
    ∃ t, exec (.airedFaultResolve k) s = .next t ∧ (coreAt t k).stop = none ∧ (coreAt t k).snap = none ∧
      ((coreAt s k).csr.tval.toNat / 2 ^ 47 % 1024 ≠ s.port.rank →
        t = { s with cores := t.cores } ∧ (coreAt t k).g = (coreAt s k).g ∧ ∀ j, j ≠ k → coreAt t j = coreAt s j)) ∧
  (∀ (s : State) (w : Word),
    (seamOf s w = none → exec (.seamPartialDiscard w) s = .next s) ∧
    (∀ m l, seamOf s w = some m → linkTo s false (w.toNat / 2 ^ 20 % 1024) = some l →
      ∃ (t : State) (q : Sent), exec (.seamPartialDiscard w) s = .next t ∧ t = { s with port := t.port } ∧
        t.port.seams = (s.port.seams.filter fun m => m.name != w) ∧ t.port.queue = s.port.queue ++ [q] ∧ q.link = l ∧
        q.frame.dst = w.toNat / 2 ^ 20 % 1024 ∧ q.frame.ctx = m.ctx ∧ q.frame.body = .winack w 0))

/-! ### The host and the CP -/

namespace Sys2Proof.Stmt

/-- No context of the die is resident. -/
def noneResident (s : State) : Prop := ∀ e ∈ s.ctxs, ∀ x, e.2 = some x → x.resident = false

/-- The management ring's next command is not this one: the event has its effect alone (R396). -/
def apart (i : Instr) (s : State) : Prop := mgmtNext s ≠ some i

/-- No context of the die was created in checked mode. -/
def noneChecked (s : State) : Prop := ∀ e ∈ s.ctxs, ∀ x, e.2 = some x → x.checked = false

/-- Rank r may be given position p (64 × shelf + port), or none (R274): its default, or its shelf's spare, which no other rank of the shelf
then has. -/
def labels (s : State) (r : Nat) (p : Option Nat) : Prop :=
  r < 1024 ∧ (p = none ∨ p = some (64 * (r / 32) + r % 32) ∨
    (p = some (64 * (r / 32) + 32) ∧ ∀ k < 32, 32 * (r / 32) + k ≠ r → rankPos s (32 * (r / 32) + k) ≠ some (r / 32, 32)))

/-- The journal ring is not written (R399). -/
def quietJournal (s : State) : Prop := s.page.jlog.toNat < 12

/-- When the CP serves the oldest accepted command, which is this one, it leaves the ring and its STATUS is one that `ok` allows (R396). -/
def Serves (i : Instr) (ok : State → Nat → Prop) : Prop :=
  ∀ (s : State) (c : Cmd) (r : List Cmd), s.memWf → quietJournal s → s.cp.mcmds = c :: r → mgmtInstr c.words = some i →
    ∃ t, exec i s = .next t ∧ t.cp.mcmds = r ∧ t.cp.mhead = s.cp.mhead ∧ t.cp.mtail = s.cp.mtail ∧ ok s (readNat t.hbm (c.addr + 1) 1)

/-- The statuses of the checks of R30 on a loop-nest record, 0 when all hold. -/
def launchError (s : State) (x : Nat) (r : BitVec 512) : Nat :=
  let f (lo n : Nat) : Nat := r.toNat / 2 ^ lo % 2 ^ n
  let n := f 177 3
  let order := (List.range 6).map fun i => f (156 - 3 * i) 3
  let bound (j : Nat) : Nat := f (192 + 32 * j) 32
  if f 0 6 ≠ 0 ∨ f 47 10 ≠ s.port.rank then 1
  else if rectOk s (f 170 3) (f 167 3) (f 163 4) (f 159 4) = false then 2
  else if n = 0 ∨ n = 7 ∨ (∃ j < n, j ∉ order.take n) ∨ (∃ v ∈ order.drop n, v ≠ 0) ∨ (∃ j < 6, (bound j = 0 ↔ j < n)) ∨ 2 ^ 32 < lrTotal r then 3
  else if f 479 1 = 1 ∧ groupUsable s x (groupEntry s x (f 480 8)) = false then 4
  else if f 488 24 ≠ 0 ∨ f 448 31 ≠ 0 ∨ f 173 4 ≠ 0 ∨ f 128 7 ≠ 0 ∨ f 57 7 ≠ 0 then 5
  else 0

/-- The state in which a grant to queue q does its work: arbitration has noted the queue (R351). -/
def granted (s : State) (q : Nat) : State := { s with fcp := { s.fcp with lastQ := mset s.fcp.lastQ (qdPrio s q) (q + 1) } }

/-- The head command of queue q has completed with a status word (R353): the word is in the command, the command has left its queue. -/
def Completed (s t : State) (q : Nat) (c : Cmd) (r : List Cmd) (status : Nat) : Prop :=
  queueCmds t q = r ∧ readNat t.hbm (c.addr + 8) 8 = status % 2 ^ 64 ∧ t.cores = s.cores ∧ t.ctxs = s.ctxs ∧ t.fcp.launches = s.fcp.launches

/-- n small steps of an instance within one grant of `chunk` bytes lead from one position to another (R350). -/
inductive Runs (q chunk : Nat) (w : BitVec 512) : Nat → Grant → Grant → Prop where
  | refl (a : Grant) : Runs q chunk w 0 a a
  | step {n : Nat} {a b c : Grant} : a.moved < chunk → microStep q w a = .go b → Runs q chunk w n b c → Runs q chunk w (n + 1) a c

end Sys2Proof.Stmt

/-- R393 to R396, R407: a doorbell that moves TAIL forward by at most the ring's size accepts the new commands in order and moves HEAD to
TAIL; one that does not, or rings before boot, is counted. The management doorbell does the same for the CP's
ring. A descriptor that is enabled
starts with HEAD and TAIL 0. A write of the control page sets a writable field, rings a doorbell, or is counted. Boot verifies the
firmware, applies the retirement store, and starts the CP: BOOTST names the stage and what failed. -/
def Sys2Proof.Stmt.HostInterface : Prop :=
  (∀ (s : State) (q : Fin 64) (t : BitVec 32), s.memWf → quietJournal s →
    (bootStage s ≠ 0 → qdEn s q = true → doorbellOk t.toNat (qdTail s q) (qdHead s q) (qdLog s q) = true →
      ∃ u, exec (.doorbell q t) s = .next u ∧ qdTail u q = t.toNat ∧ qdHead u q = t.toNat ∧ u.cores = s.cores ∧ u.ctxs = s.ctxs ∧
        (queueCmds u q).length = (queueCmds s q).length + (t.toNat + 2 ^ 32 - qdHead s q) % 2 ^ 32 ∧
        queueCmds s q <+: queueCmds u q ∧ ∀ p, p ≠ q.val → queueCmds u p = queueCmds s p) ∧
    (bootStage s = 0 ∨ qdEn s q = false ∨ doorbellOk t.toNat (qdTail s q) (qdHead s q) (qdLog s q) = false →
      exec (.doorbell q t) s = .next (secntPlus s 7)) ∧
    (∀ v : Word, v.toNat % 2 ^ 32 = t.toNat → exec (.hostControlPageWrite (0x100 + 8 * q.val) v) s = exec (.doorbell q t) s)) ∧
  (∀ (s : State) (t : BitVec 32),
    (bootStage s ≠ 0 → doorbellOk t.toNat (s.cp.mtail % 2 ^ 32) (s.cp.mhead % 2 ^ 32) s.page.msize.toNat = true →
      quietJournal s → ∃ u, exec (.managementDoorbell t) s = .next u ∧ u = { s with cp := u.cp, page := u.page } ∧ u.cp.mtail = t.toNat ∧
        u.cp.mhead % 2 ^ 32 = t.toNat ∧ s.cp.mcmds <+: u.cp.mcmds ∧
        u.cp.mcmds.length = s.cp.mcmds.length + (t.toNat + 2 ^ 32 - s.cp.mhead % 2 ^ 32) % 2 ^ 32 ∧
        u.page = { s.page with jnext := s.page.jnext + (t.toNat + 2 ^ 32 - s.cp.mhead % 2 ^ 32) % 2 ^ 32 }) ∧
    (bootStage s = 0 ∨ doorbellOk t.toNat (s.cp.mtail % 2 ^ 32) (s.cp.mhead % 2 ^ 32) s.page.msize.toNat = false →
      exec (.managementDoorbell t) s = .next (secntPlus s 7))) ∧
  (∀ (s : State) (q : Fin 64), s.memWf →
    (qdEn s q = true → exec (.queueDescriptorEnable q) s = .next s) ∧
    (qdEn s q = false → ∃ u, exec (.queueDescriptorEnable q) s = .next u ∧ qdEn u q = true ∧ qdHead u q = 0 ∧ qdTail u q = 0 ∧
      qdLog u q = qdLog s q ∧ qdRing u q = qdRing s q ∧
      ∀ a, (a < qdAddr s q ∨ qdAddr s q + 24 ≤ a) → readByte u.hbm a = readByte s.hbm a)) ∧
  (∀ (s : State) (v : Word), bootStage s ≠ 0 →
    exec (.hostControlPageWrite 0x018 v) s = .next { s with page := { s.page with chunk := v } } ∧
    exec (.hostControlPageWrite 0x020 v) s = .next { s with page := { s.page with lowmark := v } } ∧
    ((∀ e ∈ s.ctxs, e.2 = none) →
      exec (.hostControlPageWrite 0x000 v) s = .next { s with page := { s.page with qdbase := v } } ∧
      exec (.hostControlPageWrite 0x308 v) s = .next { s with page := { s.page with jbase := v } }) ∧
    ((∃ e ∈ s.ctxs, e.2.isSome = true) → exec (.hostControlPageWrite 0x000 v) s = .next (secntPlus s 7)) ∧
    exec (.hostControlPageWrite 0x440 v) s = .next (secntPlus s 7)) ∧
  (∀ s : State,
    (s.page.bootst ≠ 0 → exec .boot s = .next s) ∧
    (s.page.bootst = 0 → Config.firmwareOk 0 = false → exec .boot s = .next { defaultTables s with page := { s.page with bootst := 0x100 } }) ∧
    (s.page.bootst = 0 → Config.firmwareOk 0 = true → Config.firmwareOk 1 = false →
      exec .boot s = .next { defaultTables s with page := { s.page with bootst := 0x200 } }) ∧
    (s.page.bootst = 0 → Config.firmwareOk 0 = true → Config.firmwareOk 1 = true →
      let kept := (applyStore s.shape.records { s with shape := { s.shape with stored := 0, applied := 0 } }).2
      ∃ t, exec .boot s = .next t ∧
        t.page.bootst = (if kept = false then 0x301 else if Config.bootFail = 0 then 3 else BitVec.ofNat 64 (1 + Config.bootFail * 256)) ∧ t.hbm = s.hbm ∧ t.sram = s.sram ∧ t.ctxs = s.ctxs ∧ t.cores = s.cores ∧
        t.fcp = s.fcp ∧ (∀ p < 256, vbusAt t p = { due := s.time + p * 125000, ends := none }) ∧
        t.shape.catalogue.length = 256))

/-- R349 to R353: a grant goes to no queue when none is ready. A malformed command ends with BADCMD (6), a NOP and a WAIT whose
timeline has reached its value end with status 0: the status is stored in the command, the command leaves its queue, and nothing else
of the machine's cores and contexts moves. -/
def Sys2Proof.Stmt.CommandGrants : Prop :=
  (∀ s : State, nextQueue s = none → exec .fcpGrant s = .next s) ∧
  (∀ (s : State) (q : Nat) (c : Cmd) (r : List Cmd), s.memWf → quietJournal s → nextQueue s = some q → queueCmds s q = c :: r →
    (c.started = false → cmdBad s c.words = true → ∃ t, exec .fcpGrant s = .next t ∧ queueCmds t q = r ∧ readNat t.hbm (c.addr + 8) 8 = 6 ∧
      t.cores = s.cores ∧ t.ctxs = s.ctxs ∧ t.fcp.launches = s.fcp.launches) ∧
    (cmdBad s c.words = false → (cmdKind c.words = 0 ∨ cmdKind c.words = 3) →
      ∃ t, exec .fcpGrant s = .next t ∧ queueCmds t q = r ∧ readNat t.hbm (c.addr + 8) 8 = 0 ∧ t.cores = s.cores ∧ t.ctxs = s.ctxs ∧
        t.fcp.launches = s.fcp.launches ∧
        (mget [] s.fcp.dtDone q = [] → c.num = (mget 0 s.fcp.dt q).toNat + 1 → c.num < 2 ^ 64 → (mget 0 t.fcp.dt q).toNat = c.num)))

/-- R30, R31, R353: the grant of a LAUNCH reads its record; one that fails a check of R30, or whose record cannot be read, ends with the
check's status and starts nothing; one that passes is started: it has the next sequence number, holds no core, and begins to reserve. -/
def Sys2Proof.Stmt.LaunchGrants : Prop :=
  ∀ (s : State) (q : Nat) (c : Cmd) (r : List Cmd), s.memWf → quietJournal s → nextQueue s = some q → queueCmds s q = c :: r →
    cmdBad s c.words = false → cmdKind c.words = 1 →
    let x := cmdCtx c.words
    let read := fcpAccess (granted s q) x s.time false (cmdAddr c.words) (.load 64 false)
    (∀ e, read = .error e → e.aired = false → ∃ t, exec .fcpGrant s = .next t ∧ Completed s t q c r e.status) ∧
    (∀ v bs, read = .ok (v, bs) → v.memWf → quietJournal v → queueCmds v q = c :: r →
      let rec_ : BitVec 512 := BitVec.ofNat 512 (leNat bs)
      (launchStatus v x rec_ = launchError v x rec_) ∧
      (launchError v x rec_ ≠ 0 → ∃ t, exec .fcpGrant s = .next t ∧ Completed v t q c r (launchError v x rec_)) ∧
      (launchError v x rec_ = 0 → ∃ (t : State) (l : Launch), exec .fcpGrant s = .next t ∧ t.fcp.launches = v.fcp.launches ++ [l] ∧
        queueCmds t q = { c with started := true } :: r ∧ t.cores = v.cores ∧ l.seq = v.fcp.seq + 1 ∧ t.fcp.seq = l.seq ∧ l.ctx = x ∧
        l.record = rec_ ∧ l.phase = .reserving ∧ l.held = [] ∧ l.k = 0 ∧ l.step = 0 ∧ l.ord = 0 ∧ l.running = 0 ∧ l.start = v.time ∧
        l.queue = some q))

/-- R350, R353, R358 to R361, R364, R365, R370: the grants of a COLL. One that fails a check ends with the check's status and FSTEP, and
starts nothing; one that passes starts an instance under the next SEQ of its group. A grant runs the instance's steps until CHUNK bytes
have moved, it would wait, or it ends; the counters of the peers written and read rise before it ends. An instance that ends completes
its command; one that fails clears V of its group entry and completes it with the status and the step. LOOP opens a level, or goes past
its ENDL when the count is zero; ENDL goes round or closes it; a step with skip, and a WAIT without D, only go on; END and a WAIT with D
wait until every slot sent has been consumed; a data step waits for a free slot of its peer, or for a slot that has come. -/
def Sys2Proof.Stmt.CollectiveGrants : Prop :=
  (∀ (s : State) (q : Nat) (c : Cmd) (r : List Cmd), s.memWf → quietJournal s → nextQueue s = some q → queueCmds s q = c :: r →
    cmdBad s c.words = false → cmdKind c.words = 2 →
    let w := c.words
    let u := granted s q
    (∀ i, c.inst = some i → exec .fcpGrant s = .next (grantColl u q c i)) ∧
    (c.inst = none →
      let badCmd : Prop := cmdType w = 3 ∨ cmdOp w = 3 ∨ cmdBlk w % 256 ≠ 0 ∨ cmdBlk w < 256 ∨ 2 ^ 30 < cmdBlk w ∨ (cmdAddr w).toNat % 8 ≠ 0
      let badGroup : Prop := groupUsable s (cmdCtx w) (groupEntry s (cmdCtx w) (cmdGrp w)) = false
      let viol : Prop := ∃ i < 3, (cmdBuf w i).toNat / 2 ^ 57 ≠ 0 ∨ (cmdBuf w i).toNat / 2 ^ 47 % 1024 ≠ s.port.rank
      (badCmd → ∃ t, exec .fcpGrant s = .next t ∧ Completed s t q c r 6) ∧
      (¬badCmd → badGroup → ∃ t, exec .fcpGrant s = .next t ∧ Completed s t q c r 4) ∧
      (¬badCmd → ¬badGroup → viol → ∃ t, exec .fcpGrant s = .next t ∧ Completed s t q c r 0x0A) ∧
      (∀ e n, collCheck u w = .error (e, n) → e.aired = false →
        ∃ t, exec .fcpGrant s = .next t ∧ Completed s t q c r (e.status + n * 2 ^ 32)) ∧
      (∀ v prog, collCheck u w = .ok (v, prog) → v.memWf → quietJournal v → queueCmds v q = c :: r →
        let a := (ctxAt v (cmdCtx w)).grptab + 256 * cmdGrp w + 132
        ∃ (z : State) (i : Instance_), exec .fcpGrant s = .next (grantColl z q c i) ∧ i.prog = prog ∧ i.seq = (readNat v.hbm a 4 + 1) % 2 ^ 32 ∧
          readNat z.hbm a 4 = i.seq ∧ (∀ x, (x < a ∨ a + 4 ≤ x) → readByte z.hbm x = readByte v.hbm x) ∧ i.step = 0 ∧ i.loops = [] ∧
          i.out = 0 ∧ i.inn = 0 ∧ i.ovf = false ∧ i.start = v.time ∧ i.adds = [] ∧ z.cores = v.cores ∧ z.ctxs = v.ctxs))) ∧
  (∀ (s : State) (q n : Nat) (c : Cmd) (r : List Cmd) (i : Instance_) (b : Grant), s.memWf → quietJournal s → queueCmds s q = c :: r →
    i.adds = [] → n < 2 ^ 100 → Runs q (chunkBytes s) c.words n { s := s, i := i, moved := 0, wr := [], rd := [] } b →
    (chunkBytes s ≤ b.moved ∨ (b.moved < chunkBytes s ∧ microStep q c.words b = .wait) →
      grantColl s q c i = endGrant b.s q c b.i (grantAdds b) false) ∧
    (b.moved < chunkBytes s → ∀ d,
      (microStep q c.words b = .done d → grantColl s q c i = endGrant d.s q c d.i (grantAdds d) true) ∧
      (∀ e, microStep q c.words b = .fail d e → e.aired = false →
        grantColl s q c i = failColl (dropAdds c.words (grantAdds d) d.s) q c.words d.i e))) ∧
  (∀ (s : State) (q : Nat) (c : Cmd) (r : List Cmd) (i : Instance_), s.memWf → quietJournal s → queueCmds s q = c :: r →
    endGrant s q c i [] false = setHead s q { c with started := true, inst := some { i with adds := [] } } ∧
    Completed s (endGrant s q c i [] true) q c r (i.ovf.toNat * 256) ∧
    (∀ e : FcpErr, let v := (ctxAt s (cmdCtx c.words)).grptab + 256 * cmdGrp c.words + 131
      (c.addr + 16 ≤ v ∨ v < c.addr + 8) →
      Completed s (failColl s q c.words i e) q c r (e.status + i.ovf.toNat * 256 + i.step * 2 ^ 32) ∧
        (readByte (failColl s q c.words i e).hbm v).toNat < 128)) ∧
  (∀ (q : Nat) (w : BitVec 512) (b : Grant), b.i.bad = 0 →
    let sw := b.i.prog.getD b.i.step 0
    let g := grpOf (groupEntry b.s (cmdCtx w) (cmdGrp w))
    let n := g.ranks.length
    let op := sw.toNat / 2 ^ 60
    let lv (d : Nat) : Nat := ((b.i.loops[d]?).map LoopLevel.c).getD 0
    let v := (if sw.getLsbD 58 then sw.toNat / 2 ^ 46 % 1024 * 2 ^ lv (sw.toNat / 2 ^ 56 % 4) else sw.toNat / 2 ^ 46 % 1024) % 2 ^ 32
    let fwd := if sw.getLsbD 59 then (g.me + v) % max 1 n else g.me ^^^ v
    let onto (l : List LoopLevel) (ix : Nat) : Micro :=
      .go { b with i := { b.i with step := ix, loops := l, out := 0, inn := 0, blocks := 0, data := [], head := [] } }
    let counted (p f y : Nat) : Prop := grpCount b.s (cmdCtx w) g p f = .ok y
    (∀ y, drained b.s (cmdCtx w) g = .ok y →
      (op = 0 → microStep q w b = if y then .done b else .wait) ∧
      (op = 6 → sw.getLsbD 0 = true → microStep q w b = if y then onto b.i.loops (b.i.step + 1) else .wait)) ∧
    (op = 6 → sw.getLsbD 0 = false → microStep q w b = onto b.i.loops (b.i.step + 1)) ∧
    (op = 7 →
      let k := match sw.toNat / 2 ^ 58 % 4 with | 0 => sw.toNat % 65536 | 1 => n - sw.toNat % 65536 | _ => Nat.clog 2 n
      (k = 0 → microStep q w b = onto b.i.loops (matchEndl b.i.prog 1024 (b.i.step + 1) 0 + 1)) ∧
      (k ≠ 0 → microStep q w b = onto (b.i.loops ++ [{ first := b.i.step + 1, count := k, c := 0 }]) (b.i.step + 1))) ∧
    (op = 8 → ∀ (l : LoopLevel) (ls : List LoopLevel), b.i.loops = ls ++ [l] → microStep q w b =
      if l.c + 1 < l.count then onto (ls ++ [{ l with c := l.c + 1 }]) l.first else onto ls (b.i.step + 1)) ∧
    (1 ≤ op → op ≤ 4 → sw.getLsbD 59 = false → max 1 n ≤ fwd → microStep q w b = onto b.i.loops (b.i.step + 1)) ∧
    (op = 1 → (sw.getLsbD 59 = true ∨ fwd < max 1 n) →
      (slotCount w (sw.toNat / 2 ^ 24 % 8) (sw.getLsbD 23) ≤ b.i.out → microStep q w b = onto b.i.loops (b.i.step + 1)) ∧
      (b.i.out < slotCount w (sw.toNat / 2 ^ 24 % 8) (sw.getLsbD 23) → ∀ snt fre, counted fwd 8 snt → counted fwd 4 fre →
        g.psub ≤ (snt + 2 ^ 32 - fre) % 2 ^ 32 → microStep q w b = .wait)) ∧
    (op = 2 → sw.getLsbD 59 = false → fwd < max 1 n → b.i.inn = 0 → ∀ arr con, counted fwd 0 arr → counted fwd 12 con →
      (arr + 2 ^ 32 - con) % 2 ^ 32 = 0 → microStep q w b = .wait))

/-- R30, R349 to R370, R393 to R396, R407: the host's writes, boot, and the grants of the front-end command processor.
(Whether images verify is a Config constant: log entry 9.) -/
def Obligations.HostAndGrants : Prop := Stmt.HostInterface ∧ Stmt.CommandGrants ∧ Stmt.LaunchGrants ∧ Stmt.CollectiveGrants

/-- R274, R280, R282, R290, R396, R405, R408: what each management command does to the machine.
(The packing of the arguments is log entry 10.) -/
def Obligations.ManagementCommands : Prop :=
  (∀ (s : State) (g : Nat), apart (.gate g) s → noneResident s → g < 4 → (2 ≤ g → ∀ e ∈ s.ctxs, ∀ x, e.2 = some x → x.checked = false) →
    ∃ t, exec (.gate g) s = .next t ∧ t.shape.gate = g ∧ t.hbm = s.hbm ∧ t.ctxs = s.ctxs ∧ t.cores = s.cores ∧
      ∀ a, readByte t.sram a = if g % 2 = 1 ∧ a / 65536 % 2 = 1 then 0 else readByte s.sram a) ∧
  (∀ (s : State) (g : Nat), apart (.gate g) s → (3 < g ∨ ¬noneResident s ∨ (2 ≤ g ∧ ¬noneChecked s)) → exec (.gate g) s = .next s) ∧
  (∀ (s : State) (r n : Nat) (p : Option Nat), apart (.relabel r p n) s →
    (labels s r p → slotNow s < n → exec (.relabel r p n) s = .next { s with port := { s.port with relabelAt := s.port.relabelAt ++
        [(n, r, p.map fun a => (a / 64, a % 64))] } }) ∧
    (¬labels s r p ∨ n ≤ slotNow s → exec (.relabel r p n) s = .next s)) ∧
  (∀ (s : State) (pl p v z : Nat), apart (.setpeg pl p v z) s → noneResident s → pl < 2 → p < 34 → v < 4 → 1 ≤ z → z ≤ 64 →
    ∃ t, exec (.setpeg pl p v z) s = .next t ∧ t = { s with port := { s.port with pool := t.port.pool } } ∧
      ∀ l u, lget 0 t.port.pool l u =
        if l = { plane := if pl = 0 then .shelf else .column, port := p } ∧ u = v then z else lget 0 s.port.pool l u) ∧
  (∀ (s : State) (pl p v z : Nat), apart (.setpeg pl p v z) s → (¬noneResident s ∨ 1 < pl ∨ 33 < p ∨ 3 < v ∨ z = 0 ∨ 64 < z) →
    exec (.setpeg pl p v z) s = .next s) ∧
  (∀ (s : State) (pl a n : Nat), apart (.table pl a n) s → pl < 2 → a + 1040 ≤ hbmBytes s →
    let t := tableImage s a
    let plane : Plane := if pl = 0 then .shelf else .column
    (tableFault s plane t = none → n % t.length = 0 → slotNow s < n →
      exec (.table pl a n) s = .next { s with port := { s.port with shadowT := s.port.shadowT.set pl (some (n, t)) } }) ∧
    (tableFault s plane t = none → (n % t.length ≠ 0 ∨ n ≤ slotNow s) → exec (.table pl a n) s = .next s) ∧
    (∀ sub lane line peer, tableFault s plane t = some (sub, lane, line, peer) → ∃ (u : State) (x : LogEntry), exec (.table pl a n) s = .next u ∧
      u = { s with cp := u.cp } ∧ u.cp.log = s.cp.log ++ [x] ∧ x.kind = 20 ∧ x.time = s.time ∧
      x.a = sub + pl * 2 ^ 8 + lane % 256 * 2 ^ 16 + line % 256 * 2 ^ 24 + peer % 256 * 2 ^ 32 ∧ x.b = slotNow s)) ∧
  (∀ (s : State) (pl a n : Nat), apart (.table pl a n) s → (1 < pl ∨ hbmBytes s < a + 1040) → exec (.table pl a n) s = .next s) ∧
  (∀ (s : State) (t n : Nat), apart (.tlen t n) s →
    (16 ≤ t → t ≤ 1000 → slotNow s < n → exec (.tlen t n) s = .next { s with port := { s.port with tlenAt := some (t, n) } }) ∧
    (t < 16 ∨ 1000 < t ∨ n ≤ slotNow s → exec (.tlen t n) s = .next s)) ∧
  (∀ (s : State) (a r : Nat), apart (.attest a r) s → s.memWf →
    (a + 32 ≤ hbmBytes s → r + 512 ≤ hbmBytes s →
      ∃ t, exec (.attest a r) s = .next t ∧ t = { s with hbm := t.hbm, capTags := t.capTags, poison := t.poison, prior := t.prior } ∧
        (∀ i < 32, readByte t.hbm (r + i) = readByte s.hbm (a + i)) ∧
        readNat t.hbm (r + 32) 32 = (Config.imageDigest 0).toNat ∧ readNat t.hbm (r + 64) 32 = (Config.imageDigest 1).toNat ∧
        ∀ x, (x < r ∨ r + 512 ≤ x) → readByte t.hbm x = readByte s.hbm x) ∧
    (hbmBytes s < a + 32 ∨ hbmBytes s < r + 512 → exec (.attest a r) s = .next s)) ∧
  (∀ g, Serves (.gate g) fun s st => (3 < g → st = 3) ∧ (g ≤ 3 → (¬noneResident s → st = 1) ∧
    (noneResident s → (2 ≤ g ∧ ¬noneChecked s → st = 2) ∧ (g < 2 ∨ noneChecked s → st = 0)))) ∧
  (∀ r p n, Serves (.relabel r p n) fun s st => (¬labels s r p → st = 3) ∧ (labels s r p → st = if n ≤ slotNow s then 6 else 0)) ∧
  (∀ pl p v z, Serves (.setpeg pl p v z) fun s st => (1 < pl ∨ 33 < p ∨ 3 < v ∨ z = 0 ∨ 64 < z → st = 3) ∧
    (pl < 2 → p < 34 → v < 4 → 1 ≤ z → z ≤ 64 → (¬noneResident s → st = 1) ∧ (noneResident s → st = 0))) ∧
  (∀ pl a n, Serves (.table pl a n) fun s st => (1 < pl ∨ hbmBytes s < a + 1040 → st = 3) ∧
    (pl < 2 → a + 1040 ≤ hbmBytes s →
      let t := tableImage s a
      let ok : Prop := tableFault s (if pl = 0 then .shelf else .column) t = none
      (¬ok → st = 9) ∧ (ok → n % t.length ≠ 0 → st = 3) ∧ (ok → n % t.length = 0 → st = if n ≤ slotNow s then 6 else 0))) ∧
  (∀ t n, Serves (.tlen t n) fun s st => st = if t < 16 ∨ 1000 < t then 3 else if n ≤ slotNow s then 6 else 0)

/-- R48, R49, R230, R233, R236, R396, R397: contexts and stopped cores. PREEMPT makes a resident context not resident with status 1, its
launches releasing their gangs; RESTORE makes it resident; CREATE adds one that is not resident, its cores in the creation state;
DESTROY removes one and its work; RESUME lets a stopped core go on or ends its task; ABORT ends the head command of a queue.
(The statuses of the refused cases are log entry 45.) -/
def Obligations.ContextCommands : Prop :=
  (∀ (s : State) (x : Nat), apart (.preempt x) s →
    ((ctxAt s x).resident = true →
      ∃ t, exec (.preempt x) s = .next t ∧ (ctxAt t x).resident = false ∧ (ctxAt t x).status = 1 ∧
        ∀ l ∈ t.fcp.launches, l.ctx = x → (∀ n, l.phase ≠ .finishing n) → l.held = [] ∧ l.phase = .reserving) ∧
    ((ctxAt s x).resident = false → exec (.preempt x) s = .next s)) ∧
  (∀ (s : State) (x a : Nat) (c : Ctx), apart (.restore x a) s → ctxAt? s x = some c →
    (c.resident = true → exec (.restore x a) s = .next s) ∧
    (c.resident = false → a % 4096 = 0 → a + 4096 ≤ hbmBytes s → readNat s.hbm a 2 = x →
      (readNat s.hbm (a + 0x10) 8 ≠ zBytes s c.checked → exec (.restore x a) s = .next s) ∧
      (readNat s.hbm (a + 0x10) 8 = zBytes s c.checked → launchesFit s x = true → (residents s).length < 16 →
        (overlapsResident (loadImage s x a) x = true → exec (.restore x a) s = .next s) ∧
        (overlapsResident (loadImage s x a) x = false →
          ∃ t, exec (.restore x a) s = .next t ∧ (ctxAt t x).resident = true ∧ (ctxAt t x).status = 0)))) ∧
  (∀ (s : State) (a : Nat), apart (.create a) s → bootStage s = 3 →
    let ident := readNat s.hbm a 8
    let x := ident % 65536
    let checked := ident / 65536 % 2 == 1
    x ≠ 0xFFFF → (checked = true → uOn s = true) → headerZero s a = true →
    headerAddrs s a (coreCount s checked) (zBytes s checked) = true →
    (ctxAt? s x = none →
      ∃ t, exec (.create a) s = .next t ∧ (ctxAt t x).resident = false ∧ (ctxAt t x).status = 2 ∧ (ctxAt t x).checked = checked ∧
        (ctxAt t x).area = a ∧ (∀ n < 512, coreAt t (512 * x + n) = Core.init) ∧ ∀ y, y ≠ x → ctxAt? t y = ctxAt? s y) ∧
    ((ctxAt? s x).isSome = true → exec (.create a) s = .next s)) ∧
  (∀ (s : State) (x : Nat) (c : Ctx), apart (.destroy x) s → ctxAt? s x = some c →
    (c.resident = false → ctxQueued s x = false →
      ∃ t, exec (.destroy x) s = .next t ∧ ctxAt? t x = none ∧ (∀ n < 512, coreAt t (512 * x + n) = Core.init) ∧
        (∀ l ∈ t.fcp.launches, l.ctx ≠ x) ∧ ∀ r ∈ t.fcp.ready, r.ctx ≠ x) ∧
    (c.resident = true ∨ ctxQueued s x = true → exec (.destroy x) s = .next s)) ∧
  (∀ (s : State) (x n a : Nat) (st : Stop), apart (.resume x n a) s → ctxAt? s x ≠ none → n < (ctxAt s x).ncore → n < 512 →
    (ctxAt s x).resident = true → (coreAt s (512 * x + n)).stop = some st → st.between = false →
    let k := 512 * x + n
    (st.code ≠ 0x11 → a < 2 →
      ∃ t, exec (.resume x n a) s = .next t ∧ t = { s with cores := t.cores } ∧ (coreAt t k).stop = none ∧
        (coreAt t k).task = (coreAt s k).task ∧ (coreAt t k).g = (coreAt s k).g ∧ ∀ j, j ≠ k → coreAt t j = coreAt s j) ∧
    (a = 2 → ∀ y, (coreAt s k).task = some y → y.record = none → y.done = 0 →
      ∃ t, exec (.resume x n a) s = .next t ∧ t = { s with cores := t.cores, fcp := t.fcp } ∧ (coreAt t k).task = none ∧
        (coreAt t k).stop = none ∧ ∀ j, j ≠ k → coreAt t j = coreAt s j) ∧
    (st.code = 0x11 → a < 2 → exec (.resume x n a) s = .next s)) ∧
  (∀ (s : State) (q : Nat) (c : Cmd) (r : List Cmd), apart (.abort q) s →
    (q < 64 → queueCmds s q = c :: r → ∃ t, exec (.abort q) s = .next t ∧ queueCmds t q = r ∧ t.cores = s.cores ∧ t.ctxs = s.ctxs) ∧
    (64 ≤ q ∨ queueCmds s q = [] → exec (.abort q) s = .next s))

/-! ### Frames -/

namespace Sys2Proof.Stmt

/-- The KIND, link and frame of a frame event. -/
def frameOf : Instr → Option (Nat × Link × Frame)
  | .storeFrame l f => some (0x00, l, f)
  | .sendFrame l f => some (0x01, l, f)
  | .fifoFrame l f => some (0x02, l, f)
  | .contribFrame l f => some (0x03, l, f)
  | .wpartFrame l f => some (0x04, l, f)
  | .mopFrame l f => some (0x05, l, f)
  | .sendlFrame l f => some (0x06, l, f)
  | .loadFrame l f => some (0x10, l, f)
  | .atomicFrame l f => some (0x11, l, f)
  | .chaseFrame l f => some (0x12, l, f)
  | .dataFrame l f => some (0x20, l, f)
  | .doneFrame l f => some (0x21, l, f)
  | .chresFrame l f => some (0x22, l, f)
  | .bounceFrame l f => some (0x23, l, f)
  | .faultFrame l f => some (0x24, l, f)
  | .fqcredFrame l f => some (0x25, l, f)
  | .winackFrame l f => some (0x26, l, f)
  | .arriveFrame l f => some (0x32, l, f)
  | .expectFrame l f => some (0x33, l, f)
  | .sstepFrame l f => some (0x34, l, f)
  | .violFrame l f => some (0x35, l, f)
  | .darnFrame l f => some (0x36, l, f)
  | .winregFrame l f => some (0x37, l, f)
  | .reservedKindFrame l f => some (0x3F, l, f)
  | _ => none

/-- A frame of a port. -/
def withPort (s : State) (p : Port) : State := { s with port := p }

/-- The next frame of its link and channel has been accepted: the peer has been heard, the next SEQ is expected (R290, R291). -/
def accepted (s : State) (l : Link) (f : Frame) : State :=
  withPort s { s.port with
    heard := (l, s.time) :: s.port.heard.filter fun h => h.1 != l
    inSeq := lput s.port.inSeq l f.vc.val ((f.seq + 1) % 65536) }

/-- Link l is told that every frame of channel v before `n` has been taken (R291). -/
def Acked (t : State) (l : Link) (v n : Nat) : Prop :=
  ∃ q ∈ t.port.queue, q.link = l ∧ ∃ ws, q.frame.body = .pegs ws ∧ (v, n) ∈ ws

/-- The frame is the next of its channel, has a good header of kind k, ends its hop here, finds a free receive slot, and is for this die;
no frame of its channel waits and its access is not held; no VC3 frame of its source waits (R293); its context exists, where it names one.
The part has started (R407), and a request of another die's unit finds a frame for its page (R353). -/
structure Comes (s : State) (l : Link) (f : Frame) (k : Nat) : Prop where
  next : f.seq % 65536 = lget 0 s.port.inSeq l f.vc.val
  stays : relayLink s l f = none ∧ poolFull s l f.vc.val = false
  header : f.resv = false ∧ f.hops ≤ 6 ∧ bodyKind f.body = k ∧ kindVc k = f.vc.val ∧ k ≠ 0x3F
  here : f.dh = false ∧ f.dst = s.port.rank
  free : heldSlots s l f.vc.val = [] ∧ frameHeld (accepted s l f) f = false ∧ frameStarved (accepted s l f) f = false
  order : behindLater s.port.later f = false
  up : bootStage s ≠ 0
  context : k = 0x36 ∨ (f.ctx ≠ 0xFFFF ∧ (ctxAt? s f.ctx).isSome = true)

/-- The frame event completes: the frame is accepted, acknowledged, counted with its source (R293), and has the effect that turns the
accepted state into `u`; only acknowledgements and the source's count come beside it, and the receive slot of a VC0 request that was
answered is held until the answer is sent (R292). -/
def Takes (i : Instr) (s : State) (l : Link) (f : Frame) (u : State) : Prop :=
  ∃ t, exec i s = .next t ∧
    t = withPort u { u.port with queue := t.port.queue, pseqIn := t.port.pseqIn, inHand := t.port.inHand } ∧
    Acked t l f.vc.val (ackSeq t l f.vc.val) ∧
    (∀ q ∈ u.port.queue, (∀ ws, q.frame.body ≠ .pegs ws) →
      ∃ x ∈ t.port.queue, x.link = q.link ∧ x.frame = q.frame ∧ (f.vc.val ≠ 0 → x = q)) ∧
    (t.port.inHand = if f.vc.val = 0 ∧ s.port.queue.length < u.port.queue.length then u.port.inHand ++ [(l, f.vc.val, f.seq)]
      else u.port.inHand) ∧
    (f.vc.val ≠ 2 → t.port.pseqIn = u.port.pseqIn)

/-- One core's record changes in an accepted state. -/
def coreIn (a : State) (k : Nat) (g : Core → Core) : State := { a with cores := mset a.cores k (g (coreAt a k)) }

end Sys2Proof.Stmt

/-- R278, R288, R290 to R292, R309: a frame whose plane hop ends elsewhere passes on; one before the frame expected is acknowledged again
and not taken; one beyond it, or one that finds its sender's pool full, is answered with a NAK of the SEQ expected; the next one with a bad
header, or of a reserved KIND, is acknowledged, discarded, counted and logged; the next one for another die goes on toward it with
HOPS + 1, its receive slot held until then; a CRC failure is counted and answered with a NAK. Before the part has started nothing passes on
(R407). (How relays pass frames is log entry 38.) -/
def Obligations.FrameOrder : Prop :=
  (∀ (i : Instr) (k : Nat) (l : Link) (f : Frame) (s : State) (n : Link), frameOf i = some (k, l, f) → relayLink s l f = some n →
    (bootStage s = 0 → exec i s = .next s) ∧
    (bootStage s ≠ 0 → ∃ q, exec i s = .next (withPort s { s.port with queue := s.port.queue ++ [q] }) ∧ q.link = n ∧ q.transit = true ∧
      q.frame = { f with hops := f.hops + 1 })) ∧
  (∀ (i : Instr) (k : Nat) (l : Link) (f : Frame) (s : State), frameOf i = some (k, l, f) → relayLink s l f = none →
    let e := lget 0 s.port.inSeq l f.vc.val
    let a := accepted s l f
    (f.seq % 65536 ≠ e → seqBefore f.seq e = true →
      ∃ t, exec i s = .next t ∧ t = withPort s { s.port with queue := t.port.queue } ∧ Acked t l f.vc.val (ackSeq s l f.vc.val)) ∧
    ((f.seq % 65536 ≠ e ∧ seqBefore f.seq e = false) ∨ (f.seq % 65536 = e ∧ poolFull s l f.vc.val = true) →
      ∃ (t : State) (q : Sent), exec i s = .next t ∧ t = withPort s { s.port with queue := s.port.queue ++ [q] } ∧ q.link = l ∧
        q.frame.body = .nak [(f.vc.val, e)]) ∧
    (f.seq % 65536 = e → poolFull s l f.vc.val = false →
      (f.resv = true ∨ 6 < f.hops ∨ bodyKind f.body ≠ k ∨ kindVc k ≠ f.vc.val ∨ k = 0x3F →
        ∃ t, exec i s = .next t ∧ t.port.dropped = s.port.dropped + 1 ∧
          t = { withPort a { a.port with queue := t.port.queue, dropped := t.port.dropped } with cp := t.cp } ∧
          t.cp.log.length = s.cp.log.length + 1 ∧ Acked t l f.vc.val (ackSeq a l f.vc.val)) ∧
      (f.resv = false → f.hops ≤ 6 → bodyKind f.body = k → kindVc k = f.vc.val → k ≠ 0x3F →
        bootStage s ≠ 0 → (f.dh = true ∨ f.dst ≠ s.port.rank) → (∀ n j bs, f.body ≠ .contrib n j bs) → ∀ h, nextLink s l f = some h →
        ∃ (t : State) (q : Sent), exec i s = .next t ∧
          t = withPort a { a.port with queue := t.port.queue, inHand := a.port.inHand ++ [(l, f.vc.val, f.seq)] } ∧ q ∈ t.port.queue ∧
          q.link = h ∧ q.frame = { f with hops := f.hops + 1 } ∧ q.frees = some (l, f.vc.val, f.seq) ∧
          Acked t l f.vc.val (ackSeq t l f.vc.val)))) ∧
  (∀ (s : State) (l : Link) (f : Frame), relayLink s l f = none → f.seq % 65536 = lget 0 s.port.inSeq l f.vc.val →
    poolFull s l f.vc.val = false →
    ∃ t, exec (.reservedKindFrame l f) s = .next t ∧ t.port.dropped = s.port.dropped + 1 ∧ t.cores = s.cores ∧ t.hbm = s.hbm) ∧
  (∀ (s : State) (l : Link) (v : Fin 4),
    ∃ (t : State) (q : Sent), exec (.frameCrcFailure l v) s = .next t ∧ t = withPort (secntPlus s 5) { s.port with queue := s.port.queue ++ [q] } ∧ q.link = l ∧
      q.frame.body = .nak [(v.val, lget 0 s.port.inSeq l v.val)])

/-- R165, R292, R293, R315, R320, R324, R326, R333: a memory frame is performed at its owner as an access of its source, and answered with a
value, a completion word, or a fault report; a SEND stores and only SENDL answers; a chase packet is advanced here. -/
def Sys2Proof.Stmt.MemoryFrames : Prop :=
  ∀ (s : State) (l : Link) (f : Frame) (w : Who) (r : Ret) (g : Option (BitVec 8)) (a : Word),
    f.sh = false →
    let c := accepted s l f
    (∀ op u x, f.body = .mem w r g a op → windowRefused c f.ctx a op = false → x.poison = false → performGen c (coreKey f.ctx 0) w false g a op = .ok (u, x) →
      (∀ n tag, op = .load n tag → Comes s l f 0x10 →
        Takes (.loadFrame l f) s l f (respond u f.ctx f.src (.data r x.bytes x.tag false))) ∧
      (∀ o n y z, op = .atomic o n y z → Comes s l f 0x11 →
        Takes (.atomicFrame l f) s l f (respond u f.ctx f.src (.data r (x.bytes.take n ++ leBytes 8 x.acq) x.tag false))) ∧
      (∀ d tag, op = .store d tag → Comes s l f 0x00 →
        Takes (.storeFrame l f) s l f (respond u f.ctx f.src (.done r))) ∧
      (∀ o t n y z, op = .mop o t n y z → Comes s l f 0x05 →
        Takes (.mopFrame l f) s l f (respond u f.ctx f.src (.done r)))) ∧
    (∀ o n y z, f.body = .mem w r g a (.atomic o n y z) → windowRefused c f.ctx a (.atomic o n y z) = true → Comes s l f 0x11 →
      Takes (.atomicFrame l f) s l f (respond c f.ctx f.src (.fault r 7 11 a 0 0))) ∧
    (∀ op b, f.body = .mem w r g a op → windowRefused c f.ctx a op = false → performGen c (coreKey f.ctx 0) w false g a op = .error b →
      ¬(b.code = 7 ∧ b.sub = 6) → ¬(b.code = 3 ∧ b.sub = 2) → b.code ≠ 5 → (∃ n tag, op = .load n tag) → Comes s l f 0x10 →
      Takes (.loadFrame l f) s l f (respond c f.ctx f.src (.fault r b.code b.sub (b.at_.getD a) (BitVec.ofNat 25 b.agent) b.time))) ∧
    (∀ bs u x, performGen c (coreKey f.ctx 0) w false g a (.store bs false) = .ok (u, x) →
      (f.body = .send false w r g a bs → Comes s l f 0x01 → Takes (.sendFrame l f) s l f u) ∧
      (f.body = .send true w r g a bs → Comes s l f 0x06 → Takes (.sendlFrame l f) s l f (respond u f.ctx f.src (.done r)))) ∧
    (∀ p, f.body = .chase p → Comes s l f 0x12 → Takes (.chaseFrame l f) s l f (chaseHere c p f.hops)) ∧
    (∀ (u : State) (b : Body) (h : Link), f.src ≠ u.port.rank → linkTo u false f.src = some h →
      ∃ q, q.link = h ∧ q.frame.body = b ∧ q.frame.dst = f.src ∧ q.frame.vc = 1 ∧
        (respond u f.ctx f.src b).port.queue = u.port.queue ++ [q])

/-- R40, R213 to R216, R292, R299, R304, R306, R309, R317, R328, R336: responses go into the landing store and bounced chases into theirs; FIFO
words join the queue of the pair bound to their sender, and other words are counted; credits are added; an arrival or expectation joins
its barrier's events; superstep messages, violations and darning slots are noted; a contribution or a partial merges into its window, the two
frames of a wide partial as one; a registration takes a seam or is refused, and one without contributors ends it. Acknowledgements free
replay copies and give back pegs; a NAK also has the rest sent again. -/
def Sys2Proof.Stmt.ControlFrames : Prop :=
  (∀ (s : State) (l : Link) (f : Frame),
    let c := accepted s l f
    let landed := withPort c { c.port with landing := c.port.landing ++ [f] }
    (∀ r bs tag z, f.body = .data r bs tag z → Comes s l f 0x20 → Takes (.dataFrame l f) s l f landed) ∧
    (∀ r, f.body = .done r → Comes s l f 0x21 → Takes (.doneFrame l f) s l f landed) ∧
    (∀ r tr b sl tag bs, f.body = .chres r tr b sl tag bs → Comes s l f 0x22 → Takes (.chresFrame l f) s l f landed) ∧
    (∀ p, f.body = .bounce p → Comes s l f 0x23 →
      Takes (.bounceFrame l f) s l f (withPort c { c.port with bounced := c.port.bounced ++ [p] })) ∧
    (∀ r co su a ag tm, f.body = .fault r co su a ag tm → Comes s l f 0x24 → Takes (.faultFrame l f) s l f landed) ∧
    (∀ n st, f.body = .winack n st → Comes s l f 0x26 → Takes (.winackFrame l f) s l f landed) ∧
    (∀ core pair sc sp ws, f.body = .fifo core pair sc sp ws → Comes s l f 0x02 → (ctxAt s f.ctx).resident = true → core < 512 →
      let k := 512 * f.ctx + core
      let q := fifoAt (coreAt s k) pair
      (q.peer = some (f.src, sc, sp) →
        Takes (.fifoFrame l f) s l f (coreIn c k fun x => { x with fifos := mset x.fifos pair { q with fi := q.fi ++ ws } })) ∧
      (q.peer ≠ some (f.src, sc, sp) →
        ∃ v, Takes (.fifoFrame l f) s l f (coreIn c k fun x => { x with csr := { x.csr with fqst := v } }) ∧
          v.toNat % 2 ^ 32 = min 4294967295 ((coreAt s k).csr.fqst.toNat % 2 ^ 32 + ws.length))) ∧
    (∀ core pair sc sp n, f.body = .fqcred core pair sc sp n → Comes s l f 0x25 → (ctxAt s f.ctx).resident = true → core < 512 →
      let k := 512 * f.ctx + core
      let q := fifoAt (coreAt s k) pair
      Takes (.fqcredFrame l f) s l f (coreIn c k fun x => { x with fifos := mset x.fifos pair (takeCredits q (f.src, sc, sp) n) }) ∧
        (q.peer = some (f.src, sc, sp) → takeCredits q (f.src, sc, sp) n = { q with cred := q.cred + n })) ∧
    (∀ core b r done, f.body = .arrive core b r done → Comes s l f 0x32 → coreExists s (ctxAt s f.ctx).checked core = true → core < 512 →
      mustWait c f = false →
      Takes (.arriveFrame l f) s l f (coreIn c (512 * f.ctx + core) fun x =>
        { x with barEvs := x.barEvs ++ [{ bar := b, from_ := 1, n := 1, ret := if done then some (f.src, r) else none }] })) ∧
    (∀ core b r done, f.body = .arrive core b r done → Comes s l f 0x32 → mustWait c f = true →
      ∃ t, exec (.arriveFrame l f) s = .next t ∧ t = withPort c { c.port with later := c.port.later ++ [f], queue := t.port.queue }) ∧
    (∀ core b n r done, f.body = .expect core b n r done → Comes s l f 0x33 → coreExists s (ctxAt s f.ctx).checked core = true → core < 512 →
      Takes (.expectFrame l f) s l f (coreIn c (512 * f.ctx + core) fun x =>
        { x with barEvs := x.barEvs ++ [{ bar := b, from_ := 2, n := n, ret := if done then some (f.src, r) else none }] })) ∧
    (∀ gr k st, f.body = .sstep gr k st → Comes s l f 0x34 →
      Takes (.sstepFrame l f) s l f { c with fcp := { c.fcp with sstep := c.fcp.sstep ++ [(f.ctx, gr, k, st, f.src)] } }) ∧
    (∀ rk su cap, f.body = .viol rk su cap → Comes s l f 0x35 →
      Takes (.violFrame l f) s l f { c with cp := { c.cp with log := c.cp.log ++
        [{ kind := 4, a := su + rk * 256, b := cap.toNat, time := s.time }] } }) ∧
    (∀ n, f.body = .darn n → Comes s l f 0x36 → Takes (.darnFrame l f) s l f (withPort c { c.port with darnAt := c.port.darnAt ++ [(n, none)] })) ∧
    (∀ nm d ms, f.body = .winreg nm d ms → Comes s l f 0x37 →
      let u := dropSeam c nm
      (ms = [] → Takes (.winregFrame l f) s l f (sendOrDrop u f.ctx 1 false (nm.toNat / 2 ^ 20 % 1024) (.winack nm 0))) ∧
      (ms ≠ [] → u.port.seams.length < 32 → storeUsed u + storeBytes d ≤ reductionStore →
        Takes (.winregFrame l f) s l f (sendOrDrop (withPort u { u.port with seams := u.port.seams ++
          [{ name := nm, desc := d, members := ms, ctx := f.ctx, parts := [], merged := [], sent := [] }] })
          f.ctx 1 false (nm.toNat / 2 ^ 20 % 1024) (.winack nm 0))) ∧
      (ms ≠ [] → (32 ≤ u.port.seams.length ∨ reductionStore < storeUsed u + storeBytes d) →
        Takes (.winregFrame l f) s l f (sendOrDrop u f.ctx 1 false (nm.toNat / 2 ^ 20 % 1024) (.winack nm 5)))) ∧
    (∀ nm j (w : Window), nm.toNat = s.port.rank * 2 ^ 20 + nm.toNat % 16 → s.port.rank < 1024 → windowAt s (nm.toNat % 16) = some w →
      w.active = true → w.status = 0 → j < winLen w.desc →
      (∀ bs, f.body = .contrib nm j bs → Comes s l f 0x03 → w.members.contains f.src = true →
        let y := mergeElems (wdType w.desc) (wdOp w.desc) (mget [] w.parts j) (frameElems (wdType w.desc) bs)
        let w' := { w with parts := mset w.parts j y, merged := mset w.merged j (mget [] w.merged j ++ [f.src]) }
        windowFull w' = false → Takes (.contribFrame l f) s l f (setWindow c (nm.toNat % 16) (some w'))) ∧
      (∀ h els ms, f.body = .wpart nm j h els ms → Comes s l f 0x04 →
        let first := s.port.halves.find? fun x => x.1 == f.src && x.2.1 == nm && x.2.2.1 == j
        let rest := s.port.halves.filter fun x => !(x.1 == f.src && x.2.1 == nm && x.2.2.1 == j)
        let all := if h = 0 then els else ((first.map fun x => x.2.2.2).getD []) ++ els
        let y := mergeElems (wdType w.desc) (wdOp w.desc) (mget [] w.parts j) all
        let w' := { w with parts := mset w.parts j y, merged := mset w.merged j (mget [] w.merged j ++ ms) }
        (h = 1 → Takes (.wpartFrame l f) s l f (withPort c { c.port with halves := rest ++ [(f.src, nm, j, els)] })) ∧
        (h ≠ 1 → (∀ r ∈ ms, w.members.contains r = true) → windowFull w' = false →
          Takes (.wpartFrame l f) s l f
            (setWindow (withPort c { c.port with halves := if h = 0 then c.port.halves else rest }) (nm.toNat % 16) (some w')))))) ∧
  (∀ (s : State) (l : Link) (f : Frame) (v n : Nat), relayLink s l f = none → f.vc.val = 3 → f.resv = false → f.hops ≤ 6 →
    let mine (q : Sent) : Bool := q.link == l && q.frame.vc.val == v
    let left := s.port.replay.filter fun q => !(mine q && seqBefore q.frame.seq n)
    (f.body = .pegs [(v, n)] →
      ∃ t, exec (.pegretFrame l f) s = .next t ∧ t = withPort s { s.port with heard := t.port.heard, replay := left, pegs := t.port.pegs } ∧
        lget (pegsOf s l v) t.port.pegs l v = pegsOf s l v + (s.port.replay.length - left.length)) ∧
    (f.body = .nak [(v, n)] → (∀ q ∈ left, mine q = true → q.tries < 8) →
      ∃ t, exec (.nakFrame l f) s = .next t ∧ t = withPort s { s.port with heard := t.port.heard, replay := t.port.replay, pegs := t.port.pegs } ∧
        t.port.replay = left.map fun q => if mine q && q.sentAt.isSome then { q with sentAt := none, tries := q.tries + 1 } else q))

namespace Sys2Proof.Stmt

/-- A result element of a window (R306): bf16 rounds the fp32 partial, fp32 keeps it, i32 clamps the i64 partial. -/
def resultBytes (type : Nat) (x : Word) : List Byte :=
  match type with
  | 0 => leBytes 2 (bf16.conv .rne false (fp32.decode x.toNat)).1
  | 1 => leBytes 4 x.toNat
  | _ => leBytes 4 (max (-(2 ^ 31)) (min (2 ^ 31 - 1) x.toInt) % 2 ^ 32).toNat

/-- It sets OVF: an infinite fp32 result, or an i32 result that clamps. -/
def resultOver (type : Nat) (x : Word) : Prop :=
  if type < 2 then x.toNat % 2 ^ 31 = 0x7F800000 else x.toInt < -(2 ^ 31) ∨ 2 ^ 31 ≤ x.toInt

end Sys2Proof.Stmt

/-- R304 to R306, R328: the contribution or the partial that brings the last of a window completes it: its slot is free, and DEST is written
frame by frame, then the status record, then its timeline advances. One that comes after COMPLETE or PARTIAL is dropped and counted in
LATE, which the status record shows. -/
def Sys2Proof.Stmt.WindowsComplete : Prop :=
  (∀ (s : State) (l : Link) (f : Frame) (nm : Word) (j : Nat) (w : Window),
    let c := accepted s l f
    let i := nm.toNat % 16
    let merged (els : List Word) (ms : List Nat) : Window :=
      { w with parts := mset w.parts j (mergeElems (wdType w.desc) (wdOp w.desc) (mget [] w.parts j) els)
               merged := mset w.merged j (mget [] w.merged j ++ ms) }
    let late : Window := { w with late := w.late + 1 }
    nm.toNat = s.port.rank * 2 ^ 20 + i → s.port.rank < 1024 → windowAt s i = some w → w.active = true →
    (w.status = 0 → j < winLen w.desc →
      (∀ bs, f.body = .contrib nm j bs → Comes s l f 0x03 → w.members.contains f.src = true →
        windowFull (merged (frameElems (wdType w.desc) bs) [f.src]) = true →
        Takes (.contribFrame l f) s l f (completeWindow c i (merged (frameElems (wdType w.desc) bs) [f.src]))) ∧
      (∀ els ms, f.body = .wpart nm j 0 els ms → Comes s l f 0x04 → (∀ r ∈ ms, w.members.contains r = true) →
        windowFull (merged els ms) = true → Takes (.wpartFrame l f) s l f (completeWindow c i (merged els ms)))) ∧
    (w.status ≠ 0 → ∀ bs, f.body = .contrib nm j bs → Comes s l f 0x03 →
      Takes (.contribFrame l f) s l f (writeStatus (setWindow c i (some late)) late))) ∧
  (∀ (s : State) (i : Nat) (w : Window), windowFull w = true → s.cp.jobs.any (fun x => x.lane == 2 * w.core + 1) = true →
    let job (x q : Nat) (op : UnitOp) : UnitJob := { lane := 2 * w.core + 1, ctx := x, unit := 4, q := q, op := op }
    let frame (j : Nat) : UnitOp := .write (wdDest w.desc + BitVec.ofNat 64 (256 * j)) ((mget [] w.parts j).flatMap (resultBytes (wdType w.desc)))
    ∃ v st, completeWindow s i w = v ∧ v = { s with port := { s.port with windows := v.port.windows, ended := v.port.ended }, cp := v.cp } ∧
      windowAt v i = none ∧ v.cp = { s.cp with jobs := s.cp.jobs ++
        ((List.range (winLen w.desc)).map fun j => job (w.core / 512) s.time (frame j)) ++
        [job (w.core / 512) s.time (.write (wdStat w.desc) st), job w.ctx 0 (.complete (wdTl w.desc) w.opNum)] } ∧
      st.length = 256 ∧
      (∃ o : Bool, leNat (st.take 8) = 1 + o.toNat * 2 ^ 8 + min 65535 w.late * 2 ^ 16 + w.members.length % 2 ^ 32 * 2 ^ 32 ∧
        (o = true ↔ ∃ j < winLen w.desc, ∃ x ∈ mget [] w.parts j, resultOver (wdType w.desc) x)) ∧
      (w.members.Nodup → (∀ r ∈ w.members, r < 1024) → ∀ r < 1024, (leNat (st.drop 128)).testBit r = w.members.contains r)) ∧
  (∀ (s : State) (j : UnitJob), s.cp.jobs.any (fun x => x.lane == j.lane) = false →
    (∀ a bs v g, j.op = .write a bs → a.toNat / 2 ^ 47 % 1024 = s.port.rank → accessHeld s none (512 * j.ctx) false a (.store bs false) = false →
      performMem s (512 * j.ctx) { unitWho s j.unit with q := j.q } false a (.store bs false) = .ok (v, g) → addJob s j = v) ∧
    (∀ q n, j.op = .complete q n →
      (j.q = 0 → addJob s j = { s with cp := { s.cp with jobs := s.cp.jobs ++ [{ j with q := s.time + 1 }] } }) ∧
      (j.q ≠ 0 → j.q ≤ s.time → addJob s j = dtComplete s q n s.time)))

/-- R286 to R293, R304 to R306, R315 to R328: what a frame that is accepted does, and the contribution that completes a window.
(Coalesced acknowledgements, the contents of frames and a window that is over are log entries 35, 10 and 40.) -/
def Obligations.FramesDelivered : Prop := Stmt.MemoryFrames ∧ Stmt.ControlFrames ∧ Stmt.WindowsComplete

/-! ### The port's own events -/

namespace Sys2Proof.Stmt

/-- One entry more in the CP's log: an optical fault of kind `sub`, with the slot (R308). -/
def FabricFault (s t : State) (sub : Nat) : Prop :=
  ∃ e : LogEntry, t.cp = { s.cp with log := s.cp.log ++ [e] } ∧ e.kind = 20 ∧ e.a % 256 = sub ∧ e.b = slotNow s ∧ e.time = s.time

end Sys2Proof.Stmt

/-- R280 to R284, R290, R291: a slot sends the queued frames of the ports its lanes address while pegs and frame times last, each taking a
peg and the next SEQ and staying in the replay store until acknowledged; without a peg it stays queued. A slot carries 6, 55 or 440
frames at TLEN 16, 128 or 1,000. A frame not acknowledged for four mangle cycles is sent again in a frame time of its lane, eight times at
most. -/
def Sys2Proof.Stmt.SlotsSend : Prop :=
  (slotFrames 16 = 6 ∧ slotFrames 128 = 55 ∧ slotFrames 1000 = 440) ∧
  (∀ s : State, slotNow s < s.port.nextSlot → exec .slotStart s = .next s) ∧
  (∀ (s : State) (q : Sent), s.port.nextSlot ≤ slotNow s → (∀ e ∈ s.cores, e.2.fifos = []) → s.port.queue = [q] → 16 ≤ s.port.tlen →
    (∀ r ∈ s.port.replay, r.sentAt.isSome = true) → isControl q.frame = false → q.transit = false → q.frees = none →
    lanePort s q ∈ slotPorts s q.link.plane (slotNow s) →
    (0 < pegsOf s q.link q.frame.vc.val →
      let n := lget 0 s.port.outSeq q.link q.frame.vc.val
      ∃ t, exec .slotStart s = .next t ∧
        t = { s with port := { s.port with nextSlot := slotNow s + 1, queue := [], outSeq := t.port.outSeq, pegs := t.port.pegs
                                           replay := s.port.replay ++ [{ q with frame := { q.frame with seq := n }, sentAt := some s.time, tries := 0 }] } } ∧
        pegsOf t q.link q.frame.vc.val = pegsOf s q.link q.frame.vc.val - 1 ∧
        lget 0 t.port.outSeq q.link q.frame.vc.val = (n + 1) % 65536) ∧
    (pegsOf s q.link q.frame.vc.val = 0 →
      exec .slotStart s = .next { s with port := { s.port with nextSlot := slotNow s + 1 } })) ∧
  (∀ (s : State) (l : Link) (v : Fin 4) (q : Sent) (x : Nat), q ∈ s.port.replay → q.link = l → q.frame.vc = v → q.sentAt = some x →
    (∀ p ∈ s.port.replay, p.link = l → p.frame.vc = v → p = q) →
    (s.time < x + 4 * mangleCycles s l.plane → exec (.frameResendTimeout l v) s = .next s) ∧
    (x + 4 * mangleCycles s l.plane ≤ s.time → q.tries < 8 →
      exec (.frameResendTimeout l v) s = .next { s with port := { s.port with replay := s.port.replay.map fun p =>
        if p.link = l ∧ p.frame.vc.val = v.val ∧ p.sentAt.isSome then { p with sentAt := none, tries := p.tries + 1 } else p } }) ∧
    (x + 4 * mangleCycles s l.plane ≤ s.time → 8 ≤ q.tries →
      ∃ t, exec (.frameResendTimeout l v) s = .next t ∧ FabricFault s t 8 ∧ t.port.replay.length = s.port.replay.length ∧
        t.hbm = s.hbm ∧ t.cores = s.cores))

/-- R274, R280, R282, R309: a new table, a new TLEN, a relabelled rank take effect at their slot and not before; the repair of a
plane's loss is announced for a slot of a new mangle cycle, and then every dead lane of that plane's table is idle. A slot that another die
has announced repairs nothing here. -/
def Sys2Proof.Stmt.ChangesAtASlot : Prop :=
  (∀ (s : State) (pl : Plane) (n : Nat) (t : List (BitVec 128)), s.port.shadowT.getD (planeCode pl) none = some (n, t) →
    (slotNow s < n → exec (.slotTableSwap pl) s = .next s) ∧
    (n ≤ slotNow s → exec (.slotTableSwap pl) s = .next { s with port := { s.port with
      tables := s.port.tables.set (planeCode pl) t, shadowT := s.port.shadowT.set (planeCode pl) none } })) ∧
  (∀ (s : State) (pl : Plane), s.port.shadowT.getD (planeCode pl) none = none → exec (.slotTableSwap pl) s = .next s) ∧
  (∀ (s : State) (t n : Nat), s.port.tlenAt = some (t, n) →
    (slotNow s < n → exec .tlenChangeApply s = .next s) ∧
    (n ≤ slotNow s → ∃ b, exec .tlenChangeApply s = .next { s with port := { s.port with tlen := t, tlenAt := none, slotBase := (b, n) } })) ∧
  (∀ (s : State) (n r : Nat) (p : Option (Nat × Nat)), s.port.relabelAt = [(n, r, p)] →
    (slotNow s < n → exec .relabelApply s = .next s) ∧
    (n ≤ slotNow s → ∃ t, exec .relabelApply s = .next t ∧ t.port.relabelAt = [] ∧ mget none t.port.relabel r = p ∧ t.hbm = s.hbm ∧
      t.cores = s.cores ∧ t.port.rank = if p = some s.port.pos then r else s.port.rank)) ∧
  (∀ s : State, (darnNext s = none → exec .darningCompute s = .next s) ∧
    ∀ pl, darnNext s = some pl → ∃ t n, exec .darningCompute s = .next t ∧ t.port.darnAt = s.port.darnAt ++ [(n, some pl)] ∧
      slotNow s < n ∧ n % max 1 (tableOf s pl).length = 0 ∧ t.port.tables = s.port.tables ∧ t.cores = s.cores ∧ t.hbm = s.hbm) ∧
  (∀ (s : State) (pl : Plane), darnNext s = some pl → pl ∈ s.port.lossOn ∧ ∀ e ∈ s.port.darnAt, e.2 ≠ some pl) ∧
  (∀ (s : State) (n : Nat) (o : Option Plane), s.port.darnAt = [(n, o)] →
    (slotNow s < n → exec .darnTableSwap s = .next s) ∧
    (n ≤ slotNow s → o = none → exec .darnTableSwap s = .next { s with port := { s.port with darnAt := [] } }) ∧
    (n ≤ slotNow s → ∀ pl, o = some pl → ∃ t, exec .darnTableSwap s = .next t ∧ t.port.darnAt = [] ∧ t.hbm = s.hbm ∧ t.cores = s.cores ∧
      (∀ x, x ∈ t.port.lossOn ↔ x ∈ s.port.lossOn ∧ x ≠ pl) ∧ (t.port.darn = false ↔ t.port.lossOn = []) ∧
      ∀ l, (pl, l) ∈ s.port.lanesDown → l < 16 → ∀ e ∈ tableOf t pl, laneSh e l = 0x3F))

/-- R274, R280 to R284, R290, R291, R309: slots, resends, and changes that take effect at a slot. -/
def Obligations.Slots : Prop := Stmt.SlotsSend ∧ Stmt.ChangesAtASlot

/-- R307, R308: each optical fault is logged with its slot; a retuned line stands aside until it is back; a failed line, a drifting line,
a dead lane and a shifted passband take what they name out of use and start darning; a peer silent for
64 mangle cycles is no longer live. -/
def Obligations.OpticalFaults : Prop :=
  ∀ (s : State) (pl : Plane) (w : Nat),
    (∃ t, exec (.retuneStart pl w) s = .next t ∧ FabricFault s t 1 ∧
      t = { s with cp := t.cp, port := { s.port with retuning := s.port.retuning ++ [(pl, w, slotNow s + 1, s.time)] } }) ∧
    (exec (.retuneEnd pl w) s = .next { s with port := { s.port with retuning := s.port.retuning.filter fun r => !(r.1 == pl && r.2.1 == w) } }) ∧
    (∃ t, exec (.lineFailure pl w) s = .next t ∧ FabricFault s t 2 ∧ (pl, w) ∈ t.port.linesDown ∧ s.port.linesDown ⊆ t.port.linesDown ∧
      t.hbm = s.hbm ∧ t.cores = s.cores ∧ t.port.darn = true) ∧
    (∃ t, exec (.uncorrectableDrift pl w) s = .next t ∧ FabricFault s t 3 ∧ (pl, w) ∈ t.port.linesDown ∧
      t.hbm = s.hbm ∧ t.cores = s.cores ∧ t.port.darn = true) ∧
    (∃ t, exec (.modulatorLaneDeath pl w) s = .next t ∧ FabricFault s t 4 ∧ (pl, w) ∈ t.port.lanesDown ∧ t.port.darn = true ∧
      t.hbm = s.hbm ∧ t.cores = s.cores) ∧
    (∃ t, exec (.passbandShift pl) s = .next t ∧ FabricFault s t 5 ∧ (∀ v < 68, (pl, v) ∈ t.port.linesDown) ∧ t.port.darn = true ∧
      t.hbm = s.hbm ∧ t.cores = s.cores) ∧
    (let l : Link := { plane := pl, port := w }
     let last := ((s.port.heard.find? fun h => h.1 == l).map Prod.snd).getD 0
     let pos := match pl with | .shelf => (s.port.pos.1, w) | .column => (w, s.port.pos.2)
     (live s pos = false ∨ s.time < last + 64 * mangleCycles s pl → exec (.peerSilent pl w) s = .next s) ∧
     (live s pos = true → last + 64 * mangleCycles s pl ≤ s.time → s.port.queue = [] → s.port.replay = [] →
       ∃ t, exec (.peerSilent pl w) s = .next t ∧ FabricFault s t 9 ∧ t = { s with cp := t.cp, port := { s.port with dead := s.port.dead ++ [pos] } }))

/-- R292, R294, R304, R306, R316, R336: a response that lands gives its landing slot back and its value to the access; a bounced chase of a
resident context goes out again when its first hop has a peg; a seam past its deadline sends what it holds and forgets the window; a window past its deadline is PARTIAL; a held unbind
completes once its peer has accepted every word. (When fo words count as accepted is log entry 39.) -/
def Obligations.LandingsAndDeadlines : Prop :=
  (∀ (s : State) (i : Nat) (f : Frame) (k : Nat) (r : Ret) (bs : List Byte) (tag : Bool) (a : Access) (e : Elem) (n : Nat) (x : Bool) (o : Nat),
    s.port.landing[i]? = some f → (ctxAt? s f.ctx).isSome = true → (∃ z, f.body = .data r bs tag z) → (ctxAt s (k / 512)).resident = true → r = { core := k, stream := 13, id := a.id } →
    (coreAt s k).accs = [a] → (coreAt s k).snap = none → (coreAt s k).livelock = none → rising (coreAt s k).landing → a.img = 0 → a.land = 0 →
    a.op = .mem [e] (.scalar n x) o → e.ix = 0 → n ≤ 8 → (∃ m c, e.op = .load m c) →
    ∃ t, exec (.landingMove i) s = .next t ∧ t = { s with cores := t.cores, port := { s.port with landing := s.port.landing.eraseIdx i } } ∧
      (coreAt t k).accs = [] ∧ slotsHeld (coreAt t k) 13 = slotsHeld (coreAt s k) 13 - 1 ∧
      (coreAt t k).rets = (coreAt s k).rets ++ [{ id := a.id, dest := a.dest, dead := a.dead, val := .s (extended x n bs) }]) ∧
  (∀ (s : State) (i : Nat), s.port.landing[i]? = none → exec (.landingMove i) s = .next s) ∧
  (∀ (s : State) (i : Nat) (p : ChasePkt), s.port.bounced[i]? = some p →
    ((ctxAt s p.ctx).resident = false → exec (.chaseReinject i) s = .next s) ∧
    ((ctxAt s p.ctx).resident = true → p.steps = [] →
      exec (.chaseReinject i) s = .next (chaseStart { s with port := { s.port with bounced := s.port.bounced.eraseIdx i } } p)) ∧
    (∀ st r o e l, p.steps = st :: r → chaseAddr s p st = .ok (o, e) → linkTo s false o = some l → (ctxAt s p.ctx).resident = true →
      (pegsOf s l 0 = 0 → exec (.chaseReinject i) s = .next s) ∧
      (pegsOf s l 0 ≠ 0 →
        exec (.chaseReinject i) s = .next (chaseStart { s with port := { s.port with bounced := s.port.bounced.eraseIdx i } } p)))) ∧
  (∀ (s : State) (i : Nat) (m : Seam), s.port.seams[i]? = some m → seamOf s m.name = some m →
    (s.time + 8192 < wdDeadline m.desc → exec (.seamDeadlineFlush i) s = .next s) ∧
    (wdDeadline m.desc ≤ s.time + 8192 → ∃ t, exec (.seamDeadlineFlush i) s = .next t ∧ seamOf t m.name = none ∧ t.hbm = s.hbm ∧
      t.cores = s.cores ∧ ∀ h, linkTo s false (m.name.toNat / 2 ^ 20 % 1024) = some h →
        ∀ j ∈ seamPending m, ∃ q ∈ t.port.queue, q.link = h ∧ ∃ x els ms, q.frame.body = .wpart m.name j x els ms)) ∧
  (∀ (s : State) (i : Nat) (w : Window), windowAt s i = some w →
    (w.status = 0 → w.active = true → wdDeadline w.desc ≤ s.time →
      ∃ t, exec (.windowDeadline i) s = .next t ∧ windowAt t i = some { w with status := 2 }) ∧
    (w.status ≠ 0 ∨ w.active = false ∨ s.time < wdDeadline w.desc → exec (.windowDeadline i) s = .next s)) ∧
  (∀ (s : State) (k i : Nat), let c := coreAt s k
    ((∃ h, c.hold = some h ∧ h.sub = 4 ∧ h.obj = 0x106) → (fifoAt c i).peer.isSome = true → (fifoAt c i).fo = [] → (fifoAt c i).resv = 0 →
      fifoSending s k i = false → (peerBeyond s (fifoAt c i) = false ∨ Config.fifoAccepted s.time k i = true) →
      exec (.fqUnbindComplete k i) s =
        .next (coreSet s k fun x => { x with fifos := mset x.fifos i { Fifo.init with gifts := (fifoAt c i).gifts, unbinding := true } })) ∧
    (c.hold = none ∨ (fifoAt c i).fo ≠ [] → exec (.fqUnbindComplete k i) s = .next s))

/-! ### Doreel Remote Transport -/

namespace Sys2Proof.Stmt

/-- A packet that answers `p` goes out by the port of its message, with OP and CODE. -/
def Answers (t : State) (p : Packet) (op code : Nat) : Prop :=
  ∃ d ∈ t.drt.out, d.port = p.mid % 2 ∧ let q := d.packet
    q.op = op ∧ q.code = code ∧ q.mid = p.mid ∧ q.pidx = p.pidx ∧ q.dst = p.src

/-- The outstanding message of a response packet. -/
def Awaits (s : State) (p : Packet) (m : Message) : Prop :=
  s.drt.msgs = [m] ∧ m.mid = p.mid ∧ m.dst = p.src ∧ p.dst = ownSystemRank s

/-- The packet neither waits here nor has been seen before. -/
def Fresh (s : State) (p : Packet) : Prop := waitsHere s p = false ∧ isDuplicate s p = false

/-- The operation of a message has no failed message yet (R343). -/
def unfailed (s : State) (m : Message) : Prop :=
  ∀ o, (queueOf (coreAt s m.core) 12).find? (fun o => o.n == m.opNum) = some o → o.aux = []

end Sys2Proof.Stmt

/-- R341 to R347: packets at the target. One seen before, or that waits here, is dropped, acknowledged and counted; one that its registration
does not permit is refused with a CODE and changes no byte; a permitted put is stored and acknowledged; a flag is acknowledged, waits for
its sequence, is placed and reported; a permitted request is answered with packets that are kept until acknowledged; a flush is answered
once no flag of its core waits. -/
def Sys2Proof.Stmt.DrtTarget : Prop :=
  ∀ (s : State) (p : Packet),
    (isDuplicate s p = true →
      (∃ t, exec (.put p) s = .next t ∧ t.drt.dups = s.drt.dups + 1 ∧ t.hbm = s.hbm ∧ Answers t p 6 0) ∧
      (∃ t, exec (.getreq p) s = .next t ∧ t.drt.dups = s.drt.dups + 1 ∧ t.hbm = s.hbm ∧ Answers t p 6 0)) ∧
    (waitsHere s p = true ∨ isDuplicate s p = true →
      (∃ t, exec (.flag p) s = .next t ∧ t.drt.dups = s.drt.dups + 1 ∧ t.drt.flags = s.drt.flags ∧ t.hbm = s.hbm ∧ Answers t p 6 0) ∧
      (∃ t, exec (.flushreq p) s = .next t ∧ t.drt.dups = s.drt.dups + 1 ∧ t.drt.flags = s.drt.flags ∧ t.hbm = s.hbm ∧ Answers t p 6 0)) ∧
    (isDuplicate s p = false →
      let n := noteSeen s p
      (∀ c, packetCheck n p.gen p.addr p.len permW = .error c →
        ∃ t, exec (.put p) s = .next t ∧ t.drt.nacks = s.drt.nacks + 1 ∧ t.hbm = s.hbm ∧ t.sram = s.sram ∧ Answers t p 7 c) ∧
      (∀ r u, packetCheck n p.gen p.addr p.len permW = .ok r →
        placeBytesAt n r.ctx p.addr (p.data.take p.len) (if p.tagged ∧ holdsPerms r.perms.toNat permD then p.tags.toNat else 0) = .ok u →
        ∃ t, exec (.put p) s = .next t ∧ t = { u with drt := t.drt } ∧ Answers t p 6 0 ∧ t.drt.seen = u.drt.seen) ∧
      (∀ c, packetCheck n p.gen p.addr p.len permR = .error c →
        ∃ t, exec (.getreq p) s = .next t ∧ t.drt.nacks = s.drt.nacks + 1 ∧ t.hbm = s.hbm ∧ Answers t p 7 c) ∧
      (∀ r u ps, packetCheck n p.gen p.addr p.len permR = .ok r → answerGet p r.ctx (packetCuts p.len) 0 (ackPacket n p) = .ok (u, ps) →
        ∃ (t : State) (m : Message), exec (.getreq p) s = .next t ∧ t = { u with drt := t.drt } ∧ t.drt.serving = u.drt.serving ++ [m] ∧ m.packets = ps ∧
          m.mid = p.mid ∧ m.dst = p.src ∧ t.drt.out.map Datagram.packet = u.drt.out.map Datagram.packet ++ ps)) ∧
    (Fresh s p → let a := ackPacket (noteSeen s p) p
      (∀ r u, flagReady s p = true → (p.flagged = true → sequenceFailed s p = none) → packetCheck a p.gen p.addr 8 permW = .ok r →
        placeBytesAt a r.ctx p.addr (p.data.take 8) 0 = .ok u → u.drt = a.drt →
        ∃ t, exec (.flag p) s = .next t ∧ t = { u with drt := t.drt } ∧ Answers t p 6 0 ∧ Answers t p 8 0) ∧
      (flagReady s p = false → exec (.flag p) s = .next { a with drt := { a.drt with flags := s.drt.flags ++ [p] } }) ∧
      (flushReady s p = true → ∃ t, exec (.flushreq p) s = .next t ∧ t = { s with drt := t.drt } ∧ Answers t p 8 0 ∧ Answers t p 6 0) ∧
      (flushReady s p = false → exec (.flushreq p) s = .next { a with drt := { a.drt with flags := s.drt.flags ++ [p] } })) ∧
    (∀ i, s.drt.flags[i]? = some p →
      (p.op ≠ 4 → flushReady s p = true → ∃ t, exec (.drtFlagPlace i) s = .next t ∧ t = { s with drt := t.drt } ∧ Answers t p 8 0 ∧
        ∀ q ∈ t.drt.flags, ¬(q.src = p.src ∧ q.mid = p.mid)) ∧
      (p.op ≠ 4 → flushReady s p = false → exec (.drtFlagPlace i) s = .next s) ∧
      (p.op = 4 → flagReady s p = false → exec (.drtFlagPlace i) s = .next s) ∧
      (∀ r u, p.op = 4 → flagReady s p = true → (p.flagged = true → sequenceFailed s p = none) → packetCheck s p.gen p.addr 8 permW = .ok r →
        placeBytesAt s r.ctx p.addr (p.data.take 8) 0 = .ok u → u.drt = s.drt →
        ∃ t, exec (.drtFlagPlace i) s = .next t ∧ t = { u with drt := t.drt } ∧ Answers t p 8 0 ∧
          ∀ q ∈ t.drt.flags, ¬(q.src = p.src ∧ q.mid = p.mid))) ∧
    (∀ i, s.drt.flags[i]? = none → exec (.drtFlagPlace i) s = .next s) ∧
    exec .drtPacketBadCrc s = .next { s with drt := { s.drt with badCrc := s.drt.badCrc + 1 } }

/-- R342, R343, R345, R346: packets at the source. An acknowledgement forgets its packet, a put whose packets are all acknowledged ends, and
an answer whose packets are is forgotten; a NACK or 0.5 ms without an end fails the message, whose operation counts once in DRTST; data
that fill a request end it; FLUSHDONE confirms the target's puts, but for one begun since the
FLUSHREQ, or a flag's placing. Unacknowledged packets are sent again after 50 µs.
A closing registration that has drained is freed. -/
def Sys2Proof.Stmt.DrtSource : Prop :=
  (∀ (s : State) (p : Packet) (m : Message), Awaits s p m →
    ((∃ q ∈ m.packets, q.pidx = p.pidx) →
      (m.kind = 1 → (∀ q ∈ m.packets, q.pidx = p.pidx) →
        ∃ t, exec (.ack p) s = .next t ∧ t.drt.msgs = [] ∧ t.hbm = s.hbm ∧ t.port = s.port) ∧
      (m.kind ≠ 1 ∨ (∃ q ∈ m.packets, q.pidx ≠ p.pidx) → exec (.ack p) s =
        .next { s with drt := { s.drt with msgs := [{ m with packets := m.packets.filter fun q => q.pidx != p.pidx }] } })) ∧
    (∃ t, exec (.nack p) s = .next t ∧ t.drt.msgs = [] ∧ (unfailed s m →
      ((coreAt t m.core).csr.drtst.toNat % 65536 = min 65535 ((coreAt s m.core).csr.drtst.toNat % 65536 + 1)) ∧
      ((coreAt s m.core).csr.drtst.toNat / 2 ^ 16 % 256 = 0 → (coreAt t m.core).csr.drtst.toNat / 2 ^ 16 % 256 = (p.code + 1) % 256))) ∧
    (∃ t, exec (.flushdone p) s = .next t ∧ t.drt.msgs = [] ∧ (m.kind = 5 → msgCount s m.core m.dst false = m.need → (m.core, m.dst) ∉ t.drt.unflushed) ∧
      (m.kind ≠ 5 ∨ msgCount s m.core m.dst false ≠ m.need → t.drt.unflushed = s.drt.unflushed) ∧ t.hbm = s.hbm ∧
      Answers t p 6 0) ∧
    (isDuplicate s p = false → ∀ u g,
      unitTry s (m.core / 512) (drtWho s) (drtLocal m.localAddr).2 (.store (p.data.take p.len) false) 4 = .ok (u, g) → p.pidx = 0 →
      (drtLocal m.localAddr).1 = false → u.drt = s.drt →
      ∃ t, exec (.getdata p) s = .next t ∧ t.hbm = u.hbm ∧ Answers t p 6 0 ∧ (m.need ≤ m.gotBytes + p.len → t.drt.msgs = []) ∧
        (m.gotBytes + p.len < m.need → t.drt.msgs = [{ m with gotBytes := m.gotBytes + p.len, packets := m.packets.filter fun q => q.pidx != p.pidx }]))) ∧
  (∀ (s : State) (p : Packet) (m : Message), s.drt.msgs = [] → s.drt.serving = [m] → m.mid = p.mid → m.dst = p.src →
    let left := m.packets.filter fun q => q.pidx != p.pidx
    exec (.ack p) s = .next { s with drt := { s.drt with serving := if left = [] then [] else [{ m with packets := left }] } } ∧
    (m.packets ≠ [] → m.sentAt + 200000 ≤ s.time → ∃ t, exec (.drtPacketResend 0) s = .next t ∧
      t = { s with drt := { s.drt with serving := [{ m with sentAt := s.time }], out := t.drt.out } } ∧
      t.drt.out.map Datagram.packet = s.drt.out.map Datagram.packet ++ m.packets) ∧
    (m.start + 2000000 ≤ s.time → exec (.drtMessageLost 0) s = .next { s with drt := { s.drt with serving := [] } })) ∧
  (∀ (s : State) (i : Nat) (m : Message), s.drt.msgs = [m] → s.drt.serving = [] →
    (i = 0 → m.packets ≠ [] → m.sentAt + 200000 ≤ s.time → ∃ t, exec (.drtPacketResend i) s = .next t ∧
      t = { s with drt := { s.drt with msgs := [{ m with sentAt := s.time }], out := t.drt.out } } ∧
      t.drt.out.map Datagram.packet = s.drt.out.map Datagram.packet ++ m.packets) ∧
    (0 < i ∨ m.packets = [] ∨ s.time < m.sentAt + 200000 → exec (.drtPacketResend i) s = .next s) ∧
    (i = 0 → m.start + 2000000 ≤ s.time → ∃ t, exec (.drtMessageLost i) s = .next t ∧ t.drt.msgs = [] ∧ (unfailed s m →
      ((coreAt s m.core).csr.drtst.toNat / 2 ^ 16 % 256 = 0 → (coreAt t m.core).csr.drtst.toNat / 2 ^ 16 % 256 = 1))) ∧
    (0 < i ∨ s.time < m.start + 2000000 → exec (.drtMessageLost i) s = .next s)) ∧
  (∀ (s : State) (i : Nat) (r : Registration), rising s.drt.regs → mget none s.drt.regs i = some r →
    (r.closing = true → r.started = 0 → ∃ t, exec (.registrationDrained i) s = .next t ∧ mget none t.drt.regs i = none ∧
      (∀ j, j ≠ i → mget none t.drt.regs j = mget none s.drt.regs j) ∧ (r.waiter = none → t = { s with drt := t.drt })) ∧
    (r.closing = false ∨ r.started ≠ 0 → exec (.registrationDrained i) s = .next s))

/-- R341 to R347: DRT packets at their target and at their source. (The report of a placed flag is log entry 41.) -/
def Obligations.DrtPackets : Prop := Stmt.DrtTarget ∧ Stmt.DrtSource

/-! ### Bundles, steps, encodings, reset, invariants -/

namespace Sys2Proof.Stmt

/-- What a commit does to the issuing core besides its syllables' effects and the header's, when no loop is active, no lock is held and
no word is popped: the pc moves on, the issue cycle counts, the watchdog restarts (R21, R22, R76). -/
def committed (c : Core) : Core :=
  { c with pc := c.pc + 32, icycle := c.icycle + 1, held := 0, hold := none, mismatch := 0, parity := 0, phase := .alone, slot := 0, stg := 0, posed := [] }

/-- A core that is about to issue outside a loop, with a task that has begun and no lock. -/
structure Plainly (c : Core) : Prop where
  after : c.after = .next
  begun : c.begun = true
  loop : c.seq.active = false
  lock : c.lock = none
  pops : c.pops = []
  room : entsUsed c ≤ 48

/-- Core k, first in turn, has nothing to do before its issue: no control-register write, no result due, no report, no expired watchdog,
no branch cycle, no retraining bus (R81, R91, R130, R165, R406). -/
structure Issues (s : State) (k : Nat) (r : List Nat) : Prop where
  agenda : s.agenda = []
  stage : s.stage = 0
  turn : s.turn = k :: r
  writes : (coreAt s k).csrws = []
  results : dueResult (coreAt s k) = none
  may : mayIssue s k = true
  reports : (coreAt s k).reports = [] ∧ (coreAt s k).asyncs = []
  hold : (coreAt s k).hold = none

end Sys2Proof.Stmt

/-- R21, R22, R76, R78, R95, R208: a bundle of nops issues: the pc moves to the next bundle and nothing else happens. A header whose wait
fields are set without WEN is an illegal encoding, trapped at the header. A bundle whose semaphore is below its count is held and
names the semaphore. A bundle with a wait, a take and a signal that can issue notes the take and the signal. A tend that has issued
ends its task once the loads have returned. -/
def Obligations.BundlesIssue : Prop :=
  ∀ s : State,
    let c := curCore s
    (Plainly c → exec (.bundleIssue [0]) s = .next (coreSet s s.cur fun c => committed c)) ∧
    (∀ b : Bundle, c.after = .next → bundlePart b 0 / 2 ^ 28 % 2 = 0 → (bundlePart b 0 / 2 ^ 29 % 2 = 1 ∨ bundlePart b 0 % 65536 ≠ 0) →
      exec (.bundleIssue [b]) s = .next (takeTrap s s.cur (Cause.precise 0x01 1 7))) ∧
    (∀ b : Bundle, c.after = .next → c.seq.active = false → encodingFails c [b] = none →
      let h := bundlePart b 0
      h / 2 ^ 28 % 2 = 1 → mget 0 c.sems (h % 256) < h / 256 % 256 →
      exec (.bundleIssue [b]) s =
        .next (coreSet s s.cur fun c => { c with held := c.held + 1, hold := some { sub := 1, obj := h % 256, tl := 15, slot := 7 } })) ∧
    (∀ w n g i : Nat, w < 256 → n < 256 → g < 256 → i < 8 → n ≤ mget 0 c.sems w → Plainly c →
      exec (.bundleIssue [BitVec.ofNat 256 (w + n * 2 ^ 8 + g * 2 ^ 16 + i * 2 ^ 24 + 2 ^ 28 + 2 ^ 29 + 2 ^ 30)]) s =
        .next (coreSet s s.cur fun c => committed { c with q := max c.q (mget 0 c.semq w), semOps := c.semOps ++ [.take w n, .inc g i] })) ∧
    (∀ ws, c.after = .tend → loadsPending c = true →
      ∃ t, exec (.bundleIssue ws) s = .next t ∧ t = { s with cores := t.cores } ∧ (curCore t).hold.isSome = true ∧ (curCore t).task = c.task) ∧
    (∀ ws x, c.after = .tend → loadsPending c = false → c.task = some x → x.record = none → x.done = 0 → x.launch = none →
      ∃ t, exec (.bundleIssue ws) s = .next t ∧ t = { s with cores := t.cores } ∧ (curCore t).task = none ∧ (curCore t).g = c.g)

/-- R78, R80: a header with WEN = 0 whose bits 29 or 15:0 are not all zero, or with SEN = 0 whose bits 27:16 are not, makes the bundle
illegal; SINC = 0 with SEN = 1 is legal and changes no count. An illegal bundle traps at its first illegal part before its header wait and before any condition of
R21 is looked at, so that it traps even when it would otherwise wait. -/
def Obligations.IllegalBundlesTrap : Prop :=
  (∀ (s : State) (ws : List Bundle) (slot sg : Nat), (curCore s).after ≠ .tend → (curCore s).after ≠ .eret → encodingFails (curCore s) ws = some (slot, sg) →
    exec (.bundleIssue ws) s = .next (takeTrap s s.cur { Cause.precise 0x01 1 slot with stg := sg })) ∧
  (∀ (c : Core) (b : Bundle), let h := bundlePart b 0
    ((h / 2 ^ 28 % 2 = 0 ∧ (h / 2 ^ 29 % 2 = 1 ∨ h % 65536 ≠ 0)) ∨ (h / 2 ^ 30 % 2 = 0 ∧ h / 2 ^ 16 % 4096 ≠ 0) →
      encodingFails c [b] = some (7, 0)) ∧
    (h < 2 ^ 31 → (h / 2 ^ 28 % 2 = 0 → h / 2 ^ 29 % 2 = 0 ∧ h % 65536 = 0) → (h / 2 ^ 30 % 2 = 0 → h / 2 ^ 16 % 4096 = 0) →
      headerFails c [b] 0 b = false)) ∧
  (∀ (s : State) (g : Nat), g < 256 → Plainly (curCore s) →
    exec (.bundleIssue [BitVec.ofNat 256 (g * 2 ^ 16 + 2 ^ 30)]) s =
      .next (coreSet s s.cur fun c => committed { c with semOps := c.semOps ++ [.inc g 0] })) ∧
  (∀ (c : Core) (g : Nat), rising c.sems → (∀ i, mget 0 c.sems i ≤ 65535) → c.semOps = [.inc g 0] →
    ∀ i, mget 0 (combineSems c).sems i = mget 0 c.sems i)

/-- R76, R80, R125: A STEP RUNS THE DECODED INSTRUCTION. Where the core in turn may issue and the 32 bytes at its pc are a bundle of one
syllable whose word decodes to the instruction i, and the syllable's tests pass, the step is exec of i, then the commit of its bundle. What
the outside has in store, and the events of units, are run one a step in the order given; with nothing left the cycle ends.
(The order of a cycle is log entries 4 and 12, the phases of a bundle log entry 13.) -/
def Obligations.StepRunsTheDecodedInstruction : Prop :=
  (∀ (s : State) (k : Nat) (r : List Nat) (ps : List (Phys × Nat × Bool)) (s1 : State), Issues s k r → Plainly (coreAt s k) →
    locateAll { s with cur := k } (k / 512) .fetch (pieces (localOf (coreAt s k).pc) 32) = .ok (ps, s1) → s1.cores = s.cores →
    let b : Bundle := BitVec.ofNat 256 (leNat (ps.flatMap fun p => codeRead s1 (coreAt s k).epoch p.1 p.2.1))
    let u := onCore { s1 with turn := r, cur := k } k fun c => clearLivelock c c.pc 32 3
    step s = exec (.bundleIssue [b]) u ∧
    (∀ (j : Nat) (i : Instr), 1 ≤ j → j ≤ 7 → (∀ m < 8, m ≠ j → bundlePart b m = 0) → bundlePart b j ≠ 0 →
      decode (partClass false j) (bundlePart b j) = some i → slotClass i ≠ none → encodingFails (curCore u) [b] = none →
      let v := onCur u fun c => { c with q := c.q }
      let y : Syl := { slot := j - 1, stage := 0, i := i, w := bundlePart b j }
      checkGroup (curCore u) (posedTests [y] v) = .ok →
      ∀ t, exec i (onCur v fun c => { c with phase := .run, slot := j - 1, stg := 0 }) = .next t →
        step s = .next (commitBundle (curCore u) [0] (onCur t (noteSources (curCore v) y))))) ∧
  (∀ (i : Instr) (s : State), slotClass i ≠ none → runSyllable i s = exec i s) ∧
  (∀ (s : State) (i : Instr) (r : List Instr), s.agenda = i :: r → step s = exec i { s with agenda := r }) ∧
  (∀ (s : State) (i : Instr) (r : List Instr), s.agenda = [] → (s.stage = 1 ∨ s.stage = 2) → s.todo = i :: r →
    step s = exec i { s with todo := r }) ∧
  (∀ s : State, s.agenda = [] → s.stage = 2 → s.todo = [] → s.cores = [] → mgmtWaiting s = false → s.port.waiting = [] → s.port.later = [] →
    s.drt.out = [] → s.fcp.pendMark = [] → s.cp.jobs = [] → step s = .next { s with time := s.time + 1, stage := 0, todo := [], turn := [] })

/-- R96 to R100 and the opcode table: words written out bit by bit from the encodings of the maps decode to the instructions they stand for:
addi g5, g4, 16; bfx g20, g7, 47, 10; br p2, −3; vadd.f32 v3, v1, v2; vld v5, g12; tl.acq g9, g33, t11; fs.send.sw 0, hf0; cp.go.sw 0, hc0;
eq.snap 0. An opcode that a map does not assign decodes to nothing. -/
def Obligations.WordsDecode : Prop :=
  decode .x (0b0000011 * 2 ^ 25 + 5 * 2 ^ 19 + 4 * 2 ^ 13 + 16) = some (.addi 5 4 16) ∧
  decode .x (0b0100001 * 2 ^ 25 + 20 * 2 ^ 19 + 7 * 2 ^ 13 + 9 * 2 ^ 6 + 47) = some (.bfx 20 7 false 9 47) ∧
  decode .br (0b0000001 * 2 ^ 25 + 2 * 2 ^ 22 + (2 ^ 18 - 3)) = some (.br 2 false 0x3FFFD) ∧
  decode .v (0b0000001 * 2 ^ 25 + 3 * 2 ^ 20 + 1 * 2 ^ 15 + 2 * 2 ^ 10 + 1 * 2 ^ 5) = some (.vadd .fp32 3 1 2 0 .rne false) ∧
  decode .mm 0x06530000 = some (.vld false .w4 false 0 5 12) ∧
  decode .en 0x1008490B = some (.tlAcq 9 33 11) ∧
  decode .en 0x80000080 = some (.fsSend 0 0 true) ∧
  decode .en 0x20000080 = some (.cpGo 0 0 true) ∧
  decode .en 0x76000000 = some (.eqSnap 0) ∧
  decode .x (0x7F * 2 ^ 25) = none

/-- R397, R398, R280, R350, R407 (and the values that log entry 2 chooses, in every place this statement does not name): right after reset
no context exists and no core has a task; BOOTST is 0, JNEXT 1, CHUNK 16, TLEN 128; every SECNT is 0; memory lists nothing; and a core
record in its creation state has the reset values of the control registers, zero registers and barriers, semaphores and timelines at 0. -/
def Sys2Proof.Stmt.ResetState : Prop :=
  let s := State.reset
  let c := Core.init
  s.ctxs = [] ∧ s.cores = [] ∧ (∀ k, (coreAt s k).task = none) ∧ (∀ x, ctxAt? s x = none) ∧ s.hbm = [] ∧ s.sram = [] ∧ s.capTags = [] ∧
    s.page.bootst = 0 ∧ s.page.jnext = 1 ∧ s.page.chunk = 16 ∧ (∀ i, s.page.secnt.getD i 0 = 0) ∧ s.port.tlen = 128 ∧
    s.fcp.launches = [] ∧ (∀ q, mget 0 s.fcp.dt q = 0) ∧
    c.csr.wdog = 0x10000 ∧ c.csr.fpcsr = 0x1000 ∧ c.csr.mxst = 0 ∧ c.csr.gxcfg = 0xFFFFFFFF ∧ c.csr.resvcfg = 8 ∧ c.csr.tcause = 0xF000000000 ∧
    c.csr.tvec = 0 ∧ c.csr.tdeleg = 0 ∧ (∀ i, readG c i = if 56 ≤ i then readG c i else 0) ∧ (∀ i < 32, readV c i = 0) ∧
    (∀ i, mget 0 c.sems i = 0) ∧ (∀ i, mget 0 c.tl i = 0) ∧ (∀ i, bar c i = Barrier.init) ∧ c.inH = false ∧ c.lock = none ∧
    (∀ f, (fifoAt c f).peer = none)

/-- The canonical form of both memories holds at reset, and so do the sizes of every register file (entries 1 and 2 of the log name the
model's choices). -/
def Sys2Proof.Stmt.ResetIsSafe : Prop := State.reset.safe ∧ Core.init.shaped ∧ ∀ k, (coreAt State.reset k).shaped

/-- R397, R398, R407: what reset leaves, and that it is safe. -/
def Obligations.Reset : Prop := Stmt.ResetState ∧ Stmt.ResetIsSafe

/-- R76 and the opcode table: for every syllable, with every operand at every value its encoding admits, the encoded word has 32 bits and
decodes in its slot class to that syllable; a word that decodes is the encoding of a well-formed syllable of its class. -/
def Obligations.DecodeOfEncode : Prop :=
  (∀ (i : Instr) (c : SlotClass), slotClass i = some c → wellFormed i = true → encode i < 2 ^ 32 ∧ decode c (encode i) = some i) ∧
  (∀ (c : SlotClass) (w : Nat) (i : Instr), decode c w = some i → wellFormed i = true)

/-- Every step keeps both memories in canonical form: addresses strictly rising, no listed byte equal to what an unlisted address reads
as (log entry 1). -/
def Obligations.StepKeepsMemoryCanonical : Prop :=
  ∀ s t : State, s.memWf → step s = .next t → t.memWf
end

