-- ==== Sys2Proof/Laws/Tables.lean ====
section
/-! SUPPORT. Laws of sparse tables and of core records. -/

namespace Sys2Proof.Machine

variable {α : Type}

/-- Reading a table where it has just been set. -/
@[simp] theorem mget_mset_same (d : α) (m : SMap α) (i : Nat) (x : α) : mget d (mset m i x) i = x := by
  induction m with
  | nil => simp [mset, mget]
  | cons e r ih =>
    obtain ⟨k, y⟩ := e
    simp only [mset]
    split
    · simp [mget]
    · split
      · simp [mget]
      · rename_i h; simp [mget, h, ih]

/-- Setting one entry of a table leaves the others. -/
@[simp] theorem mget_mset_other (d : α) (m : SMap α) (i j : Nat) (x : α) (h : j ≠ i) : mget d (mset m i x) j = mget d m j := by
  induction m with
  | nil => simp [mset, mget, h]
  | cons e r ih =>
    obtain ⟨k, y⟩ := e
    simp only [mset]
    split
    · simp [mget, h]
    · split
      · rename_i hk; subst hk; simp [mget, h]
      · simp [mget, ih]

/-- Setting an entry twice keeps the second value. -/
@[simp] theorem mset_mset (m : SMap α) (i : Nat) (x y : α) : mset (mset m i x) i y = mset m i y := by
  induction m with
  | nil => simp [mset]
  | cons e r ih =>
    obtain ⟨k, z⟩ := e
    simp only [mset]
    split
    · simp [mset]
    · split
      · simp [mset]
      · rename_i h1 h2; simp [mset, h1, h2, ih]

@[simp] theorem coreAt_setCore_same (s : State) (k : Nat) (x : Core) : coreAt (setCore s k x) k = x := by simp [coreAt, setCore]

@[simp] theorem coreAt_setCore_other (s : State) (k j : Nat) (x : Core) (h : j ≠ k) : coreAt (setCore s k x) j = coreAt s j := by
  simp [coreAt, setCore, h]

@[simp] theorem coreAt_onCore_same (s : State) (k : Nat) (f : Core → Core) : coreAt (onCore s k f) k = f (coreAt s k) := by simp [onCore]

@[simp] theorem coreAt_onCore_other (s : State) (k j : Nat) (f : Core → Core) (h : j ≠ k) : coreAt (onCore s k f) j = coreAt s j := by
  simp [onCore, h]

@[simp] theorem curCore_onCur (s : State) (f : Core → Core) : curCore (onCur s f) = f (curCore s) := by
  simp [curCore, onCur, onCore, setCore, coreAt]

/-- A change of the issuing core's record changes nothing else. -/
theorem onCur_only (s : State) (f : Core → Core) : OnlyCore s (onCur s f) (f (curCore s)) where
  state := rfl
  core := by simp [onCur, curCore]
  others := fun k h => by simp [onCur, h]
  memory := fun _ _ => rfl

end Sys2Proof.Machine
end

