-- ==== Sys2Proof/Laws/Issue.lean ====
section
/-! SUPPORT. What issuing one syllable can do: with its registers ready, room in the access queue and its own tests passed, its effect
takes place. -/

namespace Sys2Proof.Machine

/-- A list of holds with none in it. -/
theorem firstHold_none (l : List (Option Hold)) (h : ∀ x ∈ l, x = none) : firstHold l = none := by
  induction l with
  | nil => rfl
  | cons x r ih =>
    have hx := h x (by simp)
    subst hx
    simpa [firstHold] using ih fun y hy => h y (by simp [hy])

/-- No alias among the names is unbound. -/
theorem unboundFail_none {c : Core} {rg wg rv rk : List Nat} {n : Nat} (h : CanIssue c rg wg rv rk n) (slot : Nat) (u : Uses)
    (hg : u.rg = rg) (hw : u.wg = wg) : unboundFail c slot u = none := by
  simp only [unboundFail, Option.map_eq_none_iff, List.find?_eq_none, hg, hw, List.mem_append]
  rintro i hi
  rcases hi with hi | hi
  · have := h.reads i hi
    by_cases h56 : 56 ≤ i
    · simp only [gReadable, h56, if_true] at this
      simp [h56, Option.isSome_iff_ne_none.mp this.1]
    · simp [h56]
  · by_cases h56 : 56 ≤ i
    · simp [h56, Option.isSome_iff_ne_none.mp (h.writes i hi h56).1]
    · simp [h56]

/-- No register the syllable names holds it. -/
theorem regHolds_none {c : Core} {rg wg rv rk : List Nat} {n : Nat} (h : CanIssue c rg wg rv rk n) (u : Uses)
    (hg : u.rg = rg) (hw : u.wg = wg) (hv : u.rv = rv) (hk : u.rk = rk) : regHolds c u = none := by
  apply firstHold_none
  intro x hx
  simp only [List.mem_append, List.mem_map, hg, hw, hv, hk] at hx
  rcases hx with ((⟨i, hi, rfl⟩ | ⟨i, hi, rfl⟩) | ⟨i, hi, rfl⟩) | ⟨i, hi, rfl⟩
  · have := h.reads i hi
    by_cases h56 : 56 ≤ i
    · simp only [gReadable, h56, if_true] at this
      simp [h56, List.isEmpty_iff, this.2]
    · simp only [gReadable, h56, if_false] at this
      simp [h56, pendingHold, this]
  · by_cases h56 : 56 ≤ i
    · simp [h56, Nat.not_le.mpr (h.writes i hi h56).2]
    · simp [h56]
  · simp [pendingHold, h.vecs i hi]
  · simp [pendingHold, h.caps i hi]

/-- The tests of one syllable pass. -/
theorem checkGroup_ok {c : Core} {rg wg rv rk : List Nat} {n : Nat} (h : CanIssue c rg wg rv rk n) (slot : Nat) (i : Instr) (t : Tests)
    (hg : (uses i).rg = rg) (hw : (uses i).wg = wg) (hv : (uses i).rv = rv) (hk : (uses i).rk = rk)
    (h1 : t.opnd = none) (h2 : t.align = none) (h3 : t.dom = none) (h4 : t.hold = none) (h5 : t.ents ≤ n) :
    checkGroup c [(slot, 0, i, t)] = .ok := by
  have := h.room
  have h6 : ¬48 < entsUsed c + t.ents := by omega
  simp only [checkGroup, List.map_cons, List.map_nil, unboundFail_none h slot _ hg hw, regHolds_none h _ hg hw hv hk, h1, h2, h3, h4,
    Option.map_none, firstFail, firstHold, fullAt, h6, if_false, List.cons_append, List.nil_append]

/-- A syllable that can issue, and whose own tests pass, has its effect. -/
theorem issue_ok {s : State} {rg wg rv rk : List Nat} {n : Nat} (h : CanIssue (curCore s) rg wg rv rk n) (slot : Nat) (i : Instr) (t : Tests)
    (f : State → State) (hg : (uses i).rg = rg) (hw : (uses i).wg = wg) (hv : (uses i).rv = rv) (hk : (uses i).rk = rk)
    (h1 : t.opnd = none) (h2 : t.align = none) (h3 : t.dom = none) (h4 : t.hold = none) (h5 : t.ents ≤ n) :
    issue s slot i t f = .next (f s) := by
  simp only [issue, h.phase, if_false, checkOne, checkGroup_ok h slot i t hg hw hv hk h1 h2 h3 h4 h5, ite_self]

/-- Every outcome of an issue is a next state. -/
theorem issue_next (s : State) (slot : Nat) (i : Instr) (t : Tests) (f : State → State) : ∃ t', issue s slot i t f = .next t' := by
  simp only [issue]
  split
  · exact ⟨_, rfl⟩
  · split <;> exact ⟨_, rfl⟩

/-- A syllable outside a bundle's tests that fails its own test takes that trap. -/
theorem issue_trap {s : State} (slot : Nat) (i : Instr) (t : Tests) (f : State → State) (k : Cause) (hp : (curCore s).phase ≠ .test)
    (h : checkOne s slot i t = .trap k) : issue s slot i t f = .next (takeTrap s s.cur k) := by
  simp [issue, hp, h]

/-- A syllable that its registers or its own condition hold leaves the bundle waiting. -/
theorem issue_hold {s : State} (slot : Nat) (i : Instr) (t : Tests) (f : State → State) (d : Hold) (hp : (curCore s).phase ≠ .test)
    (h : checkOne s slot i t = .hold d) : issue s slot i t f = .next (noteHold s d) := by
  simp [issue, hp, h]

/-- Noting the pops of a result's syllable. -/
theorem notePops_pushResult (c : Core) (rg : List Nat) (d : Dest) (v : Val) (l : Nat) (fl : BitVec 5) :
    notePops (pushResult c d v l fl) rg =
      { c with
        results := c.results ++ [{ dest := d, val := v, land := c.icycle + l, flags := fl, ord := 2 * c.issued + 1 }]
        pops := popped c rg
        fifos := reservedFor c d } := by
  cases d <;> rfl

/-- A result put in flight, with the pops noted, is all that changes. -/
theorem lands_of_push (s : State) (i : Instr) (rg : List Nat) (hg : (uses i).rg = rg) (f : Core → Core) (d : Dest) (v : Val) (l : Nat)
    (fl : BitVec 5) (hf : f (curCore s) = pushResult (curCore s) d v l fl) : Lands s (popsOf (onCur s f) i) rg d v l fl := by
  have h := onCur_only s fun c => notePops (f c) (uses i).rg
  have e : popsOf (onCur s f) i = onCur s fun c => notePops (f c) (uses i).rg := by
    simp only [popsOf, onCur, onCore, setCore, coreAt, mget_mset_same]
    congr 1
    exact mset_mset _ _ _ _
  rw [e, Lands, ← notePops_pushResult, ← hf, ← hg]
  exact h

/-- Two changes of the issuing core's record are one. -/
theorem onCur_onCur (s : State) (f g : Core → Core) : onCur (onCur s f) g = onCur s fun c => g (f c) := by
  simp only [onCur, onCore, setCore, coreAt, mget_mset_same]
  congr 1
  exact mset_mset _ _ _ _

/-- A scalar-class syllable computes what its meaning says. -/
theorem computes_of {i : Instr} {rg : List Nat} {d l : Nat} {v : Core → Word} (slot : Nat) (f : Core → Word)
    (he : ∀ s, exec i s = scalarOp s slot i d l f) (hg : (uses i).rg = rg) (hw : (uses i).wg = [d]) (hv : (uses i).rv = [])
    (hk : (uses i).rk = []) (hf : ∀ c, f c = v c) : Computes i rg d l v := by
  intro s h
  refine ⟨_, (he s).trans (issue_ok h slot i noTests _ hg hw hv hk rfl rfl rfl rfl (Nat.le_refl 0)), ?_⟩
  rw [← hf]
  exact lands_of_push s i rg hg _ _ _ _ _ rfl

/-- A predicate syllable decides what its meaning says. -/
theorem decides_of {i : Instr} {rg : List Nat} {d : Nat} {v : Core → Word} (f : Core → Word)
    (he : ∀ s, exec i s = predOp s i d f) (hg : (uses i).rg = rg) (hw : (uses i).wg = []) (hv : (uses i).rv = [])
    (hk : (uses i).rk = []) (hf : ∀ c, f c = v c) : Decides i rg d v := by
  intro s h
  refine ⟨_, (he s).trans (issue_ok h _ i noTests _ hg hw hv hk rfl rfl rfl rfl (Nat.le_refl 0)), ?_⟩
  rw [← hf]
  exact lands_of_push s i rg hg _ _ _ _ _ rfl

/-- A syllable whose effect changes the issuing core's record by `g`. -/
theorem leaves_of {s : State} {rg wg rv rk : List Nat} {n : Nat} (h : CanIssue (curCore s) rg wg rv rk n) {slot : Nat} {i : Instr}
    {t : Tests} {f : State → State} (he : exec i s = issue s slot i t f) (hg : (uses i).rg = rg) (hw : (uses i).wg = wg)
    (hv : (uses i).rv = rv) (hk : (uses i).rk = rk) (h1 : t.opnd = none) (h2 : t.align = none) (h3 : t.dom = none) (h4 : t.hold = none)
    (h5 : t.ents ≤ n) {x : Core} (g : Core → Core) (hf : f s = onCur s g) (hx : g (curCore s) = x) : Leaves i s x :=
  ⟨_, he.trans ((issue_ok h slot i t f hg hw hv hk h1 h2 h3 h4 h5).trans (congrArg _ hf)), hx ▸ onCur_only s g⟩

/-- Clearing a place for an interlocked load leaves the counts and FIFOs. -/
theorem cleared_same (c : Core) (d : Dest) (l : Nat) :
    (cleared c d l).issued = c.issued ∧ (cleared c d l).pops = c.pops ∧ (cleared c d l).fifos = c.fifos := by
  simp only [cleared, overtake, supersede]
  split <;> (try split) <;> exact ⟨rfl, rfl, rfl⟩

/-- Reserving an entry of `fo` changes the FIFOs only. -/
theorem reserve_fifos (x : Core) (d : Dest) : reserve x d = { x with fifos := reservedFor x d } := by cases d <;> rfl

/-- The reserved FIFOs depend on the FIFOs alone. -/
theorem reservedFor_congr {x y : Core} (h : x.fifos = y.fifos) (d : Dest) : reservedFor x d = reservedFor y d := by
  cases d <;> simp only [reservedFor, fifoAt, h]

/-- Putting one access in the queue, with the pops noted. -/
theorem pushAccess_queued (s : State) (a : Access) (i : Instr) : ∃ f, popsOf (pushAccess s a) i = onCur s f ∧
    f (curCore s) = queued (curCore s) (uses i).rg { a with id := (curCore s).issued + 1 } := by
  refine ⟨_, onCur_onCur _ _ _, ?_⟩
  generalize curCore s = c
  have h := cleared_same c a.dest a.land
  show notePops { reserve (cleared c a.dest a.land) a.dest with
    accs := (reserve (cleared c a.dest a.land) a.dest).accs ++ [{ a with id := (reserve (cleared c a.dest a.land) a.dest).issued + 1 }]
    issued := (reserve (cleared c a.dest a.land) a.dest).issued + 1 } (uses i).rg = _
  rw [reserve_fifos, reservedFor_congr h.2.2]
  simp only [queued, notePops, popped, h.1, h.2.1]

/-- A syllable whose effect is one more access in the queue. -/
theorem leaves_queued {s : State} {rg wg rv rk : List Nat} {n : Nat} (h : CanIssue (curCore s) rg wg rv rk n) {slot : Nat} {i : Instr}
    {t : Tests} {f : State → State} (he : exec i s = issue s slot i t f) (hg : (uses i).rg = rg) (hw : (uses i).wg = wg)
    (hv : (uses i).rv = rv) (hk : (uses i).rk = rk) (h1 : t.opnd = none) (h2 : t.align = none) (h3 : t.dom = none) (h4 : t.hold = none)
    (h5 : t.ents ≤ n) {x : Core} (a : Access) (hf : f s = popsOf (pushAccess s a) i)
    (hx : queued (curCore s) rg { a with id := (curCore s).issued + 1 } = x) : Leaves i s x := by
  obtain ⟨g, h6, h7⟩ := pushAccess_queued s a i
  exact leaves_of h he hg hw hv hk h1 h2 h3 h4 h5 g (hf.trans h6) (h7.trans (hg ▸ hx))

/-- Superseding what is to come for a place leaves the counts and FIFOs. -/
theorem overtake_same (c : Core) (d : Dest) :
    (overtake c d).issued = c.issued ∧ (overtake c d).pops = c.pops ∧ (overtake c d).fifos = c.fifos ∧
      (overtake c d).tlOps = c.tlOps ∧ (overtake c d).fmtTab = c.fmtTab ∧ (overtake c d).ringTab = c.ringTab ∧
      (overtake c d).csr = c.csr ∧ (overtake c d).pc = c.pc ∧ (overtake c d).slot = c.slot ∧ (overtake c d).stg = c.stg := by
  simp only [overtake, supersede]
  split <;> exact ⟨rfl, rfl, rfl, rfl, rfl, rfl, rfl, rfl, rfl, rfl⟩

/-- Returning a value known at issue, with the pops noted. -/
theorem pushReturn_answered (s : State) (d : Dest) (v : Val) (i : Instr) : ∃ f, popsOf (pushReturn s d v) i = onCur s f ∧
    f (curCore s) = answered (curCore s) (uses i).rg d v := by
  refine ⟨_, onCur_onCur _ _ _, ?_⟩
  generalize curCore s = c
  have h := overtake_same c d
  show notePops { reserve (overtake c d) d with
    rets := (reserve (overtake c d) d).rets ++ [{ id := (reserve (overtake c d) d).issued + 1, dest := d, dead := false, val := v }]
    issued := (reserve (overtake c d) d).issued + 1 } (uses i).rg = _
  rw [reserve_fifos, reservedFor_congr h.2.2.1]
  simp only [answered, notePops, popped, h.1, h.2.1]

/-- An operation with the values a command captures at issue (R243). -/
def captured (s : State) (t : Nat) (k : EngKind) (shape : List Word) (loops : List (BitVec 128)) (rings : List Nat) : EngOp where
  n := nextOp (curCore s) t
  kind := k
  shape := shape
  loops := loops
  fmt := fmtAll (curCore s)
  rings := rings.map fun i => (i, ringEntry (curCore s) i)
  fp8sat := fp8sat (curCore s)
  q := s.time
  epc := (curCore s).pc
  slot := (curCore s).slot
  stg := (curCore s).stg
  order := (curCore s).issued + 1
  fired := false
  ended := false
  dead := false
  inB := []
  outB := []
  pos := 0
  aux := []
  replies := []
  slots := 0
  await := 0

/-- Queueing an operation, with the pops noted. -/
theorem pushOp_commanded (s : State) (t : Nat) (k : EngKind) (shape : List Word) (loops : List (BitVec 128)) (rings : List Nat) (i : Instr) :
    ∃ f, popsOf (pushOp s t k shape loops rings) i = onCur s f ∧
      f (curCore s) = commanded (curCore s) (uses i).rg t (captured s t k shape loops rings) := by
  refine ⟨_, onCur_onCur _ _ _, ?_⟩
  simp only [captured]
  generalize curCore s = c
  obtain ⟨h1, h2, -, h4, h5, h6, h7, h8, h9, h10⟩ := overtake_same c (engDest k)
  have hf : fmtAll (overtake c (engDest k)) = fmtAll c := by
    simp only [fmtAll]
    congr 1
    funext j
    simp only [fmtEntry, h5]
  simp only [commanded, notePops, popped, setQueue, queueOf, nextOp, hf, ringEntry, fp8sat, ← h1, ← h2, ← h4, ← h6, ← h7, ← h8, ← h9, ← h10]

/-- A syllable whose effect is none. -/
theorem leaves_none {s : State} {i : Instr} (h : exec i s = .next s) : Leaves i s (curCore s) :=
  ⟨s, h, ⟨rfl, rfl, fun _ _ => rfl, fun _ _ => rfl⟩⟩

/-- A syllable on its own that fails its operand test. -/
theorem trap_opnd {s : State} {rg wg rv rk : List Nat} {n : Nat} (h : CanIssue (curCore s) rg wg rv rk n) {slot : Nat} {i : Instr}
    {t : Tests} {f : State → State} (he : exec i s = issue s slot i t f) (hg : (uses i).rg = rg) (hw : (uses i).wg = wg)
    (hv : (uses i).rv = rv) (hk : (uses i).rk = rk) (hp : (curCore s).phase = .alone) {k : Cause} (h1 : t.opnd = some k)
    (hs : k.stg = 0) : exec i s = .next (takeTrap s s.cur k) := by
  rw [he]
  refine issue_trap slot i t f k (by simp [hp]) ?_
  simp only [checkOne, hp, reduceCtorEq, if_false, checkGroup, List.map_cons, List.map_nil, unboundFail_none h slot _ hg hw,
    regHolds_none h _ hg hw hv hk, h1, Option.map_none, Option.map_some, firstFail, firstHold, List.cons_append, List.nil_append]
  cases k; subst hs; rfl

/-- A syllable on its own that fails its alignment test. -/
theorem trap_align {s : State} {rg wg rv rk : List Nat} {n : Nat} (h : CanIssue (curCore s) rg wg rv rk n) {slot : Nat} {i : Instr}
    {t : Tests} {f : State → State} (he : exec i s = issue s slot i t f) (hg : (uses i).rg = rg) (hw : (uses i).wg = wg)
    (hv : (uses i).rv = rv) (hk : (uses i).rk = rk) (hp : (curCore s).phase = .alone) {k : Cause} (h1 : t.opnd = none)
    (h2 : t.align = some k) (hs : k.stg = 0) : exec i s = .next (takeTrap s s.cur k) := by
  rw [he]
  refine issue_trap slot i t f k (by simp [hp]) ?_
  simp only [checkOne, hp, reduceCtorEq, if_false, checkGroup, List.map_cons, List.map_nil, unboundFail_none h slot _ hg hw,
    regHolds_none h _ hg hw hv hk, h1, h2, Option.map_none, Option.map_some, firstFail, firstHold, List.cons_append, List.nil_append]
  cases k; subst hs; rfl

/-- A syllable on its own that fails its domain or capability test. -/
theorem trap_dom {s : State} {rg wg rv rk : List Nat} {n : Nat} (h : CanIssue (curCore s) rg wg rv rk n) {slot : Nat} {i : Instr}
    {t : Tests} {f : State → State} (he : exec i s = issue s slot i t f) (hg : (uses i).rg = rg) (hw : (uses i).wg = wg)
    (hv : (uses i).rv = rv) (hk : (uses i).rk = rk) (hp : (curCore s).phase = .alone) {k : Cause} (h1 : t.opnd = none)
    (h2 : t.align = none) (h3 : t.dom = some k) (hs : k.stg = 0) : exec i s = .next (takeTrap s s.cur k) := by
  rw [he]
  refine issue_trap slot i t f k (by simp [hp]) ?_
  simp only [checkOne, hp, reduceCtorEq, if_false, checkGroup, List.map_cons, List.map_nil, unboundFail_none h slot _ hg hw,
    regHolds_none h _ hg hw hv hk, h1, h2, h3, Option.map_none, Option.map_some, firstFail, firstHold, List.cons_append, List.nil_append]
  cases k; subst hs; rfl

/-- A syllable on its own that its own condition holds. -/
theorem hold_own {s : State} {rg wg rv rk : List Nat} {n : Nat} (h : CanIssue (curCore s) rg wg rv rk n) {slot : Nat} {i : Instr}
    {t : Tests} {f : State → State} (he : exec i s = issue s slot i t f) (hg : (uses i).rg = rg) (hw : (uses i).wg = wg)
    (hv : (uses i).rv = rv) (hk : (uses i).rk = rk) (hp : (curCore s).phase = .alone) {d : Hold} (h1 : t.opnd = none)
    (h2 : t.align = none) (h3 : t.dom = none) (h4 : t.hold = some d) : exec i s = .next (noteHold s (holdAt slot 0 d)) := by
  rw [he]
  refine issue_hold slot i t f _ (by simp [hp]) ?_
  simp only [checkOne, hp, reduceCtorEq, if_false, checkGroup, List.map_cons, List.map_nil, unboundFail_none h slot _ hg hw,
    regHolds_none h _ hg hw hv hk, h1, h2, h3, h4, Option.map_none, Option.map_some, firstFail, firstHold, List.cons_append, List.nil_append]

end Sys2Proof.Machine
end

