-- ==== Sys2Proof/Laws/Memory.lean ====
section
/-! SUPPORT. Laws of memory: every operation keeps its canonical form; a read after a write gives the value written; a write leaves
every other byte alone. -/

namespace Sys2Proof.Machine

variable {α : Type}

/-! ### Tables whose keys rise -/

/-- The keys of a table rise strictly, all above those of a bound. -/
def risesFrom (lo : Option Nat) (m : SMap α) : Prop := (m.map Prod.fst).Pairwise (· < ·) ∧ ∀ k ∈ m.map Prod.fst, ∀ l, lo = some l → l < k

theorem risesFrom_nil (lo : Option Nat) : risesFrom lo ([] : SMap α) := by simp [risesFrom]

theorem risesFrom_cons {lo : Option Nat} {k : Nat} {x : α} {m : SMap α} :
    risesFrom lo ((k, x) :: m) ↔ (∀ l, lo = some l → l < k) ∧ risesFrom (some k) m := by
  simp only [risesFrom, List.map_cons, List.pairwise_cons, List.mem_cons, forall_eq_or_imp, Option.some.injEq, forall_eq']
  constructor
  · rintro ⟨⟨h1, h2⟩, h3, -⟩
    exact ⟨h3, h2, h1⟩
  · rintro ⟨h1, h2, h3⟩
    exact ⟨⟨h3, h2⟩, h1, fun j hj l hl => (h1 l hl).trans (h3 j hj)⟩

theorem risesFrom_mono {lo lo' : Option Nat} {m : SMap α} (h : risesFrom lo m) (hl : ∀ l, lo' = some l → ∃ j, lo = some j ∧ l ≤ j) :
    risesFrom lo' m :=
  ⟨h.1, fun k hk l e => let ⟨j, hj, hlj⟩ := hl l e; hlj.trans_lt (h.2 k hk j hj)⟩

/-- Removing entries keeps the keys rising. -/
theorem risesFrom_filter {lo : Option Nat} {m : SMap α} (p : Nat × α → Bool) (h : risesFrom lo m) : risesFrom lo (m.filter p) :=
  ⟨h.1.sublist (List.filter_sublist.map _), fun k hk => h.2 k ((List.filter_sublist.map _).subset hk)⟩

/-- A key below every listed one is not listed. -/
theorem mget_below {d : α} {lo : Option Nat} {m : SMap α} (h : risesFrom lo m) {i : Nat} (hi : ∃ l, lo = some l ∧ i ≤ l) : mget d m i = d := by
  induction m generalizing lo with
  | nil => rfl
  | cons e r ih =>
    obtain ⟨k, y⟩ := e
    obtain ⟨l, hl, hil⟩ := hi
    rw [risesFrom_cons] at h
    have := h.1 l hl
    simp only [mget, show i ≠ k by omega, if_false]
    exact ih h.2 ⟨k, rfl, by omega⟩

/-- Setting an entry to any value, the default too, keeps the keys rising. -/
theorem risesFrom_mput [DecidableEq α] (d : α) {lo : Option Nat} {m : SMap α} {i : Nat} {x : α} (h : risesFrom lo m)
    (hi : ∀ l, lo = some l → l < i) : risesFrom lo (mput d m i x) := by
  induction m generalizing lo with
  | nil =>
    simp only [mput]
    split
    · exact risesFrom_nil _
    · exact risesFrom_cons.mpr ⟨hi, risesFrom_nil _⟩
  | cons e r ih =>
    obtain ⟨k, y⟩ := e
    have h' := risesFrom_cons.mp h
    simp only [mput]
    split
    · split
      · exact h
      · exact risesFrom_cons.mpr ⟨hi, risesFrom_cons.mpr ⟨fun l e => by simp at e; omega, h'.2⟩⟩
    · split
      · split
        · exact risesFrom_mono h'.2 fun l e => ⟨k, rfl, (h'.1 l e).le⟩
        · rename_i hk _
          subst hk
          exact risesFrom_cons.mpr ⟨hi, h'.2⟩
      · exact risesFrom_cons.mpr ⟨h'.1, ih h'.2 fun l e => by simp at e; omega⟩

/-- Reading where a table has just been set. -/
theorem mget_mput_same [DecidableEq α] (d : α) {lo : Option Nat} {m : SMap α} (i : Nat) (x : α) (h : risesFrom lo m) :
    mget d (mput d m i x) i = x := by
  induction m generalizing lo with
  | nil => simp only [mput]; split <;> simp_all [mget]
  | cons e r ih =>
    obtain ⟨k, y⟩ := e
    have h' := risesFrom_cons.mp h
    simp only [mput]
    split
    · rename_i hik
      split
      · rename_i hx
        rw [hx]
        simp only [mget, show i ≠ k by omega, if_false]
        exact mget_below h'.2 ⟨k, rfl, by omega⟩
      · simp [mget]
    · split
      · rename_i hk
        subst hk
        split
        · rename_i hx
          rw [hx]
          exact mget_below h'.2 ⟨i, rfl, le_rfl⟩
        · simp [mget]
      · rename_i h1 h2
        simp only [mget, h2, if_false]
        exact ih h'.2

/-- Setting one entry leaves the others. -/
theorem mget_mput_other [DecidableEq α] (d : α) (m : SMap α) (i j : Nat) (x : α) (h : j ≠ i) : mget d (mput d m i x) j = mget d m j := by
  induction m with
  | nil => simp only [mput]; split <;> simp [mget, h]
  | cons e r ih =>
    obtain ⟨k, y⟩ := e
    simp only [mput]
    split
    · split <;> simp [mget, h]
    · split
      · rename_i hk
        subst hk
        split <;> simp [mget, h]
      · simp [mget, ih]

/-! ### The canonical form -/

/-- The canonical form, in words: the addresses rise and no listed byte is zero. -/
theorem memWfFrom_iff (lo : Option Nat) (m : Memory) : memWfFrom lo m = true ↔ risesFrom lo m ∧ ∀ e ∈ m, e.2 ≠ 0 := by
  induction m generalizing lo with
  | nil => simp [memWfFrom, risesFrom]
  | cons e r ih =>
    obtain ⟨k, x⟩ := e
    rw [risesFrom_cons]
    simp only [memWfFrom, Bool.and_eq_true, ih (some k), List.mem_cons, forall_eq_or_imp, bne_iff_ne]
    cases lo with
    | none => simp; tauto
    | some l => simp; tauto

theorem wf_iff (m : Memory) : Memory.wf m = true ↔ risesFrom none m ∧ ∀ e ∈ m, e.2 ≠ 0 := memWfFrom_iff none m

theorem wf_nil : Memory.wf [] = true := rfl

/-- Storing one byte keeps the form. -/
theorem wf_writeByte {m : Memory} (h : Memory.wf m = true) (a : Nat) (x : Byte) : Memory.wf (writeByte m a x) = true := by
  rw [wf_iff] at h ⊢
  refine ⟨risesFrom_mput _ h.1 (by simp), ?_⟩
  intro e he
  have key : ∀ (m : Memory), (∀ e ∈ m, e.2 ≠ 0) → ∀ e ∈ mput unlistedByte m a x, e.2 ≠ 0 := by
    intro m
    induction m with
    | nil =>
      intro _ e he
      simp only [mput] at he
      split at he <;> simp_all [unlistedByte]
    | cons b r ih =>
      obtain ⟨k, y⟩ := b
      intro hm e he
      simp only [mput] at he
      split at he
      · split at he
        · exact hm e he
        · rename_i hx
          rcases List.mem_cons.mp he with rfl | he
          · simpa [unlistedByte] using hx
          · exact hm e he
      · split at he
        · split at he
          · exact hm e (List.mem_cons_of_mem _ he)
          · rename_i hx
            rcases List.mem_cons.mp he with rfl | he
            · simpa [unlistedByte] using hx
            · exact hm e (List.mem_cons_of_mem _ he)
        · rcases List.mem_cons.mp he with rfl | he
          · exact hm _ (List.mem_cons_self ..)
          · exact ih (fun e h => hm e (List.mem_cons_of_mem _ h)) e he
  exact key m h.2 e he

theorem wf_writeBytes {m : Memory} (h : Memory.wf m = true) (a : Nat) (bs : List Byte) : Memory.wf (writeBytes m a bs) = true := by
  induction bs generalizing m a with
  | nil => exact h
  | cons x r ih => exact ih (wf_writeByte h a x) (a + 1)

theorem wf_writeNat {m : Memory} (h : Memory.wf m = true) (a n x : Nat) : Memory.wf (writeNat m a n x) = true := wf_writeBytes h a _

/-- Dropping bytes keeps the form. -/
theorem wf_filter {m : Memory} (h : Memory.wf m = true) (p : Nat × Byte → Bool) : Memory.wf (m.filter p) = true := by
  rw [wf_iff] at h ⊢
  exact ⟨risesFrom_filter p h.1, fun e he => h.2 e (List.mem_filter.mp he).1⟩

/-- Moving a range of bytes keeps the form. -/
theorem wf_blit {m : Memory} (h : Memory.wf m = true) (a n : Nat) (es : List (Nat × Byte)) : Memory.wf (blit m a n es) = true := by
  have hw : ∀ (l : List (Nat × Byte)) (m : Memory), Memory.wf m = true → Memory.wf (l.foldl (fun l e => writeByte l e.1 e.2) m) = true := by
    intro l
    induction l with
    | nil => exact fun _ h => h
    | cons e r ih => exact fun m h => ih _ (wf_writeByte h _ _)
  have h2 := wf_filter (hw es [] wf_nil) fun e => decide (a ≤ e.1 ∧ e.1 < a + n)
  have h1 := wf_filter h fun e => decide (e.1 < a)
  have h3 := wf_filter h fun e => decide (a + n ≤ e.1)
  rw [wf_iff] at h1 h2 h3 ⊢
  unfold blit
  refine ⟨⟨?_, by simp⟩, ?_⟩
  · simp only [List.map_append, List.pairwise_append]
    refine ⟨⟨h1.1.1, h2.1.1, ?_⟩, h3.1.1, ?_⟩
    · intro x hx y hy
      simp only [List.mem_map, List.mem_filter, decide_eq_true_eq] at hx hy
      obtain ⟨e, ⟨-, he⟩, rfl⟩ := hx
      obtain ⟨f, ⟨-, hf⟩, rfl⟩ := hy
      omega
    · intro x hx y hy
      simp only [List.mem_append, List.mem_map, List.mem_filter, decide_eq_true_eq] at hx hy
      obtain ⟨f, ⟨-, hf⟩, rfl⟩ := hy
      rcases hx with ⟨e, ⟨-, he⟩, rfl⟩ | ⟨e, ⟨-, he⟩, rfl⟩ <;> omega
  · intro e he
    rcases List.mem_append.mp he with he | he
    · rcases List.mem_append.mp he with he | he
      · exact h1.2 e he
      · exact h2.2 e he
    · exact h3.2 e he

/-! ### Reading back -/

/-- The byte just stored reads back. -/
theorem readByte_writeByte_same {m : Memory} (h : Memory.wf m = true) (a : Nat) (x : Byte) : readByte (writeByte m a x) a = x :=
  mget_mput_same _ a x ((wf_iff m).mp h).1

/-- A store to one byte leaves the others. -/
theorem readByte_writeByte_other (m : Memory) (a b : Nat) (x : Byte) (h : b ≠ a) : readByte (writeByte m a x) b = readByte m b :=
  mget_mput_other _ m a b x h

/-- A store leaves every byte outside its range. -/
theorem readByte_writeBytes_other (m : Memory) (a : Nat) (bs : List Byte) (b : Nat) (h : b < a ∨ a + bs.length ≤ b) :
    readByte (writeBytes m a bs) b = readByte m b := by
  induction bs generalizing m a with
  | nil => rfl
  | cons x r ih =>
    simp only [List.length_cons] at h
    simp only [writeBytes]
    rw [ih _ _ (by omega), readByte_writeByte_other _ _ _ _ (by omega)]

/-- The bytes just stored read back. -/
theorem readByte_writeBytes_same {m : Memory} (h : Memory.wf m = true) (a : Nat) (bs : List Byte) (i : Nat) (hi : i < bs.length) :
    readByte (writeBytes m a bs) (a + i) = bs[i] := by
  induction bs generalizing m a i with
  | nil => simp at hi
  | cons x r ih =>
    simp only [writeBytes]
    cases i with
    | zero =>
      rw [readByte_writeBytes_other _ _ _ _ (by omega)]
      simpa using readByte_writeByte_same h a x
    | succ j =>
      have := ih (wf_writeByte h a x) (a + 1) j (by simpa using hi)
      rw [show a + 1 + j = a + (j + 1) by omega] at this
      simpa using this

/-! ### States -/

theorem memWf_reset : State.reset.memWf := ⟨rfl, rfl⟩

/-- A change that leaves both memories keeps their form. -/
theorem memWf_of_eq {s t : State} (h : s.memWf) (h1 : t.hbm = s.hbm) (h2 : t.sram = s.sram) : t.memWf := by
  unfold State.memWf; rw [h1, h2]; exact h

theorem memWf_physWrite {s : State} (h : s.memWf) (p : Phys) (bs : List Byte) : (physWrite s p bs).memWf := by
  unfold physWrite State.memWf
  split
  · exact ⟨h.1, wf_writeBytes h.2 _ _⟩
  · exact ⟨wf_writeBytes h.1 _ _, h.2⟩

theorem memWf_hbmWrite {s : State} (h : s.memWf) (a : Nat) (bs : List Byte) : (hbmWrite s a bs).memWf :=
  memWf_physWrite (s := dropPrior s { sp := false, a := a } bs.length) h { sp := false, a := a } bs

theorem memWf_notePrior {s : State} (h : s.memWf) (p : Phys) (n : Nat) : (notePrior s p n).memWf := h
theorem memWf_dropPrior {s : State} (h : s.memWf) (p : Phys) (n : Nat) : (dropPrior s p n).memWf := h
theorem memWf_setTag {s : State} (h : s.memWf) (p : Phys) (t : Bool) : (setTag s p t).memWf := by
  exact memWf_of_eq h rfl rfl
theorem memWf_setCore {s : State} (h : s.memWf) (k : Nat) (x : Core) : (setCore s k x).memWf := h
theorem memWf_onCore {s : State} (h : s.memWf) (k : Nat) (f : Core → Core) : (onCore s k f).memWf := h
theorem memWf_setCtx {s : State} (h : s.memWf) (x : Nat) (y : Ctx) : (setCtx s x y).memWf := h
theorem memWf_logCp {s : State} (h : s.memWf) (k a b : Nat) : (logCp s k a b).memWf := h

theorem memWf_copyPhys {s : State} (h : s.memWf) (p q : Phys) (n : Nat) : (copyPhys s p q n).memWf := by
  unfold copyPhys
  dsimp only
  split
  · rename_i hq
    refine ⟨h.1, ?_⟩
    simp only [store, hq, if_true]
    exact wf_blit h.2 _ _ _
  · rename_i hq
    refine ⟨?_, h.2⟩
    simp only [store, hq]
    exact wf_blit h.1 _ _ _

theorem memWf_recordTrap {s : State} (h : s.memWf) (c : Nat) (r : Bool) : (recordTrap s c r).memWf := by
  have e1 : ∀ (a b n m : Nat) (bs : List Byte), Memory.wf (writeNat (writeBytes s.hbm a bs) b n m) = true :=
    fun _ _ _ _ _ => wf_writeNat (wf_writeBytes h.1 _ _) _ _ _
  unfold recordTrap
  dsimp only [State.memWf, setCtx]
  exact ⟨e1 _ _ _ _ _, h.2⟩

end Sys2Proof.Machine
end

