-- ==== Sys2Proof/Laws/PerInstr.lean ====
section
/-! SUPPORT. The families of statements that are made of every instruction, one lemma per constructor.

RoundTrip: the word that the encoder writes for a well-formed syllable decodes, in the syllable's slot class, to that
syllable; events have no word. -/

set_option linter.unusedSimpArgs false

namespace Sys2Proof.Laws

/-! ### Fields and codes -/

theorem fin4_of {w lo : Nat} {d : Fin 4} (h : w / 2 ^ lo % 4 = d.val) : fin4 w lo = d := Fin.ext h
theorem fin8_of {w lo : Nat} {d : Fin 8} (h : w / 2 ^ lo % 8 = d.val) : fin8 w lo = d := Fin.ext h
theorem fin16_of {w lo : Nat} {d : Fin 16} (h : w / 2 ^ lo % 16 = d.val) : fin16 w lo = d := Fin.ext h
theorem fin32_of {w lo : Nat} {d : Fin 32} (h : w / 2 ^ lo % 32 = d.val) : fin32 w lo = d := Fin.ext h
theorem fin64_of {w lo : Nat} {d : Fin 64} (h : w / 2 ^ lo % 64 = d.val) : fin64 w lo = d := Fin.ext h
theorem fin128_of {w lo : Nat} {d : Fin 128} (h : w / 2 ^ lo % 128 = d.val) : fin128 w lo = d := Fin.ext h
theorem bit_of {w lo : Nat} {b : Bool} (h : w / 2 ^ lo % 2 = b.toNat) : bit w lo = b := by
  unfold bit; rw [h]; cases b <;> rfl
theorem bv_of {w n : Nat} {x : BitVec n} (h : w % 2 ^ n = x.toNat) : BitVec.ofNat n w = x :=
  BitVec.eq_of_toNat_eq (by simpa using h)

theorem ElTy_code_lt (t : ElTy) : t.code < 8 := by cases t <;> decide
theorem ElTy_ofCode_code (t : ElTy) : ElTy.ofCode t.code = some t := by cases t <;> rfl
theorem Rm_code_lt (t : Rm) : t.code < 8 := by cases t <;> decide
theorem Rm_ofCode_code (t : Rm) : Rm.ofCode t.code = some t := by cases t <;> rfl
theorem Cond_code_lt (t : Cond) : t.code < 8 := by cases t <;> decide
theorem Cond_ofCode_code (t : Cond) : Cond.ofCode t.code = some t := by cases t <;> rfl
theorem RedOp_code_lt (t : RedOp) : t.code < 4 := by cases t <;> decide
theorem RedOp_ofCode_code (t : RedOp) : RedOp.ofCode t.code = some t := by cases t <;> rfl
theorem El_code_lt (t : El) : t.code < 4 := by cases t <;> decide
theorem El_ofCode_code (t : El) : El.ofCode t.code = some t := by cases t <;> rfl
theorem MopOp_code_lt (t : MopOp) : t.code < 8 := by cases t <;> decide
theorem MopOp_ofCode_code (t : MopOp) : MopOp.ofCode t.code = some t := by cases t <;> rfl
theorem MopTy_code_lt (t : MopTy) : t.code < 4 := by cases t <;> decide
theorem MopTy_ofCode_code (t : MopTy) : MopTy.ofCode t.code = some t := by cases t <;> rfl
theorem AmoOp_code_lt (t : AmoOp) : t.code < 16 := by cases t <;> decide
theorem AmoOp_ofCode_code (t : AmoOp) : AmoOp.ofCode t.code = some t := by cases t <;> rfl
theorem FenceKind_code_lt (t : FenceKind) : t.code < 4 := by cases t <;> decide
theorem FenceKind_ofCode_code (t : FenceKind) : FenceKind.ofCode t.code = some t := by cases t <;> rfl
theorem RelabOp_code_lt (t : RelabOp) : t.code < 4 := by cases t <;> decide
theorem RelabOp_ofCode_code (t : RelabOp) : RelabOp.ofCode t.code = some t := by cases t <;> rfl
theorem AccKind_code_lt (t : AccKind) : t.code < 8 := by cases t <;> decide
theorem AccKind_ofCode_code (t : AccKind) : AccKind.ofCode t.code = some t := by cases t <;> rfl
theorem dec_pfx {i : Instr} {w : Nat} (e : rawPfx w = some i) (hw : wellFormed i = true) : decode .pfx w = some i := by
  show keepWf (rawPfx w) = _
  rw [e]
  exact if_pos hw
theorem dec_x {i : Instr} {w : Nat} (e : rawX w = some i) (hw : wellFormed i = true) : decode .x w = some i := by
  show keepWf (rawX w) = _
  rw [e]
  exact if_pos hw
theorem dec_br {i : Instr} {w : Nat} (e : rawBr w = some i) (hw : wellFormed i = true) : decode .br w = some i := by
  show keepWf (rawBr w) = _
  rw [e]
  exact if_pos hw
theorem dec_v {i : Instr} {w : Nat} (e : rawV w = some i) (hw : wellFormed i = true) : decode .v w = some i := by
  show keepWf (rawV w) = _
  rw [e]
  exact if_pos hw
theorem dec_mm {i : Instr} {w : Nat} (e : rawMm w = some i) (hw : wellFormed i = true) : decode .mm w = some i := by
  show keepWf (rawMm w) = _
  rw [e]
  exact if_pos hw
theorem dec_en {i : Instr} {w : Nat} (e : rawEn w = some i) (hw : wellFormed i = true) : decode .en w = some i := by
  show keepWf (rawEn w) = _
  rw [e]
  exact if_pos hw

namespace RoundTrip

/-- The word of a well-formed syllable decodes to it. -/
def Statement (i : Instr) : Prop :=
  ∀ c, slotClass i = some c → wellFormed i = true → decode c (encode i) = some i

theorem bundleIssue (x0 : List Bundle) : Statement (.bundleIssue x0) := by
  intro c h; exact absurd h nofun

theorem sdoneSignal (x0 : Nat) (x1 : Nat) : Statement (.sdoneSignal x0 x1) := by
  intro c h; exact absurd h nofun

theorem resultWriteback (x0 : Nat) : Statement (.resultWriteback x0) := by
  intro c h; exact absurd h nofun

theorem loadReturn (x0 : Nat) (x1 : Nat) : Statement (.loadReturn x0 x1) := by
  intro c h; exact absurd h nofun

theorem starvationTrap (x0 : Nat) : Statement (.starvationTrap x0) := by
  intro c h; exact absurd h nofun

theorem accessReport (x0 : Nat) (x1 : Report) : Statement (.accessReport x0 x1) := by
  intro c h; exact absurd h nofun

theorem pendingTrapTaken (x0 : Nat) : Statement (.pendingTrapTaken x0) := by
  intro c h; exact absurd h nofun

theorem trapBetweenTasks (x0 : Nat) : Statement (.trapBetweenTasks x0) := by
  intro c h; exact absurd h nofun

theorem stagedTaskStart (x0 : Nat) : Statement (.stagedTaskStart x0) := by
  intro c h; exact absurd h nofun

theorem coreTaskChoice (x0 : Nat) : Statement (.coreTaskChoice x0) := by
  intro c h; exact absurd h nofun

theorem taskRecordDecrement (x0 : Nat) (x1 : Word) : Statement (.taskRecordDecrement x0 x1) := by
  intro c h; exact absurd h nofun

theorem readyOverflowMove (x0 : Nat) : Statement (.readyOverflowMove x0) := by
  intro c h; exact absurd h nofun

theorem launchBackoffExpiry (x0 : Nat) : Statement (.launchBackoffExpiry x0) := by
  intro c h; exact absurd h nofun

theorem superstepAdvance (x0 : Nat) : Statement (.superstepAdvance x0) := by
  intro c h; exact absurd h nofun

theorem launchCompletion (x0 : Nat) : Statement (.launchCompletion x0) := by
  intro c h; exact absurd h nofun

theorem barrierArrivalApplied (x0 : Nat) : Statement (.barrierArrivalApplied x0) := by
  intro c h; exact absurd h nofun

theorem barrierDeferredCompletion (x0 : Nat) (x1 : Nat) : Statement (.barrierDeferredCompletion x0 x1) := by
  intro c h; exact absurd h nofun

theorem accessPerform (x0 : Nat) (x1 : Nat) : Statement (.accessPerform x0 x1) := by
  intro c h; exact absurd h nofun

theorem airedFaultResolve (x0 : Nat) : Statement (.airedFaultResolve x0) := by
  intro c h; exact absurd h nofun

theorem vbusRetrainStart (x0 : Nat) : Statement (.vbusRetrainStart x0) := by
  intro c h; exact absurd h nofun

theorem vbusRetrainForced (x0 : Nat) : Statement (.vbusRetrainForced x0) := by
  intro c h; exact absurd h nofun

theorem vbusRetrainEnd (x0 : Nat) : Statement (.vbusRetrainEnd x0) := by
  intro c h; exact absurd h nofun

theorem engineOpFire (x0 : Nat) (x1 : Nat) : Statement (.engineOpFire x0 x1) := by
  intro c h; exact absurd h nofun

theorem engineOpComplete (x0 : Nat) (x1 : Nat) (x2 : Nat) : Statement (.engineOpComplete x0 x1 x2) := by
  intro c h; exact absurd h nofun

theorem tlAcqSatisfied (x0 : Nat) (x1 : Nat) : Statement (.tlAcqSatisfied x0 x1) := by
  intro c h; exact absurd h nofun

theorem landingMove (x0 : Nat) : Statement (.landingMove x0) := by
  intro c h; exact absurd h nofun

theorem requestInject (x0 : Nat) (x1 : Nat) : Statement (.requestInject x0 x1) := by
  intro c h; exact absurd h nofun

theorem frameResendTimeout (x0 : Link) (x1 : Fin 4) : Statement (.frameResendTimeout x0 x1) := by
  intro c h; exact absurd h nofun

theorem chaseReinject (x0 : Nat) : Statement (.chaseReinject x0) := by
  intro c h; exact absurd h nofun

theorem seamDeadlineFlush (x0 : Nat) : Statement (.seamDeadlineFlush x0) := by
  intro c h; exact absurd h nofun

theorem windowDeadline (x0 : Nat) : Statement (.windowDeadline x0) := by
  intro c h; exact absurd h nofun

theorem slotTableSwap (x0 : Plane) : Statement (.slotTableSwap x0) := by
  intro c h; exact absurd h nofun

theorem fqUnbindComplete (x0 : Nat) (x1 : Nat) : Statement (.fqUnbindComplete x0 x1) := by
  intro c h; exact absurd h nofun

theorem drtFlagPlace (x0 : Nat) : Statement (.drtFlagPlace x0) := by
  intro c h; exact absurd h nofun

theorem drtPacketResend (x0 : Nat) : Statement (.drtPacketResend x0) := by
  intro c h; exact absurd h nofun

theorem drtMessageLost (x0 : Nat) : Statement (.drtMessageLost x0) := by
  intro c h; exact absurd h nofun

theorem registrationDrained (x0 : Nat) : Statement (.registrationDrained x0) := by
  intro c h; exact absurd h nofun

theorem preempt (x0 : Nat) : Statement (.preempt x0) := by
  intro c h; exact absurd h nofun

theorem restore (x0 : Nat) (x1 : Nat) : Statement (.restore x0 x1) := by
  intro c h; exact absurd h nofun

theorem resume (x0 : Nat) (x1 : Nat) (x2 : Nat) : Statement (.resume x0 x1 x2) := by
  intro c h; exact absurd h nofun

theorem gate (x0 : Nat) : Statement (.gate x0) := by
  intro c h; exact absurd h nofun

theorem relabel (x0 : Nat) (x1 : Option Nat) (x2 : Nat) : Statement (.relabel x0 x1 x2) := by
  intro c h; exact absurd h nofun

theorem abort (x0 : Nat) : Statement (.abort x0) := by
  intro c h; exact absurd h nofun

theorem setpeg (x0 : Nat) (x1 : Nat) (x2 : Nat) (x3 : Nat) : Statement (.setpeg x0 x1 x2 x3) := by
  intro c h; exact absurd h nofun

theorem table (x0 : Nat) (x1 : Nat) (x2 : Nat) : Statement (.table x0 x1 x2) := by
  intro c h; exact absurd h nofun

theorem tlen (x0 : Nat) (x1 : Nat) : Statement (.tlen x0 x1) := by
  intro c h; exact absurd h nofun

theorem attest (x0 : Nat) (x1 : Nat) : Statement (.attest x0 x1) := by
  intro c h; exact absurd h nofun

theorem create (x0 : Nat) : Statement (.create x0) := by
  intro c h; exact absurd h nofun

theorem destroy (x0 : Nat) : Statement (.destroy x0) := by
  intro c h; exact absurd h nofun

theorem wdogWrite (x0 : Word) : Statement (.wdogWrite x0) := by
  intro c h; exact absurd h nofun

theorem fpcsrWrite (x0 : Word) : Statement (.fpcsrWrite x0) := by
  intro c h; exact absurd h nofun

theorem parkcfgWrite (x0 : Word) : Statement (.parkcfgWrite x0) := by
  intro c h; exact absurd h nofun

theorem resvcfgWrite (x0 : Word) : Statement (.resvcfgWrite x0) := by
  intro c h; exact absurd h nofun

theorem drtcfgWrite (x0 : Word) : Statement (.drtcfgWrite x0) := by
  intro c h; exact absurd h nofun

theorem drtstWrite (x0 : Word) : Statement (.drtstWrite x0) := by
  intro c h; exact absurd h nofun

theorem eqstWrite (x0 : Word) : Statement (.eqstWrite x0) := by
  intro c h; exact absurd h nofun

theorem controlRegisterWrite (x0 : BitVec 12) (x1 : Word) : Statement (.controlRegisterWrite x0 x1) := by
  intro c h; exact absurd h nofun

theorem bnkLock (a : Fin 64) (n : Fin 16) : Statement (.bnkLock a n) := by
  intro c hc hw
  obtain rfl : SlotClass.pfx = c := Option.some.inj hc
  have e : rawPfx (encode (.bnkLock a n)) = some (.bnkLock a n) := by
    show rawPfx (0x02000000 + a.val * 0x2000 + n.val * 0x200) = _
    generalize hx : 0x02000000 + a.val * 0x2000 + n.val * 0x200 = wd
    have := a.isLt
    have := n.isLt
    have h0 : fld wd 25 7 = 1 := by unfold fld; omega
    have h1 : (fld wd 0 9 = 0 ∧ fld wd 19 6 = 0) := by unfold fld; omega
    have h2 : fin64 wd 13 = a := by exact fin64_of (by omega)
    have h3 : fin16 wd 9 = n := by exact fin16_of (by omega)
    unfold rawPfx
    simp [h0, h1, h2, h3]
  exact dec_pfx e hw

theorem loopm (a : Fin 64) (i : Fin 16) (s : Fin 8) : Statement (.loopm a i s) := by
  intro c hc hw
  obtain rfl : SlotClass.pfx = c := Option.some.inj hc
  have e : rawPfx (encode (.loopm a i s)) = some (.loopm a i s) := by
    show rawPfx (0x04000000 + a.val * 0x2000 + i.val * 0x200 + s.val * 0x40) = _
    generalize hx : 0x04000000 + a.val * 0x2000 + i.val * 0x200 + s.val * 0x40 = wd
    have := a.isLt
    have := i.isLt
    have := s.isLt
    have h0 : fld wd 25 7 = 2 := by unfold fld; omega
    have h1 : (fld wd 0 6 = 0 ∧ fld wd 19 6 = 0) := by unfold fld; omega
    have h2 : fin64 wd 13 = a := by exact fin64_of (by omega)
    have h3 : fin16 wd 9 = i := by exact fin16_of (by omega)
    have h4 : fin8 wd 6 = s := by exact fin8_of (by omega)
    unfold rawPfx
    simp [h0, h1, h2, h3, h4]
  exact dec_pfx e hw

theorem add (d : Fin 64) (a : Fin 64) (b : Fin 64) (w : Bool) : Statement (.add d a b w) := by
  intro c hc hw
  obtain rfl : SlotClass.x = c := Option.some.inj hc
  have e : rawX (encode (.add d a b w)) = some (.add d a b w) := by
    show rawX (0x02000000 + d.val * 0x80000 + a.val * 0x2000 + b.val * 0x80 + w.toNat) = _
    generalize hx : 0x02000000 + d.val * 0x80000 + a.val * 0x2000 + b.val * 0x80 + w.toNat = wd
    have := d.isLt
    have := a.isLt
    have := b.isLt
    have := Bool.toNat_lt w
    have h0 : fld wd 25 7 = 1 := by unfold fld; omega
    have h1 : (fld wd 1 6 = 0) := by unfold fld; omega
    have h2 : fin64 wd 19 = d := by exact fin64_of (by omega)
    have h3 : fin64 wd 13 = a := by exact fin64_of (by omega)
    have h4 : fin64 wd 7 = b := by exact fin64_of (by omega)
    have h5 : bit wd 0 = w := by exact bit_of (by omega)
    unfold rawX
    simp [h0, h1, h2, h3, h4, h5]
  exact dec_x e hw

theorem sub (d : Fin 64) (a : Fin 64) (b : Fin 64) (w : Bool) : Statement (.sub d a b w) := by
  intro c hc hw
  obtain rfl : SlotClass.x = c := Option.some.inj hc
  have e : rawX (encode (.sub d a b w)) = some (.sub d a b w) := by
    show rawX (0x04000000 + d.val * 0x80000 + a.val * 0x2000 + b.val * 0x80 + w.toNat) = _
    generalize hx : 0x04000000 + d.val * 0x80000 + a.val * 0x2000 + b.val * 0x80 + w.toNat = wd
    have := d.isLt
    have := a.isLt
    have := b.isLt
    have := Bool.toNat_lt w
    have h0 : fld wd 25 7 = 2 := by unfold fld; omega
    have h1 : (fld wd 1 6 = 0) := by unfold fld; omega
    have h2 : fin64 wd 19 = d := by exact fin64_of (by omega)
    have h3 : fin64 wd 13 = a := by exact fin64_of (by omega)
    have h4 : fin64 wd 7 = b := by exact fin64_of (by omega)
    have h5 : bit wd 0 = w := by exact bit_of (by omega)
    unfold rawX
    simp [h0, h1, h2, h3, h4, h5]
  exact dec_x e hw

theorem addi (d : Fin 64) (a : Fin 64) (i : BitVec 13) : Statement (.addi d a i) := by
  intro c hc hw
  obtain rfl : SlotClass.x = c := Option.some.inj hc
  have e : rawX (encode (.addi d a i)) = some (.addi d a i) := by
    show rawX (0x06000000 + d.val * 0x80000 + a.val * 0x2000 + i.toNat) = _
    generalize hx : 0x06000000 + d.val * 0x80000 + a.val * 0x2000 + i.toNat = wd
    have := d.isLt
    have := a.isLt
    have := i.isLt
    have h0 : fld wd 25 7 = 3 := by unfold fld; omega
    have h1 : fin64 wd 19 = d := by exact fin64_of (by omega)
    have h2 : fin64 wd 13 = a := by exact fin64_of (by omega)
    have h3 : BitVec.ofNat 13 wd = i := by exact bv_of (by omega)
    unfold rawX
    simp [h0, h1, h2, h3]
  exact dec_x e hw

theorem mul (d : Fin 64) (a : Fin 64) (b : Fin 64) (w : Bool) : Statement (.mul d a b w) := by
  intro c hc hw
  obtain rfl : SlotClass.x = c := Option.some.inj hc
  have e : rawX (encode (.mul d a b w)) = some (.mul d a b w) := by
    show rawX (0x08000000 + d.val * 0x80000 + a.val * 0x2000 + b.val * 0x80 + w.toNat) = _
    generalize hx : 0x08000000 + d.val * 0x80000 + a.val * 0x2000 + b.val * 0x80 + w.toNat = wd
    have := d.isLt
    have := a.isLt
    have := b.isLt
    have := Bool.toNat_lt w
    have h0 : fld wd 25 7 = 4 := by unfold fld; omega
    have h1 : (fld wd 1 6 = 0) := by unfold fld; omega
    have h2 : fin64 wd 19 = d := by exact fin64_of (by omega)
    have h3 : fin64 wd 13 = a := by exact fin64_of (by omega)
    have h4 : fin64 wd 7 = b := by exact fin64_of (by omega)
    have h5 : bit wd 0 = w := by exact bit_of (by omega)
    unfold rawX
    simp [h0, h1, h2, h3, h4, h5]
  exact dec_x e hw

theorem mulh (d : Fin 64) (a : Fin 64) (b : Fin 64) : Statement (.mulh d a b) := by
  intro c hc hw
  obtain rfl : SlotClass.x = c := Option.some.inj hc
  have e : rawX (encode (.mulh d a b)) = some (.mulh d a b) := by
    show rawX (0x0A000000 + d.val * 0x80000 + a.val * 0x2000 + b.val * 0x80) = _
    generalize hx : 0x0A000000 + d.val * 0x80000 + a.val * 0x2000 + b.val * 0x80 = wd
    have := d.isLt
    have := a.isLt
    have := b.isLt
    have h0 : fld wd 25 7 = 5 := by unfold fld; omega
    have h1 : (fld wd 0 7 = 0) := by unfold fld; omega
    have h2 : fin64 wd 19 = d := by exact fin64_of (by omega)
    have h3 : fin64 wd 13 = a := by exact fin64_of (by omega)
    have h4 : fin64 wd 7 = b := by exact fin64_of (by omega)
    unfold rawX
    simp [h0, h1, h2, h3, h4]
  exact dec_x e hw

theorem mulhu (d : Fin 64) (a : Fin 64) (b : Fin 64) : Statement (.mulhu d a b) := by
  intro c hc hw
  obtain rfl : SlotClass.x = c := Option.some.inj hc
  have e : rawX (encode (.mulhu d a b)) = some (.mulhu d a b) := by
    show rawX (0x0C000000 + d.val * 0x80000 + a.val * 0x2000 + b.val * 0x80) = _
    generalize hx : 0x0C000000 + d.val * 0x80000 + a.val * 0x2000 + b.val * 0x80 = wd
    have := d.isLt
    have := a.isLt
    have := b.isLt
    have h0 : fld wd 25 7 = 6 := by unfold fld; omega
    have h1 : (fld wd 0 7 = 0) := by unfold fld; omega
    have h2 : fin64 wd 19 = d := by exact fin64_of (by omega)
    have h3 : fin64 wd 13 = a := by exact fin64_of (by omega)
    have h4 : fin64 wd 7 = b := by exact fin64_of (by omega)
    unfold rawX
    simp [h0, h1, h2, h3, h4]
  exact dec_x e hw

theorem mad (d : Fin 64) (a : Fin 64) (b : Fin 64) : Statement (.mad d a b) := by
  intro c hc hw
  obtain rfl : SlotClass.x = c := Option.some.inj hc
  have e : rawX (encode (.mad d a b)) = some (.mad d a b) := by
    show rawX (0x0E000000 + d.val * 0x80000 + a.val * 0x2000 + b.val * 0x80) = _
    generalize hx : 0x0E000000 + d.val * 0x80000 + a.val * 0x2000 + b.val * 0x80 = wd
    have := d.isLt
    have := a.isLt
    have := b.isLt
    have h0 : fld wd 25 7 = 7 := by unfold fld; omega
    have h1 : (fld wd 0 7 = 0) := by unfold fld; omega
    have h2 : fin64 wd 19 = d := by exact fin64_of (by omega)
    have h3 : fin64 wd 13 = a := by exact fin64_of (by omega)
    have h4 : fin64 wd 7 = b := by exact fin64_of (by omega)
    unfold rawX
    simp [h0, h1, h2, h3, h4]
  exact dec_x e hw

theorem div (d : Fin 64) (a : Fin 64) (b : Fin 64) : Statement (.div d a b) := by
  intro c hc hw
  obtain rfl : SlotClass.x = c := Option.some.inj hc
  have e : rawX (encode (.div d a b)) = some (.div d a b) := by
    show rawX (0x10000000 + d.val * 0x80000 + a.val * 0x2000 + b.val * 0x80) = _
    generalize hx : 0x10000000 + d.val * 0x80000 + a.val * 0x2000 + b.val * 0x80 = wd
    have := d.isLt
    have := a.isLt
    have := b.isLt
    have h0 : fld wd 25 7 = 8 := by unfold fld; omega
    have h1 : (fld wd 0 7 = 0) := by unfold fld; omega
    have h2 : fin64 wd 19 = d := by exact fin64_of (by omega)
    have h3 : fin64 wd 13 = a := by exact fin64_of (by omega)
    have h4 : fin64 wd 7 = b := by exact fin64_of (by omega)
    unfold rawX
    simp [h0, h1, h2, h3, h4]
  exact dec_x e hw

theorem divu (d : Fin 64) (a : Fin 64) (b : Fin 64) : Statement (.divu d a b) := by
  intro c hc hw
  obtain rfl : SlotClass.x = c := Option.some.inj hc
  have e : rawX (encode (.divu d a b)) = some (.divu d a b) := by
    show rawX (0x12000000 + d.val * 0x80000 + a.val * 0x2000 + b.val * 0x80) = _
    generalize hx : 0x12000000 + d.val * 0x80000 + a.val * 0x2000 + b.val * 0x80 = wd
    have := d.isLt
    have := a.isLt
    have := b.isLt
    have h0 : fld wd 25 7 = 9 := by unfold fld; omega
    have h1 : (fld wd 0 7 = 0) := by unfold fld; omega
    have h2 : fin64 wd 19 = d := by exact fin64_of (by omega)
    have h3 : fin64 wd 13 = a := by exact fin64_of (by omega)
    have h4 : fin64 wd 7 = b := by exact fin64_of (by omega)
    unfold rawX
    simp [h0, h1, h2, h3, h4]
  exact dec_x e hw

theorem rem (d : Fin 64) (a : Fin 64) (b : Fin 64) : Statement (.rem d a b) := by
  intro c hc hw
  obtain rfl : SlotClass.x = c := Option.some.inj hc
  have e : rawX (encode (.rem d a b)) = some (.rem d a b) := by
    show rawX (0x14000000 + d.val * 0x80000 + a.val * 0x2000 + b.val * 0x80) = _
    generalize hx : 0x14000000 + d.val * 0x80000 + a.val * 0x2000 + b.val * 0x80 = wd
    have := d.isLt
    have := a.isLt
    have := b.isLt
    have h0 : fld wd 25 7 = 10 := by unfold fld; omega
    have h1 : (fld wd 0 7 = 0) := by unfold fld; omega
    have h2 : fin64 wd 19 = d := by exact fin64_of (by omega)
    have h3 : fin64 wd 13 = a := by exact fin64_of (by omega)
    have h4 : fin64 wd 7 = b := by exact fin64_of (by omega)
    unfold rawX
    simp [h0, h1, h2, h3, h4]
  exact dec_x e hw

theorem remu (d : Fin 64) (a : Fin 64) (b : Fin 64) : Statement (.remu d a b) := by
  intro c hc hw
  obtain rfl : SlotClass.x = c := Option.some.inj hc
  have e : rawX (encode (.remu d a b)) = some (.remu d a b) := by
    show rawX (0x16000000 + d.val * 0x80000 + a.val * 0x2000 + b.val * 0x80) = _
    generalize hx : 0x16000000 + d.val * 0x80000 + a.val * 0x2000 + b.val * 0x80 = wd
    have := d.isLt
    have := a.isLt
    have := b.isLt
    have h0 : fld wd 25 7 = 11 := by unfold fld; omega
    have h1 : (fld wd 0 7 = 0) := by unfold fld; omega
    have h2 : fin64 wd 19 = d := by exact fin64_of (by omega)
    have h3 : fin64 wd 13 = a := by exact fin64_of (by omega)
    have h4 : fin64 wd 7 = b := by exact fin64_of (by omega)
    unfold rawX
    simp [h0, h1, h2, h3, h4]
  exact dec_x e hw

theorem and (d : Fin 64) (a : Fin 64) (b : Fin 64) : Statement (.and d a b) := by
  intro c hc hw
  obtain rfl : SlotClass.x = c := Option.some.inj hc
  have e : rawX (encode (.and d a b)) = some (.and d a b) := by
    show rawX (0x18000000 + d.val * 0x80000 + a.val * 0x2000 + b.val * 0x80) = _
    generalize hx : 0x18000000 + d.val * 0x80000 + a.val * 0x2000 + b.val * 0x80 = wd
    have := d.isLt
    have := a.isLt
    have := b.isLt
    have h0 : fld wd 25 7 = 12 := by unfold fld; omega
    have h1 : (fld wd 0 7 = 0) := by unfold fld; omega
    have h2 : fin64 wd 19 = d := by exact fin64_of (by omega)
    have h3 : fin64 wd 13 = a := by exact fin64_of (by omega)
    have h4 : fin64 wd 7 = b := by exact fin64_of (by omega)
    unfold rawX
    simp [h0, h1, h2, h3, h4]
  exact dec_x e hw

theorem or (d : Fin 64) (a : Fin 64) (b : Fin 64) : Statement (.or d a b) := by
  intro c hc hw
  obtain rfl : SlotClass.x = c := Option.some.inj hc
  have e : rawX (encode (.or d a b)) = some (.or d a b) := by
    show rawX (0x1A000000 + d.val * 0x80000 + a.val * 0x2000 + b.val * 0x80) = _
    generalize hx : 0x1A000000 + d.val * 0x80000 + a.val * 0x2000 + b.val * 0x80 = wd
    have := d.isLt
    have := a.isLt
    have := b.isLt
    have h0 : fld wd 25 7 = 13 := by unfold fld; omega
    have h1 : (fld wd 0 7 = 0) := by unfold fld; omega
    have h2 : fin64 wd 19 = d := by exact fin64_of (by omega)
    have h3 : fin64 wd 13 = a := by exact fin64_of (by omega)
    have h4 : fin64 wd 7 = b := by exact fin64_of (by omega)
    unfold rawX
    simp [h0, h1, h2, h3, h4]
  exact dec_x e hw

theorem xor (d : Fin 64) (a : Fin 64) (b : Fin 64) : Statement (.xor d a b) := by
  intro c hc hw
  obtain rfl : SlotClass.x = c := Option.some.inj hc
  have e : rawX (encode (.xor d a b)) = some (.xor d a b) := by
    show rawX (0x1C000000 + d.val * 0x80000 + a.val * 0x2000 + b.val * 0x80) = _
    generalize hx : 0x1C000000 + d.val * 0x80000 + a.val * 0x2000 + b.val * 0x80 = wd
    have := d.isLt
    have := a.isLt
    have := b.isLt
    have h0 : fld wd 25 7 = 14 := by unfold fld; omega
    have h1 : (fld wd 0 7 = 0) := by unfold fld; omega
    have h2 : fin64 wd 19 = d := by exact fin64_of (by omega)
    have h3 : fin64 wd 13 = a := by exact fin64_of (by omega)
    have h4 : fin64 wd 7 = b := by exact fin64_of (by omega)
    unfold rawX
    simp [h0, h1, h2, h3, h4]
  exact dec_x e hw

theorem andn (d : Fin 64) (a : Fin 64) (b : Fin 64) : Statement (.andn d a b) := by
  intro c hc hw
  obtain rfl : SlotClass.x = c := Option.some.inj hc
  have e : rawX (encode (.andn d a b)) = some (.andn d a b) := by
    show rawX (0x1E000000 + d.val * 0x80000 + a.val * 0x2000 + b.val * 0x80) = _
    generalize hx : 0x1E000000 + d.val * 0x80000 + a.val * 0x2000 + b.val * 0x80 = wd
    have := d.isLt
    have := a.isLt
    have := b.isLt
    have h0 : fld wd 25 7 = 15 := by unfold fld; omega
    have h1 : (fld wd 0 7 = 0) := by unfold fld; omega
    have h2 : fin64 wd 19 = d := by exact fin64_of (by omega)
    have h3 : fin64 wd 13 = a := by exact fin64_of (by omega)
    have h4 : fin64 wd 7 = b := by exact fin64_of (by omega)
    unfold rawX
    simp [h0, h1, h2, h3, h4]
  exact dec_x e hw

theorem shl (d : Fin 64) (a : Fin 64) (b : Fin 64) (w : Bool) : Statement (.shl d a b w) := by
  intro c hc hw
  obtain rfl : SlotClass.x = c := Option.some.inj hc
  have e : rawX (encode (.shl d a b w)) = some (.shl d a b w) := by
    show rawX (0x20000000 + d.val * 0x80000 + a.val * 0x2000 + b.val * 0x80 + w.toNat) = _
    generalize hx : 0x20000000 + d.val * 0x80000 + a.val * 0x2000 + b.val * 0x80 + w.toNat = wd
    have := d.isLt
    have := a.isLt
    have := b.isLt
    have := Bool.toNat_lt w
    have h0 : fld wd 25 7 = 16 := by unfold fld; omega
    have h1 : (fld wd 1 6 = 0) := by unfold fld; omega
    have h2 : fin64 wd 19 = d := by exact fin64_of (by omega)
    have h3 : fin64 wd 13 = a := by exact fin64_of (by omega)
    have h4 : fin64 wd 7 = b := by exact fin64_of (by omega)
    have h5 : bit wd 0 = w := by exact bit_of (by omega)
    unfold rawX
    simp [h0, h1, h2, h3, h4, h5]
  exact dec_x e hw

theorem shr (d : Fin 64) (a : Fin 64) (b : Fin 64) (w : Bool) : Statement (.shr d a b w) := by
  intro c hc hw
  obtain rfl : SlotClass.x = c := Option.some.inj hc
  have e : rawX (encode (.shr d a b w)) = some (.shr d a b w) := by
    show rawX (0x22000000 + d.val * 0x80000 + a.val * 0x2000 + b.val * 0x80 + w.toNat) = _
    generalize hx : 0x22000000 + d.val * 0x80000 + a.val * 0x2000 + b.val * 0x80 + w.toNat = wd
    have := d.isLt
    have := a.isLt
    have := b.isLt
    have := Bool.toNat_lt w
    have h0 : fld wd 25 7 = 17 := by unfold fld; omega
    have h1 : (fld wd 1 6 = 0) := by unfold fld; omega
    have h2 : fin64 wd 19 = d := by exact fin64_of (by omega)
    have h3 : fin64 wd 13 = a := by exact fin64_of (by omega)
    have h4 : fin64 wd 7 = b := by exact fin64_of (by omega)
    have h5 : bit wd 0 = w := by exact bit_of (by omega)
    unfold rawX
    simp [h0, h1, h2, h3, h4, h5]
  exact dec_x e hw

theorem sra (d : Fin 64) (a : Fin 64) (b : Fin 64) (w : Bool) : Statement (.sra d a b w) := by
  intro c hc hw
  obtain rfl : SlotClass.x = c := Option.some.inj hc
  have e : rawX (encode (.sra d a b w)) = some (.sra d a b w) := by
    show rawX (0x24000000 + d.val * 0x80000 + a.val * 0x2000 + b.val * 0x80 + w.toNat) = _
    generalize hx : 0x24000000 + d.val * 0x80000 + a.val * 0x2000 + b.val * 0x80 + w.toNat = wd
    have := d.isLt
    have := a.isLt
    have := b.isLt
    have := Bool.toNat_lt w
    have h0 : fld wd 25 7 = 18 := by unfold fld; omega
    have h1 : (fld wd 1 6 = 0) := by unfold fld; omega
    have h2 : fin64 wd 19 = d := by exact fin64_of (by omega)
    have h3 : fin64 wd 13 = a := by exact fin64_of (by omega)
    have h4 : fin64 wd 7 = b := by exact fin64_of (by omega)
    have h5 : bit wd 0 = w := by exact bit_of (by omega)
    unfold rawX
    simp [h0, h1, h2, h3, h4, h5]
  exact dec_x e hw

theorem shli (d : Fin 64) (a : Fin 64) (c : Fin 64) : Statement (.shli d a c) := by
  intro c hc hw
  obtain rfl : SlotClass.x = c := Option.some.inj hc
  have e : rawX (encode (.shli d a c)) = some (.shli d a c) := by
    show rawX (0x26000000 + d.val * 0x80000 + a.val * 0x2000 + c.val) = _
    generalize hx : 0x26000000 + d.val * 0x80000 + a.val * 0x2000 + c.val = wd
    have := d.isLt
    have := a.isLt
    have := c.isLt
    have h0 : fld wd 25 7 = 19 := by unfold fld; omega
    have h1 : (fld wd 6 7 = 0) := by unfold fld; omega
    have h2 : fin64 wd 19 = d := by exact fin64_of (by omega)
    have h3 : fin64 wd 13 = a := by exact fin64_of (by omega)
    have h4 : fin64 wd 0 = c := by exact fin64_of (by omega)
    unfold rawX
    simp [h0, h1, h2, h3, h4]
  exact dec_x e hw

theorem shri (d : Fin 64) (a : Fin 64) (c : Fin 64) : Statement (.shri d a c) := by
  intro c hc hw
  obtain rfl : SlotClass.x = c := Option.some.inj hc
  have e : rawX (encode (.shri d a c)) = some (.shri d a c) := by
    show rawX (0x28000000 + d.val * 0x80000 + a.val * 0x2000 + c.val) = _
    generalize hx : 0x28000000 + d.val * 0x80000 + a.val * 0x2000 + c.val = wd
    have := d.isLt
    have := a.isLt
    have := c.isLt
    have h0 : fld wd 25 7 = 20 := by unfold fld; omega
    have h1 : (fld wd 6 7 = 0) := by unfold fld; omega
    have h2 : fin64 wd 19 = d := by exact fin64_of (by omega)
    have h3 : fin64 wd 13 = a := by exact fin64_of (by omega)
    have h4 : fin64 wd 0 = c := by exact fin64_of (by omega)
    unfold rawX
    simp [h0, h1, h2, h3, h4]
  exact dec_x e hw

theorem srai (d : Fin 64) (a : Fin 64) (c : Fin 64) : Statement (.srai d a c) := by
  intro c hc hw
  obtain rfl : SlotClass.x = c := Option.some.inj hc
  have e : rawX (encode (.srai d a c)) = some (.srai d a c) := by
    show rawX (0x2A000000 + d.val * 0x80000 + a.val * 0x2000 + c.val) = _
    generalize hx : 0x2A000000 + d.val * 0x80000 + a.val * 0x2000 + c.val = wd
    have := d.isLt
    have := a.isLt
    have := c.isLt
    have h0 : fld wd 25 7 = 21 := by unfold fld; omega
    have h1 : (fld wd 6 7 = 0) := by unfold fld; omega
    have h2 : fin64 wd 19 = d := by exact fin64_of (by omega)
    have h3 : fin64 wd 13 = a := by exact fin64_of (by omega)
    have h4 : fin64 wd 0 = c := by exact fin64_of (by omega)
    unfold rawX
    simp [h0, h1, h2, h3, h4]
  exact dec_x e hw

theorem min (d : Fin 64) (a : Fin 64) (b : Fin 64) : Statement (.min d a b) := by
  intro c hc hw
  obtain rfl : SlotClass.x = c := Option.some.inj hc
  have e : rawX (encode (.min d a b)) = some (.min d a b) := by
    show rawX (0x2C000000 + d.val * 0x80000 + a.val * 0x2000 + b.val * 0x80) = _
    generalize hx : 0x2C000000 + d.val * 0x80000 + a.val * 0x2000 + b.val * 0x80 = wd
    have := d.isLt
    have := a.isLt
    have := b.isLt
    have h0 : fld wd 25 7 = 22 := by unfold fld; omega
    have h1 : (fld wd 0 7 = 0) := by unfold fld; omega
    have h2 : fin64 wd 19 = d := by exact fin64_of (by omega)
    have h3 : fin64 wd 13 = a := by exact fin64_of (by omega)
    have h4 : fin64 wd 7 = b := by exact fin64_of (by omega)
    unfold rawX
    simp [h0, h1, h2, h3, h4]
  exact dec_x e hw

theorem max (d : Fin 64) (a : Fin 64) (b : Fin 64) : Statement (.max d a b) := by
  intro c hc hw
  obtain rfl : SlotClass.x = c := Option.some.inj hc
  have e : rawX (encode (.max d a b)) = some (.max d a b) := by
    show rawX (0x2E000000 + d.val * 0x80000 + a.val * 0x2000 + b.val * 0x80) = _
    generalize hx : 0x2E000000 + d.val * 0x80000 + a.val * 0x2000 + b.val * 0x80 = wd
    have := d.isLt
    have := a.isLt
    have := b.isLt
    have h0 : fld wd 25 7 = 23 := by unfold fld; omega
    have h1 : (fld wd 0 7 = 0) := by unfold fld; omega
    have h2 : fin64 wd 19 = d := by exact fin64_of (by omega)
    have h3 : fin64 wd 13 = a := by exact fin64_of (by omega)
    have h4 : fin64 wd 7 = b := by exact fin64_of (by omega)
    unfold rawX
    simp [h0, h1, h2, h3, h4]
  exact dec_x e hw

theorem minu (d : Fin 64) (a : Fin 64) (b : Fin 64) : Statement (.minu d a b) := by
  intro c hc hw
  obtain rfl : SlotClass.x = c := Option.some.inj hc
  have e : rawX (encode (.minu d a b)) = some (.minu d a b) := by
    show rawX (0x30000000 + d.val * 0x80000 + a.val * 0x2000 + b.val * 0x80) = _
    generalize hx : 0x30000000 + d.val * 0x80000 + a.val * 0x2000 + b.val * 0x80 = wd
    have := d.isLt
    have := a.isLt
    have := b.isLt
    have h0 : fld wd 25 7 = 24 := by unfold fld; omega
    have h1 : (fld wd 0 7 = 0) := by unfold fld; omega
    have h2 : fin64 wd 19 = d := by exact fin64_of (by omega)
    have h3 : fin64 wd 13 = a := by exact fin64_of (by omega)
    have h4 : fin64 wd 7 = b := by exact fin64_of (by omega)
    unfold rawX
    simp [h0, h1, h2, h3, h4]
  exact dec_x e hw

theorem maxu (d : Fin 64) (a : Fin 64) (b : Fin 64) : Statement (.maxu d a b) := by
  intro c hc hw
  obtain rfl : SlotClass.x = c := Option.some.inj hc
  have e : rawX (encode (.maxu d a b)) = some (.maxu d a b) := by
    show rawX (0x32000000 + d.val * 0x80000 + a.val * 0x2000 + b.val * 0x80) = _
    generalize hx : 0x32000000 + d.val * 0x80000 + a.val * 0x2000 + b.val * 0x80 = wd
    have := d.isLt
    have := a.isLt
    have := b.isLt
    have h0 : fld wd 25 7 = 25 := by unfold fld; omega
    have h1 : (fld wd 0 7 = 0) := by unfold fld; omega
    have h2 : fin64 wd 19 = d := by exact fin64_of (by omega)
    have h3 : fin64 wd 13 = a := by exact fin64_of (by omega)
    have h4 : fin64 wd 7 = b := by exact fin64_of (by omega)
    unfold rawX
    simp [h0, h1, h2, h3, h4]
  exact dec_x e hw

theorem cmp (c : Cond) (p : Fin 8) (a : Fin 64) (b : Fin 64) : Statement (.cmp c p a b) := by
  intro c hc hw
  obtain rfl : SlotClass.x = c := Option.some.inj hc
  have e : rawX (encode (.cmp c p a b)) = some (.cmp c p a b) := by
    show rawX (0x34000000 + c.code + p.val * 0x80000 + a.val * 0x2000 + b.val * 0x80) = _
    generalize hx : 0x34000000 + c.code + p.val * 0x80000 + a.val * 0x2000 + b.val * 0x80 = wd
    have := Cond_code_lt c
    have := p.isLt
    have := a.isLt
    have := b.isLt
    have h0 : fld wd 25 7 = 26 := by unfold fld; omega
    have h1 : (fld wd 3 4 = 0 ∧ fld wd 22 3 = 0) := by unfold fld; omega
    have h2 : fld wd 0 3 = c.code := by unfold fld; omega
    have h3 : fin8 wd 19 = p := by exact fin8_of (by omega)
    have h4 : fin64 wd 13 = a := by exact fin64_of (by omega)
    have h5 : fin64 wd 7 = b := by exact fin64_of (by omega)
    unfold rawX
    simp [h0, h1, h2, h3, h4, h5, Cond_ofCode_code]
  exact dec_x e hw

theorem cmpi (c : Cond) (p : Fin 8) (a : Fin 64) (i : BitVec 13) : Statement (.cmpi c p a i) := by
  intro c hc hw
  obtain rfl : SlotClass.x = c := Option.some.inj hc
  have e : rawX (encode (.cmpi c p a i)) = some (.cmpi c p a i) := by
    show rawX (0x36000000 + c.code * 0x400000 + p.val * 0x80000 + a.val * 0x2000 + i.toNat) = _
    generalize hx : 0x36000000 + c.code * 0x400000 + p.val * 0x80000 + a.val * 0x2000 + i.toNat = wd
    have := Cond_code_lt c
    have := p.isLt
    have := a.isLt
    have := i.isLt
    have h0 : fld wd 25 7 = 27 := by unfold fld; omega
    have h1 : fld wd 22 3 = c.code := by unfold fld; omega
    have h2 : fin8 wd 19 = p := by exact fin8_of (by omega)
    have h3 : fin64 wd 13 = a := by exact fin64_of (by omega)
    have h4 : BitVec.ofNat 13 wd = i := by exact bv_of (by omega)
    unfold rawX
    simp [h0, h1, h2, h3, h4, Cond_ofCode_code]
  exact dec_x e hw

theorem sel (d : Fin 64) (n : Fin 8) (a : Fin 64) (b : Fin 64) : Statement (.sel d n a b) := by
  intro c hc hw
  obtain rfl : SlotClass.x = c := Option.some.inj hc
  have e : rawX (encode (.sel d n a b)) = some (.sel d n a b) := by
    show rawX (0x38000000 + d.val * 0x80000 + n.val + a.val * 0x2000 + b.val * 0x80) = _
    generalize hx : 0x38000000 + d.val * 0x80000 + n.val + a.val * 0x2000 + b.val * 0x80 = wd
    have := d.isLt
    have := n.isLt
    have := a.isLt
    have := b.isLt
    have h0 : fld wd 25 7 = 28 := by unfold fld; omega
    have h1 : (fld wd 3 4 = 0) := by unfold fld; omega
    have h2 : fin64 wd 19 = d := by exact fin64_of (by omega)
    have h3 : fin8 wd 0 = n := by exact fin8_of (by omega)
    have h4 : fin64 wd 13 = a := by exact fin64_of (by omega)
    have h5 : fin64 wd 7 = b := by exact fin64_of (by omega)
    unfold rawX
    simp [h0, h1, h2, h3, h4, h5]
  exact dec_x e hw

theorem movi (d : Fin 64) (i : BitVec 19) : Statement (.movi d i) := by
  intro c hc hw
  obtain rfl : SlotClass.x = c := Option.some.inj hc
  have e : rawX (encode (.movi d i)) = some (.movi d i) := by
    show rawX (0x3A000000 + d.val * 0x80000 + i.toNat) = _
    generalize hx : 0x3A000000 + d.val * 0x80000 + i.toNat = wd
    have := d.isLt
    have := i.isLt
    have h0 : fld wd 25 7 = 29 := by unfold fld; omega
    have h1 : fin64 wd 19 = d := by exact fin64_of (by omega)
    have h2 : BitVec.ofNat 19 wd = i := by exact bv_of (by omega)
    unfold rawX
    simp [h0, h1, h2]
  exact dec_x e hw

theorem movhi (d : Fin 64) (q : Fin 4) (h : BitVec 16) : Statement (.movhi d q h) := by
  intro c hc hw
  obtain rfl : SlotClass.x = c := Option.some.inj hc
  have e : rawX (encode (.movhi d q h)) = some (.movhi d q h) := by
    show rawX (0x3C000000 + d.val * 0x80000 + q.val * 0x10000 + h.toNat) = _
    generalize hx : 0x3C000000 + d.val * 0x80000 + q.val * 0x10000 + h.toNat = wd
    have := d.isLt
    have := q.isLt
    have := h.isLt
    have h0 : fld wd 25 7 = 30 := by unfold fld; omega
    have h1 : (fld wd 18 1 = 0) := by unfold fld; omega
    have h2 : fin64 wd 19 = d := by exact fin64_of (by omega)
    have h3 : fin4 wd 16 = q := by exact fin4_of (by omega)
    have h4 : BitVec.ofNat 16 wd = h := by exact bv_of (by omega)
    unfold rawX
    simp [h0, h1, h2, h3, h4]
  exact dec_x e hw

theorem clz (d : Fin 64) (a : Fin 64) : Statement (.clz d a) := by
  intro c hc hw
  obtain rfl : SlotClass.x = c := Option.some.inj hc
  have e : rawX (encode (.clz d a)) = some (.clz d a) := by
    show rawX (0x3E000000 + d.val * 0x80000 + a.val * 0x2000) = _
    generalize hx : 0x3E000000 + d.val * 0x80000 + a.val * 0x2000 = wd
    have := d.isLt
    have := a.isLt
    have h0 : fld wd 25 7 = 31 := by unfold fld; omega
    have h1 : (fld wd 0 13 = 0) := by unfold fld; omega
    have h2 : fin64 wd 19 = d := by exact fin64_of (by omega)
    have h3 : fin64 wd 13 = a := by exact fin64_of (by omega)
    unfold rawX
    simp [h0, h1, h2, h3]
  exact dec_x e hw

theorem popc (d : Fin 64) (a : Fin 64) : Statement (.popc d a) := by
  intro c hc hw
  obtain rfl : SlotClass.x = c := Option.some.inj hc
  have e : rawX (encode (.popc d a)) = some (.popc d a) := by
    show rawX (0x40000000 + d.val * 0x80000 + a.val * 0x2000) = _
    generalize hx : 0x40000000 + d.val * 0x80000 + a.val * 0x2000 = wd
    have := d.isLt
    have := a.isLt
    have h0 : fld wd 25 7 = 32 := by unfold fld; omega
    have h1 : (fld wd 0 13 = 0) := by unfold fld; omega
    have h2 : fin64 wd 19 = d := by exact fin64_of (by omega)
    have h3 : fin64 wd 13 = a := by exact fin64_of (by omega)
    unfold rawX
    simp [h0, h1, h2, h3]
  exact dec_x e hw

theorem bfx (d : Fin 64) (a : Fin 64) (s : Bool) (w : Fin 64) (p : Fin 64) : Statement (.bfx d a s w p) := by
  intro c hc hw
  obtain rfl : SlotClass.x = c := Option.some.inj hc
  have e : rawX (encode (.bfx d a s w p)) = some (.bfx d a s w p) := by
    show rawX (0x42000000 + d.val * 0x80000 + a.val * 0x2000 + s.toNat * 0x1000 + w.val * 0x40 + p.val) = _
    generalize hx : 0x42000000 + d.val * 0x80000 + a.val * 0x2000 + s.toNat * 0x1000 + w.val * 0x40 + p.val = wd
    have := d.isLt
    have := a.isLt
    have := Bool.toNat_lt s
    have := w.isLt
    have := p.isLt
    have h0 : fld wd 25 7 = 33 := by unfold fld; omega
    have h1 : fin64 wd 19 = d := by exact fin64_of (by omega)
    have h2 : fin64 wd 13 = a := by exact fin64_of (by omega)
    have h3 : bit wd 12 = s := by exact bit_of (by omega)
    have h4 : fin64 wd 6 = w := by exact fin64_of (by omega)
    have h5 : fin64 wd 0 = p := by exact fin64_of (by omega)
    unfold rawX
    simp [h0, h1, h2, h3, h4, h5]
  exact dec_x e hw

theorem bfi (d : Fin 64) (a : Fin 64) (w : Fin 64) (p : Fin 64) : Statement (.bfi d a w p) := by
  intro c hc hw
  obtain rfl : SlotClass.x = c := Option.some.inj hc
  have e : rawX (encode (.bfi d a w p)) = some (.bfi d a w p) := by
    show rawX (0x44000000 + d.val * 0x80000 + a.val * 0x2000 + w.val * 0x40 + p.val) = _
    generalize hx : 0x44000000 + d.val * 0x80000 + a.val * 0x2000 + w.val * 0x40 + p.val = wd
    have := d.isLt
    have := a.isLt
    have := w.isLt
    have := p.isLt
    have h0 : fld wd 25 7 = 34 := by unfold fld; omega
    have h1 : (fld wd 12 1 = 0) := by unfold fld; omega
    have h2 : fin64 wd 19 = d := by exact fin64_of (by omega)
    have h3 : fin64 wd 13 = a := by exact fin64_of (by omega)
    have h4 : fin64 wd 6 = w := by exact fin64_of (by omega)
    have h5 : fin64 wd 0 = p := by exact fin64_of (by omega)
    unfold rawX
    simp [h0, h1, h2, h3, h4, h5]
  exact dec_x e hw

theorem addr (d : Fin 64) (a : Fin 64) (b : Fin 64) (l : Bool) (s : Fin 8) : Statement (.addr d a b l s) := by
  intro c hc hw
  obtain rfl : SlotClass.x = c := Option.some.inj hc
  have e : rawX (encode (.addr d a b l s)) = some (.addr d a b l s) := by
    show rawX (0x46000000 + d.val * 0x80000 + a.val * 0x2000 + b.val * 0x80 + l.toNat * 0x8 + s.val) = _
    generalize hx : 0x46000000 + d.val * 0x80000 + a.val * 0x2000 + b.val * 0x80 + l.toNat * 0x8 + s.val = wd
    have := d.isLt
    have := a.isLt
    have := b.isLt
    have := Bool.toNat_lt l
    have := s.isLt
    have h0 : fld wd 25 7 = 35 := by unfold fld; omega
    have h1 : (fld wd 4 3 = 0) := by unfold fld; omega
    have h2 : fin64 wd 19 = d := by exact fin64_of (by omega)
    have h3 : fin64 wd 13 = a := by exact fin64_of (by omega)
    have h4 : fin64 wd 7 = b := by exact fin64_of (by omega)
    have h5 : bit wd 3 = l := by exact bit_of (by omega)
    have h6 : fin8 wd 0 = s := by exact fin8_of (by omega)
    unfold rawX
    simp [h0, h1, h2, h3, h4, h5, h6]
  exact dec_x e hw

theorem pand (d : Fin 8) (a : Fin 8) (b : Fin 8) : Statement (.pand d a b) := by
  intro c hc hw
  obtain rfl : SlotClass.x = c := Option.some.inj hc
  have e : rawX (encode (.pand d a b)) = some (.pand d a b) := by
    show rawX (0x50000000 + d.val * 0x80000 + a.val * 0x2000 + b.val * 0x80) = _
    generalize hx : 0x50000000 + d.val * 0x80000 + a.val * 0x2000 + b.val * 0x80 = wd
    have := d.isLt
    have := a.isLt
    have := b.isLt
    have h0 : fld wd 25 7 = 40 := by unfold fld; omega
    have h1 : (fld wd 0 7 = 0 ∧ fld wd 10 3 = 0 ∧ fld wd 16 3 = 0 ∧ fld wd 22 3 = 0) := by unfold fld; omega
    have h2 : fin8 wd 19 = d := by exact fin8_of (by omega)
    have h3 : fin8 wd 13 = a := by exact fin8_of (by omega)
    have h4 : fin8 wd 7 = b := by exact fin8_of (by omega)
    unfold rawX
    simp [h0, h1, h2, h3, h4]
  exact dec_x e hw

theorem por (d : Fin 8) (a : Fin 8) (b : Fin 8) : Statement (.por d a b) := by
  intro c hc hw
  obtain rfl : SlotClass.x = c := Option.some.inj hc
  have e : rawX (encode (.por d a b)) = some (.por d a b) := by
    show rawX (0x52000000 + d.val * 0x80000 + a.val * 0x2000 + b.val * 0x80) = _
    generalize hx : 0x52000000 + d.val * 0x80000 + a.val * 0x2000 + b.val * 0x80 = wd
    have := d.isLt
    have := a.isLt
    have := b.isLt
    have h0 : fld wd 25 7 = 41 := by unfold fld; omega
    have h1 : (fld wd 0 7 = 0 ∧ fld wd 10 3 = 0 ∧ fld wd 16 3 = 0 ∧ fld wd 22 3 = 0) := by unfold fld; omega
    have h2 : fin8 wd 19 = d := by exact fin8_of (by omega)
    have h3 : fin8 wd 13 = a := by exact fin8_of (by omega)
    have h4 : fin8 wd 7 = b := by exact fin8_of (by omega)
    unfold rawX
    simp [h0, h1, h2, h3, h4]
  exact dec_x e hw

theorem pxor (d : Fin 8) (a : Fin 8) (b : Fin 8) : Statement (.pxor d a b) := by
  intro c hc hw
  obtain rfl : SlotClass.x = c := Option.some.inj hc
  have e : rawX (encode (.pxor d a b)) = some (.pxor d a b) := by
    show rawX (0x54000000 + d.val * 0x80000 + a.val * 0x2000 + b.val * 0x80) = _
    generalize hx : 0x54000000 + d.val * 0x80000 + a.val * 0x2000 + b.val * 0x80 = wd
    have := d.isLt
    have := a.isLt
    have := b.isLt
    have h0 : fld wd 25 7 = 42 := by unfold fld; omega
    have h1 : (fld wd 0 7 = 0 ∧ fld wd 10 3 = 0 ∧ fld wd 16 3 = 0 ∧ fld wd 22 3 = 0) := by unfold fld; omega
    have h2 : fin8 wd 19 = d := by exact fin8_of (by omega)
    have h3 : fin8 wd 13 = a := by exact fin8_of (by omega)
    have h4 : fin8 wd 7 = b := by exact fin8_of (by omega)
    unfold rawX
    simp [h0, h1, h2, h3, h4]
  exact dec_x e hw

theorem pandn (d : Fin 8) (a : Fin 8) (b : Fin 8) : Statement (.pandn d a b) := by
  intro c hc hw
  obtain rfl : SlotClass.x = c := Option.some.inj hc
  have e : rawX (encode (.pandn d a b)) = some (.pandn d a b) := by
    show rawX (0x56000000 + d.val * 0x80000 + a.val * 0x2000 + b.val * 0x80) = _
    generalize hx : 0x56000000 + d.val * 0x80000 + a.val * 0x2000 + b.val * 0x80 = wd
    have := d.isLt
    have := a.isLt
    have := b.isLt
    have h0 : fld wd 25 7 = 43 := by unfold fld; omega
    have h1 : (fld wd 0 7 = 0 ∧ fld wd 10 3 = 0 ∧ fld wd 16 3 = 0 ∧ fld wd 22 3 = 0) := by unfold fld; omega
    have h2 : fin8 wd 19 = d := by exact fin8_of (by omega)
    have h3 : fin8 wd 13 = a := by exact fin8_of (by omega)
    have h4 : fin8 wd 7 = b := by exact fin8_of (by omega)
    unfold rawX
    simp [h0, h1, h2, h3, h4]
  exact dec_x e hw

theorem pnot (d : Fin 8) (a : Fin 8) : Statement (.pnot d a) := by
  intro c hc hw
  obtain rfl : SlotClass.x = c := Option.some.inj hc
  have e : rawX (encode (.pnot d a)) = some (.pnot d a) := by
    show rawX (0x58000000 + d.val * 0x80000 + a.val * 0x2000) = _
    generalize hx : 0x58000000 + d.val * 0x80000 + a.val * 0x2000 = wd
    have := d.isLt
    have := a.isLt
    have h0 : fld wd 25 7 = 44 := by unfold fld; omega
    have h1 : (fld wd 0 13 = 0 ∧ fld wd 16 3 = 0 ∧ fld wd 22 3 = 0) := by unfold fld; omega
    have h2 : fin8 wd 19 = d := by exact fin8_of (by omega)
    have h3 : fin8 wd 13 = a := by exact fin8_of (by omega)
    unfold rawX
    simp [h0, h1, h2, h3]
  exact dec_x e hw

theorem shw (h : Fin 16) (n : Fin 16) (a : Fin 64) : Statement (.shw h n a) := by
  intro c hc hw
  obtain rfl : SlotClass.x = c := Option.some.inj hc
  have e : rawX (encode (.shw h n a)) = some (.shw h n a) := by
    show rawX (0x60000000 + h.val * 0x80000 + n.val + a.val * 0x2000) = _
    generalize hx : 0x60000000 + h.val * 0x80000 + n.val + a.val * 0x2000 = wd
    have := h.isLt
    have := n.isLt
    have := a.isLt
    have h0 : fld wd 25 7 = 48 := by unfold fld; omega
    have h1 : (fld wd 4 9 = 0 ∧ fld wd 23 2 = 0) := by unfold fld; omega
    have h2 : fin16 wd 19 = h := by exact fin16_of (by omega)
    have h3 : fin16 wd 0 = n := by exact fin16_of (by omega)
    have h4 : fin64 wd 13 = a := by exact fin64_of (by omega)
    unfold rawX
    simp [h0, h1, h2, h3, h4]
  exact dec_x e hw

theorem br (p : Fin 8) (n : Bool) (o : BitVec 18) : Statement (.br p n o) := by
  intro c hc hw
  obtain rfl : SlotClass.br = c := Option.some.inj hc
  have e : rawBr (encode (.br p n o)) = some (.br p n o) := by
    show rawBr (0x02000000 + p.val * 0x400000 + n.toNat * 0x200000 + o.toNat) = _
    generalize hx : 0x02000000 + p.val * 0x400000 + n.toNat * 0x200000 + o.toNat = wd
    have := p.isLt
    have := Bool.toNat_lt n
    have := o.isLt
    have h0 : fld wd 25 7 = 1 := by unfold fld; omega
    have h1 : (fld wd 18 3 = 0) := by unfold fld; omega
    have h2 : fin8 wd 22 = p := by exact fin8_of (by omega)
    have h3 : bit wd 21 = n := by exact bit_of (by omega)
    have h4 : BitVec.ofNat 18 wd = o := by exact bv_of (by omega)
    unfold rawBr
    simp [h0, h1, h2, h3, h4]
  exact dec_br e hw

theorem bp (p : Fin 8) (n : Bool) (o : BitVec 18) : Statement (.bp p n o) := by
  intro c hc hw
  obtain rfl : SlotClass.br = c := Option.some.inj hc
  have e : rawBr (encode (.bp p n o)) = some (.bp p n o) := by
    show rawBr (0x04000000 + p.val * 0x400000 + n.toNat * 0x200000 + o.toNat) = _
    generalize hx : 0x04000000 + p.val * 0x400000 + n.toNat * 0x200000 + o.toNat = wd
    have := p.isLt
    have := Bool.toNat_lt n
    have := o.isLt
    have h0 : fld wd 25 7 = 2 := by unfold fld; omega
    have h1 : (fld wd 18 3 = 0) := by unfold fld; omega
    have h2 : fin8 wd 22 = p := by exact fin8_of (by omega)
    have h3 : bit wd 21 = n := by exact bit_of (by omega)
    have h4 : BitVec.ofNat 18 wd = o := by exact bv_of (by omega)
    unfold rawBr
    simp [h0, h1, h2, h3, h4]
  exact dec_br e hw

theorem call (p : Fin 8) (n : Bool) (o : BitVec 18) : Statement (.call p n o) := by
  intro c hc hw
  obtain rfl : SlotClass.br = c := Option.some.inj hc
  have e : rawBr (encode (.call p n o)) = some (.call p n o) := by
    show rawBr (0x06000000 + p.val * 0x400000 + n.toNat * 0x200000 + o.toNat) = _
    generalize hx : 0x06000000 + p.val * 0x400000 + n.toNat * 0x200000 + o.toNat = wd
    have := p.isLt
    have := Bool.toNat_lt n
    have := o.isLt
    have h0 : fld wd 25 7 = 3 := by unfold fld; omega
    have h1 : (fld wd 18 3 = 0) := by unfold fld; omega
    have h2 : fin8 wd 22 = p := by exact fin8_of (by omega)
    have h3 : bit wd 21 = n := by exact bit_of (by omega)
    have h4 : BitVec.ofNat 18 wd = o := by exact bv_of (by omega)
    unfold rawBr
    simp [h0, h1, h2, h3, h4]
  exact dec_br e hw

theorem jr (d : Fin 64) (a : Fin 64) : Statement (.jr d a) := by
  intro c hc hw
  obtain rfl : SlotClass.br = c := Option.some.inj hc
  have e : rawBr (encode (.jr d a)) = some (.jr d a) := by
    show rawBr (0x0A000000 + d.val * 0x80000 + a.val * 0x2000) = _
    generalize hx : 0x0A000000 + d.val * 0x80000 + a.val * 0x2000 = wd
    have := d.isLt
    have := a.isLt
    have h0 : fld wd 25 7 = 5 := by unfold fld; omega
    have h1 : (fld wd 0 13 = 0) := by unfold fld; omega
    have h2 : fin64 wd 19 = d := by exact fin64_of (by omega)
    have h3 : fin64 wd 13 = a := by exact fin64_of (by omega)
    unfold rawBr
    simp [h0, h1, h2, h3]
  exact dec_br e hw

theorem loopx (a : Fin 8) : Statement (.loopx a) := by
  intro c hc hw
  obtain rfl : SlotClass.br = c := Option.some.inj hc
  have e : rawBr (encode (.loopx a)) = some (.loopx a) := by
    show rawBr (0x0C000000 + a.val * 0x2000) = _
    generalize hx : 0x0C000000 + a.val * 0x2000 = wd
    have := a.isLt
    have h0 : fld wd 25 7 = 6 := by unfold fld; omega
    have h1 : (fld wd 0 13 = 0 ∧ fld wd 16 9 = 0) := by unfold fld; omega
    have h2 : fin8 wd 13 = a := by exact fin8_of (by omega)
    unfold rawBr
    simp [h0, h1, h2]
  exact dec_br e hw

theorem trap (c : BitVec 12) (a : Fin 64) : Statement (.trap c a) := by
  intro c hc hw
  obtain rfl : SlotClass.br = c := Option.some.inj hc
  have e : rawBr (encode (.trap c a)) = some (.trap c a) := by
    show rawBr (0x12000000 + c.toNat + a.val * 0x2000) = _
    generalize hx : 0x12000000 + c.toNat + a.val * 0x2000 = wd
    have := c.isLt
    have := a.isLt
    have h0 : fld wd 25 7 = 9 := by unfold fld; omega
    have h1 : (fld wd 12 1 = 0 ∧ fld wd 19 6 = 0) := by unfold fld; omega
    have h2 : BitVec.ofNat 12 wd = c := by exact bv_of (by omega)
    have h3 : fin64 wd 13 = a := by exact fin64_of (by omega)
    unfold rawBr
    simp [h0, h1, h2, h3]
  exact dec_br e hw

theorem bkpt (c : BitVec 12) : Statement (.bkpt c) := by
  intro c hc hw
  obtain rfl : SlotClass.br = c := Option.some.inj hc
  have e : rawBr (encode (.bkpt c)) = some (.bkpt c) := by
    show rawBr (0x16000000 + c.toNat) = _
    generalize hx : 0x16000000 + c.toNat = wd
    have := c.isLt
    have h0 : fld wd 25 7 = 11 := by unfold fld; omega
    have h1 : (fld wd 12 13 = 0) := by unfold fld; omega
    have h2 : BitVec.ofNat 12 wd = c := by exact bv_of (by omega)
    unfold rawBr
    simp [h0, h1, h2]
  exact dec_br e hw

theorem csrr (d : Fin 64) (c : BitVec 12) : Statement (.csrr d c) := by
  intro c hc hw
  obtain rfl : SlotClass.br = c := Option.some.inj hc
  have e : rawBr (encode (.csrr d c)) = some (.csrr d c) := by
    show rawBr (0x20000000 + d.val * 0x80000 + c.toNat) = _
    generalize hx : 0x20000000 + d.val * 0x80000 + c.toNat = wd
    have := d.isLt
    have := c.isLt
    have h0 : fld wd 25 7 = 16 := by unfold fld; omega
    have h1 : (fld wd 12 7 = 0) := by unfold fld; omega
    have h2 : fin64 wd 19 = d := by exact fin64_of (by omega)
    have h3 : BitVec.ofNat 12 wd = c := by exact bv_of (by omega)
    unfold rawBr
    simp [h0, h1, h2, h3]
  exact dec_br e hw

theorem csrw (c : BitVec 12) (a : Fin 64) : Statement (.csrw c a) := by
  intro c hc hw
  obtain rfl : SlotClass.br = c := Option.some.inj hc
  have e : rawBr (encode (.csrw c a)) = some (.csrw c a) := by
    show rawBr (0x22000000 + c.toNat + a.val * 0x2000) = _
    generalize hx : 0x22000000 + c.toNat + a.val * 0x2000 = wd
    have := c.isLt
    have := a.isLt
    have h0 : fld wd 25 7 = 17 := by unfold fld; omega
    have h1 : (fld wd 12 1 = 0 ∧ fld wd 19 6 = 0) := by unfold fld; omega
    have h2 : BitVec.ofNat 12 wd = c := by exact bv_of (by omega)
    have h3 : fin64 wd 13 = a := by exact fin64_of (by omega)
    unfold rawBr
    simp [h0, h1, h2, h3]
  exact dec_br e hw

theorem csrx (d : Fin 64) (c : BitVec 12) (a : Fin 64) : Statement (.csrx d c a) := by
  intro c hc hw
  obtain rfl : SlotClass.br = c := Option.some.inj hc
  have e : rawBr (encode (.csrx d c a)) = some (.csrx d c a) := by
    show rawBr (0x24000000 + d.val * 0x80000 + c.toNat + a.val * 0x2000) = _
    generalize hx : 0x24000000 + d.val * 0x80000 + c.toNat + a.val * 0x2000 = wd
    have := d.isLt
    have := c.isLt
    have := a.isLt
    have h0 : fld wd 25 7 = 18 := by unfold fld; omega
    have h1 : (fld wd 12 1 = 0) := by unfold fld; omega
    have h2 : fin64 wd 19 = d := by exact fin64_of (by omega)
    have h3 : BitVec.ofNat 12 wd = c := by exact bv_of (by omega)
    have h4 : fin64 wd 13 = a := by exact fin64_of (by omega)
    unfold rawBr
    simp [h0, h1, h2, h3, h4]
  exact dec_br e hw

theorem vpark (v : Fin 32) : Statement (.vpark v) := by
  intro c hc hw
  obtain rfl : SlotClass.br = c := Option.some.inj hc
  have e : rawBr (encode (.vpark v)) = some (.vpark v) := by
    show rawBr (0x30000000 + v.val * 0x2000) = _
    generalize hx : 0x30000000 + v.val * 0x2000 = wd
    have := v.isLt
    have h0 : fld wd 25 7 = 24 := by unfold fld; omega
    have h1 : (fld wd 0 13 = 0 ∧ fld wd 18 7 = 0) := by unfold fld; omega
    have h2 : fin32 wd 13 = v := by exact fin32_of (by omega)
    unfold rawBr
    simp [h0, h1, h2]
  exact dec_br e hw

theorem vunpark (v : Fin 32) : Statement (.vunpark v) := by
  intro c hc hw
  obtain rfl : SlotClass.br = c := Option.some.inj hc
  have e : rawBr (encode (.vunpark v)) = some (.vunpark v) := by
    show rawBr (0x32000000 + v.val * 0x80000) = _
    generalize hx : 0x32000000 + v.val * 0x80000 = wd
    have := v.isLt
    have h0 : fld wd 25 7 = 25 := by unfold fld; omega
    have h1 : (fld wd 0 19 = 0 ∧ fld wd 24 1 = 0) := by unfold fld; omega
    have h2 : fin32 wd 19 = v := by exact fin32_of (by omega)
    unfold rawBr
    simp [h0, h1, h2]
  exact dec_br e hw

theorem vadd (t : ElTy) (d : Fin 32) (a : Fin 32) (b : Fin 32) (p : Fin 8) (r : Rm) (s : Bool) : Statement (.vadd t d a b p r s) := by
  intro c hc hw
  obtain rfl : SlotClass.v = c := Option.some.inj hc
  have e : rawV (encode (.vadd t d a b p r s)) = some (.vadd t d a b p r s) := by
    show rawV (0x02000000 + t.code * 0x10 + d.val * 0x100000 + a.val * 0x8000 + b.val * 0x400 + p.val * 0x80 + r.code * 0x2 + s.toNat) = _
    generalize hx : 0x02000000 + t.code * 0x10 + d.val * 0x100000 + a.val * 0x8000 + b.val * 0x400 + p.val * 0x80 + r.code * 0x2 + s.toNat = wd
    have := ElTy_code_lt t
    have := d.isLt
    have := a.isLt
    have := b.isLt
    have := p.isLt
    have := Rm_code_lt r
    have := Bool.toNat_lt s
    have h0 : fld wd 25 7 = 1 := by unfold fld; omega
    have h1 : fld wd 4 3 = t.code := by unfold fld; omega
    have h2 : fin32 wd 20 = d := by exact fin32_of (by omega)
    have h3 : fin32 wd 15 = a := by exact fin32_of (by omega)
    have h4 : fin32 wd 10 = b := by exact fin32_of (by omega)
    have h5 : fin8 wd 7 = p := by exact fin8_of (by omega)
    have h6 : fld wd 1 3 = r.code := by unfold fld; omega
    have h7 : bit wd 0 = s := by exact bit_of (by omega)
    unfold rawV
    simp [h0, h1, h2, h3, h4, h5, h6, h7, ElTy_ofCode_code, Rm_ofCode_code]
  exact dec_v e hw

theorem vsub (t : ElTy) (d : Fin 32) (a : Fin 32) (b : Fin 32) (p : Fin 8) (r : Rm) (s : Bool) : Statement (.vsub t d a b p r s) := by
  intro c hc hw
  obtain rfl : SlotClass.v = c := Option.some.inj hc
  have e : rawV (encode (.vsub t d a b p r s)) = some (.vsub t d a b p r s) := by
    show rawV (0x04000000 + t.code * 0x10 + d.val * 0x100000 + a.val * 0x8000 + b.val * 0x400 + p.val * 0x80 + r.code * 0x2 + s.toNat) = _
    generalize hx : 0x04000000 + t.code * 0x10 + d.val * 0x100000 + a.val * 0x8000 + b.val * 0x400 + p.val * 0x80 + r.code * 0x2 + s.toNat = wd
    have := ElTy_code_lt t
    have := d.isLt
    have := a.isLt
    have := b.isLt
    have := p.isLt
    have := Rm_code_lt r
    have := Bool.toNat_lt s
    have h0 : fld wd 25 7 = 2 := by unfold fld; omega
    have h1 : fld wd 4 3 = t.code := by unfold fld; omega
    have h2 : fin32 wd 20 = d := by exact fin32_of (by omega)
    have h3 : fin32 wd 15 = a := by exact fin32_of (by omega)
    have h4 : fin32 wd 10 = b := by exact fin32_of (by omega)
    have h5 : fin8 wd 7 = p := by exact fin8_of (by omega)
    have h6 : fld wd 1 3 = r.code := by unfold fld; omega
    have h7 : bit wd 0 = s := by exact bit_of (by omega)
    unfold rawV
    simp [h0, h1, h2, h3, h4, h5, h6, h7, ElTy_ofCode_code, Rm_ofCode_code]
  exact dec_v e hw

theorem vmul (t : ElTy) (d : Fin 32) (a : Fin 32) (b : Fin 32) (p : Fin 8) (r : Rm) (s : Bool) : Statement (.vmul t d a b p r s) := by
  intro c hc hw
  obtain rfl : SlotClass.v = c := Option.some.inj hc
  have e : rawV (encode (.vmul t d a b p r s)) = some (.vmul t d a b p r s) := by
    show rawV (0x06000000 + t.code * 0x10 + d.val * 0x100000 + a.val * 0x8000 + b.val * 0x400 + p.val * 0x80 + r.code * 0x2 + s.toNat) = _
    generalize hx : 0x06000000 + t.code * 0x10 + d.val * 0x100000 + a.val * 0x8000 + b.val * 0x400 + p.val * 0x80 + r.code * 0x2 + s.toNat = wd
    have := ElTy_code_lt t
    have := d.isLt
    have := a.isLt
    have := b.isLt
    have := p.isLt
    have := Rm_code_lt r
    have := Bool.toNat_lt s
    have h0 : fld wd 25 7 = 3 := by unfold fld; omega
    have h1 : fld wd 4 3 = t.code := by unfold fld; omega
    have h2 : fin32 wd 20 = d := by exact fin32_of (by omega)
    have h3 : fin32 wd 15 = a := by exact fin32_of (by omega)
    have h4 : fin32 wd 10 = b := by exact fin32_of (by omega)
    have h5 : fin8 wd 7 = p := by exact fin8_of (by omega)
    have h6 : fld wd 1 3 = r.code := by unfold fld; omega
    have h7 : bit wd 0 = s := by exact bit_of (by omega)
    unfold rawV
    simp [h0, h1, h2, h3, h4, h5, h6, h7, ElTy_ofCode_code, Rm_ofCode_code]
  exact dec_v e hw

theorem vfma (t : ElTy) (d : Fin 32) (a : Fin 32) (b : Fin 32) (p : Fin 8) (r : Rm) (n : Bool) : Statement (.vfma t d a b p r n) := by
  intro c hc hw
  obtain rfl : SlotClass.v = c := Option.some.inj hc
  have e : rawV (encode (.vfma t d a b p r n)) = some (.vfma t d a b p r n) := by
    show rawV (0x08000000 + t.code * 0x10 + d.val * 0x100000 + a.val * 0x8000 + b.val * 0x400 + p.val * 0x80 + r.code * 0x2 + n.toNat) = _
    generalize hx : 0x08000000 + t.code * 0x10 + d.val * 0x100000 + a.val * 0x8000 + b.val * 0x400 + p.val * 0x80 + r.code * 0x2 + n.toNat = wd
    have := ElTy_code_lt t
    have := d.isLt
    have := a.isLt
    have := b.isLt
    have := p.isLt
    have := Rm_code_lt r
    have := Bool.toNat_lt n
    have h0 : fld wd 25 7 = 4 := by unfold fld; omega
    have h1 : fld wd 4 3 = t.code := by unfold fld; omega
    have h2 : fin32 wd 20 = d := by exact fin32_of (by omega)
    have h3 : fin32 wd 15 = a := by exact fin32_of (by omega)
    have h4 : fin32 wd 10 = b := by exact fin32_of (by omega)
    have h5 : fin8 wd 7 = p := by exact fin8_of (by omega)
    have h6 : fld wd 1 3 = r.code := by unfold fld; omega
    have h7 : bit wd 0 = n := by exact bit_of (by omega)
    unfold rawV
    simp [h0, h1, h2, h3, h4, h5, h6, h7, ElTy_ofCode_code, Rm_ofCode_code]
  exact dec_v e hw

theorem vmin (t : ElTy) (d : Fin 32) (a : Fin 32) (b : Fin 32) (p : Fin 8) : Statement (.vmin t d a b p) := by
  intro c hc hw
  obtain rfl : SlotClass.v = c := Option.some.inj hc
  have e : rawV (encode (.vmin t d a b p)) = some (.vmin t d a b p) := by
    show rawV (0x0A000000 + t.code * 0x10 + d.val * 0x100000 + a.val * 0x8000 + b.val * 0x400 + p.val * 0x80) = _
    generalize hx : 0x0A000000 + t.code * 0x10 + d.val * 0x100000 + a.val * 0x8000 + b.val * 0x400 + p.val * 0x80 = wd
    have := ElTy_code_lt t
    have := d.isLt
    have := a.isLt
    have := b.isLt
    have := p.isLt
    have h0 : fld wd 25 7 = 5 := by unfold fld; omega
    have h1 : (fld wd 0 4 = 0) := by unfold fld; omega
    have h2 : fld wd 4 3 = t.code := by unfold fld; omega
    have h3 : fin32 wd 20 = d := by exact fin32_of (by omega)
    have h4 : fin32 wd 15 = a := by exact fin32_of (by omega)
    have h5 : fin32 wd 10 = b := by exact fin32_of (by omega)
    have h6 : fin8 wd 7 = p := by exact fin8_of (by omega)
    unfold rawV
    simp [h0, h1, h2, h3, h4, h5, h6, ElTy_ofCode_code]
  exact dec_v e hw

theorem vmax (t : ElTy) (d : Fin 32) (a : Fin 32) (b : Fin 32) (p : Fin 8) : Statement (.vmax t d a b p) := by
  intro c hc hw
  obtain rfl : SlotClass.v = c := Option.some.inj hc
  have e : rawV (encode (.vmax t d a b p)) = some (.vmax t d a b p) := by
    show rawV (0x0C000000 + t.code * 0x10 + d.val * 0x100000 + a.val * 0x8000 + b.val * 0x400 + p.val * 0x80) = _
    generalize hx : 0x0C000000 + t.code * 0x10 + d.val * 0x100000 + a.val * 0x8000 + b.val * 0x400 + p.val * 0x80 = wd
    have := ElTy_code_lt t
    have := d.isLt
    have := a.isLt
    have := b.isLt
    have := p.isLt
    have h0 : fld wd 25 7 = 6 := by unfold fld; omega
    have h1 : (fld wd 0 4 = 0) := by unfold fld; omega
    have h2 : fld wd 4 3 = t.code := by unfold fld; omega
    have h3 : fin32 wd 20 = d := by exact fin32_of (by omega)
    have h4 : fin32 wd 15 = a := by exact fin32_of (by omega)
    have h5 : fin32 wd 10 = b := by exact fin32_of (by omega)
    have h6 : fin8 wd 7 = p := by exact fin8_of (by omega)
    unfold rawV
    simp [h0, h1, h2, h3, h4, h5, h6, ElTy_ofCode_code]
  exact dec_v e hw

theorem vabs (t : ElTy) (d : Fin 32) (a : Fin 32) (p : Fin 8) (s : Bool) : Statement (.vabs t d a p s) := by
  intro c hc hw
  obtain rfl : SlotClass.v = c := Option.some.inj hc
  have e : rawV (encode (.vabs t d a p s)) = some (.vabs t d a p s) := by
    show rawV (0x0E000000 + t.code * 0x10 + d.val * 0x100000 + a.val * 0x8000 + p.val * 0x80 + s.toNat) = _
    generalize hx : 0x0E000000 + t.code * 0x10 + d.val * 0x100000 + a.val * 0x8000 + p.val * 0x80 + s.toNat = wd
    have := ElTy_code_lt t
    have := d.isLt
    have := a.isLt
    have := p.isLt
    have := Bool.toNat_lt s
    have h0 : fld wd 25 7 = 7 := by unfold fld; omega
    have h1 : (fld wd 1 3 = 0 ∧ fld wd 10 5 = 0) := by unfold fld; omega
    have h2 : fld wd 4 3 = t.code := by unfold fld; omega
    have h3 : fin32 wd 20 = d := by exact fin32_of (by omega)
    have h4 : fin32 wd 15 = a := by exact fin32_of (by omega)
    have h5 : fin8 wd 7 = p := by exact fin8_of (by omega)
    have h6 : bit wd 0 = s := by exact bit_of (by omega)
    unfold rawV
    simp [h0, h1, h2, h3, h4, h5, h6, ElTy_ofCode_code]
  exact dec_v e hw

theorem vadds (t : ElTy) (d : Fin 32) (a : Fin 32) (g : Fin 64) (p : Fin 8) (r : Rm) : Statement (.vadds t d a g p r) := by
  intro c hc hw
  obtain rfl : SlotClass.v = c := Option.some.inj hc
  have e : rawV (encode (.vadds t d a g p r)) = some (.vadds t d a g p r) := by
    show rawV (0x10000000 + t.code * 0x8 + d.val * 0x100000 + a.val * 0x8000 + g.val * 0x200 + p.val * 0x40 + r.code) = _
    generalize hx : 0x10000000 + t.code * 0x8 + d.val * 0x100000 + a.val * 0x8000 + g.val * 0x200 + p.val * 0x40 + r.code = wd
    have := ElTy_code_lt t
    have := d.isLt
    have := a.isLt
    have := g.isLt
    have := p.isLt
    have := Rm_code_lt r
    have h0 : fld wd 25 7 = 8 := by unfold fld; omega
    have h1 : fld wd 3 3 = t.code := by unfold fld; omega
    have h2 : fin32 wd 20 = d := by exact fin32_of (by omega)
    have h3 : fin32 wd 15 = a := by exact fin32_of (by omega)
    have h4 : fin64 wd 9 = g := by exact fin64_of (by omega)
    have h5 : fin8 wd 6 = p := by exact fin8_of (by omega)
    have h6 : fld wd 0 3 = r.code := by unfold fld; omega
    unfold rawV
    simp [h0, h1, h2, h3, h4, h5, h6, ElTy_ofCode_code, Rm_ofCode_code]
  exact dec_v e hw

theorem vmuls (t : ElTy) (d : Fin 32) (a : Fin 32) (g : Fin 64) (p : Fin 8) (r : Rm) : Statement (.vmuls t d a g p r) := by
  intro c hc hw
  obtain rfl : SlotClass.v = c := Option.some.inj hc
  have e : rawV (encode (.vmuls t d a g p r)) = some (.vmuls t d a g p r) := by
    show rawV (0x12000000 + t.code * 0x8 + d.val * 0x100000 + a.val * 0x8000 + g.val * 0x200 + p.val * 0x40 + r.code) = _
    generalize hx : 0x12000000 + t.code * 0x8 + d.val * 0x100000 + a.val * 0x8000 + g.val * 0x200 + p.val * 0x40 + r.code = wd
    have := ElTy_code_lt t
    have := d.isLt
    have := a.isLt
    have := g.isLt
    have := p.isLt
    have := Rm_code_lt r
    have h0 : fld wd 25 7 = 9 := by unfold fld; omega
    have h1 : fld wd 3 3 = t.code := by unfold fld; omega
    have h2 : fin32 wd 20 = d := by exact fin32_of (by omega)
    have h3 : fin32 wd 15 = a := by exact fin32_of (by omega)
    have h4 : fin64 wd 9 = g := by exact fin64_of (by omega)
    have h5 : fin8 wd 6 = p := by exact fin8_of (by omega)
    have h6 : fld wd 0 3 = r.code := by unfold fld; omega
    unfold rawV
    simp [h0, h1, h2, h3, h4, h5, h6, ElTy_ofCode_code, Rm_ofCode_code]
  exact dec_v e hw

theorem vfmas (t : ElTy) (d : Fin 32) (a : Fin 32) (g : Fin 64) (p : Fin 8) (r : Rm) : Statement (.vfmas t d a g p r) := by
  intro c hc hw
  obtain rfl : SlotClass.v = c := Option.some.inj hc
  have e : rawV (encode (.vfmas t d a g p r)) = some (.vfmas t d a g p r) := by
    show rawV (0x14000000 + t.code * 0x8 + d.val * 0x100000 + a.val * 0x8000 + g.val * 0x200 + p.val * 0x40 + r.code) = _
    generalize hx : 0x14000000 + t.code * 0x8 + d.val * 0x100000 + a.val * 0x8000 + g.val * 0x200 + p.val * 0x40 + r.code = wd
    have := ElTy_code_lt t
    have := d.isLt
    have := a.isLt
    have := g.isLt
    have := p.isLt
    have := Rm_code_lt r
    have h0 : fld wd 25 7 = 10 := by unfold fld; omega
    have h1 : fld wd 3 3 = t.code := by unfold fld; omega
    have h2 : fin32 wd 20 = d := by exact fin32_of (by omega)
    have h3 : fin32 wd 15 = a := by exact fin32_of (by omega)
    have h4 : fin64 wd 9 = g := by exact fin64_of (by omega)
    have h5 : fin8 wd 6 = p := by exact fin8_of (by omega)
    have h6 : fld wd 0 3 = r.code := by unfold fld; omega
    unfold rawV
    simp [h0, h1, h2, h3, h4, h5, h6, ElTy_ofCode_code, Rm_ofCode_code]
  exact dec_v e hw

theorem vdiv (t : ElTy) (d : Fin 32) (a : Fin 32) (b : Fin 32) (p : Fin 8) (r : Rm) : Statement (.vdiv t d a b p r) := by
  intro c hc hw
  obtain rfl : SlotClass.v = c := Option.some.inj hc
  have e : rawV (encode (.vdiv t d a b p r)) = some (.vdiv t d a b p r) := by
    show rawV (0x18000000 + t.code * 0x10 + d.val * 0x100000 + a.val * 0x8000 + b.val * 0x400 + p.val * 0x80 + r.code * 0x2) = _
    generalize hx : 0x18000000 + t.code * 0x10 + d.val * 0x100000 + a.val * 0x8000 + b.val * 0x400 + p.val * 0x80 + r.code * 0x2 = wd
    have := ElTy_code_lt t
    have := d.isLt
    have := a.isLt
    have := b.isLt
    have := p.isLt
    have := Rm_code_lt r
    have h0 : fld wd 25 7 = 12 := by unfold fld; omega
    have h1 : (fld wd 0 1 = 0) := by unfold fld; omega
    have h2 : fld wd 4 3 = t.code := by unfold fld; omega
    have h3 : fin32 wd 20 = d := by exact fin32_of (by omega)
    have h4 : fin32 wd 15 = a := by exact fin32_of (by omega)
    have h5 : fin32 wd 10 = b := by exact fin32_of (by omega)
    have h6 : fin8 wd 7 = p := by exact fin8_of (by omega)
    have h7 : fld wd 1 3 = r.code := by unfold fld; omega
    unfold rawV
    simp [h0, h1, h2, h3, h4, h5, h6, h7, ElTy_ofCode_code, Rm_ofCode_code]
  exact dec_v e hw

theorem vsqrt (t : ElTy) (d : Fin 32) (a : Fin 32) (p : Fin 8) (r : Rm) : Statement (.vsqrt t d a p r) := by
  intro c hc hw
  obtain rfl : SlotClass.v = c := Option.some.inj hc
  have e : rawV (encode (.vsqrt t d a p r)) = some (.vsqrt t d a p r) := by
    show rawV (0x1A000000 + t.code * 0x10 + d.val * 0x100000 + a.val * 0x8000 + p.val * 0x80 + r.code * 0x2) = _
    generalize hx : 0x1A000000 + t.code * 0x10 + d.val * 0x100000 + a.val * 0x8000 + p.val * 0x80 + r.code * 0x2 = wd
    have := ElTy_code_lt t
    have := d.isLt
    have := a.isLt
    have := p.isLt
    have := Rm_code_lt r
    have h0 : fld wd 25 7 = 13 := by unfold fld; omega
    have h1 : (fld wd 0 1 = 0 ∧ fld wd 10 5 = 0) := by unfold fld; omega
    have h2 : fld wd 4 3 = t.code := by unfold fld; omega
    have h3 : fin32 wd 20 = d := by exact fin32_of (by omega)
    have h4 : fin32 wd 15 = a := by exact fin32_of (by omega)
    have h5 : fin8 wd 7 = p := by exact fin8_of (by omega)
    have h6 : fld wd 1 3 = r.code := by unfold fld; omega
    unfold rawV
    simp [h0, h1, h2, h3, h4, h5, h6, ElTy_ofCode_code, Rm_ofCode_code]
  exact dec_v e hw

theorem vcmp (c : Cond) (t : ElTy) (d : Fin 8) (a : Fin 32) (b : Fin 32) (p : Fin 8) : Statement (.vcmp c t d a b p) := by
  intro c hc hw
  obtain rfl : SlotClass.v = c := Option.some.inj hc
  have e : rawV (encode (.vcmp c t d a b p)) = some (.vcmp c t d a b p) := by
    show rawV (0x20000000 + c.code + t.code * 0x10 + d.val * 0x100000 + a.val * 0x8000 + b.val * 0x400 + p.val * 0x80) = _
    generalize hx : 0x20000000 + c.code + t.code * 0x10 + d.val * 0x100000 + a.val * 0x8000 + b.val * 0x400 + p.val * 0x80 = wd
    have := Cond_code_lt c
    have := ElTy_code_lt t
    have := d.isLt
    have := a.isLt
    have := b.isLt
    have := p.isLt
    have h0 : fld wd 25 7 = 16 := by unfold fld; omega
    have h1 : (fld wd 23 2 = 0) := by unfold fld; omega
    have h2 : fld wd 0 4 = c.code := by unfold fld; omega
    have h3 : fld wd 4 3 = t.code := by unfold fld; omega
    have h4 : fin8 wd 20 = d := by exact fin8_of (by omega)
    have h5 : fin32 wd 15 = a := by exact fin32_of (by omega)
    have h6 : fin32 wd 10 = b := by exact fin32_of (by omega)
    have h7 : fin8 wd 7 = p := by exact fin8_of (by omega)
    unfold rawV
    simp [h0, h1, h2, h3, h4, h5, h6, h7, Cond_ofCode_code, ElTy_ofCode_code]
  exact dec_v e hw

theorem vsel (d : Fin 32) (n : Fin 8) (a : Fin 32) (b : Fin 32) : Statement (.vsel d n a b) := by
  intro c hc hw
  obtain rfl : SlotClass.v = c := Option.some.inj hc
  have e : rawV (encode (.vsel d n a b)) = some (.vsel d n a b) := by
    show rawV (0x22000000 + d.val * 0x100000 + n.val * 0x80 + a.val * 0x8000 + b.val * 0x400) = _
    generalize hx : 0x22000000 + d.val * 0x100000 + n.val * 0x80 + a.val * 0x8000 + b.val * 0x400 = wd
    have := d.isLt
    have := n.isLt
    have := a.isLt
    have := b.isLt
    have h0 : fld wd 25 7 = 17 := by unfold fld; omega
    have h1 : (fld wd 0 7 = 0) := by unfold fld; omega
    have h2 : fin32 wd 20 = d := by exact fin32_of (by omega)
    have h3 : fin8 wd 7 = n := by exact fin8_of (by omega)
    have h4 : fin32 wd 15 = a := by exact fin32_of (by omega)
    have h5 : fin32 wd 10 = b := by exact fin32_of (by omega)
    unfold rawV
    simp [h0, h1, h2, h3, h4, h5]
  exact dec_v e hw

theorem vand (d : Fin 32) (a : Fin 32) (b : Fin 32) (p : Fin 8) : Statement (.vand d a b p) := by
  intro c hc hw
  obtain rfl : SlotClass.v = c := Option.some.inj hc
  have e : rawV (encode (.vand d a b p)) = some (.vand d a b p) := by
    show rawV (0x24000000 + d.val * 0x100000 + a.val * 0x8000 + b.val * 0x400 + p.val * 0x80) = _
    generalize hx : 0x24000000 + d.val * 0x100000 + a.val * 0x8000 + b.val * 0x400 + p.val * 0x80 = wd
    have := d.isLt
    have := a.isLt
    have := b.isLt
    have := p.isLt
    have h0 : fld wd 25 7 = 18 := by unfold fld; omega
    have h1 : (fld wd 0 7 = 0) := by unfold fld; omega
    have h2 : fin32 wd 20 = d := by exact fin32_of (by omega)
    have h3 : fin32 wd 15 = a := by exact fin32_of (by omega)
    have h4 : fin32 wd 10 = b := by exact fin32_of (by omega)
    have h5 : fin8 wd 7 = p := by exact fin8_of (by omega)
    unfold rawV
    simp [h0, h1, h2, h3, h4, h5]
  exact dec_v e hw

theorem vor (d : Fin 32) (a : Fin 32) (b : Fin 32) (p : Fin 8) : Statement (.vor d a b p) := by
  intro c hc hw
  obtain rfl : SlotClass.v = c := Option.some.inj hc
  have e : rawV (encode (.vor d a b p)) = some (.vor d a b p) := by
    show rawV (0x26000000 + d.val * 0x100000 + a.val * 0x8000 + b.val * 0x400 + p.val * 0x80) = _
    generalize hx : 0x26000000 + d.val * 0x100000 + a.val * 0x8000 + b.val * 0x400 + p.val * 0x80 = wd
    have := d.isLt
    have := a.isLt
    have := b.isLt
    have := p.isLt
    have h0 : fld wd 25 7 = 19 := by unfold fld; omega
    have h1 : (fld wd 0 7 = 0) := by unfold fld; omega
    have h2 : fin32 wd 20 = d := by exact fin32_of (by omega)
    have h3 : fin32 wd 15 = a := by exact fin32_of (by omega)
    have h4 : fin32 wd 10 = b := by exact fin32_of (by omega)
    have h5 : fin8 wd 7 = p := by exact fin8_of (by omega)
    unfold rawV
    simp [h0, h1, h2, h3, h4, h5]
  exact dec_v e hw

theorem vxor (d : Fin 32) (a : Fin 32) (b : Fin 32) (p : Fin 8) : Statement (.vxor d a b p) := by
  intro c hc hw
  obtain rfl : SlotClass.v = c := Option.some.inj hc
  have e : rawV (encode (.vxor d a b p)) = some (.vxor d a b p) := by
    show rawV (0x28000000 + d.val * 0x100000 + a.val * 0x8000 + b.val * 0x400 + p.val * 0x80) = _
    generalize hx : 0x28000000 + d.val * 0x100000 + a.val * 0x8000 + b.val * 0x400 + p.val * 0x80 = wd
    have := d.isLt
    have := a.isLt
    have := b.isLt
    have := p.isLt
    have h0 : fld wd 25 7 = 20 := by unfold fld; omega
    have h1 : (fld wd 0 7 = 0) := by unfold fld; omega
    have h2 : fin32 wd 20 = d := by exact fin32_of (by omega)
    have h3 : fin32 wd 15 = a := by exact fin32_of (by omega)
    have h4 : fin32 wd 10 = b := by exact fin32_of (by omega)
    have h5 : fin8 wd 7 = p := by exact fin8_of (by omega)
    unfold rawV
    simp [h0, h1, h2, h3, h4, h5]
  exact dec_v e hw

theorem vandn (d : Fin 32) (a : Fin 32) (b : Fin 32) (p : Fin 8) : Statement (.vandn d a b p) := by
  intro c hc hw
  obtain rfl : SlotClass.v = c := Option.some.inj hc
  have e : rawV (encode (.vandn d a b p)) = some (.vandn d a b p) := by
    show rawV (0x2A000000 + d.val * 0x100000 + a.val * 0x8000 + b.val * 0x400 + p.val * 0x80) = _
    generalize hx : 0x2A000000 + d.val * 0x100000 + a.val * 0x8000 + b.val * 0x400 + p.val * 0x80 = wd
    have := d.isLt
    have := a.isLt
    have := b.isLt
    have := p.isLt
    have h0 : fld wd 25 7 = 21 := by unfold fld; omega
    have h1 : (fld wd 0 7 = 0) := by unfold fld; omega
    have h2 : fin32 wd 20 = d := by exact fin32_of (by omega)
    have h3 : fin32 wd 15 = a := by exact fin32_of (by omega)
    have h4 : fin32 wd 10 = b := by exact fin32_of (by omega)
    have h5 : fin8 wd 7 = p := by exact fin8_of (by omega)
    unfold rawV
    simp [h0, h1, h2, h3, h4, h5]
  exact dec_v e hw

theorem vshl (t : ElTy) (d : Fin 32) (a : Fin 32) (b : Fin 32) (p : Fin 8) : Statement (.vshl t d a b p) := by
  intro c hc hw
  obtain rfl : SlotClass.v = c := Option.some.inj hc
  have e : rawV (encode (.vshl t d a b p)) = some (.vshl t d a b p) := by
    show rawV (0x2C000000 + t.code * 0x10 + d.val * 0x100000 + a.val * 0x8000 + b.val * 0x400 + p.val * 0x80) = _
    generalize hx : 0x2C000000 + t.code * 0x10 + d.val * 0x100000 + a.val * 0x8000 + b.val * 0x400 + p.val * 0x80 = wd
    have := ElTy_code_lt t
    have := d.isLt
    have := a.isLt
    have := b.isLt
    have := p.isLt
    have h0 : fld wd 25 7 = 22 := by unfold fld; omega
    have h1 : (fld wd 0 4 = 0) := by unfold fld; omega
    have h2 : fld wd 4 3 = t.code := by unfold fld; omega
    have h3 : fin32 wd 20 = d := by exact fin32_of (by omega)
    have h4 : fin32 wd 15 = a := by exact fin32_of (by omega)
    have h5 : fin32 wd 10 = b := by exact fin32_of (by omega)
    have h6 : fin8 wd 7 = p := by exact fin8_of (by omega)
    unfold rawV
    simp [h0, h1, h2, h3, h4, h5, h6, ElTy_ofCode_code]
  exact dec_v e hw

theorem vshr (t : ElTy) (d : Fin 32) (a : Fin 32) (b : Fin 32) (p : Fin 8) : Statement (.vshr t d a b p) := by
  intro c hc hw
  obtain rfl : SlotClass.v = c := Option.some.inj hc
  have e : rawV (encode (.vshr t d a b p)) = some (.vshr t d a b p) := by
    show rawV (0x2E000000 + t.code * 0x10 + d.val * 0x100000 + a.val * 0x8000 + b.val * 0x400 + p.val * 0x80) = _
    generalize hx : 0x2E000000 + t.code * 0x10 + d.val * 0x100000 + a.val * 0x8000 + b.val * 0x400 + p.val * 0x80 = wd
    have := ElTy_code_lt t
    have := d.isLt
    have := a.isLt
    have := b.isLt
    have := p.isLt
    have h0 : fld wd 25 7 = 23 := by unfold fld; omega
    have h1 : (fld wd 0 4 = 0) := by unfold fld; omega
    have h2 : fld wd 4 3 = t.code := by unfold fld; omega
    have h3 : fin32 wd 20 = d := by exact fin32_of (by omega)
    have h4 : fin32 wd 15 = a := by exact fin32_of (by omega)
    have h5 : fin32 wd 10 = b := by exact fin32_of (by omega)
    have h6 : fin8 wd 7 = p := by exact fin8_of (by omega)
    unfold rawV
    simp [h0, h1, h2, h3, h4, h5, h6, ElTy_ofCode_code]
  exact dec_v e hw

theorem vsra (t : ElTy) (d : Fin 32) (a : Fin 32) (b : Fin 32) (p : Fin 8) : Statement (.vsra t d a b p) := by
  intro c hc hw
  obtain rfl : SlotClass.v = c := Option.some.inj hc
  have e : rawV (encode (.vsra t d a b p)) = some (.vsra t d a b p) := by
    show rawV (0x30000000 + t.code * 0x10 + d.val * 0x100000 + a.val * 0x8000 + b.val * 0x400 + p.val * 0x80) = _
    generalize hx : 0x30000000 + t.code * 0x10 + d.val * 0x100000 + a.val * 0x8000 + b.val * 0x400 + p.val * 0x80 = wd
    have := ElTy_code_lt t
    have := d.isLt
    have := a.isLt
    have := b.isLt
    have := p.isLt
    have h0 : fld wd 25 7 = 24 := by unfold fld; omega
    have h1 : (fld wd 0 4 = 0) := by unfold fld; omega
    have h2 : fld wd 4 3 = t.code := by unfold fld; omega
    have h3 : fin32 wd 20 = d := by exact fin32_of (by omega)
    have h4 : fin32 wd 15 = a := by exact fin32_of (by omega)
    have h5 : fin32 wd 10 = b := by exact fin32_of (by omega)
    have h6 : fin8 wd 7 = p := by exact fin8_of (by omega)
    unfold rawV
    simp [h0, h1, h2, h3, h4, h5, h6, ElTy_ofCode_code]
  exact dec_v e hw

theorem vshli (t : ElTy) (d : Fin 32) (a : Fin 32) (p : Fin 8) (i : BitVec 8) : Statement (.vshli t d a p i) := by
  intro c hc hw
  obtain rfl : SlotClass.v = c := Option.some.inj hc
  have e : rawV (encode (.vshli t d a p i)) = some (.vshli t d a p i) := by
    show rawV (0x32000000 + t.code * 0x200 + d.val * 0x100000 + a.val * 0x8000 + p.val * 0x1000 + i.toNat) = _
    generalize hx : 0x32000000 + t.code * 0x200 + d.val * 0x100000 + a.val * 0x8000 + p.val * 0x1000 + i.toNat = wd
    have := ElTy_code_lt t
    have := d.isLt
    have := a.isLt
    have := p.isLt
    have := i.isLt
    have h0 : fld wd 25 7 = 25 := by unfold fld; omega
    have h1 : (fld wd 8 1 = 0) := by unfold fld; omega
    have h2 : fld wd 9 3 = t.code := by unfold fld; omega
    have h3 : fin32 wd 20 = d := by exact fin32_of (by omega)
    have h4 : fin32 wd 15 = a := by exact fin32_of (by omega)
    have h5 : fin8 wd 12 = p := by exact fin8_of (by omega)
    have h6 : BitVec.ofNat 8 wd = i := by exact bv_of (by omega)
    unfold rawV
    simp [h0, h1, h2, h3, h4, h5, h6, ElTy_ofCode_code]
  exact dec_v e hw

theorem vshri (t : ElTy) (d : Fin 32) (a : Fin 32) (p : Fin 8) (i : BitVec 8) : Statement (.vshri t d a p i) := by
  intro c hc hw
  obtain rfl : SlotClass.v = c := Option.some.inj hc
  have e : rawV (encode (.vshri t d a p i)) = some (.vshri t d a p i) := by
    show rawV (0x34000000 + t.code * 0x200 + d.val * 0x100000 + a.val * 0x8000 + p.val * 0x1000 + i.toNat) = _
    generalize hx : 0x34000000 + t.code * 0x200 + d.val * 0x100000 + a.val * 0x8000 + p.val * 0x1000 + i.toNat = wd
    have := ElTy_code_lt t
    have := d.isLt
    have := a.isLt
    have := p.isLt
    have := i.isLt
    have h0 : fld wd 25 7 = 26 := by unfold fld; omega
    have h1 : (fld wd 8 1 = 0) := by unfold fld; omega
    have h2 : fld wd 9 3 = t.code := by unfold fld; omega
    have h3 : fin32 wd 20 = d := by exact fin32_of (by omega)
    have h4 : fin32 wd 15 = a := by exact fin32_of (by omega)
    have h5 : fin8 wd 12 = p := by exact fin8_of (by omega)
    have h6 : BitVec.ofNat 8 wd = i := by exact bv_of (by omega)
    unfold rawV
    simp [h0, h1, h2, h3, h4, h5, h6, ElTy_ofCode_code]
  exact dec_v e hw

theorem vsrai (t : ElTy) (d : Fin 32) (a : Fin 32) (p : Fin 8) (i : BitVec 8) : Statement (.vsrai t d a p i) := by
  intro c hc hw
  obtain rfl : SlotClass.v = c := Option.some.inj hc
  have e : rawV (encode (.vsrai t d a p i)) = some (.vsrai t d a p i) := by
    show rawV (0x36000000 + t.code * 0x200 + d.val * 0x100000 + a.val * 0x8000 + p.val * 0x1000 + i.toNat) = _
    generalize hx : 0x36000000 + t.code * 0x200 + d.val * 0x100000 + a.val * 0x8000 + p.val * 0x1000 + i.toNat = wd
    have := ElTy_code_lt t
    have := d.isLt
    have := a.isLt
    have := p.isLt
    have := i.isLt
    have h0 : fld wd 25 7 = 27 := by unfold fld; omega
    have h1 : (fld wd 8 1 = 0) := by unfold fld; omega
    have h2 : fld wd 9 3 = t.code := by unfold fld; omega
    have h3 : fin32 wd 20 = d := by exact fin32_of (by omega)
    have h4 : fin32 wd 15 = a := by exact fin32_of (by omega)
    have h5 : fin8 wd 12 = p := by exact fin8_of (by omega)
    have h6 : BitVec.ofNat 8 wd = i := by exact bv_of (by omega)
    unfold rawV
    simp [h0, h1, h2, h3, h4, h5, h6, ElTy_ofCode_code]
  exact dec_v e hw

theorem vrcp (d : Fin 32) (a : Fin 32) (p : Fin 8) : Statement (.vrcp d a p) := by
  intro c hc hw
  obtain rfl : SlotClass.v = c := Option.some.inj hc
  have e : rawV (encode (.vrcp d a p)) = some (.vrcp d a p) := by
    show rawV (0x40000020 + d.val * 0x100000 + a.val * 0x8000 + p.val * 0x80) = _
    generalize hx : 0x40000020 + d.val * 0x100000 + a.val * 0x8000 + p.val * 0x80 = wd
    have := d.isLt
    have := a.isLt
    have := p.isLt
    have h0 : fld wd 25 7 = 32 := by unfold fld; omega
    have h1 : (fld wd 0 7 = 32 ∧ fld wd 10 5 = 0) := by unfold fld; omega
    have h2 : fin32 wd 20 = d := by exact fin32_of (by omega)
    have h3 : fin32 wd 15 = a := by exact fin32_of (by omega)
    have h4 : fin8 wd 7 = p := by exact fin8_of (by omega)
    unfold rawV
    simp [h0, h1, h2, h3, h4]
  exact dec_v e hw

theorem vrsq (d : Fin 32) (a : Fin 32) (p : Fin 8) : Statement (.vrsq d a p) := by
  intro c hc hw
  obtain rfl : SlotClass.v = c := Option.some.inj hc
  have e : rawV (encode (.vrsq d a p)) = some (.vrsq d a p) := by
    show rawV (0x42000020 + d.val * 0x100000 + a.val * 0x8000 + p.val * 0x80) = _
    generalize hx : 0x42000020 + d.val * 0x100000 + a.val * 0x8000 + p.val * 0x80 = wd
    have := d.isLt
    have := a.isLt
    have := p.isLt
    have h0 : fld wd 25 7 = 33 := by unfold fld; omega
    have h1 : (fld wd 0 7 = 32 ∧ fld wd 10 5 = 0) := by unfold fld; omega
    have h2 : fin32 wd 20 = d := by exact fin32_of (by omega)
    have h3 : fin32 wd 15 = a := by exact fin32_of (by omega)
    have h4 : fin8 wd 7 = p := by exact fin8_of (by omega)
    unfold rawV
    simp [h0, h1, h2, h3, h4]
  exact dec_v e hw

theorem vexp2 (d : Fin 32) (a : Fin 32) (p : Fin 8) : Statement (.vexp2 d a p) := by
  intro c hc hw
  obtain rfl : SlotClass.v = c := Option.some.inj hc
  have e : rawV (encode (.vexp2 d a p)) = some (.vexp2 d a p) := by
    show rawV (0x44000020 + d.val * 0x100000 + a.val * 0x8000 + p.val * 0x80) = _
    generalize hx : 0x44000020 + d.val * 0x100000 + a.val * 0x8000 + p.val * 0x80 = wd
    have := d.isLt
    have := a.isLt
    have := p.isLt
    have h0 : fld wd 25 7 = 34 := by unfold fld; omega
    have h1 : (fld wd 0 7 = 32 ∧ fld wd 10 5 = 0) := by unfold fld; omega
    have h2 : fin32 wd 20 = d := by exact fin32_of (by omega)
    have h3 : fin32 wd 15 = a := by exact fin32_of (by omega)
    have h4 : fin8 wd 7 = p := by exact fin8_of (by omega)
    unfold rawV
    simp [h0, h1, h2, h3, h4]
  exact dec_v e hw

theorem vlog2 (d : Fin 32) (a : Fin 32) (p : Fin 8) : Statement (.vlog2 d a p) := by
  intro c hc hw
  obtain rfl : SlotClass.v = c := Option.some.inj hc
  have e : rawV (encode (.vlog2 d a p)) = some (.vlog2 d a p) := by
    show rawV (0x46000020 + d.val * 0x100000 + a.val * 0x8000 + p.val * 0x80) = _
    generalize hx : 0x46000020 + d.val * 0x100000 + a.val * 0x8000 + p.val * 0x80 = wd
    have := d.isLt
    have := a.isLt
    have := p.isLt
    have h0 : fld wd 25 7 = 35 := by unfold fld; omega
    have h1 : (fld wd 0 7 = 32 ∧ fld wd 10 5 = 0) := by unfold fld; omega
    have h2 : fin32 wd 20 = d := by exact fin32_of (by omega)
    have h3 : fin32 wd 15 = a := by exact fin32_of (by omega)
    have h4 : fin8 wd 7 = p := by exact fin8_of (by omega)
    unfold rawV
    simp [h0, h1, h2, h3, h4]
  exact dec_v e hw

theorem vcvt (t : ElTy) (u : ElTy) (d : Fin 32) (a : Fin 32) (p : Fin 8) (r : Rm) (h : Bool) : Statement (.vcvt t u d a p r h) := by
  intro c hc hw
  obtain rfl : SlotClass.v = c := Option.some.inj hc
  have e : rawV (encode (.vcvt t u d a p r h)) = some (.vcvt t u d a p r h) := by
    show rawV (0x50000000 + t.code * 0x10 + u.code * 0x400 + d.val * 0x100000 + a.val * 0x8000 + p.val * 0x80 + r.code * 0x2 + h.toNat) = _
    generalize hx : 0x50000000 + t.code * 0x10 + u.code * 0x400 + d.val * 0x100000 + a.val * 0x8000 + p.val * 0x80 + r.code * 0x2 + h.toNat = wd
    have := ElTy_code_lt t
    have := ElTy_code_lt u
    have := d.isLt
    have := a.isLt
    have := p.isLt
    have := Rm_code_lt r
    have := Bool.toNat_lt h
    have h0 : fld wd 25 7 = 40 := by unfold fld; omega
    have h1 : (fld wd 13 2 = 0) := by unfold fld; omega
    have h2 : fld wd 4 3 = t.code := by unfold fld; omega
    have h3 : fld wd 10 3 = u.code := by unfold fld; omega
    have h4 : fin32 wd 20 = d := by exact fin32_of (by omega)
    have h5 : fin32 wd 15 = a := by exact fin32_of (by omega)
    have h6 : fin8 wd 7 = p := by exact fin8_of (by omega)
    have h7 : fld wd 1 3 = r.code := by unfold fld; omega
    have h8 : bit wd 0 = h := by exact bit_of (by omega)
    unfold rawV
    simp [h0, h1, h2, h3, h4, h5, h6, h7, h8, ElTy_ofCode_code, Rm_ofCode_code]
  exact dec_v e hw

theorem vbxi (d : Fin 32) (a : Fin 32) (e : Bool) : Statement (.vbxi d a e) := by
  intro c hc hw
  obtain rfl : SlotClass.v = c := Option.some.inj hc
  have e : rawV (encode (.vbxi d a e)) = some (.vbxi d a e) := by
    show rawV (0x52000030 + d.val * 0x100000 + a.val * 0x8000 + e.toNat) = _
    generalize hx : 0x52000030 + d.val * 0x100000 + a.val * 0x8000 + e.toNat = wd
    have := d.isLt
    have := a.isLt
    have := Bool.toNat_lt e
    have h0 : fld wd 25 7 = 41 := by unfold fld; omega
    have h1 : (fld wd 1 14 = 24) := by unfold fld; omega
    have h2 : fin32 wd 20 = d := by exact fin32_of (by omega)
    have h3 : fin32 wd 15 = a := by exact fin32_of (by omega)
    have h4 : bit wd 0 = e := by exact bit_of (by omega)
    unfold rawV
    simp [h0, h1, h2, h3, h4]
  exact dec_v e hw

theorem vcvt8 (d : Fin 32) (a : Fin 32) (x : Bool) (q : Fin 4) (p : Fin 8) (r : Rm) (f : Bool) : Statement (.vcvt8 d a x q p r f) := by
  intro c hc hw
  obtain rfl : SlotClass.v = c := Option.some.inj hc
  have e : rawV (encode (.vcvt8 d a x q p r f)) = some (.vcvt8 d a x q p r f) := by
    show rawV (0x54000020 + d.val * 0x100000 + a.val * 0x8000 + x.toNat * 0x1000 + q.val * 0x400 + p.val * 0x80 + r.code * 0x2 + f.toNat) = _
    generalize hx : 0x54000020 + d.val * 0x100000 + a.val * 0x8000 + x.toNat * 0x1000 + q.val * 0x400 + p.val * 0x80 + r.code * 0x2 + f.toNat = wd
    have := d.isLt
    have := a.isLt
    have := Bool.toNat_lt x
    have := q.isLt
    have := p.isLt
    have := Rm_code_lt r
    have := Bool.toNat_lt f
    have h0 : fld wd 25 7 = 42 := by unfold fld; omega
    have h1 : (fld wd 4 3 = 2 ∧ fld wd 13 2 = 0) := by unfold fld; omega
    have h2 : fin32 wd 20 = d := by exact fin32_of (by omega)
    have h3 : fin32 wd 15 = a := by exact fin32_of (by omega)
    have h4 : bit wd 12 = x := by exact bit_of (by omega)
    have h5 : fin4 wd 10 = q := by exact fin4_of (by omega)
    have h6 : fin8 wd 7 = p := by exact fin8_of (by omega)
    have h7 : fld wd 1 3 = r.code := by unfold fld; omega
    have h8 : bit wd 0 = f := by exact bit_of (by omega)
    unfold rawV
    simp [h0, h1, h2, h3, h4, h5, h6, h7, h8, Rm_ofCode_code]
  exact dec_v e hw

theorem vpack (t : ElTy) (d : Fin 32) (a : Fin 32) (b : Fin 32) (p : Fin 8) (c : Bool) : Statement (.vpack t d a b p c) := by
  intro c hc hw
  obtain rfl : SlotClass.v = c := Option.some.inj hc
  have e : rawV (encode (.vpack t d a b p c)) = some (.vpack t d a b p c) := by
    show rawV (0x60000000 + t.code * 0x10 + d.val * 0x100000 + a.val * 0x8000 + b.val * 0x400 + p.val * 0x80 + c.toNat) = _
    generalize hx : 0x60000000 + t.code * 0x10 + d.val * 0x100000 + a.val * 0x8000 + b.val * 0x400 + p.val * 0x80 + c.toNat = wd
    have := ElTy_code_lt t
    have := d.isLt
    have := a.isLt
    have := b.isLt
    have := p.isLt
    have := Bool.toNat_lt c
    have h0 : fld wd 25 7 = 48 := by unfold fld; omega
    have h1 : (fld wd 1 3 = 0) := by unfold fld; omega
    have h2 : fld wd 4 3 = t.code := by unfold fld; omega
    have h3 : fin32 wd 20 = d := by exact fin32_of (by omega)
    have h4 : fin32 wd 15 = a := by exact fin32_of (by omega)
    have h5 : fin32 wd 10 = b := by exact fin32_of (by omega)
    have h6 : fin8 wd 7 = p := by exact fin8_of (by omega)
    have h7 : bit wd 0 = c := by exact bit_of (by omega)
    unfold rawV
    simp [h0, h1, h2, h3, h4, h5, h6, h7, ElTy_ofCode_code]
  exact dec_v e hw

theorem vunpack (t : ElTy) (d : Fin 32) (a : Fin 32) (p : Fin 8) (h : Bool) : Statement (.vunpack t d a p h) := by
  intro c hc hw
  obtain rfl : SlotClass.v = c := Option.some.inj hc
  have e : rawV (encode (.vunpack t d a p h)) = some (.vunpack t d a p h) := by
    show rawV (0x62000000 + t.code * 0x10 + d.val * 0x100000 + a.val * 0x8000 + p.val * 0x80 + h.toNat) = _
    generalize hx : 0x62000000 + t.code * 0x10 + d.val * 0x100000 + a.val * 0x8000 + p.val * 0x80 + h.toNat = wd
    have := ElTy_code_lt t
    have := d.isLt
    have := a.isLt
    have := p.isLt
    have := Bool.toNat_lt h
    have h0 : fld wd 25 7 = 49 := by unfold fld; omega
    have h1 : (fld wd 1 3 = 0 ∧ fld wd 10 5 = 0) := by unfold fld; omega
    have h2 : fld wd 4 3 = t.code := by unfold fld; omega
    have h3 : fin32 wd 20 = d := by exact fin32_of (by omega)
    have h4 : fin32 wd 15 = a := by exact fin32_of (by omega)
    have h5 : fin8 wd 7 = p := by exact fin8_of (by omega)
    have h6 : bit wd 0 = h := by exact bit_of (by omega)
    unfold rawV
    simp [h0, h1, h2, h3, h4, h5, h6, ElTy_ofCode_code]
  exact dec_v e hw

theorem vperm (t : ElTy) (d : Fin 32) (a : Fin 32) (b : Fin 32) (p : Fin 8) : Statement (.vperm t d a b p) := by
  intro c hc hw
  obtain rfl : SlotClass.v = c := Option.some.inj hc
  have e : rawV (encode (.vperm t d a b p)) = some (.vperm t d a b p) := by
    show rawV (0x64000000 + t.code * 0x10 + d.val * 0x100000 + a.val * 0x8000 + b.val * 0x400 + p.val * 0x80) = _
    generalize hx : 0x64000000 + t.code * 0x10 + d.val * 0x100000 + a.val * 0x8000 + b.val * 0x400 + p.val * 0x80 = wd
    have := ElTy_code_lt t
    have := d.isLt
    have := a.isLt
    have := b.isLt
    have := p.isLt
    have h0 : fld wd 25 7 = 50 := by unfold fld; omega
    have h1 : (fld wd 0 4 = 0) := by unfold fld; omega
    have h2 : fld wd 4 3 = t.code := by unfold fld; omega
    have h3 : fin32 wd 20 = d := by exact fin32_of (by omega)
    have h4 : fin32 wd 15 = a := by exact fin32_of (by omega)
    have h5 : fin32 wd 10 = b := by exact fin32_of (by omega)
    have h6 : fin8 wd 7 = p := by exact fin8_of (by omega)
    unfold rawV
    simp [h0, h1, h2, h3, h4, h5, h6, ElTy_ofCode_code]
  exact dec_v e hw

theorem vrot (t : ElTy) (d : Fin 32) (a : Fin 32) (p : Fin 8) (s : Bool) (n : BitVec 8) : Statement (.vrot t d a p s n) := by
  intro c hc hw
  obtain rfl : SlotClass.v = c := Option.some.inj hc
  have e : rawV (encode (.vrot t d a p s n)) = some (.vrot t d a p s n) := by
    show rawV (0x66000000 + t.code * 0x200 + d.val * 0x100000 + a.val * 0x8000 + p.val * 0x1000 + s.toNat * 0x100 + n.toNat) = _
    generalize hx : 0x66000000 + t.code * 0x200 + d.val * 0x100000 + a.val * 0x8000 + p.val * 0x1000 + s.toNat * 0x100 + n.toNat = wd
    have := ElTy_code_lt t
    have := d.isLt
    have := a.isLt
    have := p.isLt
    have := Bool.toNat_lt s
    have := n.isLt
    have h0 : fld wd 25 7 = 51 := by unfold fld; omega
    have h1 : fld wd 9 3 = t.code := by unfold fld; omega
    have h2 : fin32 wd 20 = d := by exact fin32_of (by omega)
    have h3 : fin32 wd 15 = a := by exact fin32_of (by omega)
    have h4 : fin8 wd 12 = p := by exact fin8_of (by omega)
    have h5 : bit wd 8 = s := by exact bit_of (by omega)
    have h6 : BitVec.ofNat 8 wd = n := by exact bv_of (by omega)
    unfold rawV
    simp [h0, h1, h2, h3, h4, h5, h6, ElTy_ofCode_code]
  exact dec_v e hw

theorem vbcast (t : ElTy) (d : Fin 32) (g : Fin 64) (p : Fin 8) : Statement (.vbcast t d g p) := by
  intro c hc hw
  obtain rfl : SlotClass.v = c := Option.some.inj hc
  have e : rawV (encode (.vbcast t d g p)) = some (.vbcast t d g p) := by
    show rawV (0x68000000 + t.code * 0x8 + d.val * 0x100000 + g.val * 0x200 + p.val * 0x40) = _
    generalize hx : 0x68000000 + t.code * 0x8 + d.val * 0x100000 + g.val * 0x200 + p.val * 0x40 = wd
    have := ElTy_code_lt t
    have := d.isLt
    have := g.isLt
    have := p.isLt
    have h0 : fld wd 25 7 = 52 := by unfold fld; omega
    have h1 : (fld wd 0 3 = 0 ∧ fld wd 15 5 = 0) := by unfold fld; omega
    have h2 : fld wd 3 3 = t.code := by unfold fld; omega
    have h3 : fin32 wd 20 = d := by exact fin32_of (by omega)
    have h4 : fin64 wd 9 = g := by exact fin64_of (by omega)
    have h5 : fin8 wd 6 = p := by exact fin8_of (by omega)
    unfold rawV
    simp [h0, h1, h2, h3, h4, h5, ElTy_ofCode_code]
  exact dec_v e hw

theorem vext (t : ElTy) (g : Fin 64) (a : Fin 32) (x : Fin 32) (y : Fin 8) : Statement (.vext t g a x y) := by
  intro c hc hw
  obtain rfl : SlotClass.v = c := Option.some.inj hc
  have e : rawV (encode (.vext t g a x y)) = some (.vext t g a x y) := by
    show rawV (0x6A000000 + t.code * 0x8 + g.val * 0x200 + a.val * 0x8000 + x.val * 0x100000 + y.val) = _
    generalize hx : 0x6A000000 + t.code * 0x8 + g.val * 0x200 + a.val * 0x8000 + x.val * 0x100000 + y.val = wd
    have := ElTy_code_lt t
    have := g.isLt
    have := a.isLt
    have := x.isLt
    have := y.isLt
    have h0 : fld wd 25 7 = 53 := by unfold fld; omega
    have h1 : (fld wd 6 3 = 0) := by unfold fld; omega
    have h2 : fld wd 3 3 = t.code := by unfold fld; omega
    have h3 : fin64 wd 9 = g := by exact fin64_of (by omega)
    have h4 : fin32 wd 15 = a := by exact fin32_of (by omega)
    have h5 : fin32 wd 20 = x := by exact fin32_of (by omega)
    have h6 : fin8 wd 0 = y := by exact fin8_of (by omega)
    unfold rawV
    simp [h0, h1, h2, h3, h4, h5, h6, ElTy_ofCode_code]
  exact dec_v e hw

theorem vred (t : ElTy) (o : RedOp) (d : Fin 32) (a : Fin 32) (p : Fin 8) (r : Rm) (s : Bool) : Statement (.vred t o d a p r s) := by
  intro c hc hw
  obtain rfl : SlotClass.v = c := Option.some.inj hc
  have e : rawV (encode (.vred t o d a p r s)) = some (.vred t o d a p r s) := by
    show rawV (0x6C000000 + t.code * 0x10 + o.code * 0x400 + d.val * 0x100000 + a.val * 0x8000 + p.val * 0x80 + r.code * 0x2 + s.toNat) = _
    generalize hx : 0x6C000000 + t.code * 0x10 + o.code * 0x400 + d.val * 0x100000 + a.val * 0x8000 + p.val * 0x80 + r.code * 0x2 + s.toNat = wd
    have := ElTy_code_lt t
    have := RedOp_code_lt o
    have := d.isLt
    have := a.isLt
    have := p.isLt
    have := Rm_code_lt r
    have := Bool.toNat_lt s
    have h0 : fld wd 25 7 = 54 := by unfold fld; omega
    have h1 : (fld wd 12 3 = 0) := by unfold fld; omega
    have h2 : fld wd 4 3 = t.code := by unfold fld; omega
    have h3 : fld wd 10 2 = o.code := by unfold fld; omega
    have h4 : fin32 wd 20 = d := by exact fin32_of (by omega)
    have h5 : fin32 wd 15 = a := by exact fin32_of (by omega)
    have h6 : fin8 wd 7 = p := by exact fin8_of (by omega)
    have h7 : fld wd 1 3 = r.code := by unfold fld; omega
    have h8 : bit wd 0 = s := by exact bit_of (by omega)
    unfold rawV
    simp [h0, h1, h2, h3, h4, h5, h6, h7, h8, ElTy_ofCode_code, RedOp_ofCode_code, Rm_ofCode_code]
  exact dec_v e hw

theorem vscan (t : ElTy) (o : RedOp) (d : Fin 32) (a : Fin 32) (p : Fin 8) (r : Rm) (s : Bool) : Statement (.vscan t o d a p r s) := by
  intro c hc hw
  obtain rfl : SlotClass.v = c := Option.some.inj hc
  have e : rawV (encode (.vscan t o d a p r s)) = some (.vscan t o d a p r s) := by
    show rawV (0x6E000000 + t.code * 0x10 + o.code * 0x400 + d.val * 0x100000 + a.val * 0x8000 + p.val * 0x80 + r.code * 0x2 + s.toNat) = _
    generalize hx : 0x6E000000 + t.code * 0x10 + o.code * 0x400 + d.val * 0x100000 + a.val * 0x8000 + p.val * 0x80 + r.code * 0x2 + s.toNat = wd
    have := ElTy_code_lt t
    have := RedOp_code_lt o
    have := d.isLt
    have := a.isLt
    have := p.isLt
    have := Rm_code_lt r
    have := Bool.toNat_lt s
    have h0 : fld wd 25 7 = 55 := by unfold fld; omega
    have h1 : (fld wd 12 3 = 0) := by unfold fld; omega
    have h2 : fld wd 4 3 = t.code := by unfold fld; omega
    have h3 : fld wd 10 2 = o.code := by unfold fld; omega
    have h4 : fin32 wd 20 = d := by exact fin32_of (by omega)
    have h5 : fin32 wd 15 = a := by exact fin32_of (by omega)
    have h6 : fin8 wd 7 = p := by exact fin8_of (by omega)
    have h7 : fld wd 1 3 = r.code := by unfold fld; omega
    have h8 : bit wd 0 = s := by exact bit_of (by omega)
    unfold rawV
    simp [h0, h1, h2, h3, h4, h5, h6, h7, h8, ElTy_ofCode_code, RedOp_ofCode_code, Rm_ofCode_code]
  exact dec_v e hw

theorem vdot4 (t : ElTy) (d : Fin 32) (a : Fin 32) (b : Fin 32) (p : Fin 8) (s : Bool) : Statement (.vdot4 t d a b p s) := by
  intro c hc hw
  obtain rfl : SlotClass.v = c := Option.some.inj hc
  have e : rawV (encode (.vdot4 t d a b p s)) = some (.vdot4 t d a b p s) := by
    show rawV (0x70000000 + t.code * 0x10 + d.val * 0x100000 + a.val * 0x8000 + b.val * 0x400 + p.val * 0x80 + s.toNat) = _
    generalize hx : 0x70000000 + t.code * 0x10 + d.val * 0x100000 + a.val * 0x8000 + b.val * 0x400 + p.val * 0x80 + s.toNat = wd
    have := ElTy_code_lt t
    have := d.isLt
    have := a.isLt
    have := b.isLt
    have := p.isLt
    have := Bool.toNat_lt s
    have h0 : fld wd 25 7 = 56 := by unfold fld; omega
    have h1 : (fld wd 1 3 = 0) := by unfold fld; omega
    have h2 : fld wd 4 3 = t.code := by unfold fld; omega
    have h3 : fin32 wd 20 = d := by exact fin32_of (by omega)
    have h4 : fin32 wd 15 = a := by exact fin32_of (by omega)
    have h5 : fin32 wd 10 = b := by exact fin32_of (by omega)
    have h6 : fin8 wd 7 = p := by exact fin8_of (by omega)
    have h7 : bit wd 0 = s := by exact bit_of (by omega)
    unfold rawV
    simp [h0, h1, h2, h3, h4, h5, h6, h7, ElTy_ofCode_code]
  exact dec_v e hw

theorem vmovi (t : ElTy) (d : Fin 32) (p : Fin 8) (i : BitVec 8) : Statement (.vmovi t d p i) := by
  intro c hc hw
  obtain rfl : SlotClass.v = c := Option.some.inj hc
  have e : rawV (encode (.vmovi t d p i)) = some (.vmovi t d p i) := by
    show rawV (0x72000000 + t.code * 0x200 + d.val * 0x100000 + p.val * 0x1000 + i.toNat) = _
    generalize hx : 0x72000000 + t.code * 0x200 + d.val * 0x100000 + p.val * 0x1000 + i.toNat = wd
    have := ElTy_code_lt t
    have := d.isLt
    have := p.isLt
    have := i.isLt
    have h0 : fld wd 25 7 = 57 := by unfold fld; omega
    have h1 : (fld wd 8 1 = 0 ∧ fld wd 15 5 = 0) := by unfold fld; omega
    have h2 : fld wd 9 3 = t.code := by unfold fld; omega
    have h3 : fin32 wd 20 = d := by exact fin32_of (by omega)
    have h4 : fin8 wd 12 = p := by exact fin8_of (by omega)
    have h5 : BitVec.ofNat 8 wd = i := by exact bv_of (by omega)
    unfold rawV
    simp [h0, h1, h2, h3, h4, h5, ElTy_ofCode_code]
  exact dec_v e hw

theorem ld (s : Bool) (z : Fin 4) (r : Bool) (x : Bool) (d : Fin 64) (a : Fin 64) (o : BitVec 7) : Statement (.ld s z r x d a o) := by
  intro c hc hw
  obtain rfl : SlotClass.mm = c := Option.some.inj hc
  have e : rawMm (encode (.ld s z r x d a o)) = some (.ld s z r x d a o) := by
    show rawMm (0x02000000 + s.toNat * 0x800 + z.val * 0x200 + r.toNat * 0x100 + x.toNat * 0x80 + d.val * 0x80000 + a.val * 0x2000 + o.toNat) = _
    generalize hx : 0x02000000 + s.toNat * 0x800 + z.val * 0x200 + r.toNat * 0x100 + x.toNat * 0x80 + d.val * 0x80000 + a.val * 0x2000 + o.toNat = wd
    have := Bool.toNat_lt s
    have := z.isLt
    have := Bool.toNat_lt r
    have := Bool.toNat_lt x
    have := d.isLt
    have := a.isLt
    have := o.isLt
    have h0 : fld wd 25 7 = 1 := by unfold fld; omega
    have h1 : (fld wd 12 1 = 0) := by unfold fld; omega
    have h2 : bit wd 11 = s := by exact bit_of (by omega)
    have h3 : fin4 wd 9 = z := by exact fin4_of (by omega)
    have h4 : bit wd 8 = r := by exact bit_of (by omega)
    have h5 : bit wd 7 = x := by exact bit_of (by omega)
    have h6 : fin64 wd 19 = d := by exact fin64_of (by omega)
    have h7 : fin64 wd 13 = a := by exact fin64_of (by omega)
    have h8 : BitVec.ofNat 7 wd = o := by exact bv_of (by omega)
    unfold rawMm
    simp [h0, h1, h2, h3, h4, h5, h6, h7, h8]
  exact dec_mm e hw

theorem st (s : Bool) (z : Fin 4) (r : Bool) (d : Fin 64) (a : Fin 64) (o : BitVec 7) : Statement (.st s z r d a o) := by
  intro c hc hw
  obtain rfl : SlotClass.mm = c := Option.some.inj hc
  have e : rawMm (encode (.st s z r d a o)) = some (.st s z r d a o) := by
    show rawMm (0x04000000 + s.toNat * 0x800 + z.val * 0x200 + r.toNat * 0x100 + d.val * 0x80000 + a.val * 0x2000 + o.toNat) = _
    generalize hx : 0x04000000 + s.toNat * 0x800 + z.val * 0x200 + r.toNat * 0x100 + d.val * 0x80000 + a.val * 0x2000 + o.toNat = wd
    have := Bool.toNat_lt s
    have := z.isLt
    have := Bool.toNat_lt r
    have := d.isLt
    have := a.isLt
    have := o.isLt
    have h0 : fld wd 25 7 = 2 := by unfold fld; omega
    have h1 : (fld wd 7 1 = 0 ∧ fld wd 12 1 = 0) := by unfold fld; omega
    have h2 : bit wd 11 = s := by exact bit_of (by omega)
    have h3 : fin4 wd 9 = z := by exact fin4_of (by omega)
    have h4 : bit wd 8 = r := by exact bit_of (by omega)
    have h5 : fin64 wd 19 = d := by exact fin64_of (by omega)
    have h6 : fin64 wd 13 = a := by exact fin64_of (by omega)
    have h7 : BitVec.ofNat 7 wd = o := by exact bv_of (by omega)
    unfold rawMm
    simp [h0, h1, h2, h3, h4, h5, h6, h7]
  exact dec_mm e hw

theorem vld (s : Bool) (e : El) (r : Bool) (p : Fin 8) (d : Fin 32) (a : Fin 64) : Statement (.vld s e r p d a) := by
  intro c hc hw
  obtain rfl : SlotClass.mm = c := Option.some.inj hc
  have e : rawMm (encode (.vld s e r p d a)) = some (.vld s e r p d a) := by
    show rawMm (0x06000000 + s.toNat * 0x40 + e.code + r.toNat * 0x4 + p.val * 0x8 + d.val * 0x100000 + a.val * 0x4000) = _
    generalize hx : 0x06000000 + s.toNat * 0x40 + e.code + r.toNat * 0x4 + p.val * 0x8 + d.val * 0x100000 + a.val * 0x4000 = wd
    have := Bool.toNat_lt s
    have := El_code_lt e
    have := Bool.toNat_lt r
    have := p.isLt
    have := d.isLt
    have := a.isLt
    have h0 : fld wd 25 7 = 3 := by unfold fld; omega
    have h1 : (fld wd 7 7 = 0) := by unfold fld; omega
    have h2 : bit wd 6 = s := by exact bit_of (by omega)
    have h3 : fld wd 0 2 = e.code := by unfold fld; omega
    have h4 : bit wd 2 = r := by exact bit_of (by omega)
    have h5 : fin8 wd 3 = p := by exact fin8_of (by omega)
    have h6 : fin32 wd 20 = d := by exact fin32_of (by omega)
    have h7 : fin64 wd 14 = a := by exact fin64_of (by omega)
    unfold rawMm
    simp [h0, h1, h2, h3, h4, h5, h6, h7, El_ofCode_code]
  exact dec_mm e hw

theorem vldS (s : Bool) (e : El) (r : Bool) (p : Fin 8) (d : Fin 32) (a : Fin 64) (g : Fin 64) : Statement (.vldS s e r p d a g) := by
  intro c hc hw
  obtain rfl : SlotClass.mm = c := Option.some.inj hc
  have e : rawMm (encode (.vldS s e r p d a g)) = some (.vldS s e r p d a g) := by
    show rawMm (0x08000000 + s.toNat * 0x40 + e.code + r.toNat * 0x4 + p.val * 0x8 + d.val * 0x100000 + a.val * 0x4000 + g.val * 0x100) = _
    generalize hx : 0x08000000 + s.toNat * 0x40 + e.code + r.toNat * 0x4 + p.val * 0x8 + d.val * 0x100000 + a.val * 0x4000 + g.val * 0x100 = wd
    have := Bool.toNat_lt s
    have := El_code_lt e
    have := Bool.toNat_lt r
    have := p.isLt
    have := d.isLt
    have := a.isLt
    have := g.isLt
    have h0 : fld wd 25 7 = 4 := by unfold fld; omega
    have h1 : (fld wd 7 1 = 0) := by unfold fld; omega
    have h2 : bit wd 6 = s := by exact bit_of (by omega)
    have h3 : fld wd 0 2 = e.code := by unfold fld; omega
    have h4 : bit wd 2 = r := by exact bit_of (by omega)
    have h5 : fin8 wd 3 = p := by exact fin8_of (by omega)
    have h6 : fin32 wd 20 = d := by exact fin32_of (by omega)
    have h7 : fin64 wd 14 = a := by exact fin64_of (by omega)
    have h8 : fin64 wd 8 = g := by exact fin64_of (by omega)
    unfold rawMm
    simp [h0, h1, h2, h3, h4, h5, h6, h7, h8, El_ofCode_code]
  exact dec_mm e hw

theorem vst (s : Bool) (e : El) (r : Bool) (p : Fin 8) (d : Fin 32) (a : Fin 64) : Statement (.vst s e r p d a) := by
  intro c hc hw
  obtain rfl : SlotClass.mm = c := Option.some.inj hc
  have e : rawMm (encode (.vst s e r p d a)) = some (.vst s e r p d a) := by
    show rawMm (0x0A000000 + s.toNat * 0x40 + e.code + r.toNat * 0x4 + p.val * 0x8 + d.val * 0x100000 + a.val * 0x4000) = _
    generalize hx : 0x0A000000 + s.toNat * 0x40 + e.code + r.toNat * 0x4 + p.val * 0x8 + d.val * 0x100000 + a.val * 0x4000 = wd
    have := Bool.toNat_lt s
    have := El_code_lt e
    have := Bool.toNat_lt r
    have := p.isLt
    have := d.isLt
    have := a.isLt
    have h0 : fld wd 25 7 = 5 := by unfold fld; omega
    have h1 : (fld wd 7 7 = 0) := by unfold fld; omega
    have h2 : bit wd 6 = s := by exact bit_of (by omega)
    have h3 : fld wd 0 2 = e.code := by unfold fld; omega
    have h4 : bit wd 2 = r := by exact bit_of (by omega)
    have h5 : fin8 wd 3 = p := by exact fin8_of (by omega)
    have h6 : fin32 wd 20 = d := by exact fin32_of (by omega)
    have h7 : fin64 wd 14 = a := by exact fin64_of (by omega)
    unfold rawMm
    simp [h0, h1, h2, h3, h4, h5, h6, h7, El_ofCode_code]
  exact dec_mm e hw

theorem vgath (s : Bool) (e : El) (r : Bool) (p : Fin 8) (d : Fin 32) (a : Fin 64) (b : Fin 32) : Statement (.vgath s e r p d a b) := by
  intro c hc hw
  obtain rfl : SlotClass.mm = c := Option.some.inj hc
  have e : rawMm (encode (.vgath s e r p d a b)) = some (.vgath s e r p d a b) := by
    show rawMm (0x0C000000 + s.toNat * 0x40 + e.code + r.toNat * 0x4 + p.val * 0x8 + d.val * 0x100000 + a.val * 0x4000 + b.val * 0x100) = _
    generalize hx : 0x0C000000 + s.toNat * 0x40 + e.code + r.toNat * 0x4 + p.val * 0x8 + d.val * 0x100000 + a.val * 0x4000 + b.val * 0x100 = wd
    have := Bool.toNat_lt s
    have := El_code_lt e
    have := Bool.toNat_lt r
    have := p.isLt
    have := d.isLt
    have := a.isLt
    have := b.isLt
    have h0 : fld wd 25 7 = 6 := by unfold fld; omega
    have h1 : (fld wd 7 1 = 0 ∧ fld wd 13 1 = 0) := by unfold fld; omega
    have h2 : bit wd 6 = s := by exact bit_of (by omega)
    have h3 : fld wd 0 2 = e.code := by unfold fld; omega
    have h4 : bit wd 2 = r := by exact bit_of (by omega)
    have h5 : fin8 wd 3 = p := by exact fin8_of (by omega)
    have h6 : fin32 wd 20 = d := by exact fin32_of (by omega)
    have h7 : fin64 wd 14 = a := by exact fin64_of (by omega)
    have h8 : fin32 wd 8 = b := by exact fin32_of (by omega)
    unfold rawMm
    simp [h0, h1, h2, h3, h4, h5, h6, h7, h8, El_ofCode_code]
  exact dec_mm e hw

theorem vscat (s : Bool) (e : El) (r : Bool) (p : Fin 8) (d : Fin 32) (a : Fin 64) (b : Fin 32) : Statement (.vscat s e r p d a b) := by
  intro c hc hw
  obtain rfl : SlotClass.mm = c := Option.some.inj hc
  have e : rawMm (encode (.vscat s e r p d a b)) = some (.vscat s e r p d a b) := by
    show rawMm (0x0E000000 + s.toNat * 0x40 + e.code + r.toNat * 0x4 + p.val * 0x8 + d.val * 0x100000 + a.val * 0x4000 + b.val * 0x100) = _
    generalize hx : 0x0E000000 + s.toNat * 0x40 + e.code + r.toNat * 0x4 + p.val * 0x8 + d.val * 0x100000 + a.val * 0x4000 + b.val * 0x100 = wd
    have := Bool.toNat_lt s
    have := El_code_lt e
    have := Bool.toNat_lt r
    have := p.isLt
    have := d.isLt
    have := a.isLt
    have := b.isLt
    have h0 : fld wd 25 7 = 7 := by unfold fld; omega
    have h1 : (fld wd 7 1 = 0 ∧ fld wd 13 1 = 0) := by unfold fld; omega
    have h2 : bit wd 6 = s := by exact bit_of (by omega)
    have h3 : fld wd 0 2 = e.code := by unfold fld; omega
    have h4 : bit wd 2 = r := by exact bit_of (by omega)
    have h5 : fin8 wd 3 = p := by exact fin8_of (by omega)
    have h6 : fin32 wd 20 = d := by exact fin32_of (by omega)
    have h7 : fin64 wd 14 = a := by exact fin64_of (by omega)
    have h8 : fin32 wd 8 = b := by exact fin32_of (by omega)
    unfold rawMm
    simp [h0, h1, h2, h3, h4, h5, h6, h7, h8, El_ofCode_code]
  exact dec_mm e hw

theorem tlook (d : Fin 64) (a : Fin 64) : Statement (.tlook d a) := by
  intro c hc hw
  obtain rfl : SlotClass.mm = c := Option.some.inj hc
  have e : rawMm (encode (.tlook d a)) = some (.tlook d a) := by
    show rawMm (0x10000E00 + d.val * 0x80000 + a.val * 0x2000) = _
    generalize hx : 0x10000E00 + d.val * 0x80000 + a.val * 0x2000 = wd
    have := d.isLt
    have := a.isLt
    have h0 : fld wd 25 7 = 8 := by unfold fld; omega
    have h1 : (fld wd 0 13 = 3584) := by unfold fld; omega
    have h2 : fin64 wd 19 = d := by exact fin64_of (by omega)
    have h3 : fin64 wd 13 = a := by exact fin64_of (by omega)
    unfold rawMm
    simp [h0, h1, h2, h3]
  exact dec_mm e hw

theorem tset (d : Fin 64) (a : Fin 64) : Statement (.tset d a) := by
  intro c hc hw
  obtain rfl : SlotClass.mm = c := Option.some.inj hc
  have e : rawMm (encode (.tset d a)) = some (.tset d a) := by
    show rawMm (0x12000E00 + d.val * 0x80000 + a.val * 0x2000) = _
    generalize hx : 0x12000E00 + d.val * 0x80000 + a.val * 0x2000 = wd
    have := d.isLt
    have := a.isLt
    have h0 : fld wd 25 7 = 9 := by unfold fld; omega
    have h1 : (fld wd 0 13 = 3584) := by unfold fld; omega
    have h2 : fin64 wd 19 = d := by exact fin64_of (by omega)
    have h3 : fin64 wd 13 = a := by exact fin64_of (by omega)
    unfold rawMm
    simp [h0, h1, h2, h3]
  exact dec_mm e hw

theorem tinv (a : Fin 64) (m : Bool) : Statement (.tinv a m) := by
  intro c hc hw
  obtain rfl : SlotClass.mm = c := Option.some.inj hc
  have e : rawMm (encode (.tinv a m)) = some (.tinv a m) := by
    show rawMm (0x14000E00 + a.val * 0x2000 + m.toNat) = _
    generalize hx : 0x14000E00 + a.val * 0x2000 + m.toNat = wd
    have := a.isLt
    have := Bool.toNat_lt m
    have h0 : fld wd 25 7 = 10 := by unfold fld; omega
    have h1 : (fld wd 1 12 = 1792 ∧ fld wd 19 6 = 0) := by unfold fld; omega
    have h2 : fin64 wd 13 = a := by exact fin64_of (by omega)
    have h3 : bit wd 0 = m := by exact bit_of (by omega)
    unfold rawMm
    simp [h0, h1, h2, h3]
  exact dec_mm e hw

theorem mop (o : MopOp) (y : MopTy) (z : Bool) (s : Bool) (d : Fin 64) (a : Fin 64) : Statement (.mop o y z s d a) := by
  intro c hc hw
  obtain rfl : SlotClass.mm = c := Option.some.inj hc
  have e : rawMm (encode (.mop o y z s d a)) = some (.mop o y z s d a) := by
    show rawMm (0x18000400 + o.code + y.code * 0x8 + z.toNat * 0x200 + s.toNat * 0x800 + d.val * 0x80000 + a.val * 0x2000) = _
    generalize hx : 0x18000400 + o.code + y.code * 0x8 + z.toNat * 0x200 + s.toNat * 0x800 + d.val * 0x80000 + a.val * 0x2000 = wd
    have := MopOp_code_lt o
    have := MopTy_code_lt y
    have := Bool.toNat_lt z
    have := Bool.toNat_lt s
    have := d.isLt
    have := a.isLt
    have h0 : fld wd 25 7 = 12 := by unfold fld; omega
    have h1 : (fld wd 5 4 = 0 ∧ fld wd 10 1 = 1 ∧ fld wd 12 1 = 0) := by unfold fld; omega
    have h2 : fld wd 0 3 = o.code := by unfold fld; omega
    have h3 : fld wd 3 2 = y.code := by unfold fld; omega
    have h4 : bit wd 9 = z := by exact bit_of (by omega)
    have h5 : bit wd 11 = s := by exact bit_of (by omega)
    have h6 : fin64 wd 19 = d := by exact fin64_of (by omega)
    have h7 : fin64 wd 13 = a := by exact fin64_of (by omega)
    unfold rawMm
    simp [h0, h1, h2, h3, h4, h5, h6, h7, MopOp_ofCode_code, MopTy_ofCode_code]
  exact dec_mm e hw

theorem amo (o : AmoOp) (q : Fin 4) (z : Bool) (s : Bool) (d : Fin 64) (a : Fin 64) : Statement (.amo o q z s d a) := by
  intro c hc hw
  obtain rfl : SlotClass.mm = c := Option.some.inj hc
  have e : rawMm (encode (.amo o q z s d a)) = some (.amo o q z s d a) := by
    show rawMm (0x1A000400 + o.code + q.val * 0x10 + z.toNat * 0x200 + s.toNat * 0x800 + d.val * 0x80000 + a.val * 0x2000) = _
    generalize hx : 0x1A000400 + o.code + q.val * 0x10 + z.toNat * 0x200 + s.toNat * 0x800 + d.val * 0x80000 + a.val * 0x2000 = wd
    have := AmoOp_code_lt o
    have := q.isLt
    have := Bool.toNat_lt z
    have := Bool.toNat_lt s
    have := d.isLt
    have := a.isLt
    have h0 : fld wd 25 7 = 13 := by unfold fld; omega
    have h1 : (fld wd 6 3 = 0 ∧ fld wd 10 1 = 1 ∧ fld wd 12 1 = 0) := by unfold fld; omega
    have h2 : fld wd 0 4 = o.code := by unfold fld; omega
    have h3 : fin4 wd 4 = q := by exact fin4_of (by omega)
    have h4 : bit wd 9 = z := by exact bit_of (by omega)
    have h5 : bit wd 11 = s := by exact bit_of (by omega)
    have h6 : fin64 wd 19 = d := by exact fin64_of (by omega)
    have h7 : fin64 wd 13 = a := by exact fin64_of (by omega)
    unfold rawMm
    simp [h0, h1, h2, h3, h4, h5, h6, h7, AmoOp_ofCode_code]
  exact dec_mm e hw

theorem fence (c : Fin 4) (f : FenceKind) : Statement (.fence c f) := by
  intro c hc hw
  obtain rfl : SlotClass.mm = c := Option.some.inj hc
  have e : rawMm (encode (.fence c f)) = some (.fence c f) := by
    show rawMm (0x20000000 + c.val * 0x4 + f.code) = _
    generalize hx : 0x20000000 + c.val * 0x4 + f.code = wd
    have := c.isLt
    have := FenceKind_code_lt f
    have h0 : fld wd 25 7 = 16 := by unfold fld; omega
    have h1 : (fld wd 4 21 = 0) := by unfold fld; omega
    have h2 : fin4 wd 2 = c := by exact fin4_of (by omega)
    have h3 : fld wd 0 2 = f.code := by unfold fld; omega
    unfold rawMm
    simp [h0, h1, h2, h3, FenceKind_ofCode_code]
  exact dec_mm e hw

theorem tfence (c : Fin 4) : Statement (.tfence c) := by
  intro c hc hw
  obtain rfl : SlotClass.mm = c := Option.some.inj hc
  have e : rawMm (encode (.tfence c)) = some (.tfence c) := by
    show rawMm (0x22000000 + c.val * 0x4) = _
    generalize hx : 0x22000000 + c.val * 0x4 = wd
    have := c.isLt
    have h0 : fld wd 25 7 = 17 := by unfold fld; omega
    have h1 : (fld wd 0 2 = 0 ∧ fld wd 4 21 = 0) := by unfold fld; omega
    have h2 : fin4 wd 2 = c := by exact fin4_of (by omega)
    unfold rawMm
    simp [h0, h1, h2]
  exact dec_mm e hw

theorem semSig (a : Fin 64) (n : Fin 128) : Statement (.semSig a n) := by
  intro c hc hw
  obtain rfl : SlotClass.en = c := Option.some.inj hc
  have e : rawEn (encode (.semSig a n)) = some (.semSig a n) := by
    show rawEn (0x02000000 + a.val * 0x4000 + n.val) = _
    generalize hx : 0x02000000 + a.val * 0x4000 + n.val = wd
    have := a.isLt
    have := n.isLt
    have h0 : fld wd 25 7 = 1 := by unfold fld; omega
    have h1 : (fld wd 7 7 = 0 ∧ fld wd 20 5 = 0) := by unfold fld; omega
    have h2 : fin64 wd 14 = a := by exact fin64_of (by omega)
    have h3 : fin128 wd 0 = n := by exact fin128_of (by omega)
    unfold rawEn
    simp [h0, h1, h2, h3]
  exact dec_en e hw

theorem semSet (a : Fin 64) (b : Fin 64) : Statement (.semSet a b) := by
  intro c hc hw
  obtain rfl : SlotClass.en = c := Option.some.inj hc
  have e : rawEn (encode (.semSet a b)) = some (.semSet a b) := by
    show rawEn (0x04000000 + a.val * 0x4000 + b.val * 0x100) = _
    generalize hx : 0x04000000 + a.val * 0x4000 + b.val * 0x100 = wd
    have := a.isLt
    have := b.isLt
    have h0 : fld wd 25 7 = 2 := by unfold fld; omega
    have h1 : (fld wd 0 8 = 0 ∧ fld wd 20 5 = 0) := by unfold fld; omega
    have h2 : fin64 wd 14 = a := by exact fin64_of (by omega)
    have h3 : fin64 wd 8 = b := by exact fin64_of (by omega)
    unfold rawEn
    simp [h0, h1, h2, h3]
  exact dec_en e hw

theorem arrive (a : Fin 64) : Statement (.arrive a) := by
  intro c hc hw
  obtain rfl : SlotClass.en = c := Option.some.inj hc
  have e : rawEn (encode (.arrive a)) = some (.arrive a) := by
    show rawEn (0x06000000 + a.val * 0x4000) = _
    generalize hx : 0x06000000 + a.val * 0x4000 = wd
    have := a.isLt
    have h0 : fld wd 25 7 = 3 := by unfold fld; omega
    have h1 : (fld wd 0 14 = 0 ∧ fld wd 20 5 = 0) := by unfold fld; omega
    have h2 : fin64 wd 14 = a := by exact fin64_of (by omega)
    unfold rawEn
    simp [h0, h1, h2]
  exact dec_en e hw

theorem arriveRlx (a : Fin 64) : Statement (.arriveRlx a) := by
  intro c hc hw
  obtain rfl : SlotClass.en = c := Option.some.inj hc
  have e : rawEn (encode (.arriveRlx a)) = some (.arriveRlx a) := by
    show rawEn (0x08000000 + a.val * 0x4000) = _
    generalize hx : 0x08000000 + a.val * 0x4000 = wd
    have := a.isLt
    have h0 : fld wd 25 7 = 4 := by unfold fld; omega
    have h1 : (fld wd 0 14 = 0 ∧ fld wd 20 5 = 0) := by unfold fld; omega
    have h2 : fin64 wd 14 = a := by exact fin64_of (by omega)
    unfold rawEn
    simp [h0, h1, h2]
  exact dec_en e hw

theorem expect (a : Fin 64) (b : Fin 64) : Statement (.expect a b) := by
  intro c hc hw
  obtain rfl : SlotClass.en = c := Option.some.inj hc
  have e : rawEn (encode (.expect a b)) = some (.expect a b) := by
    show rawEn (0x0A000000 + a.val * 0x4000 + b.val * 0x100) = _
    generalize hx : 0x0A000000 + a.val * 0x4000 + b.val * 0x100 = wd
    have := a.isLt
    have := b.isLt
    have h0 : fld wd 25 7 = 5 := by unfold fld; omega
    have h1 : (fld wd 0 8 = 0 ∧ fld wd 20 5 = 0) := by unfold fld; omega
    have h2 : fin64 wd 14 = a := by exact fin64_of (by omega)
    have h3 : fin64 wd 8 = b := by exact fin64_of (by omega)
    unfold rawEn
    simp [h0, h1, h2, h3]
  exact dec_en e hw

theorem barInit (a : Fin 64) (b : Fin 64) : Statement (.barInit a b) := by
  intro c hc hw
  obtain rfl : SlotClass.en = c := Option.some.inj hc
  have e : rawEn (encode (.barInit a b)) = some (.barInit a b) := by
    show rawEn (0x0C000000 + a.val * 0x4000 + b.val * 0x100) = _
    generalize hx : 0x0C000000 + a.val * 0x4000 + b.val * 0x100 = wd
    have := a.isLt
    have := b.isLt
    have h0 : fld wd 25 7 = 6 := by unfold fld; omega
    have h1 : (fld wd 0 8 = 0 ∧ fld wd 20 5 = 0) := by unfold fld; omega
    have h2 : fin64 wd 14 = a := by exact fin64_of (by omega)
    have h3 : fin64 wd 8 = b := by exact fin64_of (by omega)
    unfold rawEn
    simp [h0, h1, h2, h3]
  exact dec_en e hw

theorem tlRd (a : Fin 64) (f : Fin 128) : Statement (.tlRd a f) := by
  intro c hc hw
  obtain rfl : SlotClass.en = c := Option.some.inj hc
  have e : rawEn (encode (.tlRd a f)) = some (.tlRd a f) := by
    show rawEn (0x0E000000 + a.val * 0x4000 + f.val) = _
    generalize hx : 0x0E000000 + a.val * 0x4000 + f.val = wd
    have := a.isLt
    have := f.isLt
    have h0 : fld wd 25 7 = 7 := by unfold fld; omega
    have h1 : (fld wd 7 7 = 0 ∧ fld wd 20 5 = 0) := by unfold fld; omega
    have h2 : fin64 wd 14 = a := by exact fin64_of (by omega)
    have h3 : fin128 wd 0 = f := by exact fin128_of (by omega)
    unfold rawEn
    simp [h0, h1, h2, h3]
  exact dec_en e hw

theorem tlInc (a : Fin 64) (f : Fin 128) : Statement (.tlInc a f) := by
  intro c hc hw
  obtain rfl : SlotClass.en = c := Option.some.inj hc
  have e : rawEn (encode (.tlInc a f)) = some (.tlInc a f) := by
    show rawEn (0x0E100000 + a.val * 0x4000 + f.val) = _
    generalize hx : 0x0E100000 + a.val * 0x4000 + f.val = wd
    have := a.isLt
    have := f.isLt
    have h0 : fld wd 25 7 = 7 := by unfold fld; omega
    have h1 : ¬ (fld wd 7 7 = 0 ∧ fld wd 20 5 = 0) := by unfold fld; omega
    have h2 : (fld wd 7 7 = 0 ∧ fld wd 20 5 = 1) := by unfold fld; omega
    have h3 : fin64 wd 14 = a := by exact fin64_of (by omega)
    have h4 : fin128 wd 0 = f := by exact fin128_of (by omega)
    unfold rawEn
    simp [h0, h1, h2, h3, h4]
  exact dec_en e hw

theorem tlAcq (d : Fin 64) (a : Fin 64) (f : Fin 128) : Statement (.tlAcq d a f) := by
  intro c hc hw
  obtain rfl : SlotClass.en = c := Option.some.inj hc
  have e : rawEn (encode (.tlAcq d a f)) = some (.tlAcq d a f) := by
    show rawEn (0x10000000 + d.val * 0x100 + a.val * 0x4000 + f.val) = _
    generalize hx : 0x10000000 + d.val * 0x100 + a.val * 0x4000 + f.val = wd
    have := d.isLt
    have := a.isLt
    have := f.isLt
    have h0 : fld wd 25 7 = 8 := by unfold fld; omega
    have h1 : (fld wd 7 1 = 0 ∧ fld wd 20 5 = 0) := by unfold fld; omega
    have h2 : fin64 wd 8 = d := by exact fin64_of (by omega)
    have h3 : fin64 wd 14 = a := by exact fin64_of (by omega)
    have h4 : fin128 wd 0 = f := by exact fin128_of (by omega)
    unfold rawEn
    simp [h0, h1, h2, h3, h4]
  exact dec_en e hw

theorem taskDec (a : Fin 64) : Statement (.taskDec a) := by
  intro c hc hw
  obtain rfl : SlotClass.en = c := Option.some.inj hc
  have e : rawEn (encode (.taskDec a)) = some (.taskDec a) := by
    show rawEn (0x12000000 + a.val * 0x4000) = _
    generalize hx : 0x12000000 + a.val * 0x4000 = wd
    have := a.isLt
    have h0 : fld wd 25 7 = 9 := by unfold fld; omega
    have h1 : (fld wd 0 14 = 0 ∧ fld wd 20 5 = 0) := by unfold fld; omega
    have h2 : fin64 wd 14 = a := by exact fin64_of (by omega)
    unfold rawEn
    simp [h0, h1, h2]
  exact dec_en e hw

theorem taskPost (a : Fin 64) (b : Fin 64) : Statement (.taskPost a b) := by
  intro c hc hw
  obtain rfl : SlotClass.en = c := Option.some.inj hc
  have e : rawEn (encode (.taskPost a b)) = some (.taskPost a b) := by
    show rawEn (0x14000000 + a.val * 0x4000 + b.val * 0x100) = _
    generalize hx : 0x14000000 + a.val * 0x4000 + b.val * 0x100 = wd
    have := a.isLt
    have := b.isLt
    have h0 : fld wd 25 7 = 10 := by unfold fld; omega
    have h1 : (fld wd 0 8 = 0 ∧ fld wd 20 5 = 0) := by unfold fld; omega
    have h2 : fin64 wd 14 = a := by exact fin64_of (by omega)
    have h3 : fin64 wd 8 = b := by exact fin64_of (by omega)
    unfold rawEn
    simp [h0, h1, h2, h3]
  exact dec_en e hw

theorem bkOpen (a : Fin 64) (x : Bool) : Statement (.bkOpen a x) := by
  intro c hc hw
  obtain rfl : SlotClass.en = c := Option.some.inj hc
  have e : rawEn (encode (.bkOpen a x)) = some (.bkOpen a x) := by
    show rawEn (0x16000000 + a.val * 0x4000 + x.toNat) = _
    generalize hx : 0x16000000 + a.val * 0x4000 + x.toNat = wd
    have := a.isLt
    have := Bool.toNat_lt x
    have h0 : fld wd 25 7 = 11 := by unfold fld; omega
    have h1 : (fld wd 1 13 = 0 ∧ fld wd 20 5 = 0) := by unfold fld; omega
    have h2 : fin64 wd 14 = a := by exact fin64_of (by omega)
    have h3 : bit wd 0 = x := by exact bit_of (by omega)
    unfold rawEn
    simp [h0, h1, h2, h3]
  exact dec_en e hw

theorem bkClose (a : Fin 64) : Statement (.bkClose a) := by
  intro c hc hw
  obtain rfl : SlotClass.en = c := Option.some.inj hc
  have e : rawEn (encode (.bkClose a)) = some (.bkClose a) := by
    show rawEn (0x18000000 + a.val * 0x4000) = _
    generalize hx : 0x18000000 + a.val * 0x4000 = wd
    have := a.isLt
    have h0 : fld wd 25 7 = 12 := by unfold fld; omega
    have h1 : (fld wd 0 14 = 0 ∧ fld wd 20 5 = 0) := by unfold fld; omega
    have h2 : fin64 wd 14 = a := by exact fin64_of (by omega)
    unfold rawEn
    simp [h0, h1, h2]
  exact dec_en e hw

theorem bkGive (a : Fin 64) (b : Fin 64) : Statement (.bkGive a b) := by
  intro c hc hw
  obtain rfl : SlotClass.en = c := Option.some.inj hc
  have e : rawEn (encode (.bkGive a b)) = some (.bkGive a b) := by
    show rawEn (0x1A000000 + a.val * 0x4000 + b.val * 0x100) = _
    generalize hx : 0x1A000000 + a.val * 0x4000 + b.val * 0x100 = wd
    have := a.isLt
    have := b.isLt
    have h0 : fld wd 25 7 = 13 := by unfold fld; omega
    have h1 : (fld wd 0 8 = 0 ∧ fld wd 20 5 = 0) := by unfold fld; omega
    have h2 : fin64 wd 14 = a := by exact fin64_of (by omega)
    have h3 : fin64 wd 8 = b := by exact fin64_of (by omega)
    unfold rawEn
    simp [h0, h1, h2, h3]
  exact dec_en e hw

theorem bkInit (a : Fin 64) (b : Fin 64) : Statement (.bkInit a b) := by
  intro c hc hw
  obtain rfl : SlotClass.en = c := Option.some.inj hc
  have e : rawEn (encode (.bkInit a b)) = some (.bkInit a b) := by
    show rawEn (0x1C000000 + a.val * 0x4000 + b.val * 0x100) = _
    generalize hx : 0x1C000000 + a.val * 0x4000 + b.val * 0x100 = wd
    have := a.isLt
    have := b.isLt
    have h0 : fld wd 25 7 = 14 := by unfold fld; omega
    have h1 : (fld wd 0 8 = 0 ∧ fld wd 20 5 = 0) := by unfold fld; omega
    have h2 : fin64 wd 14 = a := by exact fin64_of (by omega)
    have h3 : fin64 wd 8 = b := by exact fin64_of (by omega)
    unfold rawEn
    simp [h0, h1, h2, h3]
  exact dec_en e hw

theorem cpGo (h : Fin 4) (c : Fin 4) (w : Bool) : Statement (.cpGo h c w) := by
  intro c hc hw
  obtain rfl : SlotClass.en = c := Option.some.inj hc
  have e : rawEn (encode (.cpGo h c w)) = some (.cpGo h c w) := by
    show rawEn (0x20000000 + h.val * 0x400000 + c.val * 0x100000 + w.toNat * 0x80) = _
    generalize hx : 0x20000000 + h.val * 0x400000 + c.val * 0x100000 + w.toNat * 0x80 = wd
    have := h.isLt
    have := c.isLt
    have := Bool.toNat_lt w
    have h0 : fld wd 25 7 = 16 := by unfold fld; omega
    have h1 : (fld wd 0 7 = 0 ∧ fld wd 8 12 = 0 ∧ fld wd 24 1 = 0) := by unfold fld; omega
    have h2 : fin4 wd 22 = h := by exact fin4_of (by omega)
    have h3 : fin4 wd 20 = c := by exact fin4_of (by omega)
    have h4 : bit wd 7 = w := by exact bit_of (by omega)
    unfold rawEn
    simp [h0, h1, h2, h3, h4]
  exact dec_en e hw

theorem cpGath (h : Fin 4) (c : Fin 4) (w : Bool) : Statement (.cpGath h c w) := by
  intro c hc hw
  obtain rfl : SlotClass.en = c := Option.some.inj hc
  have e : rawEn (encode (.cpGath h c w)) = some (.cpGath h c w) := by
    show rawEn (0x22000000 + h.val * 0x400000 + c.val * 0x100000 + w.toNat * 0x80) = _
    generalize hx : 0x22000000 + h.val * 0x400000 + c.val * 0x100000 + w.toNat * 0x80 = wd
    have := h.isLt
    have := c.isLt
    have := Bool.toNat_lt w
    have h0 : fld wd 25 7 = 17 := by unfold fld; omega
    have h1 : (fld wd 0 7 = 0 ∧ fld wd 8 12 = 0 ∧ fld wd 24 1 = 0) := by unfold fld; omega
    have h2 : fin4 wd 22 = h := by exact fin4_of (by omega)
    have h3 : fin4 wd 20 = c := by exact fin4_of (by omega)
    have h4 : bit wd 7 = w := by exact bit_of (by omega)
    unfold rawEn
    simp [h0, h1, h2, h3, h4]
  exact dec_en e hw

theorem cpScat (h : Fin 4) (c : Fin 4) (w : Bool) (x : Bool) : Statement (.cpScat h c w x) := by
  intro c hc hw
  obtain rfl : SlotClass.en = c := Option.some.inj hc
  have e : rawEn (encode (.cpScat h c w x)) = some (.cpScat h c w x) := by
    show rawEn (0x24000000 + h.val * 0x400000 + c.val * 0x100000 + w.toNat * 0x80 + x.toNat) = _
    generalize hx : 0x24000000 + h.val * 0x400000 + c.val * 0x100000 + w.toNat * 0x80 + x.toNat = wd
    have := h.isLt
    have := c.isLt
    have := Bool.toNat_lt w
    have := Bool.toNat_lt x
    have h0 : fld wd 25 7 = 18 := by unfold fld; omega
    have h1 : (fld wd 1 6 = 0 ∧ fld wd 8 12 = 0 ∧ fld wd 24 1 = 0) := by unfold fld; omega
    have h2 : fin4 wd 22 = h := by exact fin4_of (by omega)
    have h3 : fin4 wd 20 = c := by exact fin4_of (by omega)
    have h4 : bit wd 7 = w := by exact bit_of (by omega)
    have h5 : bit wd 0 = x := by exact bit_of (by omega)
    unfold rawEn
    simp [h0, h1, h2, h3, h4, h5]
  exact dec_en e hw

theorem cpFill (h : Fin 4) (c : Fin 4) (w : Bool) : Statement (.cpFill h c w) := by
  intro c hc hw
  obtain rfl : SlotClass.en = c := Option.some.inj hc
  have e : rawEn (encode (.cpFill h c w)) = some (.cpFill h c w) := by
    show rawEn (0x26000000 + h.val * 0x400000 + c.val * 0x100000 + w.toNat * 0x80) = _
    generalize hx : 0x26000000 + h.val * 0x400000 + c.val * 0x100000 + w.toNat * 0x80 = wd
    have := h.isLt
    have := c.isLt
    have := Bool.toNat_lt w
    have h0 : fld wd 25 7 = 19 := by unfold fld; omega
    have h1 : (fld wd 0 7 = 0 ∧ fld wd 8 12 = 0 ∧ fld wd 24 1 = 0) := by unfold fld; omega
    have h2 : fin4 wd 22 = h := by exact fin4_of (by omega)
    have h3 : fin4 wd 20 = c := by exact fin4_of (by omega)
    have h4 : bit wd 7 = w := by exact bit_of (by omega)
    unfold rawEn
    simp [h0, h1, h2, h3, h4]
  exact dec_en e hw

theorem cpChk (h : Fin 4) (c : Fin 4) (w : Bool) (x : Bool) : Statement (.cpChk h c w x) := by
  intro c hc hw
  obtain rfl : SlotClass.en = c := Option.some.inj hc
  have e : rawEn (encode (.cpChk h c w x)) = some (.cpChk h c w x) := by
    show rawEn (0x28000000 + h.val * 0x400000 + c.val * 0x100000 + w.toNat * 0x80 + x.toNat) = _
    generalize hx : 0x28000000 + h.val * 0x400000 + c.val * 0x100000 + w.toNat * 0x80 + x.toNat = wd
    have := h.isLt
    have := c.isLt
    have := Bool.toNat_lt w
    have := Bool.toNat_lt x
    have h0 : fld wd 25 7 = 20 := by unfold fld; omega
    have h1 : (fld wd 1 6 = 0 ∧ fld wd 8 12 = 0 ∧ fld wd 24 1 = 0) := by unfold fld; omega
    have h2 : fin4 wd 22 = h := by exact fin4_of (by omega)
    have h3 : fin4 wd 20 = c := by exact fin4_of (by omega)
    have h4 : bit wd 7 = w := by exact bit_of (by omega)
    have h5 : bit wd 0 = x := by exact bit_of (by omega)
    unfold rawEn
    simp [h0, h1, h2, h3, h4, h5]
  exact dec_en e hw

theorem cpTabwL (a : Fin 64) (b : Fin 64) : Statement (.cpTabwL a b) := by
  intro c hc hw
  obtain rfl : SlotClass.en = c := Option.some.inj hc
  have e : rawEn (encode (.cpTabwL a b)) = some (.cpTabwL a b) := by
    show rawEn (0x2A000000 + a.val * 0x4000 + b.val * 0x100) = _
    generalize hx : 0x2A000000 + a.val * 0x4000 + b.val * 0x100 = wd
    have := a.isLt
    have := b.isLt
    have h0 : fld wd 25 7 = 21 := by unfold fld; omega
    have h1 : (fld wd 0 8 = 0 ∧ fld wd 20 5 = 0) := by unfold fld; omega
    have h2 : fin64 wd 14 = a := by exact fin64_of (by omega)
    have h3 : fin64 wd 8 = b := by exact fin64_of (by omega)
    unfold rawEn
    simp [h0, h1, h2, h3]
  exact dec_en e hw

theorem cpTabwR (a : Fin 64) (b : Fin 64) : Statement (.cpTabwR a b) := by
  intro c hc hw
  obtain rfl : SlotClass.en = c := Option.some.inj hc
  have e : rawEn (encode (.cpTabwR a b)) = some (.cpTabwR a b) := by
    show rawEn (0x2A100000 + a.val * 0x4000 + b.val * 0x100) = _
    generalize hx : 0x2A100000 + a.val * 0x4000 + b.val * 0x100 = wd
    have := a.isLt
    have := b.isLt
    have h0 : fld wd 25 7 = 21 := by unfold fld; omega
    have h1 : ¬ (fld wd 0 8 = 0 ∧ fld wd 20 5 = 0) := by unfold fld; omega
    have h2 : (fld wd 0 8 = 0 ∧ fld wd 20 5 = 1) := by unfold fld; omega
    have h3 : fin64 wd 14 = a := by exact fin64_of (by omega)
    have h4 : fin64 wd 8 = b := by exact fin64_of (by omega)
    unfold rawEn
    simp [h0, h1, h2, h3, h4]
  exact dec_en e hw

theorem cpTabrL (a : Fin 64) (b : Fin 64) (h : Bool) : Statement (.cpTabrL a b h) := by
  intro c hc hw
  obtain rfl : SlotClass.en = c := Option.some.inj hc
  have e : rawEn (encode (.cpTabrL a b h)) = some (.cpTabrL a b h) := by
    show rawEn (0x2C000000 + a.val * 0x4000 + b.val * 0x100 + h.toNat) = _
    generalize hx : 0x2C000000 + a.val * 0x4000 + b.val * 0x100 + h.toNat = wd
    have := a.isLt
    have := b.isLt
    have := Bool.toNat_lt h
    have h0 : fld wd 25 7 = 22 := by unfold fld; omega
    have h1 : (fld wd 1 7 = 0 ∧ fld wd 20 5 = 0) := by unfold fld; omega
    have h2 : fin64 wd 14 = a := by exact fin64_of (by omega)
    have h3 : fin64 wd 8 = b := by exact fin64_of (by omega)
    have h4 : bit wd 0 = h := by exact bit_of (by omega)
    unfold rawEn
    simp [h0, h1, h2, h3, h4]
  exact dec_en e hw

theorem cpTabrR (a : Fin 64) (b : Fin 64) : Statement (.cpTabrR a b) := by
  intro c hc hw
  obtain rfl : SlotClass.en = c := Option.some.inj hc
  have e : rawEn (encode (.cpTabrR a b)) = some (.cpTabrR a b) := by
    show rawEn (0x2C100000 + a.val * 0x4000 + b.val * 0x100) = _
    generalize hx : 0x2C100000 + a.val * 0x4000 + b.val * 0x100 = wd
    have := a.isLt
    have := b.isLt
    have h0 : fld wd 25 7 = 22 := by unfold fld; omega
    have h1 : ¬ (fld wd 1 7 = 0 ∧ fld wd 20 5 = 0) := by unfold fld; omega
    have h2 : (fld wd 0 8 = 0 ∧ fld wd 20 5 = 1) := by unfold fld; omega
    have h3 : fin64 wd 14 = a := by exact fin64_of (by omega)
    have h4 : fin64 wd 8 = b := by exact fin64_of (by omega)
    unfold rawEn
    simp [h0, h1, h2, h3, h4]
  exact dec_en e hw

theorem mxCfg (a : Fin 64) (b : Fin 64) : Statement (.mxCfg a b) := by
  intro c hc hw
  obtain rfl : SlotClass.en = c := Option.some.inj hc
  have e : rawEn (encode (.mxCfg a b)) = some (.mxCfg a b) := by
    show rawEn (0x40000000 + a.val * 0x4000 + b.val * 0x100) = _
    generalize hx : 0x40000000 + a.val * 0x4000 + b.val * 0x100 = wd
    have := a.isLt
    have := b.isLt
    have h0 : fld wd 25 7 = 32 := by unfold fld; omega
    have h1 : (fld wd 0 8 = 0 ∧ fld wd 20 5 = 0) := by unfold fld; omega
    have h2 : fin64 wd 14 = a := by exact fin64_of (by omega)
    have h3 : fin64 wd 8 = b := by exact fin64_of (by omega)
    unfold rawEn
    simp [h0, h1, h2, h3]
  exact dec_en e hw

theorem mxGo (h : Fin 4) (w : Bool) (g : Bool) : Statement (.mxGo h w g) := by
  intro c hc hw
  obtain rfl : SlotClass.en = c := Option.some.inj hc
  have e : rawEn (encode (.mxGo h w g)) = some (.mxGo h w g) := by
    show rawEn (0x42000000 + h.val * 0x100000 + w.toNat * 0x80 + g.toNat) = _
    generalize hx : 0x42000000 + h.val * 0x100000 + w.toNat * 0x80 + g.toNat = wd
    have := h.isLt
    have := Bool.toNat_lt w
    have := Bool.toNat_lt g
    have h0 : fld wd 25 7 = 33 := by unfold fld; omega
    have h1 : (fld wd 1 6 = 0 ∧ fld wd 8 12 = 0 ∧ fld wd 22 3 = 0) := by unfold fld; omega
    have h2 : fin4 wd 20 = h := by exact fin4_of (by omega)
    have h3 : bit wd 7 = w := by exact bit_of (by omega)
    have h4 : bit wd 0 = g := by exact bit_of (by omega)
    unfold rawEn
    simp [h0, h1, h2, h3, h4]
  exact dec_en e hw

theorem mxWload (h : Fin 4) (w : Bool) : Statement (.mxWload h w) := by
  intro c hc hw
  obtain rfl : SlotClass.en = c := Option.some.inj hc
  have e : rawEn (encode (.mxWload h w)) = some (.mxWload h w) := by
    show rawEn (0x44000000 + h.val * 0x100000 + w.toNat * 0x80) = _
    generalize hx : 0x44000000 + h.val * 0x100000 + w.toNat * 0x80 = wd
    have := h.isLt
    have := Bool.toNat_lt w
    have h0 : fld wd 25 7 = 34 := by unfold fld; omega
    have h1 : (fld wd 0 7 = 0 ∧ fld wd 8 12 = 0 ∧ fld wd 22 3 = 0) := by unfold fld; omega
    have h2 : fin4 wd 20 = h := by exact fin4_of (by omega)
    have h3 : bit wd 7 = w := by exact bit_of (by omega)
    unfold rawEn
    simp [h0, h1, h2, h3]
  exact dec_en e hw

theorem mxDrain (h : Fin 4) (a : Fin 64) (w : Bool) : Statement (.mxDrain h a w) := by
  intro c hc hw
  obtain rfl : SlotClass.en = c := Option.some.inj hc
  have e : rawEn (encode (.mxDrain h a w)) = some (.mxDrain h a w) := by
    show rawEn (0x46000000 + h.val * 0x100000 + a.val * 0x4000 + w.toNat * 0x80) = _
    generalize hx : 0x46000000 + h.val * 0x100000 + a.val * 0x4000 + w.toNat * 0x80 = wd
    have := h.isLt
    have := a.isLt
    have := Bool.toNat_lt w
    have h0 : fld wd 25 7 = 35 := by unfold fld; omega
    have h1 : (fld wd 0 7 = 0 ∧ fld wd 8 6 = 0 ∧ fld wd 22 3 = 0) := by unfold fld; omega
    have h2 : fin4 wd 20 = h := by exact fin4_of (by omega)
    have h3 : fin64 wd 14 = a := by exact fin64_of (by omega)
    have h4 : bit wd 7 = w := by exact bit_of (by omega)
    unfold rawEn
    simp [h0, h1, h2, h3, h4]
  exact dec_en e hw

theorem mxAcc (a : Fin 64) (b : Fin 64) (i : Bool) : Statement (.mxAcc a b i) := by
  intro c hc hw
  obtain rfl : SlotClass.en = c := Option.some.inj hc
  have e : rawEn (encode (.mxAcc a b i)) = some (.mxAcc a b i) := by
    show rawEn (0x48000000 + a.val * 0x4000 + b.val * 0x100 + i.toNat) = _
    generalize hx : 0x48000000 + a.val * 0x4000 + b.val * 0x100 + i.toNat = wd
    have := a.isLt
    have := b.isLt
    have := Bool.toNat_lt i
    have h0 : fld wd 25 7 = 36 := by unfold fld; omega
    have h1 : (fld wd 1 7 = 0 ∧ fld wd 20 5 = 0) := by unfold fld; omega
    have h2 : fin64 wd 14 = a := by exact fin64_of (by omega)
    have h3 : fin64 wd 8 = b := by exact fin64_of (by omega)
    have h4 : bit wd 0 = i := by exact bit_of (by omega)
    unfold rawEn
    simp [h0, h1, h2, h3, h4]
  exact dec_en e hw

theorem mxHad (a : Fin 64) (i : Bool) : Statement (.mxHad a i) := by
  intro c hc hw
  obtain rfl : SlotClass.en = c := Option.some.inj hc
  have e : rawEn (encode (.mxHad a i)) = some (.mxHad a i) := by
    show rawEn (0x4A000000 + a.val * 0x4000 + i.toNat) = _
    generalize hx : 0x4A000000 + a.val * 0x4000 + i.toNat = wd
    have := a.isLt
    have := Bool.toNat_lt i
    have h0 : fld wd 25 7 = 37 := by unfold fld; omega
    have h1 : (fld wd 1 13 = 0 ∧ fld wd 20 5 = 0) := by unfold fld; omega
    have h2 : fin64 wd 14 = a := by exact fin64_of (by omega)
    have h3 : bit wd 0 = i := by exact bit_of (by omega)
    unfold rawEn
    simp [h0, h1, h2, h3]
  exact dec_en e hw

theorem mxFmt (a : Fin 64) (b : Fin 64) : Statement (.mxFmt a b) := by
  intro c hc hw
  obtain rfl : SlotClass.en = c := Option.some.inj hc
  have e : rawEn (encode (.mxFmt a b)) = some (.mxFmt a b) := by
    show rawEn (0x4C000000 + a.val * 0x4000 + b.val * 0x100) = _
    generalize hx : 0x4C000000 + a.val * 0x4000 + b.val * 0x100 = wd
    have := a.isLt
    have := b.isLt
    have h0 : fld wd 25 7 = 38 := by unfold fld; omega
    have h1 : (fld wd 0 8 = 0 ∧ fld wd 20 5 = 0) := by unfold fld; omega
    have h2 : fin64 wd 14 = a := by exact fin64_of (by omega)
    have h3 : fin64 wd 8 = b := by exact fin64_of (by omega)
    unfold rawEn
    simp [h0, h1, h2, h3]
  exact dec_en e hw

theorem mxZero (a : Fin 64) : Statement (.mxZero a) := by
  intro c hc hw
  obtain rfl : SlotClass.en = c := Option.some.inj hc
  have e : rawEn (encode (.mxZero a)) = some (.mxZero a) := by
    show rawEn (0x4E000000 + a.val * 0x4000) = _
    generalize hx : 0x4E000000 + a.val * 0x4000 = wd
    have := a.isLt
    have h0 : fld wd 25 7 = 39 := by unfold fld; omega
    have h1 : (fld wd 0 14 = 0 ∧ fld wd 20 5 = 0) := by unfold fld; omega
    have h2 : fin64 wd 14 = a := by exact fin64_of (by omega)
    unfold rawEn
    simp [h0, h1, h2]
  exact dec_en e hw

theorem mxRd (v : Fin 32) (a : Fin 64) : Statement (.mxRd v a) := by
  intro c hc hw
  obtain rfl : SlotClass.en = c := Option.some.inj hc
  have e : rawEn (encode (.mxRd v a)) = some (.mxRd v a) := by
    show rawEn (0x50000000 + v.val * 0x100000 + a.val * 0x4000) = _
    generalize hx : 0x50000000 + v.val * 0x100000 + a.val * 0x4000 = wd
    have := v.isLt
    have := a.isLt
    have h0 : fld wd 25 7 = 40 := by unfold fld; omega
    have h1 : (fld wd 0 14 = 0) := by unfold fld; omega
    have h2 : fin32 wd 20 = v := by exact fin32_of (by omega)
    have h3 : fin64 wd 14 = a := by exact fin64_of (by omega)
    unfold rawEn
    simp [h0, h1, h2, h3]
  exact dec_en e hw

theorem vpFwd (h : Fin 4) (w : Bool) : Statement (.vpFwd h w) := by
  intro c hc hw
  obtain rfl : SlotClass.en = c := Option.some.inj hc
  have e : rawEn (encode (.vpFwd h w)) = some (.vpFwd h w) := by
    show rawEn (0x60000000 + h.val * 0x100000 + w.toNat * 0x80) = _
    generalize hx : 0x60000000 + h.val * 0x100000 + w.toNat * 0x80 = wd
    have := h.isLt
    have := Bool.toNat_lt w
    have h0 : fld wd 25 7 = 48 := by unfold fld; omega
    have h1 : (fld wd 0 7 = 0 ∧ fld wd 8 12 = 0 ∧ fld wd 22 3 = 0) := by unfold fld; omega
    have h2 : fin4 wd 20 = h := by exact fin4_of (by omega)
    have h3 : bit wd 7 = w := by exact bit_of (by omega)
    unfold rawEn
    simp [h0, h1, h2, h3]
  exact dec_en e hw

theorem vpBwd (h : Fin 4) (w : Bool) : Statement (.vpBwd h w) := by
  intro c hc hw
  obtain rfl : SlotClass.en = c := Option.some.inj hc
  have e : rawEn (encode (.vpBwd h w)) = some (.vpBwd h w) := by
    show rawEn (0x62000000 + h.val * 0x100000 + w.toNat * 0x80) = _
    generalize hx : 0x62000000 + h.val * 0x100000 + w.toNat * 0x80 = wd
    have := h.isLt
    have := Bool.toNat_lt w
    have h0 : fld wd 25 7 = 49 := by unfold fld; omega
    have h1 : (fld wd 0 7 = 0 ∧ fld wd 8 12 = 0 ∧ fld wd 22 3 = 0) := by unfold fld; omega
    have h2 : fin4 wd 20 = h := by exact fin4_of (by omega)
    have h3 : bit wd 7 = w := by exact bit_of (by omega)
    unfold rawEn
    simp [h0, h1, h2, h3]
  exact dec_en e hw

theorem vpMerge (a : Fin 64) (b : Fin 64) : Statement (.vpMerge a b) := by
  intro c hc hw
  obtain rfl : SlotClass.en = c := Option.some.inj hc
  have e : rawEn (encode (.vpMerge a b)) = some (.vpMerge a b) := by
    show rawEn (0x64000000 + a.val * 0x4000 + b.val * 0x100) = _
    generalize hx : 0x64000000 + a.val * 0x4000 + b.val * 0x100 = wd
    have := a.isLt
    have := b.isLt
    have h0 : fld wd 25 7 = 50 := by unfold fld; omega
    have h1 : (fld wd 0 8 = 0 ∧ fld wd 20 5 = 0) := by unfold fld; omega
    have h2 : fin64 wd 14 = a := by exact fin64_of (by omega)
    have h3 : fin64 wd 8 = b := by exact fin64_of (by omega)
    unfold rawEn
    simp [h0, h1, h2, h3]
  exact dec_en e hw

theorem vpRd (v : Fin 32) (a : Fin 64) (i : Bool) : Statement (.vpRd v a i) := by
  intro c hc hw
  obtain rfl : SlotClass.en = c := Option.some.inj hc
  have e : rawEn (encode (.vpRd v a i)) = some (.vpRd v a i) := by
    show rawEn (0x66000000 + v.val * 0x100000 + a.val * 0x4000 + i.toNat) = _
    generalize hx : 0x66000000 + v.val * 0x100000 + a.val * 0x4000 + i.toNat = wd
    have := v.isLt
    have := a.isLt
    have := Bool.toNat_lt i
    have h0 : fld wd 25 7 = 51 := by unfold fld; omega
    have h1 : (fld wd 1 13 = 0) := by unfold fld; omega
    have h2 : fin32 wd 20 = v := by exact fin32_of (by omega)
    have h3 : fin64 wd 14 = a := by exact fin64_of (by omega)
    have h4 : bit wd 0 = i := by exact bit_of (by omega)
    unfold rawEn
    simp [h0, h1, h2, h3, h4]
  exact dec_en e hw

theorem eqUnite (h : Fin 4) (w : Bool) (f : Fin 4) : Statement (.eqUnite h w f) := by
  intro c hc hw
  obtain rfl : SlotClass.en = c := Option.some.inj hc
  have e : rawEn (encode (.eqUnite h w f)) = some (.eqUnite h w f) := by
    show rawEn (0x70000000 + h.val * 0x100000 + w.toNat * 0x80 + f.val) = _
    generalize hx : 0x70000000 + h.val * 0x100000 + w.toNat * 0x80 + f.val = wd
    have := h.isLt
    have := Bool.toNat_lt w
    have := f.isLt
    have h0 : fld wd 25 7 = 56 := by unfold fld; omega
    have h1 : (fld wd 2 5 = 0 ∧ fld wd 8 12 = 0 ∧ fld wd 22 3 = 0) := by unfold fld; omega
    have h2 : fin4 wd 20 = h := by exact fin4_of (by omega)
    have h3 : bit wd 7 = w := by exact bit_of (by omega)
    have h4 : fin4 wd 0 = f := by exact fin4_of (by omega)
    unfold rawEn
    simp [h0, h1, h2, h3, h4]
  exact dec_en e hw

theorem eqUniteNew (a : Fin 64) (f : Fin 4) : Statement (.eqUniteNew a f) := by
  intro c hc hw
  obtain rfl : SlotClass.en = c := Option.some.inj hc
  have e : rawEn (encode (.eqUniteNew a f)) = some (.eqUniteNew a f) := by
    show rawEn (0x70000004 + a.val * 0x4000 + f.val) = _
    generalize hx : 0x70000004 + a.val * 0x4000 + f.val = wd
    have := a.isLt
    have := f.isLt
    have h0 : fld wd 25 7 = 56 := by unfold fld; omega
    have h1 : ¬ (fld wd 2 5 = 0 ∧ fld wd 8 12 = 0 ∧ fld wd 22 3 = 0) := by unfold fld; omega
    have h2 : (fld wd 2 12 = 1 ∧ fld wd 20 5 = 0) := by unfold fld; omega
    have h3 : fin64 wd 14 = a := by exact fin64_of (by omega)
    have h4 : fin4 wd 0 = f := by exact fin4_of (by omega)
    unfold rawEn
    simp [h0, h1, h2, h3, h4]
  exact dec_en e hw

theorem eqFind (h : Fin 4) (w : Bool) (f : Fin 4) : Statement (.eqFind h w f) := by
  intro c hc hw
  obtain rfl : SlotClass.en = c := Option.some.inj hc
  have e : rawEn (encode (.eqFind h w f)) = some (.eqFind h w f) := by
    show rawEn (0x72000000 + h.val * 0x100000 + w.toNat * 0x80 + f.val) = _
    generalize hx : 0x72000000 + h.val * 0x100000 + w.toNat * 0x80 + f.val = wd
    have := h.isLt
    have := Bool.toNat_lt w
    have := f.isLt
    have h0 : fld wd 25 7 = 57 := by unfold fld; omega
    have h1 : (fld wd 2 5 = 0 ∧ fld wd 8 12 = 0 ∧ fld wd 22 3 = 0) := by unfold fld; omega
    have h2 : fin4 wd 20 = h := by exact fin4_of (by omega)
    have h3 : bit wd 7 = w := by exact bit_of (by omega)
    have h4 : fin4 wd 0 = f := by exact fin4_of (by omega)
    unfold rawEn
    simp [h0, h1, h2, h3, h4]
  exact dec_en e hw

theorem eqRelab (h : Fin 4) (w : Bool) (o : RelabOp) (f : Fin 4) : Statement (.eqRelab h w o f) := by
  intro c hc hw
  obtain rfl : SlotClass.en = c := Option.some.inj hc
  have e : rawEn (encode (.eqRelab h w o f)) = some (.eqRelab h w o f) := by
    show rawEn (0x74000000 + h.val * 0x100000 + w.toNat * 0x80 + o.code * 0x4 + f.val) = _
    generalize hx : 0x74000000 + h.val * 0x100000 + w.toNat * 0x80 + o.code * 0x4 + f.val = wd
    have := h.isLt
    have := Bool.toNat_lt w
    have := RelabOp_code_lt o
    have := f.isLt
    have h0 : fld wd 25 7 = 58 := by unfold fld; omega
    have h1 : (fld wd 4 3 = 0 ∧ fld wd 8 12 = 0 ∧ fld wd 22 3 = 0) := by unfold fld; omega
    have h2 : fin4 wd 20 = h := by exact fin4_of (by omega)
    have h3 : bit wd 7 = w := by exact bit_of (by omega)
    have h4 : fld wd 2 2 = o.code := by unfold fld; omega
    have h5 : fin4 wd 0 = f := by exact fin4_of (by omega)
    unfold rawEn
    simp [h0, h1, h2, h3, h4, h5, RelabOp_ofCode_code]
  exact dec_en e hw

theorem eqSnap (f : Fin 4) : Statement (.eqSnap f) := by
  intro c hc hw
  obtain rfl : SlotClass.en = c := Option.some.inj hc
  have e : rawEn (encode (.eqSnap f)) = some (.eqSnap f) := by
    show rawEn (0x76000000 + f.val) = _
    generalize hx : 0x76000000 + f.val = wd
    have := f.isLt
    have h0 : fld wd 25 7 = 59 := by unfold fld; omega
    have h1 : (fld wd 2 23 = 0) := by unfold fld; omega
    have h2 : fin4 wd 0 = f := by exact fin4_of (by omega)
    unfold rawEn
    simp [h0, h1, h2]
  exact dec_en e hw

theorem eqUndo (f : Fin 4) : Statement (.eqUndo f) := by
  intro c hc hw
  obtain rfl : SlotClass.en = c := Option.some.inj hc
  have e : rawEn (encode (.eqUndo f)) = some (.eqUndo f) := by
    show rawEn (0x78000000 + f.val) = _
    generalize hx : 0x78000000 + f.val = wd
    have := f.isLt
    have h0 : fld wd 25 7 = 60 := by unfold fld; omega
    have h1 : (fld wd 2 23 = 0) := by unfold fld; omega
    have h2 : fin4 wd 0 = f := by exact fin4_of (by omega)
    unfold rawEn
    simp [h0, h1, h2]
  exact dec_en e hw

theorem eqCommit (x : Bool) (f : Fin 4) : Statement (.eqCommit x f) := by
  intro c hc hw
  obtain rfl : SlotClass.en = c := Option.some.inj hc
  have e : rawEn (encode (.eqCommit x f)) = some (.eqCommit x f) := by
    show rawEn (0x7A000000 + x.toNat * 0x4 + f.val) = _
    generalize hx : 0x7A000000 + x.toNat * 0x4 + f.val = wd
    have := Bool.toNat_lt x
    have := f.isLt
    have h0 : fld wd 25 7 = 61 := by unfold fld; omega
    have h1 : (fld wd 3 22 = 0) := by unfold fld; omega
    have h2 : bit wd 2 = x := by exact bit_of (by omega)
    have h3 : fin4 wd 0 = f := by exact fin4_of (by omega)
    unfold rawEn
    simp [h0, h1, h2, h3]
  exact dec_en e hw

theorem eqSize (a : Fin 64) (b : Fin 64) (f : Fin 4) : Statement (.eqSize a b f) := by
  intro c hc hw
  obtain rfl : SlotClass.en = c := Option.some.inj hc
  have e : rawEn (encode (.eqSize a b f)) = some (.eqSize a b f) := by
    show rawEn (0x7C000000 + a.val * 0x4000 + b.val * 0x100 + f.val) = _
    generalize hx : 0x7C000000 + a.val * 0x4000 + b.val * 0x100 + f.val = wd
    have := a.isLt
    have := b.isLt
    have := f.isLt
    have h0 : fld wd 25 7 = 62 := by unfold fld; omega
    have h1 : (fld wd 2 6 = 0 ∧ fld wd 20 5 = 0) := by unfold fld; omega
    have h2 : fin64 wd 14 = a := by exact fin64_of (by omega)
    have h3 : fin64 wd 8 = b := by exact fin64_of (by omega)
    have h4 : fin4 wd 0 = f := by exact fin4_of (by omega)
    unfold rawEn
    simp [h0, h1, h2, h3, h4]
  exact dec_en e hw

theorem fsSend (h : Fin 4) (c : Fin 4) (w : Bool) : Statement (.fsSend h c w) := by
  intro c hc hw
  obtain rfl : SlotClass.en = c := Option.some.inj hc
  have e : rawEn (encode (.fsSend h c w)) = some (.fsSend h c w) := by
    show rawEn (0x80000000 + h.val * 0x400000 + c.val * 0x100000 + w.toNat * 0x80) = _
    generalize hx : 0x80000000 + h.val * 0x400000 + c.val * 0x100000 + w.toNat * 0x80 = wd
    have := h.isLt
    have := c.isLt
    have := Bool.toNat_lt w
    have h0 : fld wd 25 7 = 64 := by unfold fld; omega
    have h1 : (fld wd 0 7 = 0 ∧ fld wd 8 12 = 0 ∧ fld wd 24 1 = 0) := by unfold fld; omega
    have h2 : fin4 wd 22 = h := by exact fin4_of (by omega)
    have h3 : fin4 wd 20 = c := by exact fin4_of (by omega)
    have h4 : bit wd 7 = w := by exact bit_of (by omega)
    unfold rawEn
    simp [h0, h1, h2, h3, h4]
  exact dec_en e hw

theorem fsPost (h : Fin 4) (c : Fin 4) (b : Fin 64) (w : Bool) : Statement (.fsPost h c b w) := by
  intro c hc hw
  obtain rfl : SlotClass.en = c := Option.some.inj hc
  have e : rawEn (encode (.fsPost h c b w)) = some (.fsPost h c b w) := by
    show rawEn (0x82000000 + h.val * 0x400000 + c.val * 0x100000 + b.val * 0x100 + w.toNat * 0x80) = _
    generalize hx : 0x82000000 + h.val * 0x400000 + c.val * 0x100000 + b.val * 0x100 + w.toNat * 0x80 = wd
    have := h.isLt
    have := c.isLt
    have := b.isLt
    have := Bool.toNat_lt w
    have h0 : fld wd 25 7 = 65 := by unfold fld; omega
    have h1 : (fld wd 0 7 = 0 ∧ fld wd 14 6 = 0 ∧ fld wd 24 1 = 0) := by unfold fld; omega
    have h2 : fin4 wd 22 = h := by exact fin4_of (by omega)
    have h3 : fin4 wd 20 = c := by exact fin4_of (by omega)
    have h4 : fin64 wd 8 = b := by exact fin64_of (by omega)
    have h5 : bit wd 7 = w := by exact bit_of (by omega)
    unfold rawEn
    simp [h0, h1, h2, h3, h4, h5]
  exact dec_en e hw

theorem fqBind (i : Fin 8) (a : Fin 64) : Statement (.fqBind i a) := by
  intro c hc hw
  obtain rfl : SlotClass.en = c := Option.some.inj hc
  have e : rawEn (encode (.fqBind i a)) = some (.fqBind i a) := by
    show rawEn (0x84000000 + i.val * 0x100000 + a.val * 0x4000) = _
    generalize hx : 0x84000000 + i.val * 0x100000 + a.val * 0x4000 = wd
    have := i.isLt
    have := a.isLt
    have h0 : fld wd 25 7 = 66 := by unfold fld; omega
    have h1 : (fld wd 0 14 = 0 ∧ fld wd 23 2 = 0) := by unfold fld; omega
    have h2 : fin8 wd 20 = i := by exact fin8_of (by omega)
    have h3 : fin64 wd 14 = a := by exact fin64_of (by omega)
    unfold rawEn
    simp [h0, h1, h2, h3]
  exact dec_en e hw

theorem pegRd (a : Fin 64) (b : Fin 64) (r : Bool) : Statement (.pegRd a b r) := by
  intro c hc hw
  obtain rfl : SlotClass.en = c := Option.some.inj hc
  have e : rawEn (encode (.pegRd a b r)) = some (.pegRd a b r) := by
    show rawEn (0x86000000 + a.val * 0x4000 + b.val * 0x100 + r.toNat) = _
    generalize hx : 0x86000000 + a.val * 0x4000 + b.val * 0x100 + r.toNat = wd
    have := a.isLt
    have := b.isLt
    have := Bool.toNat_lt r
    have h0 : fld wd 25 7 = 67 := by unfold fld; omega
    have h1 : (fld wd 1 7 = 0 ∧ fld wd 20 5 = 0) := by unfold fld; omega
    have h2 : fin64 wd 14 = a := by exact fin64_of (by omega)
    have h3 : fin64 wd 8 = b := by exact fin64_of (by omega)
    have h4 : bit wd 0 = r := by exact bit_of (by omega)
    unfold rawEn
    simp [h0, h1, h2, h3, h4]
  exact dec_en e hw

theorem rld (k : Fin 16) (a : Fin 64) (b : Fin 64) (r : Bool) (x : Bool) (z : Fin 8) : Statement (.rld k a b r x z) := by
  intro c hc hw
  obtain rfl : SlotClass.en = c := Option.some.inj hc
  have e : rawEn (encode (.rld k a b r x z)) = some (.rld k a b r x z) := by
    show rawEn (0x88000000 + k.val * 0x100000 + a.val * 0x4000 + b.val * 0x100 + r.toNat * 0x10 + x.toNat * 0x8 + z.val) = _
    generalize hx : 0x88000000 + k.val * 0x100000 + a.val * 0x4000 + b.val * 0x100 + r.toNat * 0x10 + x.toNat * 0x8 + z.val = wd
    have := k.isLt
    have := a.isLt
    have := b.isLt
    have := Bool.toNat_lt r
    have := Bool.toNat_lt x
    have := z.isLt
    have h0 : fld wd 25 7 = 68 := by unfold fld; omega
    have h1 : (fld wd 5 3 = 0 ∧ fld wd 24 1 = 0) := by unfold fld; omega
    have h2 : fin16 wd 20 = k := by exact fin16_of (by omega)
    have h3 : fin64 wd 14 = a := by exact fin64_of (by omega)
    have h4 : fin64 wd 8 = b := by exact fin64_of (by omega)
    have h5 : bit wd 4 = r := by exact bit_of (by omega)
    have h6 : bit wd 3 = x := by exact bit_of (by omega)
    have h7 : fin8 wd 0 = z := by exact fin8_of (by omega)
    unfold rawEn
    simp [h0, h1, h2, h3, h4, h5, h6, h7]
  exact dec_en e hw

theorem rst (k : Fin 16) (a : Fin 64) (b : Fin 64) (r : Bool) (z : Fin 8) : Statement (.rst k a b r z) := by
  intro c hc hw
  obtain rfl : SlotClass.en = c := Option.some.inj hc
  have e : rawEn (encode (.rst k a b r z)) = some (.rst k a b r z) := by
    show rawEn (0x8A000000 + k.val * 0x100000 + a.val * 0x4000 + b.val * 0x100 + r.toNat * 0x10 + z.val) = _
    generalize hx : 0x8A000000 + k.val * 0x100000 + a.val * 0x4000 + b.val * 0x100 + r.toNat * 0x10 + z.val = wd
    have := k.isLt
    have := a.isLt
    have := b.isLt
    have := Bool.toNat_lt r
    have := z.isLt
    have h0 : fld wd 25 7 = 69 := by unfold fld; omega
    have h1 : (fld wd 3 1 = 0 ∧ fld wd 5 3 = 0 ∧ fld wd 24 1 = 0) := by unfold fld; omega
    have h2 : fin16 wd 20 = k := by exact fin16_of (by omega)
    have h3 : fin64 wd 14 = a := by exact fin64_of (by omega)
    have h4 : fin64 wd 8 = b := by exact fin64_of (by omega)
    have h5 : bit wd 4 = r := by exact bit_of (by omega)
    have h6 : fin8 wd 0 = z := by exact fin8_of (by omega)
    unfold rawEn
    simp [h0, h1, h2, h3, h4, h5, h6]
  exact dec_en e hw

theorem ramo (o : AmoOp) (q : Fin 4) (z : Bool) (k : Fin 16) (a : Fin 64) (b : Fin 64) : Statement (.ramo o q z k a b) := by
  intro c hc hw
  obtain rfl : SlotClass.en = c := Option.some.inj hc
  have e : rawEn (encode (.ramo o q z k a b)) = some (.ramo o q z k a b) := by
    show rawEn (0x8C000000 + o.code + q.val * 0x10 + z.toNat * 0x40 + k.val * 0x100000 + a.val * 0x4000 + b.val * 0x100) = _
    generalize hx : 0x8C000000 + o.code + q.val * 0x10 + z.toNat * 0x40 + k.val * 0x100000 + a.val * 0x4000 + b.val * 0x100 = wd
    have := AmoOp_code_lt o
    have := q.isLt
    have := Bool.toNat_lt z
    have := k.isLt
    have := a.isLt
    have := b.isLt
    have h0 : fld wd 25 7 = 70 := by unfold fld; omega
    have h1 : (fld wd 7 1 = 0 ∧ fld wd 24 1 = 0) := by unfold fld; omega
    have h2 : fld wd 0 4 = o.code := by unfold fld; omega
    have h3 : fin4 wd 4 = q := by exact fin4_of (by omega)
    have h4 : bit wd 6 = z := by exact bit_of (by omega)
    have h5 : fin16 wd 20 = k := by exact fin16_of (by omega)
    have h6 : fin64 wd 14 = a := by exact fin64_of (by omega)
    have h7 : fin64 wd 8 = b := by exact fin64_of (by omega)
    unfold rawEn
    simp [h0, h1, h2, h3, h4, h5, h6, h7, AmoOp_ofCode_code]
  exact dec_en e hw

theorem rwinReg (a : Fin 64) (b : Fin 64) : Statement (.rwinReg a b) := by
  intro c hc hw
  obtain rfl : SlotClass.en = c := Option.some.inj hc
  have e : rawEn (encode (.rwinReg a b)) = some (.rwinReg a b) := by
    show rawEn (0x8E000000 + a.val * 0x4000 + b.val * 0x100) = _
    generalize hx : 0x8E000000 + a.val * 0x4000 + b.val * 0x100 = wd
    have := a.isLt
    have := b.isLt
    have h0 : fld wd 25 7 = 71 := by unfold fld; omega
    have h1 : (fld wd 0 8 = 0 ∧ fld wd 20 5 = 0) := by unfold fld; omega
    have h2 : fin64 wd 14 = a := by exact fin64_of (by omega)
    have h3 : fin64 wd 8 = b := by exact fin64_of (by omega)
    unfold rawEn
    simp [h0, h1, h2, h3]
  exact dec_en e hw

theorem rwinAdd (w : Bool) (h : Fin 4) (c : Fin 4) : Statement (.rwinAdd w h c) := by
  intro c hc hw
  obtain rfl : SlotClass.en = c := Option.some.inj hc
  have e : rawEn (encode (.rwinAdd w h c)) = some (.rwinAdd w h c) := by
    show rawEn (0x8E100000 + w.toNat * 0x80 + h.val * 0x4 + c.val) = _
    generalize hx : 0x8E100000 + w.toNat * 0x80 + h.val * 0x4 + c.val = wd
    have := Bool.toNat_lt w
    have := h.isLt
    have := c.isLt
    have h0 : fld wd 25 7 = 71 := by unfold fld; omega
    have h1 : ¬ (fld wd 0 8 = 0 ∧ fld wd 20 5 = 0) := by unfold fld; omega
    have h2 : (fld wd 4 3 = 0 ∧ fld wd 8 17 = 4096) := by unfold fld; omega
    have h3 : bit wd 7 = w := by exact bit_of (by omega)
    have h4 : fin4 wd 2 = h := by exact fin4_of (by omega)
    have h5 : fin4 wd 0 = c := by exact fin4_of (by omega)
    unfold rawEn
    simp [h0, h1, h2, h3, h4, h5]
  exact dec_en e hw

theorem rwinPread (a : Fin 64) (b : Fin 64) : Statement (.rwinPread a b) := by
  intro c hc hw
  obtain rfl : SlotClass.en = c := Option.some.inj hc
  have e : rawEn (encode (.rwinPread a b)) = some (.rwinPread a b) := by
    show rawEn (0x8E200000 + a.val * 0x4000 + b.val * 0x100) = _
    generalize hx : 0x8E200000 + a.val * 0x4000 + b.val * 0x100 = wd
    have := a.isLt
    have := b.isLt
    have h0 : fld wd 25 7 = 71 := by unfold fld; omega
    have h1 : ¬ (fld wd 0 8 = 0 ∧ fld wd 20 5 = 0) := by unfold fld; omega
    have h2 : ¬ (fld wd 4 3 = 0 ∧ fld wd 8 17 = 4096) := by unfold fld; omega
    have h3 : (fld wd 0 8 = 0 ∧ fld wd 20 5 = 2) := by unfold fld; omega
    have h4 : fin64 wd 14 = a := by exact fin64_of (by omega)
    have h5 : fin64 wd 8 = b := by exact fin64_of (by omega)
    unfold rawEn
    simp [h0, h1, h2, h3, h4, h5]
  exact dec_en e hw

theorem rwinAbort (a : Fin 64) : Statement (.rwinAbort a) := by
  intro c hc hw
  obtain rfl : SlotClass.en = c := Option.some.inj hc
  have e : rawEn (encode (.rwinAbort a)) = some (.rwinAbort a) := by
    show rawEn (0x8E300000 + a.val * 0x4000) = _
    generalize hx : 0x8E300000 + a.val * 0x4000 = wd
    have := a.isLt
    have h0 : fld wd 25 7 = 71 := by unfold fld; omega
    have h1 : ¬ (fld wd 0 8 = 0 ∧ fld wd 20 5 = 0) := by unfold fld; omega
    have h2 : ¬ (fld wd 4 3 = 0 ∧ fld wd 8 17 = 4096) := by unfold fld; omega
    have h3 : ¬ (fld wd 0 8 = 0 ∧ fld wd 20 5 = 2) := by unfold fld; omega
    have h4 : (fld wd 0 14 = 0 ∧ fld wd 20 5 = 3) := by unfold fld; omega
    have h5 : fin64 wd 14 = a := by exact fin64_of (by omega)
    unfold rawEn
    simp [h0, h1, h2, h3, h4, h5]
  exact dec_en e hw

theorem chase (k : Fin 16) (a : Fin 64) (b : Fin 64) (t : Bool) (c : Bool) : Statement (.chase k a b t c) := by
  intro c hc hw
  obtain rfl : SlotClass.en = c := Option.some.inj hc
  have e : rawEn (encode (.chase k a b t c)) = some (.chase k a b t c) := by
    show rawEn (0x90000000 + k.val * 0x100000 + a.val * 0x4000 + b.val * 0x100 + t.toNat * 0x2 + c.toNat) = _
    generalize hx : 0x90000000 + k.val * 0x100000 + a.val * 0x4000 + b.val * 0x100 + t.toNat * 0x2 + c.toNat = wd
    have := k.isLt
    have := a.isLt
    have := b.isLt
    have := Bool.toNat_lt t
    have := Bool.toNat_lt c
    have h0 : fld wd 25 7 = 72 := by unfold fld; omega
    have h1 : (fld wd 2 6 = 0 ∧ fld wd 24 1 = 0) := by unfold fld; omega
    have h2 : fin16 wd 20 = k := by exact fin16_of (by omega)
    have h3 : fin64 wd 14 = a := by exact fin64_of (by omega)
    have h4 : fin64 wd 8 = b := by exact fin64_of (by omega)
    have h5 : bit wd 1 = t := by exact bit_of (by omega)
    have h6 : bit wd 0 = c := by exact bit_of (by omega)
    have h7 : (fld wd 2 6 = 0 ∧ fld wd 24 1 = 0 ∧ (c = true ∨ fld wd 20 4 = 0)) := by
      refine ⟨h1.1, h1.2, ?_⟩
      rcases (by simpa [wellFormed] using hw : c = true ∨ k = 0) with h | h
      · exact .inl h
      · subst h; right; unfold fld; simp at hx; omega
    unfold rawEn
    simp [h0, h7, h2, h3, h4, h5, h6]
  exact dec_en e hw

theorem capld (k : Fin 16) (a : Fin 64) (s : Bool) : Statement (.capld k a s) := by
  intro c hc hw
  obtain rfl : SlotClass.en = c := Option.some.inj hc
  have e : rawEn (encode (.capld k a s)) = some (.capld k a s) := by
    show rawEn (0x92000000 + k.val * 0x100000 + a.val * 0x4000 + s.toNat) = _
    generalize hx : 0x92000000 + k.val * 0x100000 + a.val * 0x4000 + s.toNat = wd
    have := k.isLt
    have := a.isLt
    have := Bool.toNat_lt s
    have h0 : fld wd 25 7 = 73 := by unfold fld; omega
    have h1 : (fld wd 1 13 = 0 ∧ fld wd 24 1 = 0) := by unfold fld; omega
    have h2 : fin16 wd 20 = k := by exact fin16_of (by omega)
    have h3 : fin64 wd 14 = a := by exact fin64_of (by omega)
    have h4 : bit wd 0 = s := by exact bit_of (by omega)
    unfold rawEn
    simp [h0, h1, h2, h3, h4]
  exact dec_en e hw

theorem capst (k : Fin 16) (a : Fin 64) (s : Bool) : Statement (.capst k a s) := by
  intro c hc hw
  obtain rfl : SlotClass.en = c := Option.some.inj hc
  have e : rawEn (encode (.capst k a s)) = some (.capst k a s) := by
    show rawEn (0x94000000 + k.val * 0x100000 + a.val * 0x4000 + s.toNat) = _
    generalize hx : 0x94000000 + k.val * 0x100000 + a.val * 0x4000 + s.toNat = wd
    have := k.isLt
    have := a.isLt
    have := Bool.toNat_lt s
    have h0 : fld wd 25 7 = 74 := by unfold fld; omega
    have h1 : (fld wd 1 13 = 0 ∧ fld wd 24 1 = 0) := by unfold fld; omega
    have h2 : fin16 wd 20 = k := by exact fin16_of (by omega)
    have h3 : fin64 wd 14 = a := by exact fin64_of (by omega)
    have h4 : bit wd 0 = s := by exact bit_of (by omega)
    unfold rawEn
    simp [h0, h1, h2, h3, h4]
  exact dec_en e hw

theorem capmkNew (k : Fin 16) (a : Fin 64) : Statement (.capmkNew k a) := by
  intro c hc hw
  obtain rfl : SlotClass.en = c := Option.some.inj hc
  have e : rawEn (encode (.capmkNew k a)) = some (.capmkNew k a) := by
    show rawEn (0x96000000 + k.val * 0x100000 + a.val * 0x4000) = _
    generalize hx : 0x96000000 + k.val * 0x100000 + a.val * 0x4000 = wd
    have := k.isLt
    have := a.isLt
    have h0 : fld wd 25 7 = 75 := by unfold fld; omega
    have h1 : (fld wd 0 14 = 0 ∧ fld wd 24 1 = 0) := by unfold fld; omega
    have h2 : fin16 wd 20 = k := by exact fin16_of (by omega)
    have h3 : fin64 wd 14 = a := by exact fin64_of (by omega)
    unfold rawEn
    simp [h0, h1, h2, h3]
  exact dec_en e hw

theorem capmkDer (k : Fin 16) (a : Fin 64) (s : Fin 16) : Statement (.capmkDer k a s) := by
  intro c hc hw
  obtain rfl : SlotClass.en = c := Option.some.inj hc
  have e : rawEn (encode (.capmkDer k a s)) = some (.capmkDer k a s) := by
    show rawEn (0x96000001 + k.val * 0x100000 + a.val * 0x4000 + s.val * 0x100) = _
    generalize hx : 0x96000001 + k.val * 0x100000 + a.val * 0x4000 + s.val * 0x100 = wd
    have := k.isLt
    have := a.isLt
    have := s.isLt
    have h0 : fld wd 25 7 = 75 := by unfold fld; omega
    have h1 : ¬ (fld wd 0 14 = 0) := by unfold fld; omega
    have h2 : (fld wd 0 8 = 1 ∧ fld wd 12 2 = 0 ∧ fld wd 24 1 = 0) := by unfold fld; omega
    have h3 : fin16 wd 20 = k := by exact fin16_of (by omega)
    have h4 : fin64 wd 14 = a := by exact fin64_of (by omega)
    have h5 : fin16 wd 8 = s := by exact fin16_of (by omega)
    unfold rawEn
    simp [h0, h1, h2, h3, h4, h5]
  exact dec_en e hw

theorem capmkRev (a : Fin 64) : Statement (.capmkRev a) := by
  intro c hc hw
  obtain rfl : SlotClass.en = c := Option.some.inj hc
  have e : rawEn (encode (.capmkRev a)) = some (.capmkRev a) := by
    show rawEn (0x96000002 + a.val * 0x4000) = _
    generalize hx : 0x96000002 + a.val * 0x4000 = wd
    have := a.isLt
    have h0 : fld wd 25 7 = 75 := by unfold fld; omega
    have h1 : ¬ (fld wd 0 14 = 0 ∧ fld wd 24 1 = 0) := by unfold fld; omega
    have h2 : ¬ (fld wd 0 8 = 1 ∧ fld wd 12 2 = 0 ∧ fld wd 24 1 = 0) := by unfold fld; omega
    have h3 : (fld wd 0 14 = 2 ∧ fld wd 20 5 = 0) := by unfold fld; omega
    have h4 : fin64 wd 14 = a := by exact fin64_of (by omega)
    unfold rawEn
    simp [h0, h1, h2, h3, h4]
  exact dec_en e hw

theorem capchk (k : Fin 16) (a : Fin 64) (b : Fin 64) (z : Fin 8) (x : AccKind) : Statement (.capchk k a b z x) := by
  intro c hc hw
  obtain rfl : SlotClass.en = c := Option.some.inj hc
  have e : rawEn (encode (.capchk k a b z x)) = some (.capchk k a b z x) := by
    show rawEn (0x98000000 + k.val * 0x100000 + a.val * 0x4000 + b.val * 0x100 + z.val * 0x8 + x.code) = _
    generalize hx : 0x98000000 + k.val * 0x100000 + a.val * 0x4000 + b.val * 0x100 + z.val * 0x8 + x.code = wd
    have := k.isLt
    have := a.isLt
    have := b.isLt
    have := z.isLt
    have := AccKind_code_lt x
    have h0 : fld wd 25 7 = 76 := by unfold fld; omega
    have h1 : (fld wd 6 2 = 0 ∧ fld wd 24 1 = 0) := by unfold fld; omega
    have h2 : fin16 wd 20 = k := by exact fin16_of (by omega)
    have h3 : fin64 wd 14 = a := by exact fin64_of (by omega)
    have h4 : fin64 wd 8 = b := by exact fin64_of (by omega)
    have h5 : fin8 wd 3 = z := by exact fin8_of (by omega)
    have h6 : fld wd 0 3 = x.code := by unfold fld; omega
    unfold rawEn
    simp [h0, h1, h2, h3, h4, h5, h6, AccKind_ofCode_code]
  exact dec_en e hw

theorem rmaPut (k : Fin 16) (a : Fin 64) (b : Fin 64) (t : Bool) : Statement (.rmaPut k a b t) := by
  intro c hc hw
  obtain rfl : SlotClass.en = c := Option.some.inj hc
  have e : rawEn (encode (.rmaPut k a b t)) = some (.rmaPut k a b t) := by
    show rawEn (0xA0000000 + k.val * 0x100000 + a.val * 0x4000 + b.val * 0x100 + t.toNat) = _
    generalize hx : 0xA0000000 + k.val * 0x100000 + a.val * 0x4000 + b.val * 0x100 + t.toNat = wd
    have := k.isLt
    have := a.isLt
    have := b.isLt
    have := Bool.toNat_lt t
    have h0 : fld wd 25 7 = 80 := by unfold fld; omega
    have h1 : (fld wd 1 7 = 0 ∧ fld wd 24 1 = 0) := by unfold fld; omega
    have h2 : fin16 wd 20 = k := by exact fin16_of (by omega)
    have h3 : fin64 wd 14 = a := by exact fin64_of (by omega)
    have h4 : fin64 wd 8 = b := by exact fin64_of (by omega)
    have h5 : bit wd 0 = t := by exact bit_of (by omega)
    unfold rawEn
    simp [h0, h1, h2, h3, h4, h5]
  exact dec_en e hw

theorem rmaGet (k : Fin 16) (a : Fin 64) (b : Fin 64) : Statement (.rmaGet k a b) := by
  intro c hc hw
  obtain rfl : SlotClass.en = c := Option.some.inj hc
  have e : rawEn (encode (.rmaGet k a b)) = some (.rmaGet k a b) := by
    show rawEn (0xA2000000 + k.val * 0x100000 + a.val * 0x4000 + b.val * 0x100) = _
    generalize hx : 0xA2000000 + k.val * 0x100000 + a.val * 0x4000 + b.val * 0x100 = wd
    have := k.isLt
    have := a.isLt
    have := b.isLt
    have h0 : fld wd 25 7 = 81 := by unfold fld; omega
    have h1 : (fld wd 0 8 = 0 ∧ fld wd 24 1 = 0) := by unfold fld; omega
    have h2 : fin16 wd 20 = k := by exact fin16_of (by omega)
    have h3 : fin64 wd 14 = a := by exact fin64_of (by omega)
    have h4 : fin64 wd 8 = b := by exact fin64_of (by omega)
    unfold rawEn
    simp [h0, h1, h2, h3, h4]
  exact dec_en e hw

theorem rmaFlag (k : Fin 16) (a : Fin 64) (b : Fin 64) : Statement (.rmaFlag k a b) := by
  intro c hc hw
  obtain rfl : SlotClass.en = c := Option.some.inj hc
  have e : rawEn (encode (.rmaFlag k a b)) = some (.rmaFlag k a b) := by
    show rawEn (0xA4000000 + k.val * 0x100000 + a.val * 0x4000 + b.val * 0x100) = _
    generalize hx : 0xA4000000 + k.val * 0x100000 + a.val * 0x4000 + b.val * 0x100 = wd
    have := k.isLt
    have := a.isLt
    have := b.isLt
    have h0 : fld wd 25 7 = 82 := by unfold fld; omega
    have h1 : (fld wd 0 8 = 0 ∧ fld wd 24 1 = 0) := by unfold fld; omega
    have h2 : fin16 wd 20 = k := by exact fin16_of (by omega)
    have h3 : fin64 wd 14 = a := by exact fin64_of (by omega)
    have h4 : fin64 wd 8 = b := by exact fin64_of (by omega)
    unfold rawEn
    simp [h0, h1, h2, h3, h4]
  exact dec_en e hw

theorem rmaReg (k : Fin 16) (a : Fin 64) : Statement (.rmaReg k a) := by
  intro c hc hw
  obtain rfl : SlotClass.en = c := Option.some.inj hc
  have e : rawEn (encode (.rmaReg k a)) = some (.rmaReg k a) := by
    show rawEn (0xA8000000 + k.val * 0x100000 + a.val * 0x4000) = _
    generalize hx : 0xA8000000 + k.val * 0x100000 + a.val * 0x4000 = wd
    have := k.isLt
    have := a.isLt
    have h0 : fld wd 25 7 = 84 := by unfold fld; omega
    have h1 : (fld wd 0 14 = 0 ∧ fld wd 24 1 = 0) := by unfold fld; omega
    have h2 : fin16 wd 20 = k := by exact fin16_of (by omega)
    have h3 : fin64 wd 14 = a := by exact fin64_of (by omega)
    unfold rawEn
    simp [h0, h1, h2, h3]
  exact dec_en e hw

theorem rmaRev (k : Fin 16) : Statement (.rmaRev k) := by
  intro c hc hw
  obtain rfl : SlotClass.en = c := Option.some.inj hc
  have e : rawEn (encode (.rmaRev k)) = some (.rmaRev k) := by
    show rawEn (0xAA000000 + k.val * 0x100000) = _
    generalize hx : 0xAA000000 + k.val * 0x100000 = wd
    have := k.isLt
    have h0 : fld wd 25 7 = 85 := by unfold fld; omega
    have h1 : (fld wd 0 20 = 0 ∧ fld wd 24 1 = 0) := by unfold fld; omega
    have h2 : fin16 wd 20 = k := by exact fin16_of (by omega)
    unfold rawEn
    simp [h0, h1, h2]
  exact dec_en e hw

theorem translationInvalidation (x0 : Nat) (x1 : Nat) (x2 : Nat) : Statement (.translationInvalidation x0 x1 x2) := by
  intro c h; exact absurd h nofun

theorem invalidationAcknowledgement (x0 : Nat) (x1 : Nat) : Statement (.invalidationAcknowledgement x0 x1) := by
  intro c h; exact absurd h nofun

theorem seamPartialDiscard (x0 : Word) : Statement (.seamPartialDiscard x0) := by
  intro c h; exact absurd h nofun

theorem softErrorRerun (x0 : Nat) (x1 : SoftError) : Statement (.softErrorRerun x0 x1) := by
  intro c h; exact absurd h nofun

theorem storeFrame (x0 : Link) (x1 : Frame) : Statement (.storeFrame x0 x1) := by
  intro c h; exact absurd h nofun

theorem sendFrame (x0 : Link) (x1 : Frame) : Statement (.sendFrame x0 x1) := by
  intro c h; exact absurd h nofun

theorem sendlFrame (x0 : Link) (x1 : Frame) : Statement (.sendlFrame x0 x1) := by
  intro c h; exact absurd h nofun

theorem fifoFrame (x0 : Link) (x1 : Frame) : Statement (.fifoFrame x0 x1) := by
  intro c h; exact absurd h nofun

theorem contribFrame (x0 : Link) (x1 : Frame) : Statement (.contribFrame x0 x1) := by
  intro c h; exact absurd h nofun

theorem wpartFrame (x0 : Link) (x1 : Frame) : Statement (.wpartFrame x0 x1) := by
  intro c h; exact absurd h nofun

theorem mopFrame (x0 : Link) (x1 : Frame) : Statement (.mopFrame x0 x1) := by
  intro c h; exact absurd h nofun

theorem loadFrame (x0 : Link) (x1 : Frame) : Statement (.loadFrame x0 x1) := by
  intro c h; exact absurd h nofun

theorem atomicFrame (x0 : Link) (x1 : Frame) : Statement (.atomicFrame x0 x1) := by
  intro c h; exact absurd h nofun

theorem chaseFrame (x0 : Link) (x1 : Frame) : Statement (.chaseFrame x0 x1) := by
  intro c h; exact absurd h nofun

theorem dataFrame (x0 : Link) (x1 : Frame) : Statement (.dataFrame x0 x1) := by
  intro c h; exact absurd h nofun

theorem doneFrame (x0 : Link) (x1 : Frame) : Statement (.doneFrame x0 x1) := by
  intro c h; exact absurd h nofun

theorem chresFrame (x0 : Link) (x1 : Frame) : Statement (.chresFrame x0 x1) := by
  intro c h; exact absurd h nofun

theorem bounceFrame (x0 : Link) (x1 : Frame) : Statement (.bounceFrame x0 x1) := by
  intro c h; exact absurd h nofun

theorem faultFrame (x0 : Link) (x1 : Frame) : Statement (.faultFrame x0 x1) := by
  intro c h; exact absurd h nofun

theorem fqcredFrame (x0 : Link) (x1 : Frame) : Statement (.fqcredFrame x0 x1) := by
  intro c h; exact absurd h nofun

theorem winackFrame (x0 : Link) (x1 : Frame) : Statement (.winackFrame x0 x1) := by
  intro c h; exact absurd h nofun

theorem pegretFrame (x0 : Link) (x1 : Frame) : Statement (.pegretFrame x0 x1) := by
  intro c h; exact absurd h nofun

theorem nakFrame (x0 : Link) (x1 : Frame) : Statement (.nakFrame x0 x1) := by
  intro c h; exact absurd h nofun

theorem arriveFrame (x0 : Link) (x1 : Frame) : Statement (.arriveFrame x0 x1) := by
  intro c h; exact absurd h nofun

theorem expectFrame (x0 : Link) (x1 : Frame) : Statement (.expectFrame x0 x1) := by
  intro c h; exact absurd h nofun

theorem sstepFrame (x0 : Link) (x1 : Frame) : Statement (.sstepFrame x0 x1) := by
  intro c h; exact absurd h nofun

theorem violFrame (x0 : Link) (x1 : Frame) : Statement (.violFrame x0 x1) := by
  intro c h; exact absurd h nofun

theorem darnFrame (x0 : Link) (x1 : Frame) : Statement (.darnFrame x0 x1) := by
  intro c h; exact absurd h nofun

theorem winregFrame (x0 : Link) (x1 : Frame) : Statement (.winregFrame x0 x1) := by
  intro c h; exact absurd h nofun

theorem retuneStart (x0 : Plane) (x1 : Nat) : Statement (.retuneStart x0 x1) := by
  intro c h; exact absurd h nofun

theorem retuneEnd (x0 : Plane) (x1 : Nat) : Statement (.retuneEnd x0 x1) := by
  intro c h; exact absurd h nofun

theorem uncorrectableDrift (x0 : Plane) (x1 : Nat) : Statement (.uncorrectableDrift x0 x1) := by
  intro c h; exact absurd h nofun

theorem lineFailure (x0 : Plane) (x1 : Nat) : Statement (.lineFailure x0 x1) := by
  intro c h; exact absurd h nofun

theorem modulatorLaneDeath (x0 : Plane) (x1 : Nat) : Statement (.modulatorLaneDeath x0 x1) := by
  intro c h; exact absurd h nofun

theorem passbandShift (x0 : Plane) : Statement (.passbandShift x0) := by
  intro c h; exact absurd h nofun

theorem peerSilent (x0 : Plane) (x1 : Nat) : Statement (.peerSilent x0 x1) := by
  intro c h; exact absurd h nofun

theorem put (x0 : Packet) : Statement (.put x0) := by
  intro c h; exact absurd h nofun

theorem getreq (x0 : Packet) : Statement (.getreq x0) := by
  intro c h; exact absurd h nofun

theorem getdata (x0 : Packet) : Statement (.getdata x0) := by
  intro c h; exact absurd h nofun

theorem flag (x0 : Packet) : Statement (.flag x0) := by
  intro c h; exact absurd h nofun

theorem flushreq (x0 : Packet) : Statement (.flushreq x0) := by
  intro c h; exact absurd h nofun

theorem flushdone (x0 : Packet) : Statement (.flushdone x0) := by
  intro c h; exact absurd h nofun

theorem ack (x0 : Packet) : Statement (.ack x0) := by
  intro c h; exact absurd h nofun

theorem nack (x0 : Packet) : Statement (.nack x0) := by
  intro c h; exact absurd h nofun

theorem doorbell (x0 : Fin 64) (x1 : BitVec 32) : Statement (.doorbell x0 x1) := by
  intro c h; exact absurd h nofun

theorem managementDoorbell (x0 : BitVec 32) : Statement (.managementDoorbell x0) := by
  intro c h; exact absurd h nofun

theorem queueDescriptorEnable (x0 : Fin 64) : Statement (.queueDescriptorEnable x0) := by
  intro c h; exact absurd h nofun

theorem hostControlPageWrite (x0 : Nat) (x1 : Word) : Statement (.hostControlPageWrite x0 x1) := by
  intro c h; exact absurd h nofun

theorem frameCrcFailure (x0 : Link) (x1 : Fin 4) : Statement (.frameCrcFailure x0 x1) := by
  intro c h; exact absurd h nofun

theorem reservedKindFrame (x0 : Link) (x1 : Frame) : Statement (.reservedKindFrame x0 x1) := by
  intro c h; exact absurd h nofun

theorem sramBankRetirement (x0 : Nat) (x1 : Nat) : Statement (.sramBankRetirement x0 x1) := by
  intro c h; exact absurd h nofun

theorem hbmChannelRetirement (x0 : Nat) : Statement (.hbmChannelRetirement x0) := by
  intro c h; exact absurd h nofun

theorem pageCompressorSweep : Statement (.pageCompressorSweep) := by
  intro c h; exact absurd h nofun

theorem slotStart : Statement (.slotStart) := by
  intro c h; exact absurd h nofun

theorem darningCompute : Statement (.darningCompute) := by
  intro c h; exact absurd h nofun

theorem darnTableSwap : Statement (.darnTableSwap) := by
  intro c h; exact absurd h nofun

theorem relabelApply : Statement (.relabelApply) := by
  intro c h; exact absurd h nofun

theorem tlenChangeApply : Statement (.tlenChangeApply) := by
  intro c h; exact absurd h nofun

theorem fcpGrant : Statement (.fcpGrant) := by
  intro c h; exact absurd h nofun

theorem boot : Statement (.boot) := by
  intro c h; exact absurd h nofun

theorem nop : Statement .nop := by
  intro c hc hw
  obtain rfl : SlotClass.x = c := Option.some.inj hc
  decide

theorem ret : Statement .ret := by
  intro c hc hw
  obtain rfl : SlotClass.br = c := Option.some.inj hc
  decide

theorem tend : Statement .tend := by
  intro c hc hw
  obtain rfl : SlotClass.br = c := Option.some.inj hc
  decide

theorem eret : Statement .eret := by
  intro c hc hw
  obtain rfl : SlotClass.br = c := Option.some.inj hc
  decide

theorem rmaFlush : Statement .rmaFlush := by
  intro c hc hw
  obtain rfl : SlotClass.en = c := Option.some.inj hc
  decide

theorem drtPacketBadCrc : Statement (.drtPacketBadCrc) := by
  intro c h; exact absurd h nofun

end RoundTrip

end Sys2Proof.Laws
end

