-- ==== Sys2Proof/Laws/State.lean ====
section
/-! SUPPORT. What the named updates of the state leave: one lemma for each update and each field it does not touch, so that no later
proof unfolds a record update. -/

namespace Sys2Proof.Machine

variable (s : State)

/-! ### setCore -/

@[simp] theorem setCore_time (k : Nat) (x : Core) : (setCore s k x).time = s.time := rfl
@[simp] theorem setCore_tick (k : Nat) (x : Core) : (setCore s k x).tick = s.tick := rfl
@[simp] theorem setCore_agenda (k : Nat) (x : Core) : (setCore s k x).agenda = s.agenda := rfl
@[simp] theorem setCore_stage (k : Nat) (x : Core) : (setCore s k x).stage = s.stage := rfl
@[simp] theorem setCore_todo (k : Nat) (x : Core) : (setCore s k x).todo = s.todo := rfl
@[simp] theorem setCore_turn (k : Nat) (x : Core) : (setCore s k x).turn = s.turn := rfl
@[simp] theorem setCore_cur (k : Nat) (x : Core) : (setCore s k x).cur = s.cur := rfl
@[simp] theorem setCore_hbm (k : Nat) (x : Core) : (setCore s k x).hbm = s.hbm := rfl
@[simp] theorem setCore_sram (k : Nat) (x : Core) : (setCore s k x).sram = s.sram := rfl
@[simp] theorem setCore_capTags (k : Nat) (x : Core) : (setCore s k x).capTags = s.capTags := rfl
@[simp] theorem setCore_rtags (k : Nat) (x : Core) : (setCore s k x).rtags = s.rtags := rfl
@[simp] theorem setCore_poison (k : Nat) (x : Core) : (setCore s k x).poison = s.poison := rfl
@[simp] theorem setCore_epoch (k : Nat) (x : Core) : (setCore s k x).epoch = s.epoch := rfl
@[simp] theorem setCore_prior (k : Nat) (x : Core) : (setCore s k x).prior = s.prior := rfl
@[simp] theorem setCore_tlb (k : Nat) (x : Core) : (setCore s k x).tlb = s.tlb := rfl
@[simp] theorem setCore_ctxs (k : Nat) (x : Core) : (setCore s k x).ctxs = s.ctxs := rfl
@[simp] theorem setCore_fcp (k : Nat) (x : Core) : (setCore s k x).fcp = s.fcp := rfl
@[simp] theorem setCore_page (k : Nat) (x : Core) : (setCore s k x).page = s.page := rfl
@[simp] theorem setCore_cp (k : Nat) (x : Core) : (setCore s k x).cp = s.cp := rfl
@[simp] theorem setCore_shape (k : Nat) (x : Core) : (setCore s k x).shape = s.shape := rfl
@[simp] theorem setCore_airing (k : Nat) (x : Core) : (setCore s k x).airing = s.airing := rfl
@[simp] theorem setCore_forests (k : Nat) (x : Core) : (setCore s k x).forests = s.forests := rfl
@[simp] theorem setCore_regions (k : Nat) (x : Core) : (setCore s k x).regions = s.regions := rfl
@[simp] theorem setCore_regGen (k : Nat) (x : Core) : (setCore s k x).regGen = s.regGen := rfl
@[simp] theorem setCore_port (k : Nat) (x : Core) : (setCore s k x).port = s.port := rfl
@[simp] theorem setCore_drt (k : Nat) (x : Core) : (setCore s k x).drt = s.drt := rfl
@[simp] theorem setCore_vbus (k : Nat) (x : Core) : (setCore s k x).vbus = s.vbus := rfl

/-! ### onCore -/

@[simp] theorem onCore_time (k : Nat) (f : Core → Core) : (onCore s k f).time = s.time := rfl
@[simp] theorem onCore_tick (k : Nat) (f : Core → Core) : (onCore s k f).tick = s.tick := rfl
@[simp] theorem onCore_agenda (k : Nat) (f : Core → Core) : (onCore s k f).agenda = s.agenda := rfl
@[simp] theorem onCore_stage (k : Nat) (f : Core → Core) : (onCore s k f).stage = s.stage := rfl
@[simp] theorem onCore_todo (k : Nat) (f : Core → Core) : (onCore s k f).todo = s.todo := rfl
@[simp] theorem onCore_turn (k : Nat) (f : Core → Core) : (onCore s k f).turn = s.turn := rfl
@[simp] theorem onCore_cur (k : Nat) (f : Core → Core) : (onCore s k f).cur = s.cur := rfl
@[simp] theorem onCore_hbm (k : Nat) (f : Core → Core) : (onCore s k f).hbm = s.hbm := rfl
@[simp] theorem onCore_sram (k : Nat) (f : Core → Core) : (onCore s k f).sram = s.sram := rfl
@[simp] theorem onCore_capTags (k : Nat) (f : Core → Core) : (onCore s k f).capTags = s.capTags := rfl
@[simp] theorem onCore_rtags (k : Nat) (f : Core → Core) : (onCore s k f).rtags = s.rtags := rfl
@[simp] theorem onCore_poison (k : Nat) (f : Core → Core) : (onCore s k f).poison = s.poison := rfl
@[simp] theorem onCore_epoch (k : Nat) (f : Core → Core) : (onCore s k f).epoch = s.epoch := rfl
@[simp] theorem onCore_prior (k : Nat) (f : Core → Core) : (onCore s k f).prior = s.prior := rfl
@[simp] theorem onCore_tlb (k : Nat) (f : Core → Core) : (onCore s k f).tlb = s.tlb := rfl
@[simp] theorem onCore_ctxs (k : Nat) (f : Core → Core) : (onCore s k f).ctxs = s.ctxs := rfl
@[simp] theorem onCore_fcp (k : Nat) (f : Core → Core) : (onCore s k f).fcp = s.fcp := rfl
@[simp] theorem onCore_page (k : Nat) (f : Core → Core) : (onCore s k f).page = s.page := rfl
@[simp] theorem onCore_cp (k : Nat) (f : Core → Core) : (onCore s k f).cp = s.cp := rfl
@[simp] theorem onCore_shape (k : Nat) (f : Core → Core) : (onCore s k f).shape = s.shape := rfl
@[simp] theorem onCore_airing (k : Nat) (f : Core → Core) : (onCore s k f).airing = s.airing := rfl
@[simp] theorem onCore_forests (k : Nat) (f : Core → Core) : (onCore s k f).forests = s.forests := rfl
@[simp] theorem onCore_regions (k : Nat) (f : Core → Core) : (onCore s k f).regions = s.regions := rfl
@[simp] theorem onCore_regGen (k : Nat) (f : Core → Core) : (onCore s k f).regGen = s.regGen := rfl
@[simp] theorem onCore_port (k : Nat) (f : Core → Core) : (onCore s k f).port = s.port := rfl
@[simp] theorem onCore_drt (k : Nat) (f : Core → Core) : (onCore s k f).drt = s.drt := rfl
@[simp] theorem onCore_vbus (k : Nat) (f : Core → Core) : (onCore s k f).vbus = s.vbus := rfl

/-! ### onCur -/

@[simp] theorem onCur_time (f : Core → Core) : (onCur s f).time = s.time := rfl
@[simp] theorem onCur_tick (f : Core → Core) : (onCur s f).tick = s.tick := rfl
@[simp] theorem onCur_agenda (f : Core → Core) : (onCur s f).agenda = s.agenda := rfl
@[simp] theorem onCur_stage (f : Core → Core) : (onCur s f).stage = s.stage := rfl
@[simp] theorem onCur_todo (f : Core → Core) : (onCur s f).todo = s.todo := rfl
@[simp] theorem onCur_turn (f : Core → Core) : (onCur s f).turn = s.turn := rfl
@[simp] theorem onCur_cur (f : Core → Core) : (onCur s f).cur = s.cur := rfl
@[simp] theorem onCur_hbm (f : Core → Core) : (onCur s f).hbm = s.hbm := rfl
@[simp] theorem onCur_sram (f : Core → Core) : (onCur s f).sram = s.sram := rfl
@[simp] theorem onCur_capTags (f : Core → Core) : (onCur s f).capTags = s.capTags := rfl
@[simp] theorem onCur_rtags (f : Core → Core) : (onCur s f).rtags = s.rtags := rfl
@[simp] theorem onCur_poison (f : Core → Core) : (onCur s f).poison = s.poison := rfl
@[simp] theorem onCur_epoch (f : Core → Core) : (onCur s f).epoch = s.epoch := rfl
@[simp] theorem onCur_prior (f : Core → Core) : (onCur s f).prior = s.prior := rfl
@[simp] theorem onCur_tlb (f : Core → Core) : (onCur s f).tlb = s.tlb := rfl
@[simp] theorem onCur_ctxs (f : Core → Core) : (onCur s f).ctxs = s.ctxs := rfl
@[simp] theorem onCur_fcp (f : Core → Core) : (onCur s f).fcp = s.fcp := rfl
@[simp] theorem onCur_page (f : Core → Core) : (onCur s f).page = s.page := rfl
@[simp] theorem onCur_cp (f : Core → Core) : (onCur s f).cp = s.cp := rfl
@[simp] theorem onCur_shape (f : Core → Core) : (onCur s f).shape = s.shape := rfl
@[simp] theorem onCur_airing (f : Core → Core) : (onCur s f).airing = s.airing := rfl
@[simp] theorem onCur_forests (f : Core → Core) : (onCur s f).forests = s.forests := rfl
@[simp] theorem onCur_regions (f : Core → Core) : (onCur s f).regions = s.regions := rfl
@[simp] theorem onCur_regGen (f : Core → Core) : (onCur s f).regGen = s.regGen := rfl
@[simp] theorem onCur_port (f : Core → Core) : (onCur s f).port = s.port := rfl
@[simp] theorem onCur_drt (f : Core → Core) : (onCur s f).drt = s.drt := rfl
@[simp] theorem onCur_vbus (f : Core → Core) : (onCur s f).vbus = s.vbus := rfl

/-! ### setCtx -/

@[simp] theorem setCtx_time (x : Nat) (y : Ctx) : (setCtx s x y).time = s.time := rfl
@[simp] theorem setCtx_tick (x : Nat) (y : Ctx) : (setCtx s x y).tick = s.tick := rfl
@[simp] theorem setCtx_agenda (x : Nat) (y : Ctx) : (setCtx s x y).agenda = s.agenda := rfl
@[simp] theorem setCtx_stage (x : Nat) (y : Ctx) : (setCtx s x y).stage = s.stage := rfl
@[simp] theorem setCtx_todo (x : Nat) (y : Ctx) : (setCtx s x y).todo = s.todo := rfl
@[simp] theorem setCtx_turn (x : Nat) (y : Ctx) : (setCtx s x y).turn = s.turn := rfl
@[simp] theorem setCtx_cur (x : Nat) (y : Ctx) : (setCtx s x y).cur = s.cur := rfl
@[simp] theorem setCtx_hbm (x : Nat) (y : Ctx) : (setCtx s x y).hbm = s.hbm := rfl
@[simp] theorem setCtx_sram (x : Nat) (y : Ctx) : (setCtx s x y).sram = s.sram := rfl
@[simp] theorem setCtx_capTags (x : Nat) (y : Ctx) : (setCtx s x y).capTags = s.capTags := rfl
@[simp] theorem setCtx_rtags (x : Nat) (y : Ctx) : (setCtx s x y).rtags = s.rtags := rfl
@[simp] theorem setCtx_poison (x : Nat) (y : Ctx) : (setCtx s x y).poison = s.poison := rfl
@[simp] theorem setCtx_epoch (x : Nat) (y : Ctx) : (setCtx s x y).epoch = s.epoch := rfl
@[simp] theorem setCtx_prior (x : Nat) (y : Ctx) : (setCtx s x y).prior = s.prior := rfl
@[simp] theorem setCtx_tlb (x : Nat) (y : Ctx) : (setCtx s x y).tlb = s.tlb := rfl
@[simp] theorem setCtx_cores (x : Nat) (y : Ctx) : (setCtx s x y).cores = s.cores := rfl
@[simp] theorem setCtx_fcp (x : Nat) (y : Ctx) : (setCtx s x y).fcp = s.fcp := rfl
@[simp] theorem setCtx_page (x : Nat) (y : Ctx) : (setCtx s x y).page = s.page := rfl
@[simp] theorem setCtx_cp (x : Nat) (y : Ctx) : (setCtx s x y).cp = s.cp := rfl
@[simp] theorem setCtx_shape (x : Nat) (y : Ctx) : (setCtx s x y).shape = s.shape := rfl
@[simp] theorem setCtx_airing (x : Nat) (y : Ctx) : (setCtx s x y).airing = s.airing := rfl
@[simp] theorem setCtx_forests (x : Nat) (y : Ctx) : (setCtx s x y).forests = s.forests := rfl
@[simp] theorem setCtx_regions (x : Nat) (y : Ctx) : (setCtx s x y).regions = s.regions := rfl
@[simp] theorem setCtx_regGen (x : Nat) (y : Ctx) : (setCtx s x y).regGen = s.regGen := rfl
@[simp] theorem setCtx_port (x : Nat) (y : Ctx) : (setCtx s x y).port = s.port := rfl
@[simp] theorem setCtx_drt (x : Nat) (y : Ctx) : (setCtx s x y).drt = s.drt := rfl
@[simp] theorem setCtx_vbus (x : Nat) (y : Ctx) : (setCtx s x y).vbus = s.vbus := rfl

/-! ### logCp -/

@[simp] theorem logCp_time (k a b : Nat) : (logCp s k a b).time = s.time := rfl
@[simp] theorem logCp_tick (k a b : Nat) : (logCp s k a b).tick = s.tick := rfl
@[simp] theorem logCp_agenda (k a b : Nat) : (logCp s k a b).agenda = s.agenda := rfl
@[simp] theorem logCp_stage (k a b : Nat) : (logCp s k a b).stage = s.stage := rfl
@[simp] theorem logCp_todo (k a b : Nat) : (logCp s k a b).todo = s.todo := rfl
@[simp] theorem logCp_turn (k a b : Nat) : (logCp s k a b).turn = s.turn := rfl
@[simp] theorem logCp_cur (k a b : Nat) : (logCp s k a b).cur = s.cur := rfl
@[simp] theorem logCp_hbm (k a b : Nat) : (logCp s k a b).hbm = s.hbm := rfl
@[simp] theorem logCp_sram (k a b : Nat) : (logCp s k a b).sram = s.sram := rfl
@[simp] theorem logCp_capTags (k a b : Nat) : (logCp s k a b).capTags = s.capTags := rfl
@[simp] theorem logCp_rtags (k a b : Nat) : (logCp s k a b).rtags = s.rtags := rfl
@[simp] theorem logCp_poison (k a b : Nat) : (logCp s k a b).poison = s.poison := rfl
@[simp] theorem logCp_epoch (k a b : Nat) : (logCp s k a b).epoch = s.epoch := rfl
@[simp] theorem logCp_prior (k a b : Nat) : (logCp s k a b).prior = s.prior := rfl
@[simp] theorem logCp_tlb (k a b : Nat) : (logCp s k a b).tlb = s.tlb := rfl
@[simp] theorem logCp_ctxs (k a b : Nat) : (logCp s k a b).ctxs = s.ctxs := rfl
@[simp] theorem logCp_cores (k a b : Nat) : (logCp s k a b).cores = s.cores := rfl
@[simp] theorem logCp_fcp (k a b : Nat) : (logCp s k a b).fcp = s.fcp := rfl
@[simp] theorem logCp_page (k a b : Nat) : (logCp s k a b).page = s.page := rfl
@[simp] theorem logCp_shape (k a b : Nat) : (logCp s k a b).shape = s.shape := rfl
@[simp] theorem logCp_airing (k a b : Nat) : (logCp s k a b).airing = s.airing := rfl
@[simp] theorem logCp_forests (k a b : Nat) : (logCp s k a b).forests = s.forests := rfl
@[simp] theorem logCp_regions (k a b : Nat) : (logCp s k a b).regions = s.regions := rfl
@[simp] theorem logCp_regGen (k a b : Nat) : (logCp s k a b).regGen = s.regGen := rfl
@[simp] theorem logCp_port (k a b : Nat) : (logCp s k a b).port = s.port := rfl
@[simp] theorem logCp_drt (k a b : Nat) : (logCp s k a b).drt = s.drt := rfl
@[simp] theorem logCp_vbus (k a b : Nat) : (logCp s k a b).vbus = s.vbus := rfl

/-! ### dropPrior -/

@[simp] theorem dropPrior_time (p : Phys) (n : Nat) : (dropPrior s p n).time = s.time := rfl
@[simp] theorem dropPrior_tick (p : Phys) (n : Nat) : (dropPrior s p n).tick = s.tick := rfl
@[simp] theorem dropPrior_agenda (p : Phys) (n : Nat) : (dropPrior s p n).agenda = s.agenda := rfl
@[simp] theorem dropPrior_stage (p : Phys) (n : Nat) : (dropPrior s p n).stage = s.stage := rfl
@[simp] theorem dropPrior_todo (p : Phys) (n : Nat) : (dropPrior s p n).todo = s.todo := rfl
@[simp] theorem dropPrior_turn (p : Phys) (n : Nat) : (dropPrior s p n).turn = s.turn := rfl
@[simp] theorem dropPrior_cur (p : Phys) (n : Nat) : (dropPrior s p n).cur = s.cur := rfl
@[simp] theorem dropPrior_hbm (p : Phys) (n : Nat) : (dropPrior s p n).hbm = s.hbm := rfl
@[simp] theorem dropPrior_sram (p : Phys) (n : Nat) : (dropPrior s p n).sram = s.sram := rfl
@[simp] theorem dropPrior_capTags (p : Phys) (n : Nat) : (dropPrior s p n).capTags = s.capTags := rfl
@[simp] theorem dropPrior_rtags (p : Phys) (n : Nat) : (dropPrior s p n).rtags = s.rtags := rfl
@[simp] theorem dropPrior_poison (p : Phys) (n : Nat) : (dropPrior s p n).poison = s.poison := rfl
@[simp] theorem dropPrior_epoch (p : Phys) (n : Nat) : (dropPrior s p n).epoch = s.epoch := rfl
@[simp] theorem dropPrior_tlb (p : Phys) (n : Nat) : (dropPrior s p n).tlb = s.tlb := rfl
@[simp] theorem dropPrior_ctxs (p : Phys) (n : Nat) : (dropPrior s p n).ctxs = s.ctxs := rfl
@[simp] theorem dropPrior_cores (p : Phys) (n : Nat) : (dropPrior s p n).cores = s.cores := rfl
@[simp] theorem dropPrior_fcp (p : Phys) (n : Nat) : (dropPrior s p n).fcp = s.fcp := rfl
@[simp] theorem dropPrior_page (p : Phys) (n : Nat) : (dropPrior s p n).page = s.page := rfl
@[simp] theorem dropPrior_cp (p : Phys) (n : Nat) : (dropPrior s p n).cp = s.cp := rfl
@[simp] theorem dropPrior_shape (p : Phys) (n : Nat) : (dropPrior s p n).shape = s.shape := rfl
@[simp] theorem dropPrior_airing (p : Phys) (n : Nat) : (dropPrior s p n).airing = s.airing := rfl
@[simp] theorem dropPrior_forests (p : Phys) (n : Nat) : (dropPrior s p n).forests = s.forests := rfl
@[simp] theorem dropPrior_regions (p : Phys) (n : Nat) : (dropPrior s p n).regions = s.regions := rfl
@[simp] theorem dropPrior_regGen (p : Phys) (n : Nat) : (dropPrior s p n).regGen = s.regGen := rfl
@[simp] theorem dropPrior_port (p : Phys) (n : Nat) : (dropPrior s p n).port = s.port := rfl
@[simp] theorem dropPrior_drt (p : Phys) (n : Nat) : (dropPrior s p n).drt = s.drt := rfl
@[simp] theorem dropPrior_vbus (p : Phys) (n : Nat) : (dropPrior s p n).vbus = s.vbus := rfl

/-! ### notePrior -/

@[simp] theorem notePrior_time (p : Phys) (n : Nat) : (notePrior s p n).time = s.time := rfl
@[simp] theorem notePrior_tick (p : Phys) (n : Nat) : (notePrior s p n).tick = s.tick := rfl
@[simp] theorem notePrior_agenda (p : Phys) (n : Nat) : (notePrior s p n).agenda = s.agenda := rfl
@[simp] theorem notePrior_stage (p : Phys) (n : Nat) : (notePrior s p n).stage = s.stage := rfl
@[simp] theorem notePrior_todo (p : Phys) (n : Nat) : (notePrior s p n).todo = s.todo := rfl
@[simp] theorem notePrior_turn (p : Phys) (n : Nat) : (notePrior s p n).turn = s.turn := rfl
@[simp] theorem notePrior_cur (p : Phys) (n : Nat) : (notePrior s p n).cur = s.cur := rfl
@[simp] theorem notePrior_hbm (p : Phys) (n : Nat) : (notePrior s p n).hbm = s.hbm := rfl
@[simp] theorem notePrior_sram (p : Phys) (n : Nat) : (notePrior s p n).sram = s.sram := rfl
@[simp] theorem notePrior_capTags (p : Phys) (n : Nat) : (notePrior s p n).capTags = s.capTags := rfl
@[simp] theorem notePrior_rtags (p : Phys) (n : Nat) : (notePrior s p n).rtags = s.rtags := rfl
@[simp] theorem notePrior_poison (p : Phys) (n : Nat) : (notePrior s p n).poison = s.poison := rfl
@[simp] theorem notePrior_epoch (p : Phys) (n : Nat) : (notePrior s p n).epoch = s.epoch := rfl
@[simp] theorem notePrior_tlb (p : Phys) (n : Nat) : (notePrior s p n).tlb = s.tlb := rfl
@[simp] theorem notePrior_ctxs (p : Phys) (n : Nat) : (notePrior s p n).ctxs = s.ctxs := rfl
@[simp] theorem notePrior_cores (p : Phys) (n : Nat) : (notePrior s p n).cores = s.cores := rfl
@[simp] theorem notePrior_fcp (p : Phys) (n : Nat) : (notePrior s p n).fcp = s.fcp := rfl
@[simp] theorem notePrior_page (p : Phys) (n : Nat) : (notePrior s p n).page = s.page := rfl
@[simp] theorem notePrior_cp (p : Phys) (n : Nat) : (notePrior s p n).cp = s.cp := rfl
@[simp] theorem notePrior_shape (p : Phys) (n : Nat) : (notePrior s p n).shape = s.shape := rfl
@[simp] theorem notePrior_airing (p : Phys) (n : Nat) : (notePrior s p n).airing = s.airing := rfl
@[simp] theorem notePrior_forests (p : Phys) (n : Nat) : (notePrior s p n).forests = s.forests := rfl
@[simp] theorem notePrior_regions (p : Phys) (n : Nat) : (notePrior s p n).regions = s.regions := rfl
@[simp] theorem notePrior_regGen (p : Phys) (n : Nat) : (notePrior s p n).regGen = s.regGen := rfl
@[simp] theorem notePrior_port (p : Phys) (n : Nat) : (notePrior s p n).port = s.port := rfl
@[simp] theorem notePrior_drt (p : Phys) (n : Nat) : (notePrior s p n).drt = s.drt := rfl
@[simp] theorem notePrior_vbus (p : Phys) (n : Nat) : (notePrior s p n).vbus = s.vbus := rfl

/-! ### nextEpoch -/

@[simp] theorem nextEpoch_time : (nextEpoch s).time = s.time := rfl
@[simp] theorem nextEpoch_tick : (nextEpoch s).tick = s.tick := rfl
@[simp] theorem nextEpoch_agenda : (nextEpoch s).agenda = s.agenda := rfl
@[simp] theorem nextEpoch_stage : (nextEpoch s).stage = s.stage := rfl
@[simp] theorem nextEpoch_todo : (nextEpoch s).todo = s.todo := rfl
@[simp] theorem nextEpoch_turn : (nextEpoch s).turn = s.turn := rfl
@[simp] theorem nextEpoch_cur : (nextEpoch s).cur = s.cur := rfl
@[simp] theorem nextEpoch_hbm : (nextEpoch s).hbm = s.hbm := rfl
@[simp] theorem nextEpoch_sram : (nextEpoch s).sram = s.sram := rfl
@[simp] theorem nextEpoch_capTags : (nextEpoch s).capTags = s.capTags := rfl
@[simp] theorem nextEpoch_rtags : (nextEpoch s).rtags = s.rtags := rfl
@[simp] theorem nextEpoch_poison : (nextEpoch s).poison = s.poison := rfl
@[simp] theorem nextEpoch_tlb : (nextEpoch s).tlb = s.tlb := rfl
@[simp] theorem nextEpoch_ctxs : (nextEpoch s).ctxs = s.ctxs := rfl
@[simp] theorem nextEpoch_cores : (nextEpoch s).cores = s.cores := rfl
@[simp] theorem nextEpoch_fcp : (nextEpoch s).fcp = s.fcp := rfl
@[simp] theorem nextEpoch_page : (nextEpoch s).page = s.page := rfl
@[simp] theorem nextEpoch_cp : (nextEpoch s).cp = s.cp := rfl
@[simp] theorem nextEpoch_shape : (nextEpoch s).shape = s.shape := rfl
@[simp] theorem nextEpoch_airing : (nextEpoch s).airing = s.airing := rfl
@[simp] theorem nextEpoch_forests : (nextEpoch s).forests = s.forests := rfl
@[simp] theorem nextEpoch_regions : (nextEpoch s).regions = s.regions := rfl
@[simp] theorem nextEpoch_regGen : (nextEpoch s).regGen = s.regGen := rfl
@[simp] theorem nextEpoch_port : (nextEpoch s).port = s.port := rfl
@[simp] theorem nextEpoch_drt : (nextEpoch s).drt = s.drt := rfl
@[simp] theorem nextEpoch_vbus : (nextEpoch s).vbus = s.vbus := rfl

/-! ### setTag -/

@[simp] theorem setTag_time (p : Phys) (b : Bool) : (setTag s p b).time = s.time := rfl
@[simp] theorem setTag_tick (p : Phys) (b : Bool) : (setTag s p b).tick = s.tick := rfl
@[simp] theorem setTag_agenda (p : Phys) (b : Bool) : (setTag s p b).agenda = s.agenda := rfl
@[simp] theorem setTag_stage (p : Phys) (b : Bool) : (setTag s p b).stage = s.stage := rfl
@[simp] theorem setTag_todo (p : Phys) (b : Bool) : (setTag s p b).todo = s.todo := rfl
@[simp] theorem setTag_turn (p : Phys) (b : Bool) : (setTag s p b).turn = s.turn := rfl
@[simp] theorem setTag_cur (p : Phys) (b : Bool) : (setTag s p b).cur = s.cur := rfl
@[simp] theorem setTag_hbm (p : Phys) (b : Bool) : (setTag s p b).hbm = s.hbm := rfl
@[simp] theorem setTag_sram (p : Phys) (b : Bool) : (setTag s p b).sram = s.sram := rfl
@[simp] theorem setTag_rtags (p : Phys) (b : Bool) : (setTag s p b).rtags = s.rtags := rfl
@[simp] theorem setTag_poison (p : Phys) (b : Bool) : (setTag s p b).poison = s.poison := rfl
@[simp] theorem setTag_epoch (p : Phys) (b : Bool) : (setTag s p b).epoch = s.epoch := rfl
@[simp] theorem setTag_prior (p : Phys) (b : Bool) : (setTag s p b).prior = s.prior := rfl
@[simp] theorem setTag_tlb (p : Phys) (b : Bool) : (setTag s p b).tlb = s.tlb := rfl
@[simp] theorem setTag_ctxs (p : Phys) (b : Bool) : (setTag s p b).ctxs = s.ctxs := rfl
@[simp] theorem setTag_cores (p : Phys) (b : Bool) : (setTag s p b).cores = s.cores := rfl
@[simp] theorem setTag_fcp (p : Phys) (b : Bool) : (setTag s p b).fcp = s.fcp := rfl
@[simp] theorem setTag_page (p : Phys) (b : Bool) : (setTag s p b).page = s.page := rfl
@[simp] theorem setTag_cp (p : Phys) (b : Bool) : (setTag s p b).cp = s.cp := rfl
@[simp] theorem setTag_shape (p : Phys) (b : Bool) : (setTag s p b).shape = s.shape := rfl
@[simp] theorem setTag_airing (p : Phys) (b : Bool) : (setTag s p b).airing = s.airing := rfl
@[simp] theorem setTag_forests (p : Phys) (b : Bool) : (setTag s p b).forests = s.forests := rfl
@[simp] theorem setTag_regions (p : Phys) (b : Bool) : (setTag s p b).regions = s.regions := rfl
@[simp] theorem setTag_regGen (p : Phys) (b : Bool) : (setTag s p b).regGen = s.regGen := rfl
@[simp] theorem setTag_port (p : Phys) (b : Bool) : (setTag s p b).port = s.port := rfl
@[simp] theorem setTag_drt (p : Phys) (b : Bool) : (setTag s p b).drt = s.drt := rfl
@[simp] theorem setTag_vbus (p : Phys) (b : Bool) : (setTag s p b).vbus = s.vbus := rfl

/-! ### invalidateTlb -/

@[simp] theorem invalidateTlb_time (x : Nat) : (invalidateTlb s x).time = s.time := rfl
@[simp] theorem invalidateTlb_tick (x : Nat) : (invalidateTlb s x).tick = s.tick := rfl
@[simp] theorem invalidateTlb_agenda (x : Nat) : (invalidateTlb s x).agenda = s.agenda := rfl
@[simp] theorem invalidateTlb_stage (x : Nat) : (invalidateTlb s x).stage = s.stage := rfl
@[simp] theorem invalidateTlb_todo (x : Nat) : (invalidateTlb s x).todo = s.todo := rfl
@[simp] theorem invalidateTlb_turn (x : Nat) : (invalidateTlb s x).turn = s.turn := rfl
@[simp] theorem invalidateTlb_cur (x : Nat) : (invalidateTlb s x).cur = s.cur := rfl
@[simp] theorem invalidateTlb_hbm (x : Nat) : (invalidateTlb s x).hbm = s.hbm := rfl
@[simp] theorem invalidateTlb_sram (x : Nat) : (invalidateTlb s x).sram = s.sram := rfl
@[simp] theorem invalidateTlb_capTags (x : Nat) : (invalidateTlb s x).capTags = s.capTags := rfl
@[simp] theorem invalidateTlb_rtags (x : Nat) : (invalidateTlb s x).rtags = s.rtags := rfl
@[simp] theorem invalidateTlb_poison (x : Nat) : (invalidateTlb s x).poison = s.poison := rfl
@[simp] theorem invalidateTlb_epoch (x : Nat) : (invalidateTlb s x).epoch = s.epoch := rfl
@[simp] theorem invalidateTlb_prior (x : Nat) : (invalidateTlb s x).prior = s.prior := rfl
@[simp] theorem invalidateTlb_ctxs (x : Nat) : (invalidateTlb s x).ctxs = s.ctxs := rfl
@[simp] theorem invalidateTlb_cores (x : Nat) : (invalidateTlb s x).cores = s.cores := rfl
@[simp] theorem invalidateTlb_fcp (x : Nat) : (invalidateTlb s x).fcp = s.fcp := rfl
@[simp] theorem invalidateTlb_page (x : Nat) : (invalidateTlb s x).page = s.page := rfl
@[simp] theorem invalidateTlb_cp (x : Nat) : (invalidateTlb s x).cp = s.cp := rfl
@[simp] theorem invalidateTlb_shape (x : Nat) : (invalidateTlb s x).shape = s.shape := rfl
@[simp] theorem invalidateTlb_airing (x : Nat) : (invalidateTlb s x).airing = s.airing := rfl
@[simp] theorem invalidateTlb_forests (x : Nat) : (invalidateTlb s x).forests = s.forests := rfl
@[simp] theorem invalidateTlb_regions (x : Nat) : (invalidateTlb s x).regions = s.regions := rfl
@[simp] theorem invalidateTlb_regGen (x : Nat) : (invalidateTlb s x).regGen = s.regGen := rfl
@[simp] theorem invalidateTlb_port (x : Nat) : (invalidateTlb s x).port = s.port := rfl
@[simp] theorem invalidateTlb_drt (x : Nat) : (invalidateTlb s x).drt = s.drt := rfl
@[simp] theorem invalidateTlb_vbus (x : Nat) : (invalidateTlb s x).vbus = s.vbus := rfl

/-! ### takeReport -/

@[simp] theorem takeReport_time (k : Nat) (r : Report) : (takeReport s k r).time = s.time := rfl
@[simp] theorem takeReport_tick (k : Nat) (r : Report) : (takeReport s k r).tick = s.tick := rfl
@[simp] theorem takeReport_agenda (k : Nat) (r : Report) : (takeReport s k r).agenda = s.agenda := rfl
@[simp] theorem takeReport_stage (k : Nat) (r : Report) : (takeReport s k r).stage = s.stage := rfl
@[simp] theorem takeReport_todo (k : Nat) (r : Report) : (takeReport s k r).todo = s.todo := rfl
@[simp] theorem takeReport_turn (k : Nat) (r : Report) : (takeReport s k r).turn = s.turn := rfl
@[simp] theorem takeReport_cur (k : Nat) (r : Report) : (takeReport s k r).cur = s.cur := rfl
@[simp] theorem takeReport_hbm (k : Nat) (r : Report) : (takeReport s k r).hbm = s.hbm := rfl
@[simp] theorem takeReport_sram (k : Nat) (r : Report) : (takeReport s k r).sram = s.sram := rfl
@[simp] theorem takeReport_capTags (k : Nat) (r : Report) : (takeReport s k r).capTags = s.capTags := rfl
@[simp] theorem takeReport_rtags (k : Nat) (r : Report) : (takeReport s k r).rtags = s.rtags := rfl
@[simp] theorem takeReport_poison (k : Nat) (r : Report) : (takeReport s k r).poison = s.poison := rfl
@[simp] theorem takeReport_epoch (k : Nat) (r : Report) : (takeReport s k r).epoch = s.epoch := rfl
@[simp] theorem takeReport_prior (k : Nat) (r : Report) : (takeReport s k r).prior = s.prior := rfl
@[simp] theorem takeReport_tlb (k : Nat) (r : Report) : (takeReport s k r).tlb = s.tlb := rfl
@[simp] theorem takeReport_ctxs (k : Nat) (r : Report) : (takeReport s k r).ctxs = s.ctxs := rfl
@[simp] theorem takeReport_fcp (k : Nat) (r : Report) : (takeReport s k r).fcp = s.fcp := rfl
@[simp] theorem takeReport_page (k : Nat) (r : Report) : (takeReport s k r).page = s.page := rfl
@[simp] theorem takeReport_cp (k : Nat) (r : Report) : (takeReport s k r).cp = s.cp := rfl
@[simp] theorem takeReport_shape (k : Nat) (r : Report) : (takeReport s k r).shape = s.shape := rfl
@[simp] theorem takeReport_airing (k : Nat) (r : Report) : (takeReport s k r).airing = s.airing := rfl
@[simp] theorem takeReport_forests (k : Nat) (r : Report) : (takeReport s k r).forests = s.forests := rfl
@[simp] theorem takeReport_regions (k : Nat) (r : Report) : (takeReport s k r).regions = s.regions := rfl
@[simp] theorem takeReport_regGen (k : Nat) (r : Report) : (takeReport s k r).regGen = s.regGen := rfl
@[simp] theorem takeReport_port (k : Nat) (r : Report) : (takeReport s k r).port = s.port := rfl
@[simp] theorem takeReport_drt (k : Nat) (r : Report) : (takeReport s k r).drt = s.drt := rfl
@[simp] theorem takeReport_vbus (k : Nat) (r : Report) : (takeReport s k r).vbus = s.vbus := rfl

/-! ### countErr -/

@[simp] theorem countErr_time (i : Nat) : (countErr s i).time = s.time := rfl
@[simp] theorem countErr_tick (i : Nat) : (countErr s i).tick = s.tick := rfl
@[simp] theorem countErr_agenda (i : Nat) : (countErr s i).agenda = s.agenda := rfl
@[simp] theorem countErr_stage (i : Nat) : (countErr s i).stage = s.stage := rfl
@[simp] theorem countErr_todo (i : Nat) : (countErr s i).todo = s.todo := rfl
@[simp] theorem countErr_turn (i : Nat) : (countErr s i).turn = s.turn := rfl
@[simp] theorem countErr_cur (i : Nat) : (countErr s i).cur = s.cur := rfl
@[simp] theorem countErr_hbm (i : Nat) : (countErr s i).hbm = s.hbm := rfl
@[simp] theorem countErr_sram (i : Nat) : (countErr s i).sram = s.sram := rfl
@[simp] theorem countErr_capTags (i : Nat) : (countErr s i).capTags = s.capTags := rfl
@[simp] theorem countErr_rtags (i : Nat) : (countErr s i).rtags = s.rtags := rfl
@[simp] theorem countErr_poison (i : Nat) : (countErr s i).poison = s.poison := rfl
@[simp] theorem countErr_epoch (i : Nat) : (countErr s i).epoch = s.epoch := rfl
@[simp] theorem countErr_prior (i : Nat) : (countErr s i).prior = s.prior := rfl
@[simp] theorem countErr_tlb (i : Nat) : (countErr s i).tlb = s.tlb := rfl
@[simp] theorem countErr_ctxs (i : Nat) : (countErr s i).ctxs = s.ctxs := rfl
@[simp] theorem countErr_cores (i : Nat) : (countErr s i).cores = s.cores := rfl
@[simp] theorem countErr_fcp (i : Nat) : (countErr s i).fcp = s.fcp := rfl
@[simp] theorem countErr_cp (i : Nat) : (countErr s i).cp = s.cp := rfl
@[simp] theorem countErr_shape (i : Nat) : (countErr s i).shape = s.shape := rfl
@[simp] theorem countErr_airing (i : Nat) : (countErr s i).airing = s.airing := rfl
@[simp] theorem countErr_forests (i : Nat) : (countErr s i).forests = s.forests := rfl
@[simp] theorem countErr_regions (i : Nat) : (countErr s i).regions = s.regions := rfl
@[simp] theorem countErr_regGen (i : Nat) : (countErr s i).regGen = s.regGen := rfl
@[simp] theorem countErr_port (i : Nat) : (countErr s i).port = s.port := rfl
@[simp] theorem countErr_drt (i : Nat) : (countErr s i).drt = s.drt := rfl
@[simp] theorem countErr_vbus (i : Nat) : (countErr s i).vbus = s.vbus := rfl

/-! ### setCmds -/

@[simp] theorem setCmds_time (q : Nat) (cs : List Cmd) : (setCmds s q cs).time = s.time := rfl
@[simp] theorem setCmds_tick (q : Nat) (cs : List Cmd) : (setCmds s q cs).tick = s.tick := rfl
@[simp] theorem setCmds_agenda (q : Nat) (cs : List Cmd) : (setCmds s q cs).agenda = s.agenda := rfl
@[simp] theorem setCmds_stage (q : Nat) (cs : List Cmd) : (setCmds s q cs).stage = s.stage := rfl
@[simp] theorem setCmds_todo (q : Nat) (cs : List Cmd) : (setCmds s q cs).todo = s.todo := rfl
@[simp] theorem setCmds_turn (q : Nat) (cs : List Cmd) : (setCmds s q cs).turn = s.turn := rfl
@[simp] theorem setCmds_cur (q : Nat) (cs : List Cmd) : (setCmds s q cs).cur = s.cur := rfl
@[simp] theorem setCmds_hbm (q : Nat) (cs : List Cmd) : (setCmds s q cs).hbm = s.hbm := rfl
@[simp] theorem setCmds_sram (q : Nat) (cs : List Cmd) : (setCmds s q cs).sram = s.sram := rfl
@[simp] theorem setCmds_capTags (q : Nat) (cs : List Cmd) : (setCmds s q cs).capTags = s.capTags := rfl
@[simp] theorem setCmds_rtags (q : Nat) (cs : List Cmd) : (setCmds s q cs).rtags = s.rtags := rfl
@[simp] theorem setCmds_poison (q : Nat) (cs : List Cmd) : (setCmds s q cs).poison = s.poison := rfl
@[simp] theorem setCmds_epoch (q : Nat) (cs : List Cmd) : (setCmds s q cs).epoch = s.epoch := rfl
@[simp] theorem setCmds_prior (q : Nat) (cs : List Cmd) : (setCmds s q cs).prior = s.prior := rfl
@[simp] theorem setCmds_tlb (q : Nat) (cs : List Cmd) : (setCmds s q cs).tlb = s.tlb := rfl
@[simp] theorem setCmds_ctxs (q : Nat) (cs : List Cmd) : (setCmds s q cs).ctxs = s.ctxs := rfl
@[simp] theorem setCmds_cores (q : Nat) (cs : List Cmd) : (setCmds s q cs).cores = s.cores := rfl
@[simp] theorem setCmds_page (q : Nat) (cs : List Cmd) : (setCmds s q cs).page = s.page := rfl
@[simp] theorem setCmds_cp (q : Nat) (cs : List Cmd) : (setCmds s q cs).cp = s.cp := rfl
@[simp] theorem setCmds_shape (q : Nat) (cs : List Cmd) : (setCmds s q cs).shape = s.shape := rfl
@[simp] theorem setCmds_airing (q : Nat) (cs : List Cmd) : (setCmds s q cs).airing = s.airing := rfl
@[simp] theorem setCmds_forests (q : Nat) (cs : List Cmd) : (setCmds s q cs).forests = s.forests := rfl
@[simp] theorem setCmds_regions (q : Nat) (cs : List Cmd) : (setCmds s q cs).regions = s.regions := rfl
@[simp] theorem setCmds_regGen (q : Nat) (cs : List Cmd) : (setCmds s q cs).regGen = s.regGen := rfl
@[simp] theorem setCmds_port (q : Nat) (cs : List Cmd) : (setCmds s q cs).port = s.port := rfl
@[simp] theorem setCmds_drt (q : Nat) (cs : List Cmd) : (setCmds s q cs).drt = s.drt := rfl
@[simp] theorem setCmds_vbus (q : Nat) (cs : List Cmd) : (setCmds s q cs).vbus = s.vbus := rfl

/-! ### setWindow -/

@[simp] theorem setWindow_time (i : Nat) (w : Option Window) : (setWindow s i w).time = s.time := rfl
@[simp] theorem setWindow_tick (i : Nat) (w : Option Window) : (setWindow s i w).tick = s.tick := rfl
@[simp] theorem setWindow_agenda (i : Nat) (w : Option Window) : (setWindow s i w).agenda = s.agenda := rfl
@[simp] theorem setWindow_stage (i : Nat) (w : Option Window) : (setWindow s i w).stage = s.stage := rfl
@[simp] theorem setWindow_todo (i : Nat) (w : Option Window) : (setWindow s i w).todo = s.todo := rfl
@[simp] theorem setWindow_turn (i : Nat) (w : Option Window) : (setWindow s i w).turn = s.turn := rfl
@[simp] theorem setWindow_cur (i : Nat) (w : Option Window) : (setWindow s i w).cur = s.cur := rfl
@[simp] theorem setWindow_hbm (i : Nat) (w : Option Window) : (setWindow s i w).hbm = s.hbm := rfl
@[simp] theorem setWindow_sram (i : Nat) (w : Option Window) : (setWindow s i w).sram = s.sram := rfl
@[simp] theorem setWindow_capTags (i : Nat) (w : Option Window) : (setWindow s i w).capTags = s.capTags := rfl
@[simp] theorem setWindow_rtags (i : Nat) (w : Option Window) : (setWindow s i w).rtags = s.rtags := rfl
@[simp] theorem setWindow_poison (i : Nat) (w : Option Window) : (setWindow s i w).poison = s.poison := rfl
@[simp] theorem setWindow_epoch (i : Nat) (w : Option Window) : (setWindow s i w).epoch = s.epoch := rfl
@[simp] theorem setWindow_prior (i : Nat) (w : Option Window) : (setWindow s i w).prior = s.prior := rfl
@[simp] theorem setWindow_tlb (i : Nat) (w : Option Window) : (setWindow s i w).tlb = s.tlb := rfl
@[simp] theorem setWindow_ctxs (i : Nat) (w : Option Window) : (setWindow s i w).ctxs = s.ctxs := rfl
@[simp] theorem setWindow_cores (i : Nat) (w : Option Window) : (setWindow s i w).cores = s.cores := rfl
@[simp] theorem setWindow_fcp (i : Nat) (w : Option Window) : (setWindow s i w).fcp = s.fcp := rfl
@[simp] theorem setWindow_page (i : Nat) (w : Option Window) : (setWindow s i w).page = s.page := rfl
@[simp] theorem setWindow_cp (i : Nat) (w : Option Window) : (setWindow s i w).cp = s.cp := rfl
@[simp] theorem setWindow_shape (i : Nat) (w : Option Window) : (setWindow s i w).shape = s.shape := rfl
@[simp] theorem setWindow_airing (i : Nat) (w : Option Window) : (setWindow s i w).airing = s.airing := rfl
@[simp] theorem setWindow_forests (i : Nat) (w : Option Window) : (setWindow s i w).forests = s.forests := rfl
@[simp] theorem setWindow_regions (i : Nat) (w : Option Window) : (setWindow s i w).regions = s.regions := rfl
@[simp] theorem setWindow_regGen (i : Nat) (w : Option Window) : (setWindow s i w).regGen = s.regGen := rfl
@[simp] theorem setWindow_drt (i : Nat) (w : Option Window) : (setWindow s i w).drt = s.drt := rfl
@[simp] theorem setWindow_vbus (i : Nat) (w : Option Window) : (setWindow s i w).vbus = s.vbus := rfl

/-! ### setVbus -/

@[simp] theorem setVbus_time (p : Nat) (b : Vbus) : (setVbus s p b).time = s.time := rfl
@[simp] theorem setVbus_tick (p : Nat) (b : Vbus) : (setVbus s p b).tick = s.tick := rfl
@[simp] theorem setVbus_agenda (p : Nat) (b : Vbus) : (setVbus s p b).agenda = s.agenda := rfl
@[simp] theorem setVbus_stage (p : Nat) (b : Vbus) : (setVbus s p b).stage = s.stage := rfl
@[simp] theorem setVbus_todo (p : Nat) (b : Vbus) : (setVbus s p b).todo = s.todo := rfl
@[simp] theorem setVbus_turn (p : Nat) (b : Vbus) : (setVbus s p b).turn = s.turn := rfl
@[simp] theorem setVbus_cur (p : Nat) (b : Vbus) : (setVbus s p b).cur = s.cur := rfl
@[simp] theorem setVbus_hbm (p : Nat) (b : Vbus) : (setVbus s p b).hbm = s.hbm := rfl
@[simp] theorem setVbus_sram (p : Nat) (b : Vbus) : (setVbus s p b).sram = s.sram := rfl
@[simp] theorem setVbus_capTags (p : Nat) (b : Vbus) : (setVbus s p b).capTags = s.capTags := rfl
@[simp] theorem setVbus_rtags (p : Nat) (b : Vbus) : (setVbus s p b).rtags = s.rtags := rfl
@[simp] theorem setVbus_poison (p : Nat) (b : Vbus) : (setVbus s p b).poison = s.poison := rfl
@[simp] theorem setVbus_epoch (p : Nat) (b : Vbus) : (setVbus s p b).epoch = s.epoch := rfl
@[simp] theorem setVbus_prior (p : Nat) (b : Vbus) : (setVbus s p b).prior = s.prior := rfl
@[simp] theorem setVbus_tlb (p : Nat) (b : Vbus) : (setVbus s p b).tlb = s.tlb := rfl
@[simp] theorem setVbus_ctxs (p : Nat) (b : Vbus) : (setVbus s p b).ctxs = s.ctxs := rfl
@[simp] theorem setVbus_cores (p : Nat) (b : Vbus) : (setVbus s p b).cores = s.cores := rfl
@[simp] theorem setVbus_fcp (p : Nat) (b : Vbus) : (setVbus s p b).fcp = s.fcp := rfl
@[simp] theorem setVbus_page (p : Nat) (b : Vbus) : (setVbus s p b).page = s.page := rfl
@[simp] theorem setVbus_cp (p : Nat) (b : Vbus) : (setVbus s p b).cp = s.cp := rfl
@[simp] theorem setVbus_shape (p : Nat) (b : Vbus) : (setVbus s p b).shape = s.shape := rfl
@[simp] theorem setVbus_airing (p : Nat) (b : Vbus) : (setVbus s p b).airing = s.airing := rfl
@[simp] theorem setVbus_forests (p : Nat) (b : Vbus) : (setVbus s p b).forests = s.forests := rfl
@[simp] theorem setVbus_regions (p : Nat) (b : Vbus) : (setVbus s p b).regions = s.regions := rfl
@[simp] theorem setVbus_regGen (p : Nat) (b : Vbus) : (setVbus s p b).regGen = s.regGen := rfl
@[simp] theorem setVbus_port (p : Nat) (b : Vbus) : (setVbus s p b).port = s.port := rfl
@[simp] theorem setVbus_drt (p : Nat) (b : Vbus) : (setVbus s p b).drt = s.drt := rfl

/-! ### sendPacket -/

@[simp] theorem sendPacket_time (p : Packet) : (sendPacket s p).time = s.time := rfl
@[simp] theorem sendPacket_tick (p : Packet) : (sendPacket s p).tick = s.tick := rfl
@[simp] theorem sendPacket_agenda (p : Packet) : (sendPacket s p).agenda = s.agenda := rfl
@[simp] theorem sendPacket_stage (p : Packet) : (sendPacket s p).stage = s.stage := rfl
@[simp] theorem sendPacket_todo (p : Packet) : (sendPacket s p).todo = s.todo := rfl
@[simp] theorem sendPacket_turn (p : Packet) : (sendPacket s p).turn = s.turn := rfl
@[simp] theorem sendPacket_cur (p : Packet) : (sendPacket s p).cur = s.cur := rfl
@[simp] theorem sendPacket_hbm (p : Packet) : (sendPacket s p).hbm = s.hbm := rfl
@[simp] theorem sendPacket_sram (p : Packet) : (sendPacket s p).sram = s.sram := rfl
@[simp] theorem sendPacket_capTags (p : Packet) : (sendPacket s p).capTags = s.capTags := rfl
@[simp] theorem sendPacket_rtags (p : Packet) : (sendPacket s p).rtags = s.rtags := rfl
@[simp] theorem sendPacket_poison (p : Packet) : (sendPacket s p).poison = s.poison := rfl
@[simp] theorem sendPacket_epoch (p : Packet) : (sendPacket s p).epoch = s.epoch := rfl
@[simp] theorem sendPacket_prior (p : Packet) : (sendPacket s p).prior = s.prior := rfl
@[simp] theorem sendPacket_tlb (p : Packet) : (sendPacket s p).tlb = s.tlb := rfl
@[simp] theorem sendPacket_ctxs (p : Packet) : (sendPacket s p).ctxs = s.ctxs := rfl
@[simp] theorem sendPacket_cores (p : Packet) : (sendPacket s p).cores = s.cores := rfl
@[simp] theorem sendPacket_fcp (p : Packet) : (sendPacket s p).fcp = s.fcp := rfl
@[simp] theorem sendPacket_page (p : Packet) : (sendPacket s p).page = s.page := rfl
@[simp] theorem sendPacket_cp (p : Packet) : (sendPacket s p).cp = s.cp := rfl
@[simp] theorem sendPacket_shape (p : Packet) : (sendPacket s p).shape = s.shape := rfl
@[simp] theorem sendPacket_airing (p : Packet) : (sendPacket s p).airing = s.airing := rfl
@[simp] theorem sendPacket_forests (p : Packet) : (sendPacket s p).forests = s.forests := rfl
@[simp] theorem sendPacket_regions (p : Packet) : (sendPacket s p).regions = s.regions := rfl
@[simp] theorem sendPacket_regGen (p : Packet) : (sendPacket s p).regGen = s.regGen := rfl
@[simp] theorem sendPacket_port (p : Packet) : (sendPacket s p).port = s.port := rfl
@[simp] theorem sendPacket_vbus (p : Packet) : (sendPacket s p).vbus = s.vbus := rfl

end Sys2Proof.Machine
end

