-- ==== Sys2Proof/Laws/Traps.lean ====
section
/-! SUPPORT. What taking a trap can do (R225 to R231). -/

namespace Sys2Proof.Machine

/-- Of a state only HBM (the trap record), the contexts (its count) and the core records change. -/
def trapFrame (s t : State) : Prop := t = { s with hbm := t.hbm, ctxs := t.ctxs, cores := t.cores }

/-- A trap record is a change of HBM and of its context. -/
theorem recordTrap_form (s : State) (c : Nat) (r : Bool) : ∃ m x y, recordTrap s c r = setCtx { s with hbm := m } x y := by
  unfold recordTrap
  dsimp only
  exact ⟨_, _, _, rfl⟩

/-- A trap record changes HBM and the count of its context only. -/
theorem recordTrap_frame (s : State) (c : Nat) (r : Bool) : trapFrame s (recordTrap s c r) ∧ (recordTrap s c r).cores = s.cores := by
  obtain ⟨m, x, y, e⟩ := recordTrap_form s c r
  rw [e]
  exact ⟨rfl, rfl⟩

theorem coreAt_recordTrap (s : State) (c j : Nat) (r : Bool) : coreAt (recordTrap s c r) j = coreAt s j := by
  unfold coreAt
  rw [(recordTrap_frame s c r).2]

/-- A core that stops: its record is frozen, its cause written, the trap recorded; no other core changes. -/
theorem stopCore_cases (s : State) (c : Nat) (k : Cause) (b : Bool) (e : Word) :
    trapFrame s (stopCore s c k b e) ∧ (∀ j, j ≠ c → coreAt (stopCore s c k b e) j = coreAt s j) ∧
      coreAt (stopCore s c k b e) c =
        { writeCause (freeze (coreAt s c)) k e with stop := some { code := k.code, between := b, need := k.need } } := by
  unfold stopCore
  refine ⟨?_, fun j hj => ?_, ?_⟩
  · obtain ⟨m, x, y, h⟩ := recordTrap_form
      (onCore s c fun x => { writeCause (freeze x) k e with stop := some { code := k.code, between := b, need := k.need } }) c (cpResolves k)
    rw [h]
    rfl
  · rw [coreAt_recordTrap, coreAt_onCore_other s c j _ hj]
  · rw [coreAt_recordTrap, coreAt_onCore_same]

/-- A core that enters its handler: nothing but its record changes. -/
theorem enterHandler_cases (s : State) (c : Nat) (k : Cause) :
    enterHandler s c k = { s with cores := (enterHandler s c k).cores } ∧ (∀ j, j ≠ c → coreAt (enterHandler s c k) j = coreAt s j) ∧
      coreAt (enterHandler s c k) c =
        { writeCause (freeze (coreAt s c)) k (coreAt s c).pc with
          inH := true, seq := Sequencer.init, pc := handlerEntry (coreAt s c), idle := branchIdle } :=
  ⟨rfl, fun j hj => coreAt_onCore_other s c j _ hj, coreAt_onCore_same s c _⟩

/-- A trap is a double trap in handler state, else it goes to the task's handler when it is delegated, else it stops the core. -/
theorem takeTrap_cases (s : State) (c : Nat) (k : Cause) :
    ((coreAt s c).inH = true ∧ takeTrap s c k = stopCore s c { k with code := 0x11, sub := k.code } false (coreAt s c).pc) ∨
    ((coreAt s c).inH = false ∧ toHandler s (coreAt s c) k.code = true ∧ takeTrap s c k = enterHandler s c k) ∨
    ((coreAt s c).inH = false ∧ toHandler s (coreAt s c) k.code = false ∧ takeTrap s c k = stopCore s c k false (coreAt s c).pc) := by
  unfold takeTrap
  dsimp only
  by_cases h1 : (coreAt s c).inH = true
  · exact .inl ⟨h1, if_pos h1⟩
  · rw [if_neg h1]
    have h1' := Bool.eq_false_iff.mpr h1
    by_cases h2 : toHandler s (coreAt s c) k.code = true
    · exact .inr (.inl ⟨h1', h2, if_pos h2⟩)
    · exact .inr (.inr ⟨h1', Bool.eq_false_iff.mpr h2, if_neg h2⟩)

/-- A trap changes no other core. -/
theorem takeTrap_others (s : State) (c : Nat) (k : Cause) (j : Nat) (h : j ≠ c) : coreAt (takeTrap s c k) j = coreAt s j := by
  rcases takeTrap_cases s c k with ⟨-, e⟩ | ⟨-, -, e⟩ | ⟨-, -, e⟩ <;> rw [e]
  · exact (stopCore_cases ..).2.1 j h
  · exact (enterHandler_cases ..).2.1 j h
  · exact (stopCore_cases ..).2.1 j h

theorem takeTrap_frame (s : State) (c : Nat) (k : Cause) : trapFrame s (takeTrap s c k) := by
  rcases takeTrap_cases s c k with ⟨-, e⟩ | ⟨-, -, e⟩ | ⟨-, -, e⟩ <;> rw [e]
  · exact (stopCore_cases ..).1
  · rfl
  · exact (stopCore_cases ..).1

/-- A trap keeps the canonical form of memory. -/
theorem memWf_takeTrap {s : State} (h : s.memWf) (c : Nat) (k : Cause) : (takeTrap s c k).memWf := by
  have hs : ∀ (k : Cause) (e : Word), (stopCore s c k false e).memWf := fun k e => memWf_recordTrap (memWf_onCore h c _) c _
  rcases takeTrap_cases s c k with ⟨-, e⟩ | ⟨-, -, e⟩ | ⟨-, -, e⟩ <;> rw [e]
  · exact hs _ _
  · exact memWf_onCore h c _
  · exact hs _ _

end Sys2Proof.Machine
end

