-- ==== Sys2Proof/Laws/Vector.lean ====
section
/-! SUPPORT. Elements of register images, and what a lane-wise vector syllable leaves in flight. -/

namespace Sys2Proof.Machine

/-- Digit e of a number written from its digits. -/
theorem digit_foldr (w : Nat) (xs : List Nat) (e : Nat) :
    xs.foldr (fun x acc => acc * 2 ^ w + x % 2 ^ w) 0 / 2 ^ (w * e) % 2 ^ w = xs.getD e 0 % 2 ^ w := by
  have hp : 0 < 2 ^ w := Nat.two_pow_pos w
  induction xs generalizing e with
  | nil => simp
  | cons x r ih =>
    have hx : x % 2 ^ w < 2 ^ w := Nat.mod_lt _ hp
    cases e with
    | zero => simp [Nat.add_mod, Nat.mul_mod_left]
    | succ e =>
      rw [List.foldr_cons, Nat.mul_succ, Nat.pow_add, Nat.mul_comm (2 ^ (w * e)), ← Nat.div_div_eq_div_mul,
        Nat.mul_comm _ (2 ^ w), Nat.mul_add_div hp, Nat.div_eq_of_lt hx, Nat.add_zero, ih]
      simp

/-- A field of a number cut off above it. -/
theorem field_of_mod (n N a w : Nat) (h : a + w ≤ N) : n % 2 ^ N / 2 ^ a % 2 ^ w = n / 2 ^ a % 2 ^ w := by
  have h1 : 2 ^ N = 2 ^ a * 2 ^ (N - a) := by rw [← Nat.pow_add]; congr 1; omega
  have h2 : 2 ^ (N - a) = 2 ^ w * 2 ^ (N - a - w) := by rw [← Nat.pow_add]; congr 1; omega
  rw [h1, Nat.mod_mul_right_div_self, h2, Nat.mod_mul_right_mod]

/-- Element e of an image built from its elements. -/
theorem elem_fromElems (w : Nat) (xs : List Nat) (e : Nat) (h : w * (e + 1) ≤ 2048) : elem w (fromElems w xs) e = xs.getD e 0 % 2 ^ w := by
  rw [elem, fromElems, BitVec.toNat_ofNat, field_of_mod _ _ _ _ (by rw [Nat.mul_succ] at h; exact h), digit_foldr]

/-- A flag of the OR of a list. -/
theorem flag_foldl (xs : List FRes) (a : BitVec 5) (b : Nat) :
    (xs.foldl (fun a r => a ||| r.2) a).getLsbD b = true ↔ a.getLsbD b = true ∨ ∃ x ∈ xs, x.2.getLsbD b = true := by
  induction xs generalizing a with
  | nil => simp
  | cons x r ih => simp [ih, BitVec.getLsbD_or, or_assoc]

/-- Elements per register and their widths. -/
theorem count_eq (t : ElTy) : t.count = 2048 / t.bits := by cases t <;> rfl
theorem bits_mul_count (t : ElTy) : t.bits * t.count = 2048 := by cases t <;> rfl

/-- The image of a lane-wise result. -/
theorem laneImage_result (c : Core) (t : ElTy) (p : Nat) (old : VWord) (f : Nat → FRes) :
    LaneResult c t.bits p old (laneImage t (readP c p) old f).1 (laneImage t (readP c p) old f).2 f := by
  have hb := bits_mul_count t
  have hc := count_eq t
  have hl : ∀ e, active c p e ↔ lane (readP c p) e = true := fun e => by
    simp [active, lane, BitVec.testBit_toNat]
  refine ⟨fun e he => ?_, fun b _ => ?_⟩
  · rw [← hc] at he
    have hw : t.bits * (e + 1) ≤ 2048 := by rw [← hb]; exact Nat.mul_le_mul_left _ he
    have hd : (((List.range t.count).map fun e => if lane (readP c p) e then f e else (elem t.bits old e, 0)).map Prod.fst).getD e 0 =
        (if lane (readP c p) e then f e else (elem t.bits old e, 0)).1 := by
      simp [List.getD, he]
    have ho : elem t.bits old e % 2 ^ t.bits = elem t.bits old e := Nat.mod_mod _ _
    simp only [laneImage, elem_fromElems _ _ _ hw, hd, hl]
    constructor
    · intro h; rw [if_pos h]
    · intro h; rw [if_neg h]; exact ho
  · simp only [laneImage, flag_foldl, List.mem_map, List.mem_range, ← hc]
    constructor
    · rintro (h | ⟨x, ⟨e, he, rfl⟩, hx⟩)
      · simp at h
      · by_cases ha : lane (readP c p) e = true
        · exact ⟨e, he, (hl e).mpr ha, by simpa [ha] using hx⟩
        · simp [ha] at hx
    · rintro ⟨e, he, ha, hx⟩
      exact Or.inr ⟨_, ⟨e, he, rfl⟩, by simpa [(hl e).mp ha] using hx⟩

/-- A result that agrees on the elements serves as well. -/
theorem LaneResult.congr {c : Core} {w p : Nat} {old x : VWord} {fl : BitVec 5} {f g : Nat → Nat × BitVec 5} (h : LaneResult c w p old x fl f)
    (hfg : ∀ e < 2048 / w, (f e).1 % 2 ^ w = (g e).1 % 2 ^ w ∧ (f e).2 = (g e).2) : LaneResult c w p old x fl g := by
  refine ⟨fun e he => ⟨fun ha => ?_, (h.1 e he).2⟩, fun b hb => (h.2 b hb).trans ?_⟩
  · rw [(h.1 e he).1 ha, (hfg e he).1]
  · exact exists_congr fun e => and_congr_right fun he => by rw [(hfg e he).2]

/-- A lane-wise vector syllable leaves what its element function says. -/
theorem lanes_of {i : Instr} {rg rv : List Nat} {d : Fin 32} {p l : Nat} (t : ElTy) {g : Core → Nat → Nat × BitVec 5}
    (f : Core → Nat → FRes) (he : ∀ s, exec i s = laneOp s i t d p l f) (hg : (uses i).rg = rg) (hw : (uses i).wg = [])
    (hv : (uses i).rv = rv) (hk : (uses i).rk = [])
    (hf : ∀ c, ∀ e < 2048 / t.bits, (f c e).1 % 2 ^ t.bits = (g c e).1 % 2 ^ t.bits ∧ (f c e).2 = (g c e).2) :
    Lanes i rg rv d p l t.bits g := by
  intro s h
  exact ⟨_, (laneImage t (readP (curCore s) p) (readV (curCore s) d) (f (curCore s))).1,
    (laneImage t (readP (curCore s) p) (readV (curCore s) d) (f (curCore s))).2,
    (he s).trans (issue_ok h slotVA i noTests _ hg hw hv hk rfl rfl rfl rfl (Nat.le_refl 0)),
    lands_of_push s i rg hg _ _ _ _ _ rfl,
    (laneImage_result (curCore s) t p (readV (curCore s) d) (f (curCore s))).congr (hf (curCore s))⟩

/-- A vector syllable that writes its whole destination. -/
theorem whole_of {i : Instr} {rv : List Nat} {d : Fin 32} {l : Nat} (f : Core → VWord × BitVec 5)
    (he : ∀ s, exec i s = wholeOp s i d l f) (hg : (uses i).rg = []) (hw : (uses i).wg = []) (hv : (uses i).rv = rv)
    (hk : (uses i).rk = []) : Whole i rv d l f := by
  intro s h
  exact ⟨_, (he s).trans (issue_ok h slotVA i noTests _ hg hw hv hk rfl rfl rfl rfl (Nat.le_refl 0)), lands_of_push s i [] hg _ _ _ _ _ rfl⟩

end Sys2Proof.Machine
end

