-- ==== Sys2Proof/Machine/Line.lean ====
section
/-! DEFINITION. What a frame and a slot are on a lane: the frame's header with its CRC-32C (R286), the slot's RS(544,514) codewords
(R283). Frames reach the die already checked, and a failed check is an event of its own (R288, R291); the order of a frame's bits on the
line and what its payload bytes hold are not in the manual [10]. -/

namespace Sys2Proof.Machine

/-! ### Frames (R286) -/

/-- The 256 payload bytes of a frame whose valid ones are `pay`. -/
def payload (pay : List Byte) : List Byte := pay.take 256 ++ List.replicate (256 - pay.length) 0

/-- Header bits 95:0 of a frame whose payload has `len` valid bytes. -/
def headerLow (f : Frame) (len : Nat) : Nat :=
  f.pseq % 2 ^ 16 + f.resv.toNat * 2 ^ 16 + f.hops % 8 * 2 ^ 22 + f.dst % 2 ^ 10 * 2 ^ 25 + f.dh.toNat * 2 ^ 35 + f.src % 2 ^ 10 * 2 ^ 36 +
    f.sh.toNat * 2 ^ 46 + f.vc.val * 2 ^ 47 + bodyKind f.body * 2 ^ 49 + min 256 len * 2 ^ 55 + f.ctx % 2 ^ 16 * 2 ^ 64 + f.seq % 2 ^ 16 * 2 ^ 80

/-- The CRC of a header's low 96 bits and the payload. -/
def frameCrc (low : Nat) (pay : List Byte) : Nat := crc32c (leBytes 12 low ++ payload pay)

/-- The header of a frame with its CRC. -/
def frameHeader (f : Frame) (pay : List Byte) : BitVec 128 :=
  let low := headerLow f pay.length
  BitVec.ofNat 128 (low + frameCrc low pay * 2 ^ 96)

/-- The CRC check of a receiver (R288). -/
def crcGood (h : BitVec 128) (pay : List Byte) : Bool := rbits h 96 32 == frameCrc (rbits h 0 96) pay

/-- The 2,176 bits of a frame: the header, then the payload. -/
def frameBits (f : Frame) (pay : List Byte) : Nat := (frameHeader f pay).toNat + leNat (payload pay) * 2 ^ 128

/-! ### Reed-Solomon codewords (R283): the code of IEEE 802.3, of 10-bit symbols -/

/-- Twice a symbol, in GF(2^10) with x^10 + x^3 + 1; the manual names IEEE 802.3 and does not write the field out (PRESUMED [90]). -/
def gfDouble (a : Nat) : Nat := if 512 ≤ a then (2 * a) ^^^ 0x409 else 2 * a

/-- The product of two symbols. -/
def gfMul (a b : Nat) : Nat := (List.range 10).foldl (fun r i => gfDouble r ^^^ (if b.testBit (9 - i) then a else 0)) 0

/-- The powers of the primitive element from `a` on. -/
def gfPowers : Nat → Nat → List Nat
  | 0, _ => []
  | n + 1, a => a :: gfPowers n (gfDouble a)

/-- A monic polynomial, its highest coefficient left out and the others highest first, times x + r. -/
def polyTimes (p : List Nat) (r : Nat) : List Nat := List.zipWith (fun a b => a ^^^ gfMul r b) (p ++ [0]) (1 :: p)

/-- The generator polynomial: its roots are the first 30 powers of the primitive element. -/
def rsGenerator : List Nat := (gfPowers 30 1).foldl polyTimes []

/-- The 30 parity symbols of a message, both with the first-sent symbol first. A shortened message is one whose leading symbols are 0. -/
def rsParity (gen msg : List Nat) : List Nat :=
  msg.foldl (fun st m =>
    let fb := m ^^^ st.headD 0
    List.zipWith (fun s g => s ^^^ gfMul fb g) (st.drop 1 ++ [0]) gen) (List.replicate 30 0)

/-- The symbols of message j of `n` bits: 514, or fewer in the last. -/
def messageSymbols (bits_ n j : Nat) : List Nat :=
  (List.range ((min 5140 (n - 5140 * j) + 9) / 10)).map fun k => bits_ / 2 ^ (5140 * j + 10 * k) % 1024

/-- The parity symbols of a slot that carries these frames, codeword by codeword; they fill the slot's last frame times, and the rest of
those is zero. -/
def slotParity (frames : List Nat) : List Nat :=
  let n := 2176 * frames.length
  let bits_ := frames.foldr (fun f r => f + r * 2 ^ 2176) 0
  let gen := rsGenerator
  (List.range ((n + 5139) / 5140)).flatMap fun j => rsParity gen (messageSymbols bits_ n j)

end Sys2Proof.Machine
end

