-- ==== Sys2Proof/Tests/Slice0.lean ====
section
/-! SUPPORT. Tests of the model: what well-formedness refuses, words of the manual decoded, single steps with values
computed from the manual, and states that meet the hypotheses of each statement. -/

set_option Elab.async false

namespace Sys2Proof.Tests

open Sys2Proof.Machine

/-! ### Well-formedness: each check refuses an ill-formed term -/

theorem test_refuses_bnkLock_count : wellFormed (.bnkLock 5 0) = false := by decide
theorem test_refuses_bnkLock_name : wellFormed (.bnkLock 56 1) = false := by decide
theorem test_refuses_loopm_name : wellFormed (.loopm 56 3 0) = false := by decide
theorem test_refuses_bfx_width : wellFormed (.bfx 1 2 false 16 48) = false := by decide
theorem test_refuses_bfi_width : wellFormed (.bfi 1 2 63 1) = false := by decide
theorem test_refuses_vadd_integer_rounding : wellFormed (.vadd .i32 1 2 3 0 .rtz false) = false := by decide
theorem test_refuses_vadd_float_saturates : wellFormed (.vadd .fp32 1 2 3 0 .rne true) = false := by decide
theorem test_refuses_vsub_integer_rounding : wellFormed (.vsub .n16 1 2 3 0 .rup false) = false := by decide
theorem test_refuses_vmul_float_saturates : wellFormed (.vmul .bf16 1 2 3 0 .rne true) = false := by decide
theorem test_refuses_vfma_integer : wellFormed (.vfma .i32 1 2 3 0 .rne false) = false := by decide
theorem test_refuses_vabs_unsigned : wellFormed (.vabs .n8 1 2 0 false) = false := by decide
theorem test_refuses_vabs_float_saturates : wellFormed (.vabs .fp32 1 2 0 true) = false := by decide
theorem test_refuses_vadds_integer_rounding : wellFormed (.vadds .i8 1 2 3 0 .rdn) = false := by decide
theorem test_refuses_vmuls_integer_rounding : wellFormed (.vmuls .i16 1 2 3 0 .rtz) = false := by decide
theorem test_refuses_vfmas_integer : wellFormed (.vfmas .n32 1 2 3 0 .rne) = false := by decide
theorem test_refuses_vdiv_integer : wellFormed (.vdiv .i32 1 2 3 0 .rne) = false := by decide
theorem test_refuses_vsqrt_integer : wellFormed (.vsqrt .n32 1 2 0 .rne) = false := by decide
theorem test_refuses_vshl_float : wellFormed (.vshl .fp32 1 2 3 0) = false := by decide
theorem test_refuses_vshr_float : wellFormed (.vshr .bf16 1 2 3 0) = false := by decide
theorem test_refuses_vsra_float : wellFormed (.vsra .fp32 1 2 3 0) = false := by decide
theorem test_refuses_vshli_float : wellFormed (.vshli .fp32 1 2 0 1) = false := by decide
theorem test_refuses_vshri_float : wellFormed (.vshri .bf16 1 2 0 1) = false := by decide
theorem test_refuses_vsrai_float : wellFormed (.vsrai .fp32 1 2 0 1) = false := by decide
theorem test_refuses_vcvt_same_type : wellFormed (.vcvt .i32 .i32 1 2 0 .rne false) = false := by decide
theorem test_refuses_vcvt_high_same_width : wellFormed (.vcvt .fp32 .i32 1 2 0 .rne true) = false := by decide
theorem test_refuses_vcvt_four_to_one : wellFormed (.vcvt .i8 .i32 1 2 0 .rne false) = false := by decide
theorem test_refuses_vcvt_bf16_to_bytes : wellFormed (.vcvt .i8 .bf16 1 2 0 .rne false) = false := by decide
theorem test_refuses_vpack_word : wellFormed (.vpack .i32 1 2 3 0 false) = false := by decide
theorem test_refuses_vunpack_byte : wellFormed (.vunpack .i8 1 2 0 false) = false := by decide
theorem test_refuses_vrot_count : wellFormed (.vrot .i32 1 2 0 false 64) = false := by decide
theorem test_refuses_vext_index : wellFormed (.vext .i32 1 2 0 2) = false := by decide
theorem test_refuses_vred_integer_rounding : wellFormed (.vred .i32 .add 1 2 0 .rtz false) = false := by decide
theorem test_refuses_vred_max_saturates : wellFormed (.vred .i32 .max 1 2 0 .rne true) = false := by decide
theorem test_refuses_vscan_narrow : wellFormed (.vscan .i16 .add 1 2 0 .rne false) = false := by decide
theorem test_refuses_vdot4_word : wellFormed (.vdot4 .i32 1 2 3 0 false) = false := by decide
theorem test_refuses_ld_signed_word : wellFormed (.ld false 3 false true 1 2 0) = false := by decide
theorem test_refuses_mop_float_wide : wellFormed (.mop .add .flt true false 2 3) = false := by decide
theorem test_refuses_mop_cas_odd : wellFormed (.mop .cas .nat false false 3 4) = false := by decide
theorem test_refuses_mop_saxpy_type : wellFormed (.mop .saxpy .nat false false 2 4) = false := by decide
theorem test_refuses_amo_fadd_wide : wellFormed (.amo .fadd 0 true false 2 3) = false := by decide
theorem test_refuses_amo_cas_top : wellFormed (.amo .cas 0 false false 56 3) = false := by decide
theorem test_refuses_barInit_pair : wellFormed (.barInit 1 3) = false := by decide
theorem test_refuses_tlRd_code : wellFormed (.tlRd 1 16) = false := by decide
theorem test_refuses_tlInc_code : wellFormed (.tlInc 1 12) = false := by decide
theorem test_refuses_tlAcq_code : wellFormed (.tlAcq 1 2 63) = false := by decide
theorem test_refuses_cpTabwL_pair : wellFormed (.cpTabwL 1 0) = false := by decide
theorem test_refuses_mxCfg_pair : wellFormed (.mxCfg 1 55) = false := by decide
theorem test_refuses_rld_size : wellFormed (.rld 0 1 2 false false 6) = false := by decide
theorem test_refuses_rld_signed_word : wellFormed (.rld 0 1 2 false true 3) = false := by decide
theorem test_refuses_rst_size : wellFormed (.rst 0 1 2 false 7) = false := by decide
theorem test_refuses_ramo_fadd_wide : wellFormed (.ramo .fadd 0 true 0 1 2) = false := by decide
theorem test_refuses_ramo_cas_odd : wellFormed (.ramo .cas 0 false 0 1 3) = false := by decide
theorem test_refuses_capmkNew_pair : wellFormed (.capmkNew 0 3) = false := by decide
theorem test_refuses_capmkDer_pair : wellFormed (.capmkDer 0 5 1) = false := by decide
theorem test_refuses_rmaPut_pair : wellFormed (.rmaPut 0 1 3 false) = false := by decide
theorem test_refuses_rmaGet_pair : wellFormed (.rmaGet 0 1 56) = false := by decide
theorem test_refuses_rmaReg_pair : wellFormed (.rmaReg 0 7) = false := by decide

theorem test_admits_0 : wellFormed (.bnkLock 55 1) = true := by decide
theorem test_admits_1 : wellFormed (.loopm 55 15 7) = true := by decide
theorem test_admits_2 : wellFormed (.bfx 1 2 false 15 48) = true := by decide
theorem test_admits_3 : wellFormed (.bfi 1 2 0 63) = true := by decide
theorem test_admits_4 : wellFormed (.vrot .i32 1 2 0 false 63) = true := by decide
theorem test_admits_5 : wellFormed (.vext .i8 1 2 31 7) = true := by decide
theorem test_admits_6 : wellFormed (.mop .cas .nat true false 54 4) = true := by decide
theorem test_admits_7 : wellFormed (.tlRd 1 15) = true := by decide
theorem test_admits_8 : wellFormed (.tlRd 1 64) = true := by decide
theorem test_admits_9 : wellFormed (.tlInc 1 13) = true := by decide
theorem test_admits_10 : wellFormed (.rld 0 1 2 false false 5) = true := by decide
theorem test_admits_11 : wellFormed (.capmkNew 0 2) = true := by decide
theorem test_admits_12 : wellFormed (.vcvt .bf16 .fp32 1 2 0 .rdn true) = true := by decide

/-! ### Decoding: words of chapters 07, 10, 14, 17, 20, 21, 23, 24 of the manual, and words written out from the formats -/

/-- addi g5, g4, 16 (XI: opcode, gd, ga, imm13) -/
theorem test_decodes_addi : decode .x (0b0000011 * 2 ^ 25 + 5 * 2 ^ 19 + 4 * 2 ^ 13 + 16) = some (.addi 5 4 16) := by decide +kernel
theorem test_decodes_bfx : decode .x (0b0100001 * 2 ^ 25 + 20 * 2 ^ 19 + 7 * 2 ^ 13 + 9 * 2 ^ 6 + 47) = some (.bfx 20 7 false 9 47) := by decide +kernel
theorem test_decodes_bfi : decode .x (0b0100010 * 2 ^ 25 + 53 * 2 ^ 19 + 50 * 2 ^ 13 + 9 * 2 ^ 6 + 47) = some (.bfi 53 50 9 47) := by decide +kernel
theorem test_decodes_loopm : decode .pfx (0x04014600) = some (.loopm 10 3 0) := by decide +kernel
theorem test_decodes_shw : decode .x (0x6044400D) = some (.shw 8 13 34) := by decide +kernel
theorem test_decodes_shw1 : decode .x (0x6004400D) = some (.shw 0 13 34) := by decide +kernel
/-- br p2, -3 -/
theorem test_decodes_br : decode .br (0b0000001 * 2 ^ 25 + 2 * 2 ^ 22 + (2 ^ 18 - 3)) = some (.br 2 false 0x3FFFD) := by decide +kernel
/-- vadd.f32 v3, v1, v2 -/
theorem test_decodes_vadd : decode .v (0b0000001 * 2 ^ 25 + 3 * 2 ^ 20 + 1 * 2 ^ 15 + 2 * 2 ^ 10 + 1 * 2 ^ 5) = some (.vadd .fp32 3 1 2 0 .rne false) := by decide +kernel
theorem test_decodes_vadds : decode .v (0x1020B018) = some (.vadds .bf16 2 1 24 0 .rne) := by decide +kernel
theorem test_decodes_vred : decode .v (0x6C418030) = some (.vred .bf16 .add 4 3 0 .rne false) := by decide +kernel
theorem test_decodes_vld : decode .mm (0x06530000) = some (.vld false .w4 false 0 5 12) := by decide +kernel
theorem test_decodes_fsSend : decode .en (0x80000080) = some (.fsSend 0 0 true) := by decide +kernel
theorem test_decodes_rld : decode .en (0x88259504) = some (.rld 2 22 21 false false 4) := by decide +kernel
theorem test_decodes_capmkNew : decode .en (0x96160000) = some (.capmkNew 1 24) := by decide +kernel
theorem test_decodes_capst : decode .en (0x9415C000) = some (.capst 1 23 false) := by decide +kernel
theorem test_decodes_capld : decode .en (0x9221C000) = some (.capld 2 7 false) := by decide +kernel
theorem test_decodes_tlAcq : decode .en (0x1008490B) = some (.tlAcq 9 33 11) := by decide +kernel
theorem test_decodes_cpGo : decode .en (0x20000080) = some (.cpGo 0 0 true) := by decide +kernel
theorem test_decodes_mxGo : decode .en (0x42100000) = some (.mxGo 1 false false) := by decide +kernel
theorem test_decodes_mxDrain : decode .en (0x460D0000) = some (.mxDrain 0 52 false) := by decide +kernel
theorem test_decodes_mxFmt : decode .en (0x4C002900) = some (.mxFmt 0 41) := by decide +kernel
theorem test_decodes_mxRd : decode .en (0x50430000) = some (.mxRd 4 12) := by decide +kernel
theorem test_decodes_vpFwd : decode .en (0x60100080) = some (.vpFwd 1 true) := by decide +kernel
theorem test_decodes_vpBwd : decode .en (0x62200080) = some (.vpBwd 2 true) := by decide +kernel
theorem test_decodes_vpMerge : decode .en (0x64034E00) = some (.vpMerge 13 14) := by decide +kernel
theorem test_decodes_vpRd : decode .en (0x6622C001) = some (.vpRd 2 11 true) := by decide +kernel
theorem test_decodes_eqSnap : decode .en (0x76000000) = some (.eqSnap 0) := by decide +kernel
theorem test_decodes_eqSize : decode .en (0x7C028900) = some (.eqSize 10 9 0) := by decide +kernel
theorem test_decodes_cpChk : decode .en (0x28500001) = some (.cpChk 1 1 false true) := by decide +kernel
theorem test_decodes_chase : decode .en (0x900A2902) = some (.chase 0 40 41 true false) := by decide +kernel

/-! ### States for the tests -/

open Sys2Proof.Stmt

/-- A task that runs. -/
def task0 : Task where
  ctx := 0
  entry := 0
  regs := [1, 2, 3, 4, 5, 6, 7, 8]
  q := 0
  launch := none
  record := none
  done := 0
  prio := 0

/-- A core that runs a task and has nothing pending. -/
def core0 : Core := { Core.init with task := some task0, begun := true }

/-- A resident context whose domain is ranks 0 and 5. -/
def ctx0 : Ctx := { Ctx.absent with resident := true, members := [0, 5], tring := 4096, area := 65536, ncore := 512 }

/-- A die whose core 0 of context 0 has the record `c`. -/
def at0 (c : Core) : State := { State.reset with cores := [(0, c)], ctxs := [(0, some ctx0)] }

theorem curCore_at0 (c : Core) : curCore (at0 c) = c := rfl

/-- A core with nothing pending can issue a syllable that names no FIFO. -/
theorem quiet {c : Core} (ha : c.accs = []) (hr : c.rets = []) (he : c.engs = []) (hp : c.phase = .alone)
    (rg wg rv rk : List Nat) (n : Nat) (h1 : ∀ i ∈ rg, i < 56) (h2 : ∀ i ∈ wg, i < 56) (hn : n ≤ 48) :
    CanIssue c rg wg rv rk n := by
  have hd : ∀ d, pendingAt c d = false := by
    intro d
    simp [pendingAt, ha, hr, he, engWriter]
  refine ⟨by rw [hp]; decide, fun i hi => ?_, fun i hi h => absurd (h2 i hi) (by omega), fun i _ => hd _, fun i _ => hd _, ?_⟩
  · have := h1 i hi
    simp only [gReadable]
    rw [if_neg (by omega)]
    exact hd _
  · simpa [entsUsed, ha] using hn

/-- General register i of the core holds w. -/
def withG (c : Core) (i : Nat) (w : Word) : Core := { c with g := c.g.set i w }

/-- A core whose FIFO pair 7 is bound and holds a word, and whose pair 0 is bound with room for one more. -/
def coreF : Core :=
  { core0 with fifos := [(0, { Fifo.init with peer := some (5, 3, 1), fo := List.replicate 15 0 }),
                         (7, { Fifo.init with peer := some (5, 3, 1), fi := [9] })] }

/-- The FIFO names at their limits: g63 can be read while its fi holds a word, g56 written while its fo has one place left. -/
theorem witness_fifo_names : CanIssue coreF [63, 55, 0] [56] [31] [15] 48 := by
  refine ⟨by decide, ?_, ?_, by decide, by decide, by decide⟩
  · unfold gReadable; decide
  · unfold gWritable; decide

/-! ### Witnesses: states and operands that meet the hypotheses of each statement, clause by clause -/

/-- ... of a syllable that names no register. -/
theorem quietNone {c : Core} {n : Nat} (hp : c.phase = .alone) (h : entsUsed c + n ≤ 48) : CanIssue c [] [] [] [] n :=
  ⟨by rw [hp]; decide, by simp, by simp, by simp, by simp, h⟩

/-- ScalarResults, ScalarDivisionResults, ComparisonResults, PredicateLogicAndBitFields: a register may be source and destination. -/
theorem witness_scalar_operands : CanIssue core0 [55, 1] [55] [] [] 0 ∧ CanIssue core0 [1, 2, 3] [3] [] [] 0 ∧ CanIssue core0 [] [0] [] [] 0 :=
  ⟨quiet rfl rfl rfl rfl _ _ _ _ _ (by decide) (by decide) (by decide), quiet rfl rfl rfl rfl _ _ _ _ _ (by decide) (by decide) (by decide),
    quiet rfl rfl rfl rfl _ _ _ _ _ (by decide) (by decide) (by decide)⟩

/-- PredicateLogicAndBitFields: fields that just fit. -/
theorem witness_fields : (63 : Fin 64).val + ((0 : Fin 64).val + 1) ≤ 64 ∧ (0 : Fin 64).val + ((63 : Fin 64).val + 1) ≤ 64 := by decide

/-- BranchTargets: a branch taken and one not taken; targets that are good, misaligned, of another owner, and not canonical. -/
theorem witness_branches :
    CanIssue core0 [] [55] [] [] 0 ∧
    (((readP core0 0).toNat % 2 = 1) ↔ (false = false)) ∧ ¬(((readP core0 1).toNat % 2 = 1) ↔ (false = false)) ∧
    ((readP core0 0 ≠ 0) ↔ (false = false)) ∧ ¬((readP core0 1 ≠ 0) ↔ (false = false)) ∧
    CanIssue (curCore (at0 (withG core0 55 (2 ^ 47 - 64)))) [55] [0] [] [] 0 ∧
    goodTarget (at0 (withG core0 55 (2 ^ 47 - 64))) (readG (withG core0 55 (2 ^ 47 - 64)) 55) ∧
    (withG core0 55 0x41).phase = .alone ∧ (readG (withG core0 55 0x41) 55).toNat % 64 ≠ 0 ∧
    (2 ^ 47 : Word).toNat % 64 = 0 ∧ ¬((2 ^ 47 : Word).toNat / 2 ^ 57 = 0 ∧ (2 ^ 47 : Word).toNat / 2 ^ 47 % 1024 = (at0 core0).port.rank) ∧
    (2 ^ 57 : Word).toNat % 64 = 0 ∧ ¬((2 ^ 57 : Word).toNat / 2 ^ 57 = 0 ∧ (2 ^ 57 : Word).toNat / 2 ^ 47 % 1024 = (at0 core0).port.rank) := by
  refine ⟨quiet rfl rfl rfl rfl _ _ _ _ _ (by decide) (by decide) (by decide), by decide, by decide, by decide, by decide,
    quiet rfl rfl rfl rfl _ _ _ _ _ (by decide) (by decide) (by decide), ?_, by decide, by decide, by decide, by decide, by decide, by decide⟩
  unfold goodTarget
  decide

/-- A core in handler state, and one whose sequencer runs a loop. -/
def coreH : Core := { core0 with inH := true }
def coreL : Core := { core0 with seq := { Sequencer.init with active := true, n := 3, ii := 1, sc := 1 } }

/-- PrefixesNopAndShapeWrites: outside and inside handler state, outside and inside a loop. -/
theorem witness_prefixes :
    (CanIssue core0 [55] [] [] [] 0 ∧ core0.inH = false) ∧ (CanIssue coreH [55] [] [] [] 0 ∧ coreH.phase = .alone ∧ coreH.inH = true) ∧
    (CanIssue coreL [] [] [] [] 0 ∧ coreL.seq.active = true) ∧ (core0.phase = .alone ∧ core0.seq.active = false) :=
  ⟨⟨quiet rfl rfl rfl rfl _ _ _ _ _ (by decide) (by decide) (by decide), rfl⟩,
    ⟨quiet rfl rfl rfl rfl _ _ _ _ _ (by decide) (by decide) (by decide), rfl, rfl⟩, ⟨quietNone rfl (by decide), rfl⟩, rfl, rfl⟩

/-- A core with a load still to return, and one in handler state with a result in flight. -/
def coreR : Core := { core0 with rets := [{ id := 1, dest := .g 1, dead := false, val := .s 0 }] }
def coreHR : Core := { coreH with results := [{ dest := .g 1, val := .s 0, land := 9, flags := 0, ord := 1 }] }
def snap0 : Snapshot := { results := [], icycle := 0, accs := [], rets := [], seq := Sequencer.init, lock := none, pc := 64, issued := 0, after := .next, sdone := [] }
def coreHS : Core := { coreH with snap := some snap0 }

/-- TaskEndAndReturnConditions: a tend that goes on and one that is held; an eret that goes on, one held, one outside a handler. -/
theorem witness_ends :
    (CanIssue core0 [] [] [] [] 0 ∧ core0.rets = [] ∧ (∀ a ∈ core0.accs, a.dest = .none ∧ ∀ t n, a.op ≠ .tlAcq t n) ∧ core0.phase = .alone ∧
      core0.inH = false) ∧
    (CanIssue coreR [] [] [] [] 0 ∧ coreR.phase = .alone ∧ ¬(coreR.rets = [] ∧ ∀ a ∈ coreR.accs, a.dest = .none ∧ ∀ t n, a.op ≠ .tlAcq t n)) ∧
    (CanIssue coreHS [] [] [] [] 0 ∧ coreHS.inH = true ∧ coreHS.results = [] ∧ coreHS.accs = [] ∧ coreHS.rets = [] ∧
      ∀ n, coreHS.snap = some n → ∀ e ∈ coreHS.engs, ∀ o ∈ e.2, o.order ≤ n.issued) ∧
    (CanIssue coreHR [] [] [] [] 0 ∧ coreHR.phase = .alone ∧ coreHR.inH = true ∧ ¬(coreHR.results = [] ∧ coreHR.accs = [] ∧ coreHR.rets = [] ∧
      ∀ n, coreHR.snap = some n → ∀ e ∈ coreHR.engs, ∀ o ∈ e.2, o.order ≤ n.issued)) := by
  refine ⟨⟨quietNone rfl (by decide), rfl, by simp [core0, Core.init], rfl, rfl⟩, ⟨quietNone rfl (by decide), rfl, by simp [coreR]⟩,
    ⟨quietNone rfl (by decide), rfl, rfl, rfl, rfl, by simp [coreHS, coreH, core0, Core.init]⟩,
    quietNone rfl (by decide), rfl, rfl, by simp [coreHR]⟩

/-- A core with a register parked in a tile, and one with a register parked in its spill basket. -/
def coreP : Core :=
  { core0 with spill := [{ idx := 3, loc := .col 0 0 }], csr := { core0.csr with parkcfg := 1 } }
def coreB : Core :=
  { core0 with spill := [{ idx := 3, loc := .spill 0 }], baskets := [(0, 512 * 2 ^ 22)], csr := { core0.csr with parkcfg := 2 ^ 25 } }

/-- ControlRegisterAccess: an assigned and an unassigned address; writes that are legal and illegal, PARKCFG among them. -/
theorem witness_control_registers :
    (CanIssue core0 [1] [2] [] [] 0 ∧ (0x048 : BitVec 12).toNat ∈ assignedCsrs ∧ (0x0FF : BitVec 12).toNat ∉ assignedCsrs) ∧
    writeLegal core0 (0x011 : BitVec 12).toNat 5 ∧ writeLegal core0 (0x014 : BitVec 12).toNat 0 ∧
    ¬writeLegal core0 (0x010 : BitVec 12).toNat 5 ∧ ¬writeLegal coreP (0x014 : BitVec 12).toNat 2 ∧ ¬writeLegal coreB (0x014 : BitVec 12).toNat 0 := by
  refine ⟨⟨quiet rfl rfl rfl rfl _ _ _ _ _ (by decide) (by decide) (by decide), by decide, by decide⟩, ⟨by decide, fun h => absurd h (by decide)⟩,
    ⟨by decide, fun _ => ?_⟩, fun h => absurd h.1 (by decide), fun h => h.2 rfl (.inl ⟨_, List.mem_singleton_self _, 0, 0, rfl, by decide⟩),
    fun h => h.2 rfl (.inr ⟨⟨_, List.mem_singleton_self _, 0, rfl⟩, .inr (by decide)⟩)⟩
  rintro (⟨q, hq, _⟩ | ⟨⟨q, hq, _⟩, _⟩) <;> simp [core0, Core.init] at hq

def coreT : Core := { core0 with csr := { core0.csr with parkcfg := 2 ^ 15 } }
def coreS : Core := { core0 with baskets := [(0, 256 * 2 ^ 22)], csr := { core0.csr with parkcfg := 2 ^ 25 } }

/-- SpillMapStack: a free column pair, room in the spill basket, a full map; a top entry in each place, and another top. -/
theorem witness_spill_map :
    (CanIssue coreT [] [] [31] [] 0 ∧ parkPlace coreT = some (.col 15 0)) ∧ (CanIssue coreS [] [] [31] [] 1 ∧ parkPlace coreS = some (.spill 0)) ∧
    (CanIssue core0 [] [] [0] [] 0 ∧ core0.phase = .alone ∧ parkPlace core0 = none) ∧
    (CanIssue coreP [] [] [] [] 0 ∧ coreP.spill = { idx := 3, loc := .col 0 0 } :: [] ∧ 3 = physV coreP 3) ∧
    (CanIssue coreB [] [] [] [] 1 ∧ coreB.spill = { idx := 3, loc := .spill 0 } :: [] ∧ 3 = physV coreB 3) ∧
    (∀ p r, core0.spill = p :: r → p.idx ≠ physV core0 3) ∧ (∀ p r, coreP.spill = p :: r → p.idx ≠ physV coreP 4) := by
  refine ⟨⟨quiet rfl rfl rfl rfl _ _ _ _ _ (by decide) (by decide) (by decide), by decide +kernel⟩,
    ⟨quiet rfl rfl rfl rfl _ _ _ _ _ (by decide) (by decide) (by decide), by decide +kernel⟩,
    ⟨quiet rfl rfl rfl rfl _ _ _ _ _ (by decide) (by decide) (by decide), rfl, by decide +kernel⟩, ⟨quietNone rfl (by decide), rfl, by decide⟩,
    ⟨quietNone rfl (by decide), rfl, by decide⟩, ?_, ?_⟩
  · intro p r h; simp [core0, Core.init] at h
  · intro p r h
    injection h with h _
    subst h
    decide

/-- A core with a handler that takes illegal instructions. -/
def coreD : Core := { core0 with csr := { core0.csr with tdeleg := 2, tvec := 0x1001 } }

/-- TrapEntry: a delegated trap, one that is not, one in handler state; a record clear of THEAD. -/
theorem witness_traps :
    ((coreAt (at0 coreD) 0).inH = false ∧ Delegated (at0 coreD) (coreAt (at0 coreD) 0) 0x01) ∧
    ((coreAt (at0 core0) 0).inH = false ∧ ¬Delegated (at0 core0) (coreAt (at0 core0) 0) 0x01) ∧ (coreAt (at0 coreH) 0).inH = true ∧
    (let z := ctxAt (at0 core0) (keyCtx 0)
     z.tring + 64 * (z.thead % 4096) + 64 ≤ z.area + 0x40) := by
  refine ⟨⟨rfl, by decide, by decide, by decide, by decide⟩, ⟨rfl, fun h => absurd h.2.1 (by decide)⟩, rfl, by decide⟩

/-- TrapsAndReturns: a trap instruction that issues; a snapshot to return to. -/
theorem witness_trap_returns :
    (CanIssue core0 [55] [] [] [] 0 ∧ core0.phase = .alone) ∧
    (coreHS.snap = some snap0 ∧ coreHS.results = [] ∧ coreHS.accs = [] ∧ coreHS.rets = [] ∧ snap0.seq.active = false) :=
  ⟨⟨quiet rfl rfl rfl rfl _ _ _ _ _ (by decide) (by decide) (by decide), rfl⟩, rfl, rfl, rfl, rfl, rfl⟩

/-- A core whose v1 holds, from element 0 up, the fp32 patterns NaN, +inf, 1.0 and a signalling NaN. -/
def coreV : Core := { core0 with v := core0.v.set 1 (BitVec.ofNat 2048 (0x7FC00000 + 0x7F800000 * 2 ^ 32 + 0x3F800000 * 2 ^ 64 + 0x7F800001 * 2 ^ 96)) }

/-- The vector statements: operands of each class of type; NaN, infinite and finite elements for vabs; the cases of vcvt's mappings and
vcvt8's regions and values; the types of vpack, vunpack and vdot4. -/
theorem witness_vectors :
    CanIssue coreV [] [] [1, 2, 3] [] 0 ∧ CanIssue coreV [55] [] [31] [] 0 ∧ CanIssue coreV [] [55] [31] [] 0 ∧ ElTy.i8.isFp = false ∧
    ElTy.bf16.isFp = true ∧
    (fpIn coreV .fp32 (pat coreV .fp32 1 0) = .nan false ∧ fpIn coreV .fp32 (pat coreV .fp32 1 1) = .inf false ∧
      fpIn coreV .fp32 (pat coreV .fp32 1 2) = .fin false 0x800000 (-23) ∧ fpIn coreV .fp32 (pat coreV .fp32 1 3) = .nan true) ∧
    (2048 / ElTy.i32.bits = 2048 / ElTy.fp32.bits ∧ 2048 / ElTy.i32.bits < 2048 / ElTy.i16.bits ∧ 2048 / ElTy.i32.bits < 2048 / ElTy.bf16.bits) ∧
    (64 ≤ 127 ∧ 127 < 64 + 64) ∧ ¬(64 ≤ 63 ∧ 63 < 64 + 64) ∧
    (e4m3.decode 0x38).isNan = false ∧ (e4m3.decode 0x7F).isNan = true ∧ (e5m2.decode 0x7E).isNan = true ∧
    (ElTy.i16.bits < 32 ∧ ElTy.i16.isFp = false ∧ 8 < ElTy.n32.bits ∧ ElTy.n32.isFp = false ∧ ElTy.n16.bits * 2 = ElTy.n32.bits ∧
      ElTy.n16.isSigned = ElTy.n32.isSigned ∧ ElTy.n16.isFp = false) := by
  refine ⟨quiet rfl rfl rfl rfl _ _ _ _ _ (by decide) (by decide) (by decide), quiet rfl rfl rfl rfl _ _ _ _ _ (by decide) (by decide) (by decide),
    quiet rfl rfl rfl rfl _ _ _ _ _ (by decide) (by decide) (by decide), rfl, rfl, ⟨by decide +kernel, by decide +kernel, by decide +kernel, by decide +kernel⟩, by decide,
    by decide, by decide, by decide +kernel, by decide +kernel, by decide +kernel, by decide⟩

/-- RoundingIsCorrect: a tie in fp32, an inexact value in bf16, in each direction. -/
theorem witness_rounding :
    (fp32 = fp32 ∧ 0 < 2 ^ 25 + 2 ∧ ((fp32.round .rne false (2 ^ 25 + 2) 0).2 &&& fOF) = 0) ∧
    (bf16 = bf16 ∧ 0 < 257 ∧ ((bf16.round .rup true 257 0).2 &&& fOF) = 0 ∧ ((bf16.round .rdn false 257 0).2 &&& fOF) = 0 ∧
      ((bf16.round .rtz true 257 0).2 &&& fOF) = 0) := by decide +kernel

/-- Nothing of this die is poisoned in a state whose list of poisoned bytes is empty; of another die's bytes a free value says so. -/
theorem sound_at0 (c : Core) (sp : Bool) (w : Word) (n : Nat) (k : Kind)
    (h : sp = true ∨ w.toNat / 2 ^ 47 % 1024 = (at0 c).port.rank ∨ Config.farPoison (at0 c).time w.toNat = false) : sound (at0 c) sp w n k := by
  refine ⟨fun _ _ _ _ => rfl, fun hs hw => ?_⟩
  rcases h with h | h | h
  · simp [h] at hs
  · exact absurd h hw
  · exact h

/-- A die whose scratchpad byte 8 of core 0 is marked poisoned. -/
def atBad : State := { at0 { withG core0 1 8 with alloc := [(0, 4096)] } with poison := [8 * 2 + 1] }

/-- LoadsAndStoresIssue: the last address of an own access and of another member of the domain, a scratchpad access at offset -128, vector
accesses of stride 4 and 0, a gather with a lane out of range. -/
def coreM : Core :=
  { withG (withG (withG core0 1 (5 * 2 ^ 47 + 2 ^ 47 - 8)) 2 1024) 3 64 with
    csr := { core0.csr with gxcfg := 1 }, v := core0.v.set 2 (BitVec.ofNat 2048 (2 ^ 32)) }

/-- The same core with every landing slot of its task stream held. -/
def coreNoSlot : Core := { coreM with landing := [(13, 8)] }

theorem witness_loads_and_stores :
    (CanIssue coreM [1] [55] [] [] 1 ∧ CanIssue coreM [1, 3] [] [] [] 1 ∧ (place false (readG coreM 1) 0).toNat % 8 = 0 ∧
      reach (at0 coreM) false (place false (readG coreM 1) 0)) ∧
    (inReach (at0 coreNoSlot) false (place false (readG coreNoSlot 1) 0) ∧ ¬reach (at0 coreNoSlot) false (place false (readG coreNoSlot 1) 0) ∧
      coreNoSlot.phase = .alone ∧ CanIssue coreNoSlot [1] [55] [] [] 1 ∧ CanIssue coreNoSlot [1, 3] [] [] [] 1) ∧
    (place true (readG coreM 2) ((64 : BitVec 7).toInt * 8)).toNat % 8 = 0 ∧ reach (at0 coreM) true (place true (readG coreM 2) 0) ∧
    (CanIssue coreM [2, 3] [] (merged 0 5) [] 1 ∧ ∀ k : Nat, k < 256 / wide .w4 → active coreM 0 k → (place true (readG coreM 2) ((k : Int) * 4)).toNat % 4 = 0) ∧
    (CanIssue coreM [2] [] ([2] ++ if (0 : Fin 8) == 0 && El.w4 == .w4 then [] else [5]) [] 2 ∧ CanIssue coreM [2] [] [5, 2] [] 2 ∧
      0 ∈ lanesIn coreM 0 2 ∧ 1 ∈ lanesOut coreM 0 2 ∧
      ∀ i ∈ lanesIn coreM 0 2, (place true (readG coreM 2) ((elem 32 (readV coreM 2) i * 4 : Nat) : Int)).toNat % 4 = 0) ∧
    ∀ sp w n k, (sp = true ∨ w.toNat / 2 ^ 47 % 1024 = (at0 coreM).port.rank ∨ Config.farPoison (at0 coreM).time w.toNat = false) →
      sound (at0 coreM) sp w n k := by
  refine ⟨⟨quiet rfl rfl rfl rfl _ _ _ _ _ (by decide) (by decide) (by decide), quiet rfl rfl rfl rfl _ _ _ _ _ (by decide) (by decide) (by decide),
    by decide +kernel, .inr (.inr (by decide +kernel)), .inr (.inr (.inr (by decide +kernel)))⟩,
    ⟨.inr (.inr (by decide +kernel)), by unfold reach inReach slotFree; decide +kernel, rfl,
      quiet rfl rfl rfl rfl _ _ _ _ _ (by decide) (by decide) (by decide), quiet rfl rfl rfl rfl _ _ _ _ _ (by decide) (by decide) (by decide)⟩,
    by decide +kernel, ⟨.inl rfl, .inl rfl⟩, ⟨quiet rfl rfl rfl rfl _ _ _ _ _ (by decide) (by decide) (by decide), ?_⟩,
    ⟨quiet rfl rfl rfl rfl _ _ _ _ _ (by decide) (by decide) (by decide), quiet rfl rfl rfl rfl _ _ _ _ _ (by decide) (by decide) (by decide),
    by decide +kernel, by decide +kernel, by decide +kernel⟩, sound_at0 coreM⟩
  have h : ∀ k : Nat, k < 64 → (place true (readG coreM 2) ((k : Int) * 4)).toNat % 4 = 0 := by decide +kernel
  exact fun k hk _ => h k hk

/-- AtomicsIssue: a pair at the top of the names, the longest and the shortest saxpy that fit their pages. -/
def coreA : Core := withG (withG (withG core0 1 4096) 54 (1024 * 2 ^ 32)) 55 8192
theorem witness_atomics :
    (MopOp.add ≠ .cas ∧ MopOp.add ≠ .saxpy ∧ CanIssue coreA [1, 54] [] [] [] 1) ∧ (place false (readG coreA 1) 0).toNat % 8 = 0 ∧
    reach (at0 coreA) false (place false (readG coreA 1) 0) ∧ inWindow (at0 coreA) 0 (place false (readG coreA 1) 0) 4096 = false ∧
    (let k := (readG coreA 54).toNat / 2 ^ 32
     let w := place false (readG coreA 1) 0
     let u := readG coreA 55
     CanIssue coreA [1, 54, 55] [] [] [] 1 ∧ 1 ≤ k ∧ k ≤ 1024 ∧ w.toNat % 4 = 0 ∧ u.toNat % 4 = 0 ∧ w.toNat % 4096 + 4 * k ≤ 4096 ∧
      u.toNat % 4096 + 4 * k ≤ 4096 ∧ w.toNat / 2 ^ 47 % 1024 = u.toNat / 2 ^ 47 % 1024) ∧
    CanIssue coreA ([1, 54] ++ if AmoOp.cas = .cas then [55] else []) [54] [] [] 1 ∧
    CanIssue coreA ([1, 54] ++ if AmoOp.fadd = .cas then [55] else []) [54] [] [] 1 ∧ sound (at0 coreA) false (place false (readG coreA 1) 0) 8 .atomic := by
  refine ⟨⟨by decide, by decide, quiet rfl rfl rfl rfl _ _ _ _ _ (by decide) (by decide) (by decide)⟩, by decide +kernel, ⟨.inr (.inr (by decide +kernel)), .inr (.inr (.inl (by decide +kernel)))⟩,
    by decide +kernel, ⟨quiet rfl rfl rfl rfl _ _ _ _ _ (by decide) (by decide) (by decide), by decide, by decide, by decide +kernel, by decide, by decide +kernel, by decide, by decide +kernel⟩,
    quiet rfl rfl rfl rfl _ _ _ _ _ (by decide) (by decide) (by decide), quiet rfl rfl rfl rfl _ _ _ _ _ (by decide) (by decide) (by decide),
    sound_at0 _ _ _ _ _ (.inr (.inl (by decide +kernel)))⟩

/-- MemoryTestsTrap: a misaligned address, and an aligned one whose owner, rank 6, is outside the domain; a byte that is
marked poisoned. -/
theorem witness_memory_traps :
    core0.phase = .alone ∧ CanIssue core0 [1] [55] [] [] 1 ∧ CanIssue core0 [1, 55] [] [] [] 1 ∧ (place true 1 0).toNat % 2 ≠ 0 ∧
    (place false (6 * 2 ^ 47) 0).toNat % 8 = 0 ∧ ¬inReach (at0 core0) false (place false (6 * 2 ^ 47) 0) ∧
    ((curCore atBad).phase = .alone ∧ CanIssue (curCore atBad) [1] [55] [] [] 1 ∧ (place true (readG (curCore atBad) 1) 0).toNat % 2 = 0 ∧
      inReach atBad true (place true (readG (curCore atBad) 1) 0) ∧ ¬sound atBad true (place true (readG (curCore atBad) 1) 0) 2 .load) := by
  refine ⟨rfl, quiet rfl rfl rfl rfl _ _ _ _ _ (by decide) (by decide) (by decide), quiet rfl rfl rfl rfl _ _ _ _ _ (by decide) (by decide) (by decide),
    by decide, by decide, ?_, rfl, quiet rfl rfl rfl rfl _ _ _ _ _ (by decide) (by decide) (by decide), by decide, .inl rfl,
    fun h => absurd (h.1 (.inl rfl) _ _ rfl) (by decide)⟩
  unfold inReach
  decide

/-- FencesAndTagTable: a table with an entry. -/
theorem witness_tag_table :
    CanIssue core0 [] [] [] [] 1 ∧ CanIssue core0 [1] [55] [] [] 0 ∧ CanIssue core0 [1, 2] [] [] [] 0 ∧ rising core0.tags ∧
    rising [(255, some { block := 1, basket := 2 : TagEntry })] := by
  refine ⟨quietNone rfl (by decide), quiet rfl rfl rfl rfl _ _ _ _ _ (by decide) (by decide) (by decide),
    quiet rfl rfl rfl rfl _ _ _ _ _ (by decide) (by decide) (by decide), by simp [rising, core0, Core.init], by simp [rising]⟩

/-- RegisterAndFifoNames: a core with whole register files; a FIFO with a word; a pop. -/
theorem witness_names :
    core0.shaped ∧ core0.inH = false ∧ coreH.shaped ∧ coreH.inH = true ∧ (fifoAt coreF 7).fi = 9 :: [] ∧ ({ coreF with pops := [7] }).pops = [7] := by
  refine ⟨⟨by decide, by decide, by decide, by decide, by decide⟩, rfl, ⟨by decide, by decide, by decide, by decide, by decide⟩, rfl, rfl, rfl⟩

/-- An access of the running task that waits in the queue of its core. -/
def acc (i : Nat) (op : AccOp) (d : Dest) : Access where
  id := i
  op := op
  dest := d
  dead := false
  land := 0
  ents := 1
  img := 0
  sent := false
  slots := 0
  who := { agent := 0, q := 0, rx := false }
  epc := 64

def elemAt (sp : Bool) (w : Word) (op : MemOp) : Elem := { sp := sp, addr := w, ix := 0, op := op }

/-- A core with one access of one element of its scratchpad, whose ranges allow 4 KiB. -/
def coreQ (op : AccOp) (d : Dest) : Core := { core0 with accs := [acc 7 op d], alloc := [(0, 4096)], issued := 7 }
def loadOp : AccOp := .mem [elemAt true 8 (.load 8 false)] (.scalar 8 true) 0
def storeOp : AccOp := .mem [elemAt true 4088 (.store (leBytes 8 1) false)] .none 0
def atomOp : AccOp := .mem [elemAt true 16 (.atomic .add 4 5 0)] (.scalar 4 false) 1
def holeOp : AccOp := .mem [elemAt true 4096 (.load 8 false)] (.scalar 8 false) 0
def farOp : AccOp := .mem [elemAt false (5 * 2 ^ 47) (.load 8 false)] (.scalar 8 false) 0

theorem heads_coreQ (op : AccOp) (d : Dest) (h : releases op = false) : Heads (at0 (coreQ op d)) 0 (acc 7 op d) [] :=
  { queue := rfl, alone := by simp, noSnap := rfl, unsent := rfl, due := Nat.le_refl _, noted := fun g => absurd (h.symm.trans g) (by decide),
    quiet := by intro x hx; exact absurd hx (by simp [at0, coreAt, mget, coreQ, core0, Core.init]) }

/-- A core at cycle 1 whose queue holds one release, noted for that cycle. -/
def at1 (c : Core) : State := { at0 c with time := 1 }
def accR (op : AccOp) (d : Dest) : Access := { acc 7 op d with ripe := 1 }
theorem heads_at1 {c : Core} {a : Access} (h : c.accs = [a]) (hs : c.snap = none) (hu : a.sent = false) (hr : a.ripe = 1) (hq : c.reports = []) :
    Heads (at1 c) 0 a [] :=
  { queue := h, alone := by simp, noSnap := hs, unsent := hu, due := by rw [hr]; exact Nat.le_refl _, noted := fun _ => by rw [hr]; decide,
    quiet := by intro x hx; rw [show (coreAt (at1 c) 0).reports = [] from hq] at hx; exact absurd hx (by simp) }

/-- ResultsLand: a result that is due, whose register a load still names; a return; a report. -/
theorem witness_results :
    (coreAt (at0 { core0 with results := [{ dest := .g 1, val := .s 5, land := 0, flags := 1, ord := 3 }] }) 0).results =
      [{ dest := .g 1, val := .s 5, land := 0, flags := 1, ord := 3 }] ∧
    (0 : Nat) ≤ (coreAt (at0 core0) 0).icycle ∧ (coreAt (at0 coreR) 0).rets = [{ id := 1, dest := .g 1, dead := false, val := .s 0 }] ∧
    (∃ i, Dest.g 1 = .g i ∨ Dest.g 1 = .hb i ∨ Dest.g 1 = .v i ∨ Dest.g 1 = .p i ∨ Dest.g 1 = .k i) ∧ ({ code := 4, sub := 0, addr := 0, agent := 0, time := 0, eng := false, tl := 15, obj := 0, epc := 64, kind := 0 } : Report).code ≠ 3 :=
  ⟨rfl, Nat.le_refl _, rfl, ⟨1, .inl rfl⟩, by decide⟩

/-- AccessesPerformOrWait: a load at offset 8, a store to the last bytes of the range, an acquiring atomic, and a load past the range,
which faults; an access behind an acquire fence. -/
theorem witness_accesses :
    (∃ t g, performMem (at0 (coreQ loadOp (.g 1))) 0 (acc 7 loadOp (.g 1)).who true 8 (.load 8 false) = .ok (t, g) ∧
      t.cores = (at0 (coreQ loadOp (.g 1))).cores ∧ g.poison = false) ∧
    (∃ t g, performMem (at0 (coreQ storeOp .none)) 0 (acc 7 storeOp .none).who true 4088 (.store (leBytes 8 1) false) = .ok (t, g) ∧
      t.cores = (at0 (coreQ storeOp .none)).cores ∧ g.poison = false) ∧
    (∃ t g, performMem (at0 (coreQ atomOp (.g 1))) 0 (acc 7 atomOp (.g 1)).who true 16 (.atomic .add 4 5 0) = .ok (t, g) ∧
      t.cores = (at0 (coreQ atomOp (.g 1))).cores ∧ g.poison = false) ∧
    (∃ b, performMem (at0 (coreQ holeOp (.g 1))) 0 (acc 7 holeOp (.g 1)).who true 4096 (.load 8 false) = .error b ∧ b.code ≠ 7) ∧
    here (at0 (coreQ loadOp (.g 1))) 0 (elemAt true 8 (.load 8 false)) ∧ here (at0 (coreQ storeOp .none)) 0 (elemAt true 4088 (.store (leBytes 8 1) false)) ∧
    here (at0 (coreQ atomOp (.g 1))) 0 (elemAt true 16 (.atomic .add 4 5 0)) ∧ here (at0 (coreQ holeOp (.g 1))) 0 (elemAt true 4096 (.load 8 false)) ∧
    (coreAt (at0 (coreQ loadOp (.g 1))) 0).livelock = none := by
  refine ⟨?_, ?_, ?_, ?_, ⟨.inl rfl, by decide +kernel⟩, ⟨.inl rfl, by decide +kernel⟩, ⟨.inl rfl, by decide +kernel⟩, ⟨.inl rfl, by decide +kernel⟩, rfl⟩
  · exact ⟨_, _, rfl, rfl, rfl⟩
  · exact ⟨_, _, rfl, rfl, rfl⟩
  · exact ⟨_, _, rfl, rfl, rfl⟩
  · exact ⟨_, rfl, by decide⟩

/-- A core with an acquire fence before a load. -/
def coreW : Core := { core0 with accs := [acc 6 (.fence 1 .acq) .none, acc 7 loadOp (.g 1)], issued := 7 }

/-- A release fence alone in its queue, new or noted for cycle 1. -/
def accRel (n : Nat) : Access := { acc 7 (.fence 1 .rel) .none with ripe := n }
def coreRel (n : Nat) : Core := { core0 with accs := [accRel n], issued := 7 }
theorem stands_coreRel (n : Nat) : Stands (at0 (coreRel n)) 0 (accRel n) [] :=
  { queue := rfl, alone := by simp, noSnap := rfl, unsent := rfl,
    quiet := by intro x hx; exact absurd hx (by simp [at0, coreAt, mget, coreRel, core0, Core.init]) }

/-- AccessesPerformOrWait: a release not yet noted, one whose cycle has not come, and a load behind an acquire fence. -/
theorem witness_waiting :
    (Stands (at0 (coreRel 0)) 0 (accRel 0) [] ∧ releases (accRel 0).op = true ∧ (accRel 0).ripe = 0) ∧
    (Stands (at0 (coreRel 1)) 0 (accRel 1) [] ∧ (at0 (coreRel 1)).time < (accRel 1).ripe) ∧
    (coreAt (at0 coreW) 0).accs = acc 6 (.fence 1 .acq) .none :: [] ++ acc 7 loadOp (.g 1) :: [] ∧
    (∀ x ∈ acc 6 (.fence 1 .acq) .none :: [], x.id ≠ (acc 7 loadOp (.g 1)).id) ∧
    (∃ f sc, (acc 6 (.fence 1 .acq) .none).op = .fence sc f ∧ f ≠ .rel) ∧ (∀ w, (acc 7 loadOp (.g 1)).op ≠ .arrive w true) :=
  ⟨⟨stands_coreRel 0, rfl, rfl⟩, ⟨stands_coreRel 1, by decide⟩, rfl, by decide, ⟨.acq, 1, rfl, by decide⟩, fun w h => by simp [acc, loadOp] at h⟩

/-- LocalMemoryOperations: one piece of the scratchpad, whose race check passes, for a load, a store and an atomic. -/
theorem witness_local_operations :
    (∃ p c s1 s2, locateAny (at0 (coreQ loadOp (.g 1))) 0 true 8 8 .load = .ok ([(p, 8, c)], s1) ∧
      raceAll s1 true (acc 7 loadOp (.g 1)).who false false 8 [(p, 8, c)] = .ok s2) ∧
    (∃ p c s1 s2, locateAny (at0 (coreQ storeOp .none)) 0 true 4088 (leBytes 8 1).length .store = .ok ([(p, (leBytes 8 1).length, c)], s1) ∧
      raceAll s1 true (acc 7 storeOp .none).who false true 4088 [(p, (leBytes 8 1).length, c)] = .ok s2) ∧
    (∃ p c s1 s2, locateAny (at0 (coreQ atomOp (.g 1))) 0 true 16 4 .atomic = .ok ([(p, 4, c)], s1) ∧
      raceAll s1 true (acc 7 atomOp (.g 1)).who true true 16 [(p, 4, c)] = .ok s2) ∧ AmoOp.add ≠ .fadd :=
  ⟨⟨_, _, _, _, rfl, rfl⟩, ⟨_, _, _, _, rfl, rfl⟩, ⟨_, _, _, _, rfl, rfl⟩, by decide⟩

/-- RaceDetection: a tag of another writer that is not covered, an empty tag, a lone reader and several readers that are not covered; a
time exactly 2^36 cycles old is covered. -/
def tagW : BitVec 128 := BitVec.ofNat 128 (2 ^ 63 + 1 * 2 ^ 37 + 100)
def tagR (k : Nat) : BitVec 128 := BitVec.ofNat 128 (k * 2 ^ 126 + 1 * 2 ^ 101 + 100 * 2 ^ 64)
theorem witness_race_tags :
    (tagW.toNat / 2 ^ 63 % 2 = 1 ∧ ¬covers 0 200 (tagW.toNat / 2 ^ 37 % 2 ^ 25 = 2) (tagW.toNat % 2 ^ 37) ∧ ¬(true = true ∧ tagW.toNat / 2 ^ 62 % 2 = 1)) ∧
    ((0 : BitVec 128).toNat / 2 ^ 63 % 2 ≠ 1 ∧ (0 : BitVec 128).toNat / 2 ^ 126 = 0) ∧
    ((tagR 1).toNat / 2 ^ 126 = 1 ∧ ¬covers 0 200 ((tagR 1).toNat / 2 ^ 101 % 2 ^ 25 = 2) ((tagR 1).toNat / 2 ^ 64 % 2 ^ 37)) ∧
    ((tagR 2).toNat / 2 ^ 126 = 2 ∧ ¬covers 0 200 False ((tagR 2).toNat / 2 ^ 64 % 2 ^ 37)) ∧
    covers 0 (100 + 2 ^ 36) False 100 ∧ ¬covers 0 (99 + 2 ^ 36) False 100 ∧ covers 101 200 False 100 := by
  unfold covers
  decide

/-- RemoteRequestsInject: a load from rank 5 with a route, and with none. -/
def coreFar : Core := coreQ farOp (.g 1)
def dead5 : State := { at0 coreFar with port := { Port.reset with dead := [(0, 5)] } }
theorem witness_remote_requests :
    Heads (at0 coreFar) 0 (acc 7 farOp (.g 1)) [] ∧ farOp = .mem (elemAt false (5 * 2 ^ 47) (.load 8 false) :: []) (.scalar 8 false) 0 ∧
    (acc 7 farOp (.g 1)).slots = 0 ∧ (acc 7 farOp (.g 1)).who.rx = false ∧
    (5 * 2 ^ 47 : Word).toNat / 2 ^ 57 = 0 ∧ (5 * 2 ^ 47 : Word).toNat / 2 ^ 47 % 1024 ≠ (at0 coreFar).port.rank ∧
    slotsHeld (coreAt (at0 coreFar) 0) 13 + 1 ≤ (coreAt (at0 coreFar) 0).csr.resvcfg.toNat % 128 ∧
    landingUsed (at0 coreFar) + 1 ≤ 8192 ∧ (∃ l, linkTo (at0 coreFar) false 5 = some l) ∧
    Heads dead5 0 (acc 7 farOp (.g 1)) [] ∧ linkTo dead5 false 5 = none := by
  refine ⟨heads_coreQ _ _ rfl, rfl, rfl, rfl, by decide, by decide, by decide +kernel, by decide +kernel, ?_, ?_, rfl⟩
  · exact ⟨_, rfl⟩
  · exact { queue := rfl, alone := by simp, noSnap := rfl, unsent := rfl, due := Nat.le_refl _, noted := fun g => absurd g (by decide),
            quiet := by intro x hx; exact absurd hx (by simp [dead5, at0, coreAt, mget, coreFar, coreQ, core0, Core.init]) }


/-- AccessesPerformOrWait: a scratchpad load whose latency is past and one whose latency is not. -/
theorem witness_access_landing :
    ∀ m ∈ [4, 6], let a : Access := { acc 7 loadOp (.g 1) with land := 5 }
      let s := at0 { coreQ loadOp (.g 1) with accs := [a], icycle := m }
      Heads s 0 a [] ∧ a.land ≠ 0 ∧ a.dead = false ∧ (a.land < (coreAt s 0).icycle ↔ m = 6) ∧ (coreAt s 0).hold = none := by
  intro m hm
  simp only [List.mem_cons, List.not_mem_nil, or_false] at hm
  rcases hm with rfl | rfl <;>
  exact ⟨{ queue := rfl, alone := by simp, noSnap := rfl, unsent := rfl, due := Nat.le_refl _, noted := fun g => absurd g (by decide),
            quiet := by intro x hx; exact absurd hx (by simp [at0, coreAt, mget, coreQ, core0, Core.init]) }, by decide, rfl, by decide, rfl⟩

/-- SemaphoreChanges: a core whose semaphores and changes reach past the limit; an owed signal whose loads have returned. -/
def coreSem : Core := { core0 with sems := [(0, 65535), (255, 3)], semOps := [.inc 0 7, .take 255 2, .set 255 9] }
def coreOwed : Core := { core0 with sdone := [{ sem := 255, inc := 1, accs := [5], land := 0, op := some (4, 2) }] }

theorem witness_semaphores :
    CanIssue core0 [55] [] [] [] 0 ∧ CanIssue core0 [1, 55] [] [] [] 0 ∧ rising coreSem.sems ∧ 65535 < semAfter (mget 0 coreSem.sems 0) coreSem.semOps 0 ∧
    (coreAt (at0 coreOwed) 0).sdone = { sem := 255, inc := 1, accs := [5], land := 0, op := some (4, 2) } :: [] ∧
    (∀ i ∈ [5], (∀ a ∈ coreOwed.accs, a.id ≠ i) ∧ (∀ a ∈ coreOwed.rets, a.id ≠ i) ∧ (∀ x ∈ coreOwed.results, x.ord ≠ 2 * i) ∧
      ∀ n, coreOwed.snap = some n → (∀ a ∈ n.accs, a.id ≠ i) ∧ (∀ a ∈ n.rets, a.id ≠ i) ∧ ∀ x ∈ n.results, x.ord ≠ 2 * i) ∧
    (0 : Nat) ≤ coreOwed.icycle ∧ (∀ t n, some (4, 2) = some (t, n) → ∀ p ∈ mget [] coreOwed.engs t, p.n ≠ n) := by
  refine ⟨quiet rfl rfl rfl rfl _ _ _ _ _ (by decide) (by decide) (by decide), quiet rfl rfl rfl rfl _ _ _ _ _ (by decide) (by decide) (by decide), ?_, by decide, rfl, ?_, by decide, ?_⟩
  · unfold rising; decide
  · simp [coreOwed, core0, Core.init]
  · simp [coreOwed, core0, Core.init, mget]

/-- A core whose queue holds one operation, noted for cycle 1. -/
def coreRl (op : AccOp) (d : Dest) : Core := { core0 with accs := [accR op d], alloc := [(0, 4096)], issued := 7 }

/-- Barriers: names at home and at rank 5, one that is illegal; a legal bar.init; arrivals that complete, count, and saturate; an
expectation; a phase whose target has been met. -/
def coreN : Core := withG (withG (withG (withG core0 1 (5 * 2 ^ 20)) 2 (2 ^ 10 + 1023)) 54 (64 * 2 ^ 25 + 2 ^ 24 + 255 * 2 ^ 16 + 65535)) 55 8
def coreBar (b : Barrier) (n : Nat) : Core :=
  { core0 with bars := [(1023, b)], barEvs := [{ bar := 1023, from_ := n, n := 65535, ret := none }] }
def barrier (base arr : Nat) : Barrier := { Barrier.init with base := base, arr := arr, sem := some 3 }

theorem witness_barriers :
    (CanIssue coreN [1] [] [] [] 1 ∧ goodName (at0 coreN) (readG coreN 1) ∧ goodName (at0 coreN) (readG coreN 2)) ∧
    CanIssue coreN [1, 2] [] [] [] 1 ∧
    (CanIssue coreN [2, 54, 55] [] [] [] 0 ∧ (readG coreN 2).toNat / 2 ^ 30 = 0 ∧ (readG coreN 2).toNat / 2 ^ 10 % 2 = 1 ∧ (readG coreN 54).toNat / 2 ^ 32 = 0 ∧
      (readG coreN 54).toNat / 2 ^ 25 % 128 ≤ 64 ∧ (readG coreN 54).toNat / 2 ^ 25 % 128 ≠ 0 ∧ (readG coreN 55).toNat % 8 = 0) ∧
    (core0.phase = .alone ∧ (2 ^ 30 : Word).toNat / 2 ^ 30 ≠ 0) ∧
    (Heads (at1 (coreRl (.arrive (2 ^ 10) false) .none)) 0 (accR (.arrive (2 ^ 10) false) .none) [] ∧
      Heads (at1 (coreRl (.expect (2 ^ 10) 3) .none)) 0 (accR (.expect (2 ^ 10) 3) .none) [] ∧
      coreExists (at1 core0) (ctxAt (at0 core0) (keyCtx 0)).checked (keyCore 0) = true) ∧
    ((ctxAt (at0 core0) (keyCtx 0)).resident = true ∧
      (coreAt (at0 (coreBar (barrier 2 1) 0)) 0).barEvs = [{ bar := 1023, from_ := 0, n := 65535, ret := none }] ∧
      (barrier 2 1).rlen = 0 ∧ ¬(0 < (barrier 2 1).base + (barrier 2 1).extra ∧ (barrier 2 1).arr = (barrier 2 1).base + (barrier 2 1).extra) ∧
      (barrier 2 1).arr + 1 = (barrier 2 1).base + (barrier 2 1).extra ∧ (barrier 3 1).arr + 1 ≠ (barrier 3 1).base + (barrier 3 1).extra ∧
      (barrier 0 65535).arr = 65535 ∧ ¬(0 < (barrier 0 65535).base + (barrier 0 65535).extra) ∧ (barrier 65535 0).base ≤ 65535) ∧
    (0 < (bar (coreAt (at0 (coreBar (barrier 1 1) 2)) 0) 1023).base ∧
      (bar (coreAt (at0 (coreBar (barrier 1 1) 2)) 0) 1023).arr = (bar (coreAt (at0 (coreBar (barrier 1 1) 2)) 0) 1023).base +
        (bar (coreAt (at0 (coreBar (barrier 1 1) 2)) 0) 1023).extra) := by
  refine ⟨⟨quiet rfl rfl rfl rfl _ _ _ _ _ (by decide) (by decide) (by decide), ⟨by decide, .inr (by decide)⟩, ⟨by decide, .inl (by decide)⟩⟩,
    quiet rfl rfl rfl rfl _ _ _ _ _ (by decide) (by decide) (by decide),
    ⟨quiet rfl rfl rfl rfl _ _ _ _ _ (by decide) (by decide) (by decide), by decide, by decide, by decide, by decide, by decide, by decide⟩,
    ⟨rfl, by decide⟩, ⟨heads_at1 rfl rfl rfl rfl rfl, heads_at1 rfl rfl rfl rfl rfl, by decide⟩, ⟨rfl, rfl, by decide⟩, by decide, by decide⟩

/-- TimelinesAndTaskRecords: a timeline of the core and a die timeline, one at its value and one below. -/
def coreTl (n : Word) : Core := { coreQ (.tlAcq 13 n) (.g 1) with tl := [(13, 5)], tlTimes := [(16 * 5 + 13, 77)] }

theorem witness_timelines :
    CanIssue core0 [] [55] [] [] 0 ∧ CanIssue core0 [] [55] [] [] 1 ∧ CanIssue coreA [1] [55] [] [] 1 ∧ (readG coreA 1).toNat % 64 = 0 ∧
    reach (at0 coreA) false (readG coreA 1) ∧ CanIssue coreA [1, 2] [] [] [] 1 ∧ Heads (at1 (coreRl (.tlInc 15) (.g 1))) 0 (accR (.tlInc 15) (.g 1)) [] ∧
    (Heads (at0 (coreTl 5)) 0 (acc 7 (.tlAcq 13 5) (.g 1)) [] ∧ (5 : Word).toNat ≤ (timeline (at0 (coreTl 5)) (coreAt (at0 (coreTl 5)) 0) 13).toNat) ∧
    (Heads (at0 (coreTl 6)) 0 (acc 7 (.tlAcq 13 6) (.g 1)) [] ∧ (timeline (at0 (coreTl 6)) (coreAt (at0 (coreTl 6)) 0) 13).toNat < (6 : Word).toNat) := by
  refine ⟨quiet rfl rfl rfl rfl _ _ _ _ _ (by decide) (by decide) (by decide), quiet rfl rfl rfl rfl _ _ _ _ _ (by decide) (by decide) (by decide),
    quiet rfl rfl rfl rfl _ _ _ _ _ (by decide) (by decide) (by decide), by decide +kernel, ⟨.inr (.inr (by decide +kernel)), .inr (.inr (.inl (by decide +kernel)))⟩,
    quiet rfl rfl rfl rfl _ _ _ _ _ (by decide) (by decide) (by decide), heads_at1 rfl rfl rfl rfl rfl, ⟨?_, by decide⟩, ⟨?_, by decide⟩⟩ <;>
  exact { queue := rfl, alone := by simp, noSnap := rfl, unsent := rfl, due := Nat.le_refl _, noted := fun g => absurd g (by decide),
          quiet := by intro x hx; exact absurd hx (by simp [at0, coreAt, mget, coreTl, coreQ, core0, Core.init]) }

/-- Baskets: a free basket that tasks may take, one that they may not, one of size 0, one that tasks fill. -/
def bkWord (st next hold : Nat) : Word := BitVec.ofNat 64 (255 * 2 ^ 54 + hold * 2 ^ 50 + next * 2 ^ 46 + st * 2 ^ 44 + 256 * 2 ^ 22)
def coreBk (w : Word) : Core := { withG (withG core0 1 255) 2 (256 * 2 ^ 22 + 256) with baskets := [(255, w)], alloc := [(0, 4096)] }
def coreBkQ (w : Word) : Core := { coreRl (.bkClose 255 14) .none with baskets := [(255, w)] }

theorem witness_baskets :
    (CanIssue (coreBk (bkWord 0 14 15)) [1] [] [] [] 0 ∧ bkBytes (basket (coreBk (bkWord 0 14 15)) 255) ≠ 0 ∧
      bkState (basket (coreBk (bkWord 0 14 15)) 255) = 0 ∧ bkNextOf (basket (coreBk (bkWord 0 14 15)) 255) = 14) ∧
    (bkState (basket (coreBk (bkWord 2 13 15)) 255) = 2 ∧ bkNextOf (basket (coreBk (bkWord 2 13 15)) 255) = 13) ∧
    ((coreBk (bkWord 0 4 15)).phase = .alone ∧ ¬(bkNextOf (basket (coreBk (bkWord 0 4 15)) 255) = 13 ∨ bkNextOf (basket (coreBk (bkWord 0 4 15)) 255) = 14)) ∧
    (CanIssue (coreBk (bkWord 1 14 13)) [1] [] [] [] 1 ∧ bkHolder (basket (coreBk (bkWord 1 14 13)) 255) = 13 ∧
      bkState (basket (coreBk (bkWord 1 14 13)) 255) = 1) ∧
    (CanIssue (coreBk (bkWord 3 14 13)) [1, 2] [] [] [] 1 ∧ (readG (coreBk (bkWord 3 14 13)) 2).toNat % 16 ≠ 15) ∧
    (let v := (readG (coreBk (bkWord 0 14 15)) 2).toNat
     CanIssue (coreBk (bkWord 0 14 15)) [1, 2] [] [] [] 0 ∧ v / 2 ^ 52 = 0 ∧ v % 2 ^ 22 % 256 = 0 ∧ v / 2 ^ 22 % 2 ^ 22 % 256 = 0 ∧ v / 2 ^ 22 % 2 ^ 22 ≠ 0 ∧
      allocated (at0 (coreBk (bkWord 0 14 15))) (at0 (coreBk (bkWord 0 14 15))).cur (v % 2 ^ 22) (v / 2 ^ 22 % 2 ^ 22) = true) ∧
    bkBytes (basket core0 255) = 0 ∧
    (Heads (at1 (coreBkQ (bkWord 1 14 13))) 0 (accR (.bkClose 255 14) .none) [] ∧ bkRingOf (bkWord 1 14 13) = 255) := by
  refine ⟨⟨quiet rfl rfl rfl rfl _ _ _ _ _ (by decide) (by decide) (by decide), by decide, by decide, by decide⟩, by decide, ⟨rfl, by decide⟩,
    ⟨quiet rfl rfl rfl rfl _ _ _ _ _ (by decide) (by decide) (by decide), by decide, by decide⟩,
    ⟨quiet rfl rfl rfl rfl _ _ _ _ _ (by decide) (by decide) (by decide), by decide⟩,
    ⟨quiet rfl rfl rfl rfl _ _ _ _ _ (by decide) (by decide) (by decide), by decide, by decide, by decide, by decide, by decide⟩, by decide,
    ⟨heads_at1 rfl rfl rfl rfl rfl, by decide⟩⟩

/-- Shape registers hm0, hc0, hq0 and hq1 with legal fields in both copies; a loop table whose one level is a K level. -/
def lay (ew sp bax : Nat) : Word := BitVec.ofNat 64 (sp * 2 ^ 46 + ew * 2 ^ 44 + bax * 2 ^ 43)
def shapes : SMap Word :=
  [(1, lay 1 1 0), (5, lay 3 1 0), (9, lay 1 1 1), (12, 2 ^ 32 + 2 ^ 16), (13, 2 ^ 16 + 7 * 2 ^ 8 + 2 ^ 4), (15, 0xFF00FF),
   (65, lay 3 1 0), (69, lay 3 1 0), (73, lay 3 1 0), (77, 0xFF00FF),
   (193, lay 1 1 0), (197, lay 1 1 1), (202, 1), (203, 1),
   (209, lay 3 1 0), (213, lay 3 1 0), (217, lay 3 1 0)]
def coreE : Core := { withG (withG core0 1 (5 * 2 ^ 20)) 2 0 with active := shapes, shadow := shapes, mxTab := [(0, 2 ^ 33)] }

/-- EngineCommands: for every command with a shape register, with and without .sw, registers whose tests all pass. -/
theorem witness_shaped_commands :
    rising coreE.active ∧ rising coreE.shadow ∧ CanIssue coreE [] [] [] [] 0 ∧ CanIssue coreE [2] [] [] [] 0 ∧
    (∀ w : Bool, passes (cpTests (at0 coreE) .cpGo 0 0 w) ∧ passes (cpTests (at0 coreE) .cpGath 0 1 w) ∧ passes (cpTests (at0 coreE) (.cpScat true) 0 2 w) ∧
      passes (cpTests (at0 coreE) .cpFill 0 3 w) ∧ passes (cpTests (at0 coreE) (.cpChk true) 0 0 w)) ∧
    (∀ w : Bool, let sh := captureOf coreE 0 w
      passes (mxTests (at0 coreE) (.mxGo true) false sh (mxLoops coreE sh)) ∧ passes (mxTests (at0 coreE) .mxWload false sh []) ∧
      passes (mxTests (at0 coreE) (.mxDrain 0 0) (decide ((readG coreE 2).toNat / 256 ≠ 0)) sh [])) ∧
    (∀ w fwd : Bool, let sh := captureOf coreE 12 w
      passes { noTests with opnd := vpOpnd (at0 coreE) fwd sh, align := layoutAlign [layoutAt sh 0, layoutAt sh 4], hold := fullHold coreE 9 }) ∧
    (∀ w : Bool, let sh := captureOf coreE 13 w
      ∀ k ∈ [EngKind.eqUnite 0, .eqFind 3, .eqRelab 1 .mean],
        passes { noTests with
          opnd := engIllegal (bits (sh.getD 12 0) 40 24 != 0 || sh.getD 13 0 != 0 || sh.getD 14 0 != 0 || sh.getD 15 0 != 0 ||
            (eqLayouts k sh).any fun l => l.bad || l.ew != 3 || l.sp == 2)
          align := layoutAlign (eqLayouts k sh), hold := fullHold coreE 10 }) := by
  refine ⟨?_, ?_, quietNone rfl (by decide), quiet rfl rfl rfl rfl _ _ _ _ _ (by decide) (by decide) (by decide), ?_, ?_, ?_, ?_⟩
  · unfold rising; decide +kernel
  · unfold rising; decide +kernel
  · unfold passes; decide +kernel
  · unfold passes; decide +kernel
  · unfold passes; decide +kernel
  · unfold passes; decide +kernel

/-- The fabric shape register hf0, whose view at rank 5 is one element; the same with a window of this die, of 64 elements. -/
def window0 : Window where
  desc := BitVec.ofNat 256 1 ||| (BitVec.ofNat 256 1 <<< 30)
  members := [5]
  status := 0
  active := true
  waiting := []
  parts := []
  merged := []
  late := 0
  ovf := false
  ctx := 0
  core := 0
  opNum := 0
  aborter := none
def shapesF : SMap Word := [(129, lay 3 1 0), (132, 5 * 2 ^ 47), (133, lay 3 0 0 + 256), (134, 2 ^ 48 + 2 ^ 32), (140, 63 * 2 ^ 8), (141, 0xFF00FF), (142, 3)]
def shapesW : SMap Word := [(129, lay 3 1 0), (140, 63 * 2 ^ 8), (141, 0xFF00FF)]
def coreE1 : Core := { withG core0 1 (5 * 2 ^ 20) with active := shapesF, shadow := shapesF }
def coreE2 : Core := { core0 with active := shapesW }
def atW : State := { at0 coreE2 with port := { Port.reset with windows := [(0, some window0)] } }

def capF : List Word :=
  [0, lay 3 1 0, 0, 0, 5 * 2 ^ 47, lay 3 0 0 + 256, 2 ^ 48 + 2 ^ 32, 0, 0, 0, 0, 0, 63 * 2 ^ 8, 0xFF00FF, 3, 0]
theorem captureOf_F (w : Bool) : captureOf coreE1 8 w = capF := by cases w <;> decide +kernel
theorem rowEnds_F : rowEnds (layoutAt capF 4) (hfTh capF) (hfTw capF) = [(5 * 2 ^ 47, 5 * 2 ^ 47)] := by decide +kernel

theorem witness_fabric_commands :
    (∀ w : Bool,
      let s := at0 coreE1
      let sh := captureOf coreE1 8 w
      let src := layoutAt sh 0
      (mget [] coreE1.engs 8).length < 16 ∧ layoutAlign [src, layoutAt sh 4] = none ∧ (curCtx s).service = false ∧
      sendIllegal s sh = false ∧ sendFail s sh = none ∧ (readG coreE1 1).toNat / 2 ^ 30 = 0 ∧ (readG coreE1 1).toNat / 2 ^ 10 % 2 = 0 ∧
      (readG coreE1 1).toNat / 2 ^ 20 % 1024 ∈ (curCtx s).members ∧ rowEnds (layoutAt sh 4) (hfTh sh) (hfTw sh) ≠ [] ∧
      (∀ p ∈ rowEnds (layoutAt sh 4) (hfTh sh) (hfTw sh), ownerOf ((sendMap s sh).target p.1) = (readG coreE1 1).toNat / 2 ^ 20 % 1024 ∧
        ownerOf ((sendMap s sh).target p.2) = (readG coreE1 1).toNat / 2 ^ 20 % 1024) ∧
      hfReserved sh = false ∧ src.bad = false ∧ (hfTw sh * hfTh sh * src.eb) % 256 = 0 ∧ src.sp ≠ 0 ∧ bits (sh.getD 13 0) 16 16 = 0xFF ∧
      ringOk coreE1 (sh.getD 13 0) [src] [] = true ∧ windowOf s (hfWin sh) = none ∧ src.ew = 3) ∧
    rising coreE1.active ∧ rising coreE1.shadow ∧ (∀ i, pendingAt coreE1 (.k i) = false) ∧
    (∃ i y, windowOf atW (hfWin (captureOf coreE2 8 false)) = some (i, y) ∧
      hfFirst (captureOf coreE2 8 false) + hfTw (captureOf coreE2 8 false) * hfTh (captureOf coreE2 8 false) * (layoutAt (captureOf coreE2 8 false) 0).eb / 256 ≤
        y.desc.toNat % 2 ^ 11 ∧ (layoutAt (captureOf coreE2 8 false) 0).ew = if y.desc.toNat / 2 ^ 30 % 4 = 0 then 2 else 3) := by
  refine ⟨?_, by unfold rising; decide +kernel, by unfold rising; decide +kernel, fun i => by simp [pendingAt, engWriter, coreE1, withG, core0, Core.init],
    0, window0, by decide +kernel, by decide +kernel, by decide +kernel⟩
  intro w
  simp only [captureOf_F, rowEnds_F]
  refine ⟨by decide, by decide +kernel, by decide, by decide +kernel, by decide +kernel, by decide, by decide, by decide, by decide, ?_, by decide +kernel,
    by decide +kernel, by decide +kernel, by decide +kernel, by decide +kernel, by decide +kernel, by decide +kernel, by decide +kernel⟩
  intro p hp
  obtain rfl := List.mem_singleton.1 hp
  exact ⟨by decide +kernel, by decide +kernel⟩

/-- EngineCommands: operands of the commands without a shape register, at the top of their ranges, and a full queue. -/
def opDone (k : EngKind) (n : Nat) : EngOp where
  n := n
  kind := k
  shape := []
  loops := []
  fmt := []
  rings := []
  fp8sat := false
  q := 0
  epc := 64
  order := 1
  fired := true
  ended := true
  dead := false
  inB := []
  outB := []
  pos := 0
  aux := []
  replies := []
  slots := 0
  await := 0
def coreFull : Core := { core0 with engs := [(4, List.replicate 16 (opDone (.mxZero 0) 1))] }
def atP : State := { at0 (withG core0 2 256) with port := { Port.reset with windows := [(0, some { window0 with status := 2 })] } }

theorem witness_plain_commands :
    CanIssue core0 [1, 55] [] [] [] 0 ∧ CanIssue core0 [55] [55] [] [] 0 ∧ (mget [] core0.engs 11).length < 16 ∧
    ((255 : Word).toNat / 256 = 0 ∧ ∀ t ∈ [15, 14], core0.csr.parkcfg.getLsbD t = false) ∧ ((14 : Word).toNat / 16 = 0 ∧ (14 : Word).toNat % 2 = 0) ∧
    ((0xFFFF : Word).toNat / 65536 = 0 ∧ ∀ t < 16, (0xFFFF : Word).toNat.testBit t = true → core0.csr.parkcfg.getLsbD t = false) ∧
    ((0 : Word).toNat % 64 = 0 ∧ (64 : Word).toNat % 64 = 0 ∧ (0 : Word).toNat ≠ (64 : Word).toNat) ∧
    (∃ i x, windowOf atP (readG (curCore atP) 1) = some (i, x) ∧ x.status = 2) ∧
    (let w := readG (curCore atP) 2
     w.toNat % 256 = 0 ∧ w.toNat / 2 ^ 57 = 0 ∧ w.toNat / 2 ^ 47 = atP.port.rank ∧ atP.port.rank ∈ (curCtx atP).members) ∧
    (CanIssue coreFull [1] [] [] [] 0 ∧ coreFull.phase = .alone ∧ 16 ≤ (mget [] coreFull.engs 4).length ∧ (readG coreFull 1).toNat = 0) := by
  refine ⟨quiet rfl rfl rfl rfl _ _ _ _ _ (by decide) (by decide) (by decide), quiet rfl rfl rfl rfl _ _ _ _ _ (by decide) (by decide) (by decide), by decide,
    by decide, by decide, by decide, by decide, ⟨0, { window0 with status := 2 }, by decide +kernel, rfl⟩, by decide +kernel, ⟨by decide, ?_, by simp, by decide, by decide, by decide⟩, rfl, by decide, by decide⟩
  unfold gReadable
  decide

/-- TableInstructions: the last entry of each table, with a legal entry; an index past the format table. -/
def coreTab : Core := withG (withG (withG (withG core0 1 63) 2 15) 3 31) 54 (63 * 2 ^ 32)
theorem witness_tables :
    CanIssue core0 [1, 54, 55] [] [] [] 0 ∧ CanIssue core0 [1, 55] [] [] [] 0 ∧ CanIssue core0 [1] [55] [] [] 0 ∧
    rising core0.loopTab ∧ rising core0.mxTab ∧ rising core0.fmtTab ∧ rising core0.ringTab ∧
    ((readG coreTab 1).toNat < 64 ∧ (readG coreTab 2).toNat < 16 ∧ (readG coreTab 3).toNat < 32 ∧ core0.phase = .alone ∧ 16 ≤ (readG coreTab 3).toNat) ∧
    (pairOf core0 2 / 2 ^ 112 = 0 ∧ pairOf core0 2 % 2 ^ 32 = 0 ∧ pairOf coreTab 54 / 2 ^ 112 = 0 ∧ pairOf coreTab 54 / 2 ^ 34 % 4 = 3 ∧
      pairOf core0 2 / 2 ^ 34 % 4 = 0 ∧ pairOf core0 2 / 2 ^ 32 % 2 = 0) ∧
    ringSourceBad core0 31 0 = false := by
  refine ⟨quiet rfl rfl rfl rfl _ _ _ _ _ (by decide) (by decide) (by decide), quiet rfl rfl rfl rfl _ _ _ _ _ (by decide) (by decide) (by decide),
    quiet rfl rfl rfl rfl _ _ _ _ _ (by decide) (by decide) (by decide), List.Pairwise.nil, List.Pairwise.nil, List.Pairwise.nil, List.Pairwise.nil,
    by decide, by decide +kernel, by decide⟩

/-- EngineOperations: a mx.zero of tiles 0 and 15 as it stands first, and once its predecessors are done; a mx.acc of a tile with itself and a
mx.had of the last pair; a mx.rd that has ended, and one cycle later. -/
def opZero : EngOp := { opDone (.mxZero 0x8001) 3 with fired := false, ended := false }
def coreZ : Core := { core0 with engs := [(4, [opZero])], tiles := [(0, 1), (16383, 2)] }
def coreOf (o : EngOp) : Core := { coreZ with engs := [(4, [o])] }
def opFirst (k : EngKind) : EngOp := { opZero with kind := k, given := true }
def opRd (r : Nat) : EngOp := { opDone (.mxRd (.v 31) 15 15) 3 with ripe := r }
def coreRd (r : Nat) : Core := { core0 with engs := [(4, [opRd r])], tlOps := [(4, 3)] }

theorem fires_first (k : EngKind) : Fires (at0 (coreOf (opFirst k))) 0 (opFirst k) where
  resident := rfl
  given := rfl
  due := Nat.le_refl _
  queue := rfl
  array := rfl
  fresh := ⟨rfl, rfl, rfl, rfl, rfl, rfl, rfl⟩
  tiles := by show rising [(0, (1 : BitVec 32)), (16383, 2)]; unfold rising; decide

theorem witness_engine_operations :
    (mget [] (coreAt (at0 coreZ) 0).engs 4 = [opZero] ∧ opZero.given = false ∧ opZero.ended = false ∧ opZero.await = 0 ∧ opZero.fired = false ∧
      (coreAt (at0 coreZ) 0).accs = [] ∧ (coreAt (at0 coreZ) 0).snap = none) ∧
    (∀ k, Fires (at0 (coreOf (opFirst k))) 0 (opFirst k) ∧ (opFirst k).kind = k ∧ (coreAt (at0 (coreOf (opFirst k))) 0).faulty = none) ∧
    (∀ n ∈ [0, 1], (ctxAt (at1 (coreRd n)) (keyCtx 0)).resident = true ∧ mget [] (coreAt (at1 (coreRd n)) 0).engs 4 = [opRd n] ∧
      (opRd n).ended = true ∧ (opRd n).slots = 0 ∧ (opRd n).kind ≠ .rwinAdd ∧ (opRd n).ripe = n) ∧
    ((opRd 1).ripe ≤ (at1 (coreRd 1)).time ∧ (opRd 1).inB = [] ∧ (opRd 1).outB = [] ∧ mget 0 (coreAt (at1 (coreRd 1)) 0).tlOps 4 < 2 ^ 64 ∧
      (mget 0 (coreAt (at1 (coreRd 1)) 0).tl 4 : Word).toNat ≤ mget 0 (coreAt (at1 (coreRd 1)) 0).tlOps 4 ∧ (opRd 1).kind = .mxRd (.v 31) 15 15 ∧
      (opRd 1).dead = false ∧ present (coreAt (at1 (coreRd 1)) 0) (opRd 1).order = true) ∧
    ((∀ d x p, EngKind.mxZero 1 ≠ .mxRd d x p) ∧ (∀ d a i, EngKind.mxZero 1 ≠ .vpRd d a i) ∧ ∀ f d a, EngKind.mxZero 1 ≠ .eqSize f d a) := by
  refine ⟨⟨rfl, rfl, rfl, rfl, rfl, rfl, rfl⟩, fun k => ⟨fires_first k, rfl, rfl⟩, ?_,
    ⟨Nat.le_refl _, rfl, rfl, by decide, by decide, rfl, rfl, by decide⟩, ?_⟩
  · intro n _
    exact ⟨rfl, rfl, rfl, rfl, fun h => EngKind.noConfusion h, rfl⟩
  · simp

/-! Steps of engine operations. The accesses go to the scratchpad of core 0, whose ranges allow all of it. -/

/-- The state and the bytes that an access of an operation of core 0 gives. -/
def after (s : State) (t : Nat) (o : EngOp) (a : Word) (op : MemOp) : State × List Byte :=
  match performMem s 0 (engWho s 0 t o) true a op with
  | .ok (v, g) => (performedAt v 0 a op, g.bytes)
  | .error _ => (s, [])

/-- It is held by nothing, fails no test and meets no poisoned byte. -/
def clean (s : State) (t : Nat) (o : EngOp) (a : Word) (op : MemOp) : Bool :=
  !accessHeld s none 0 true a op &&
    match performMem s 0 (engWho s 0 t o) true a op with
    | .ok (_, g) => !g.poison
    | .error _ => false

theorem gives_after {s : State} {t : Nat} {o : EngOp} {a : Word} {op : MemOp} (h : clean s t o a op = true) :
    Gives s 0 t o true a op (after s t o a op).1 (after s t o a op).2 := by
  rw [clean, Bool.and_eq_true, Bool.not_eq_true'] at h
  refine ⟨.inl rfl, h.1, ?_⟩
  unfold after
  match hp : performMem s 0 (engWho s 0 t o) true a op with
  | .ok (v, g) =>
    have hg := h.2
    rw [hp] at hg
    exact ⟨v, g, rfl, by simpa using hg, rfl, rfl⟩
  | .error b =>
    have hg := h.2
    rw [hp] at hg
    exact absurd hg (by simp)

theorem gives_flag {s : State} {t : Nat} {o : EngOp} {sp : Bool} {a : Word} {op : MemOp} (hs : sp = true) (h : clean s t o a op = true) :
    ∃ u d, Gives s 0 t o sp a op u d := by
  subst hs
  exact ⟨_, _, gives_after h⟩

theorem reaches_after {s : State} {t : Nat} {o : EngOp} {bs : List Nat} {l : Layout} {a : Word} {op : MemOp} (hl : l.sp = 1)
    (h : clean s t o a op = true) : Reaches s 0 t o bs l a op (after s t o a op).1 (after s t o a op).2 :=
  ⟨true, a, by simp [layoutPlace, hl], gives_after h⟩

theorem reads_after {s : State} {t : Nat} {o : EngOp} {bs : List Nat} {l : Layout} {y x : Int} (hl : l.sp = 1) (hi : l.inside y x = true)
    (he : l.ew ≠ 0) (h : clean s t o (l.addr y x) (.load l.eb false) = true) :
    Reads s 0 t o bs l y x (after s t o (l.addr y x) (.load l.eb false)).1 (leNat (after s t o (l.addr y x) (.load l.eb false)).2) := by
  rw [Reads, if_pos hi]
  exact ⟨_, reaches_after hl h, by rw [if_neg he]⟩

theorem writes_after {s : State} {t : Nat} {o : EngOp} {bs : List Nat} {l : Layout} {y x : Int} {v : Nat} (hl : l.sp = 1) (hi : l.inside y x = true)
    (he : l.ew ≠ 0) (h : clean s t o (l.addr y x) (.store (leBytes l.eb v) false) = true) :
    Writes s 0 t o bs l y x v (after s t o (l.addr y x) (.store (leBytes l.eb v) false)).1 := by
  rw [Writes, if_pos hi, if_neg he]
  exact ⟨_, reaches_after hl h⟩

theorem adds_after {s : State} {t : Nat} {o : EngOp} {bs : List Nat} {l : Layout} {y x : Int} {f : Bool} {v : Nat} (hl : l.sp = 1)
    (hi : l.inside y x = true) (h : clean s t o (l.addr y x) (.mop .add (if f then .flt else .nat) 4 (BitVec.ofNat 64 v) 0) = true) :
    AddsTo s 0 t o bs l y x f v (after s t o (l.addr y x) (.mop .add (if f then .flt else .nat) 4 (BitVec.ofNat 64 v) 0)).1 := by
  rw [AddsTo, if_pos hi]
  exact ⟨_, reaches_after hl h⟩

/-- A layout record of a scratchpad view. -/
def view (base ew pitch vh vw fill : Nat) : List Word :=
  [BitVec.ofNat 64 base, BitVec.ofNat 64 (2 ^ 46 + ew * 2 ^ 44 + pitch), BitVec.ofNat 64 (vh * 2 ^ 48 + vw * 2 ^ 32), BitVec.ofNat 64 (fill * 2 ^ 32)]
def atPad : State := { at0 { core0 with alloc := [(0, 65536)] } with sram := [(256, 3), (257, 1), (258, 2), (512, 0xF1), (769, 1)] }
/-- A copy of two rows of four words, with a list of one index inside its view and one outside it. -/
def opCopy (k : EngKind) (pos : Nat) (aux : List Word) : EngOp :=
  { opDone k 3 with
    ended := false, given := true, pos := pos, aux := aux
    shape := view 256 3 16 2 4 7 ++ view 512 3 16 2 4 5 ++ view 768 1 1 1 1 9 ++ [BitVec.ofNat 64 (3 * 2 ^ 8 + 1), 0xFF00FF, 0, 0] }

/-- CopySteps: the last element of a row read and written; an index inside its view and one outside; a row of a gather read at its index, and
filled; a scattered element stored and added; an element folded into the checksum, and the result stored. -/
theorem witness_copies :
    (∀ k pos aux, (opCopy k pos aux).log = [] ∧ (opCopy k pos aux).kind = k ∧ cpConv ((opCopy k pos aux).shape.getD 12 0) ≠ 7 ∧
      cpConv ((opCopy k pos aux).shape.getD 12 0) ≠ 8 ∧ cpConv (7 * 2 ^ 36) = 7) ∧
    (let o := opCopy .cpGo 7 []
     let src := layoutAt o.shape 0
     let dst := layoutAt o.shape 4
     ∃ u v w, Reads atPad 0 0 o o.inB src (copyAt o src.row0 CopyLoop.sdr ((copyRow o % 2 : Nat) : Int)) (copyAt o src.col0 CopyLoop.sdc (copyCol o : Nat)) u v ∧
       Writes u 0 0 o o.outB dst (copyAt o dst.row0 CopyLoop.ddr ((copyRow o % 2 : Nat) : Int)) (copyAt o dst.col0 CopyLoop.ddc (copyCol o : Nat)) (converted o v) w) ∧
    (let o := opCopy .cpFill 7 []
     let dst := layoutAt o.shape 4
     ∃ w, Writes atPad 0 0 o o.outB dst (copyAt o dst.row0 CopyLoop.ddr ((copyRow o % 2 : Nat) : Int)) (copyAt o dst.col0 CopyLoop.ddc (copyCol o : Nat)) dst.fillElem w) ∧
    (∀ k, k = .cpGath ∨ k = .cpScat false ∨ k = .cpScat true → ∀ pos, pos = 0 ∨ pos = 5 → let o := opCopy k pos []
     let ixl := layoutAt o.shape 8
     copyCol o = 0 ∧ (ixl.inside (ixl.row0 + (copyRow o : Nat)) ixl.col0 = true ↔ pos = 0) ∧
       ∃ u v, Reads atPad 0 0 o o.inB ixl (ixl.row0 + (copyRow o : Nat)) ixl.col0 u v ∧ v = if pos = 0 then 0 else 9) ∧
    (let o := opCopy .cpGath 9 [1, 0]
     let src := layoutAt o.shape 0
     let dst := layoutAt o.shape 4
     copyCol o ≠ 0 ∧ o.aux.getD 1 0 = 0 ∧
     ∃ u v w, Reads atPad 0 0 o o.inB src ((o.aux.getD 0 0).toNat : Int) (copyAt o src.col0 CopyLoop.sdc (copyCol o - 1 : Nat)) u v ∧
       Writes u 0 0 o o.outB dst (copyAt o dst.row0 CopyLoop.ddr ((copyRow o % 2 : Nat) : Int)) (copyAt o dst.col0 CopyLoop.ddc (copyCol o - 1 : Nat)) (converted o v) w) ∧
    (let o := opCopy .cpGath 9 [2, 1]
     let dst := layoutAt o.shape 4
     o.aux.getD 1 0 = 1 ∧
     ∃ w, Writes atPad 0 0 o o.outB dst (copyAt o dst.row0 CopyLoop.ddr ((copyRow o % 2 : Nat) : Int)) (copyAt o dst.col0 CopyLoop.ddc (copyCol o - 1 : Nat))
       (converted o (layoutAt o.shape 0).fillElem) w) ∧
    (∀ add, let o := opCopy (.cpScat add) 9 [1, 0]
     let src := layoutAt o.shape 0
     let dst := layoutAt o.shape 4
     ∃ u v, Reads atPad 0 0 o o.inB src (copyAt o src.row0 CopyLoop.sdr ((copyRow o % 2 : Nat) : Int)) (copyAt o src.col0 CopyLoop.sdc (copyCol o - 1 : Nat)) u v ∧
       (∃ w, Writes u 0 0 o o.outB dst ((o.aux.getD 0 0).toNat : Int) (copyAt o dst.col0 CopyLoop.ddc (copyCol o - 1 : Nat)) (converted o v) w) ∧
       ∃ w, AddsTo u 0 0 o o.outB dst ((o.aux.getD 0 0).toNat : Int) (copyAt o dst.col0 CopyLoop.ddc (copyCol o - 1 : Nat)) (cpAty (o.shape.getD 12 0)) v w) ∧
    (∀ cmp, let o := opCopy (.cpChk cmp) 7 []
     let src := layoutAt o.shape 0
     o.pos + 1 ≠ cpSteps o ∧
     ∃ u v, Reads atPad 0 0 o o.inB src (copyAt o src.row0 CopyLoop.sdr ((copyRow o % 2 : Nat) : Int)) (copyAt o src.col0 CopyLoop.sdc (copyCol o : Nat)) u v) ∧
    (∀ cmp, let o := opCopy (.cpChk cmp) 8 [5]
     let dst := layoutAt o.shape 4
     o.pos + 1 = cpSteps o ∧ ∀ n : Nat, n = 5 ∨ n = 2 ^ 33 → ∃ w d, Reaches atPad 0 0 o o.outB dst dst.base (.store (leBytes 8 n) false) w d) := by
  refine ⟨fun k pos aux => ⟨rfl, rfl, by show ¬cpConv (BitVec.ofNat 64 (3 * 2 ^ 8 + 1)) = 7; decide, by show ¬cpConv (BitVec.ofNat 64 (3 * 2 ^ 8 + 1)) = 8; decide, by decide⟩, ?_, ?_, ?_, ?_, ?_, ?_, ?_, ?_⟩
  · exact ⟨_, _, _, reads_after (by decide +kernel) (by decide +kernel) (by decide +kernel) (by decide +kernel),
      writes_after (by decide +kernel) (by decide +kernel) (by decide +kernel) (by decide +kernel)⟩
  · exact ⟨_, writes_after (by decide +kernel) (by decide +kernel) (by decide +kernel) (by decide +kernel)⟩
  · rintro k (rfl | rfl | rfl) pos (rfl | rfl) <;>
      first
      | exact ⟨by decide +kernel, by decide +kernel, _, _, reads_after (by decide +kernel) (by decide +kernel) (by decide +kernel) (by decide +kernel), by decide +kernel⟩
      | exact ⟨by decide +kernel, by decide +kernel, _, _, by unfold Reads; rw [if_neg (by decide +kernel)]; exact ⟨rfl, rfl⟩, by decide +kernel⟩
  · exact ⟨by decide +kernel, rfl, _, _, _, reads_after (by decide +kernel) (by decide +kernel) (by decide +kernel) (by decide +kernel),
      writes_after (by decide +kernel) (by decide +kernel) (by decide +kernel) (by decide +kernel)⟩
  · exact ⟨rfl, _, writes_after (by decide +kernel) (by decide +kernel) (by decide +kernel) (by decide +kernel)⟩
  · rintro (_ | _) <;>
      exact ⟨_, _, reads_after (by decide +kernel) (by decide +kernel) (by decide +kernel) (by decide +kernel),
        ⟨_, writes_after (by decide +kernel) (by decide +kernel) (by decide +kernel) (by decide +kernel)⟩,
        _, adds_after (by decide +kernel) (by decide +kernel) (by decide +kernel)⟩
  · rintro (_ | _) <;>
      exact ⟨by decide +kernel, _, _, reads_after (by decide +kernel) (by decide +kernel) (by decide +kernel) (by decide +kernel)⟩
  · rintro (_ | _) <;> refine ⟨by decide +kernel, ?_⟩ <;> rintro n (rfl | rfl) <;>
      exact ⟨_, _, reaches_after (by decide +kernel) (by decide +kernel)⟩

/-- Rows below a view are its fill: reading them accesses nothing (R248). -/
theorem readSpan_below {k t : Nat} {o : EngOp} {bs : List Nat} {l : Layout} {y : Int} (h : (l.vh : Int) ≤ y) :
    ∀ (n : Nat) (x : Int) (r : Run), (readSpan k t o bs l y x false n r).1 = r
  | 0, _, _ => rfl
  | n + 1, x, r => by
    have hi : l.inside y x = false := by simp only [Layout.inside, decide_eq_false (Int.not_lt.2 h), Bool.and_false, Bool.false_and]
    simp only [readSpan, readElem, hi, Bool.false_eq_true, if_false]
    exact readSpan_below h n (x + 1) r

theorem readBlock_below {k t : Nat} {o : EngOp} {l : Layout} {f : OpFmt} {y x : Int} (h : (l.vh : Int) ≤ y) (hb : l.bax = 0) (r : Run) :
    (readBlock k t o l f false y x r).1 = r := by
  have ho : blockOutside l y x = true := by
    simp only [blockOutside, hb, if_true, List.all_eq_true]
    intro j _
    simp only [Layout.inside, decide_eq_false (Int.not_lt.2 h), Bool.and_false, Bool.false_and, Bool.not_false]
  simp only [readBlock, readScale, ho, if_true]
  split <;> exact readSpan_below h 64 x r

theorem readRows_below {k t : Nat} {o : EngOp} {l : Layout} {f : OpFmt} {x : Int} (hb : l.bax = 0) :
    ∀ (n : Nat) (y : Int) (r : Run), (l.vh : Int) ≤ y → (readRows k t o l f y x n r).1 = r
  | 0, _, _, _ => rfl
  | n + 1, y, r, h => by
    simp only [readRows, readBlock_below h hb]
    exact readRows_below hb n (y + 1) r (by omega)

theorem readRows_first {k t : Nat} {o : EngOp} {l : Layout} {f : OpFmt} {y x : Int} {n : Nat} {r : Run} (hb : l.bax = 0) (h : (l.vh : Int) ≤ y + 1) :
    (readRows k t o l f y x (n + 1) r).1 = (readBlock k t o l f false y x r).1 := by
  simp only [readRows]
  exact readRows_below hb n (y + 1) _ h

/-- A mx.go with one K level of one step, whose operands lie in the scratchpad; a mx.wload of a buffer of one block by 32 columns; a mx.drain
of a tile pair. -/
def opMx (k : EngKind) (pos : Nat) (d : Nat) : EngOp :=
  { opDone k 3 with
    ended := false, given := true, pos := pos, loops := [BitVec.ofNat 128 (2 ^ 33)], fmt := [BitVec.ofNat 32 (4 * 2 ^ 20 + 0x4000), 0x08404000]
    shape := view 256 1 64 1 2 0 ++ view 512 3 256 64 64 5 ++ view 768 1 64 64 32 9 ++
      [2 ^ 32 + 32 * 2 ^ 16 + 4, BitVec.ofNat 64 (2 ^ 16 + 7 * 2 ^ 8 + 2 ^ 4), BitVec.ofNat 64 (d * 2 ^ 3), 0xFF00FF] }

/-- MatrixSteps: tiles 15 and 0 as a wide unit; a tile start; a K step; the last column of a weight image; a drained element of the second
tile, stored and added. -/
theorem witness_matrix_steps :
    (15 < 16 ∧ rising core0.tiles ∧ (unitTiles 15 true).length = 2 ∧ (List.replicate 32 ({ scale := 0, mant := [] } : Block)).length = 32) ∧
    (∀ p, p = 0 ∨ p = 1 → let o := opMx (.mxGo false) p 0
     o.kind = .mxGo false ∧ o.log = [] ∧ o.pos % groupSteps o = p ∧ p ≤ trips ((o.loops.map mxLoop).filter MxLoop.k) * mxKpb o.shape) ∧
    (let o := opMx (.mxGo false) 1 0
     ∃ r as, readRows 0 4 o (layoutAt o.shape 0) (OpFmt.ofCode (ftFa (o.fmt.getD 0 0))) (layoutAt o.shape 0).row0 (layoutAt o.shape 0).col0 32
       (Run.start atPad o) = (r, as) ∧ r.stop = none ∧ (coreAt r.s 0).faulty = none) ∧
    (let o := opMx .mxWload 31 0
     mxSpr o.shape = false ∧
     ∃ r b, readBlock 0 4 o (layoutAt o.shape 8) (OpFmt.ofCode (mxWf o.shape)) true ((layoutAt o.shape 8).row0 + (64 * (o.pos % mxKblk o.shape) : Nat))
       ((layoutAt o.shape 8).col0 + (o.pos / mxKblk o.shape : Nat)) (Run.start atPad o) = (r, b) ∧ r.stop = none) ∧
    (∀ m, m = 0 ∨ m = 1 → let o := opMx (.mxDrain 14 m) 2078 m
     let f := o.fmt.getD m 0
     let d := layoutAt o.shape 4
     32 ≤ o.pos ∧ o.pos + 1 < 2080 ∧ ftDrf f ≠ 0 ∧ (m = 0 → (o.pos - 33) % 64 < 64) ∧ (m = 1 → ftWide f = true) ∧ mxDmode o.shape = (m == 1) ∧
     ∀ v : Nat, v = 0 ∨ v = 2 ^ 32 - 1 →
      (∃ u, Writes atPad 0 4 o o.outB d (d.row0 + (((o.pos - 32) / 64 : Nat) : Int)) (d.col0 + (((o.pos - 32) % 64 : Nat) : Int)) v u) ∧
      ∃ u, AddsTo atPad 0 4 o o.outB d (d.row0 + (((o.pos - 32) / 64 : Nat) : Int)) (d.col0 + (((o.pos - 32) % 64 : Nat) : Int)) (ftDrf f == 4) v u) := by
  refine ⟨⟨by decide, List.Pairwise.nil, rfl, by decide⟩, ?_, ?_, ⟨by decide +kernel, _, _, rfl, by decide +kernel⟩, ?_⟩
  · rintro p (rfl | rfl) <;> exact ⟨rfl, rfl, by decide +kernel, by decide +kernel⟩
  · have h := readRows_first (k := 0) (t := 4) (o := opMx (.mxGo false) 1 0) (l := layoutAt (opMx (.mxGo false) 1 0).shape 0)
      (f := OpFmt.ofCode (ftFa ((opMx (.mxGo false) 1 0).fmt.getD 0 0))) (y := (layoutAt (opMx (.mxGo false) 1 0).shape 0).row0)
      (x := (layoutAt (opMx (.mxGo false) 1 0).shape 0).col0) (n := 31) (r := Run.start atPad (opMx (.mxGo false) 1 0)) (by decide) (by decide)
    exact ⟨_, _, Prod.mk.eta.symm, (congrArg Run.stop h).trans (by decide +kernel), (congrArg (fun r => (coreAt r.s 0).faulty) h).trans (by decide +kernel)⟩
  · rintro m (rfl | rfl) <;> refine ⟨by decide, by decide, by decide +kernel, by decide, by decide +kernel, by decide +kernel, ?_⟩ <;> rintro v (rfl | rfl) <;>
      exact ⟨⟨_, writes_after (by decide +kernel) (by decide +kernel) (by decide +kernel) (by decide +kernel)⟩,
        _, adds_after (by decide +kernel) (by decide +kernel) (by decide +kernel)⟩

/-- A projection of one row and one tile of 31 columns: records of 8 bytes per heap entry at 2048, dh and dW in the scratchpad. -/
def opVp (k : EngKind) (pos : Nat) : EngOp :=
  { opDone k 3 with
    ended := false, given := true, pos := pos, fmt := [0x00404000]
    shape := view 256 1 64 32 64 0 ++ view 512 1 64 64 64 5 ++
      [2048, 0, 2, 31, 8192, BitVec.ofNat 64 (3 * 2 ^ 62 + 256), 16384, 128] }

/-- ProjectionSteps: two records merged; the last step of a row, its update, a block of its tile and the start of a row that is not the
first; the elements of dh and dW, and a column past the tile's last. -/
theorem witness_projection_steps :
    (∃ r q x y, readRecord (Run.start atPad (opVp (.vpMerge 1024 2048) 0)) 0 (opVp (.vpMerge 1024 2048) 0) 1024 = (r, x) ∧
      readRecord r 0 (opVp (.vpMerge 1024 2048) 0) 2048 = (q, y) ∧ q.stop = none ∧ q.todo = [] ∧
      ∃ u d, Gives q.s 0 9 (opVp (.vpMerge 1024 2048) 0) true (BitVec.ofNat 64 1024) (.store (projBytes (mergeRecords x y)) false) u d) ∧
    (let sh := (opVp .vpFwd 0).shape
     fwdRowSteps sh = 4 ∧ vpK sh ≤ 64 ∧ 3 % fwdRowSteps sh + 1 = fwdRowSteps sh ∧
      (∃ u d, Gives atPad 0 9 (opVp .vpFwd 3) true (BitVec.ofNat 64 (vpRbase sh + 0 * recBytes (vpK sh))) (.store (projBytes (rowRecord sh 0 (FwdState.of []))) false) u d) ∧
      (2 % fwdRowSteps sh - 1) % (vpKblk sh + 1) = vpKblk sh ∧ (1 % fwdRowSteps sh - 1) % (vpKblk sh + 1) < vpKblk sh ∧ 4 % fwdRowSteps sh = 0 ∧ 4 / fwdRowSteps sh ≠ 0) ∧
    (let sh := (opVp .vpBwd 0).shape
     let n := vpRows sh * (64 * vpKblk sh)
     n = 64 ∧ n + 32 < bwdTileSteps sh ∧ tileCols sh 0 = 31 ∧ vpDmode sh = false ∧
      (∃ u d, Gives atPad 0 9 (opVp .vpBwd 1) (vpHsp sh) (sh.getD 12 0 + BitVec.ofNat 64 (0 / 64 * vpHpitch sh + 4 * (0 % 64))) (.mop .add .flt 4 0 0) u d) ∧
      ∃ u d, Gives atPad 0 9 (opVp .vpBwd (n + 31)) (vpGsp sh) (sh.getD 14 0 + BitVec.ofNat 64 (30 / 32 * vpGpitch sh + 4 * (32 * 0 + 30 % 32)))
        (.store (leBytes 4 0) false) u d) := by
  refine ⟨⟨_, _, _, _, rfl, rfl, by decide +kernel, by decide +kernel, _, _, gives_after (by decide +kernel)⟩,
    ⟨by decide +kernel, by decide +kernel, by decide +kernel, ⟨_, _, gives_after (by decide +kernel)⟩, by decide +kernel, by decide +kernel, by decide +kernel, by decide +kernel⟩,
    ⟨by decide +kernel, by decide +kernel, by decide +kernel, by decide +kernel, gives_flag (by decide +kernel) (by decide +kernel),
      gives_flag (by decide +kernel) (by decide +kernel)⟩⟩

/-- A die with forest 3 of context 0, whose 4 elements and log lie in a page that the context reaches; their parents are 0, 0, 2 and 2. -/
def forest0 (n : Option Nat) : Forest := { owner := 0, n := 4, back := 256, log := 8192, open_ := n }
def atE (n : Option Nat) : State :=
  { atPad with
    forests := [(3, some (forest0 n))], tlb := [(0, 0, 0xDF)], shape := { atPad.shape with hbmCh := 1 }
    hbm := [(264, 2), (268, 2), (272, 1), (280, 1)], sram := [(256, 3), (260, 1), (264, 9)] }
/-- A list of pairs (3, 1) and (9, 0), and a list of the indices 3, 1 and 9. -/
def opEq (k : EngKind) (pos : Nat) (aux : List Word) : EngOp :=
  { opDone k 3 with
    ended := false, given := true, pos := pos, aux := aux
    shape := view 256 3 8 2 2 7 ++ view 512 3 16 4 4 5 ++ view 256 3 4 3 1 0 ++ [1 + 2 ^ 24, 0, 0, 0] }

/-- The result of an item. -/
def found {ε α : Type} : Except ε α → Option α
  | .ok x => some x
  | .error _ => none
theorem found_some {ε α : Type} {x : Except ε α} (h : (found x).isSome = true) : ∃ y, x = .ok y := by
  cases x with
  | ok y => exact ⟨y, rfl⟩
  | error e => exact absurd h (by simp [found])

/-- EquivalenceSteps: a forest of the context and none; indices inside a forest and outside it; items of each kind, a snapshot open with one
entry logged. -/
theorem witness_equivalence_steps :
    (∀ n, mget none (atE n).forests 3 = some (forest0 n) ∧ (forest0 n).owner = keyCtx 0 ∧ mget none (atE n).forests 2 = none) ∧
    (∀ k aux, aux ≠ eqEnd → (opEq k 0 aux).log = [] ∧ (opEq k 0 aux).aux ≠ eqEnd ∧ (opEq k 0 aux).kind = k) ∧
    (let o := opEq (.eqUnite 3) 0 []
     let r := eqIndex (Run.start (atE none) o) 0 o (layoutAt o.shape 0) 4 0 0
     let q := eqIndex r.1 0 o (layoutAt o.shape 0) 4 0 1
     q.1.stop = none ∧ r.2.1 = 3 ∧ q.2.1 = 1 ∧ r.2.2 = false ∧ q.2.2 = false ∧ eqInside q.1.s 0 o = false ∧
       ∃ e, eqUniteItem { s := q.1.s, f := forest0 none, k := 0, todo := q.1.todo, log := q.1.log } 3 1 = .ok e) ∧
    (let o := opEq (.eqUnite 3) 1 []
     let r := eqIndex (Run.start (atE none) o) 0 o (layoutAt o.shape 0) 4 1 0
     r.1.stop = none ∧ r.2.2 = true ∧ (eqIndex r.1 0 o (layoutAt o.shape 0) 4 1 1).1.stop = none) ∧
    (∀ k, k = .eqFind 3 ∨ k = .eqRelab 3 .sum → let o := opEq k 0 []
     let r := eqIndex (Run.start (atE none) o) 0 o (layoutAt o.shape 8) 4 0 0
     let q := eqIndex (Run.start (atE none) o) 0 o (layoutAt o.shape 8) 4 2 0
     r.1.stop = none ∧ r.2 = (3, false) ∧ eqInside r.1.s 0 o = false ∧ q.1.stop = none ∧ q.2 = (9, true) ∧
       ∃ e, eqFindItem { s := r.1.s, f := forest0 none, k := 0, todo := r.1.todo, log := r.1.log } 3 = .ok e) ∧
    (let o := opEq (.eqFind 3) 1 [2]
     o.pos % 2 = 1 ∧ ∃ u, Writes (atE none) 0 10 o [] (layoutAt o.shape 4) ((layoutAt o.shape 4).row0 + (o.pos / 2 : Nat)) (layoutAt o.shape 4).col0 (o.aux.headD 0).toNat u) ∧
    (let o := opEq (.eqRelab 3 .sum) (eqCnt (opEq (.eqRelab 3 .sum) 0 []).shape) [3, 3, 3, 1]
     eqCnt o.shape ≤ o.pos ∧ (((relabRows o.aux).map Prod.fst).dedup)[(o.pos - eqCnt o.shape) / eqTw o.shape]? = some 2 ∧
     (∃ r vs, relabRead 0 o ((o.pos - eqCnt o.shape) % eqTw o.shape) (((relabRows o.aux).filter fun x => x.1 == 2).map fun x => x.2.2) (Run.start (atE none) o) = (r, vs) ∧
       r.stop = none ∧ r.todo = [] ∧
       ∃ u, Writes r.s 0 10 o [] (layoutAt o.shape 4) 2 ((layoutAt o.shape 4).col0 + ((o.pos - eqCnt o.shape) % eqTw o.shape : Nat)) (relabValue .sum vs) u)) ∧
    (let o := opEq (.eqSize 3 (.g 1) 3) 0 []
     (3 : Word).toNat < (forest0 none).n ∧ (forest0 none).n ≤ (4 : Word).toNat ∧ eqInside (atE none) 0 o = false ∧
     ∃ e, eqSizeItem { s := atE none, f := forest0 none, k := 0, todo := [], log := [] } 3 = .ok e) ∧
    (let o := opEq (.eqUndo 3) 0 []
     (forest0 none).open_ = none ∧ (forest0 (some 1)).open_ = some 1 ∧ eqInside (atE (some 1)) 0 o = false ∧
     ∃ e, eqUndoFrom 0 1 { s := atE (some 1), f := forest0 (some 1), k := 0, todo := [], log := [] } = .ok e) ∧
    ((∀ g, mget none (atE none).forests 2 = some g → g.owner ≠ keyCtx 0) ∧ eqSlot (.eqSnap 2) = 2 ∧ ∀ g a, EngKind.eqSnap 2 ≠ .eqNew g a) := by
  refine ⟨fun n => ⟨rfl, rfl, rfl⟩, fun k aux h => ⟨rfl, h, rfl⟩, ?_, ?_, ?_, ?_, ?_, ?_, ?_, ?_⟩
  · exact ⟨by decide +kernel, by decide +kernel, by decide +kernel, by decide +kernel, by decide +kernel, by decide +kernel, found_some (by decide +kernel)⟩
  · exact ⟨by decide +kernel, by decide +kernel, by decide +kernel⟩
  · rintro k (rfl | rfl) <;>
      exact ⟨by decide +kernel, by decide +kernel, by decide +kernel, by decide +kernel, by decide +kernel, found_some (by decide +kernel)⟩
  · exact ⟨rfl, _, writes_after (by decide +kernel) (by decide +kernel) (by decide +kernel) (by decide +kernel)⟩
  · exact ⟨by decide +kernel, by decide +kernel, _, _, rfl, by decide +kernel, by decide +kernel, _,
      writes_after (by decide +kernel) (by decide +kernel) (by decide +kernel) (by decide +kernel)⟩
  · exact ⟨by decide, by decide, by decide +kernel, found_some (by decide +kernel)⟩
  · exact ⟨rfl, rfl, by decide +kernel, found_some (by decide +kernel)⟩
  · exact ⟨fun g h => absurd h (by simp [atE, mget]), rfl, by simp⟩

/-- A capability of rank r: type, length, base 0, all permissions, generation 9, pod 0. -/
def capOf (r type len : Nat) : BitVec 128 := BitVec.ofNat 128 (r * 2 ^ 110 + 63 * 2 ^ 104 + 9 * 2 ^ 96 + type * 2 ^ 92 + len * 2 ^ 47)
def withK (c : Core) (v : BitVec 128) (t : Bool) : Core := { c with k := c.k.set 15 (v, t) }
def coreK : Core := { withK (withG (withG core0 1 4088) 2 3968) (capOf 5 0 4096) true with alloc := [(0, 4096)] }

/-- A state in service mode whose window-table entry 0 leads to the first 8 bytes of rank 5. -/
def atS : State :=
  { at0 core0 with
    ctxs := [(0, some { ctx0 with service := true, wintab := 1048576 })]
    hbm := writeNat [] 1048576 16 (2 ^ 127 + 63 * 2 ^ 121 + 5 * 2 ^ 107 + 7 * 2 ^ 47) }

/-- RemoteAccessesIssue: the last bytes that a capability and a window reach; a block that ends both ranges; a slot still free. -/
theorem witness_remote_accesses :
    (reaches (at0 coreK) 15 bitR 8 (readG coreK 1) 5 4088 (some 9) ∧ reaches (at0 coreK) 15 bitW 8 (readG coreK 1) 5 4088 (some 9) ∧
      reaches (at0 coreK) 15 bitA 8 (readG coreK 1) 5 4088 (some 9) ∧ 4088 % 8 = 0 ∧ slotFree (at0 coreK) 5) ∧
    reaches atS 0 bitR 8 0 5 0 none ∧
    (CanIssue coreK [1] [55] [] [15] 1 ∧ CanIssue coreK [1, 54] [] [] [15] 1 ∧ CanIssue coreK ([1] ++ if AmoOp.cas == .cas then [54, 55] else [54]) [54] [] [15] 1 ∧
      ((5 : Nat) = (at0 coreK).port.rank → inWindow (at0 coreK) 0 (remoteAddr 5 4088) 8 = false)) ∧
    (let l := (readG coreK 2).toNat
     CanIssue coreK [2, 2] [] [] [15] 0 ∧ 3968 % 32 = 0 ∧ l % 32 = 0 ∧ l < 2 ^ 22 ∧ allocated (at0 coreK) (at0 coreK).cur l 128 = true ∧
      (mget [] coreK.engs 11).length < 16 ∧ reaches (at0 coreK) 15 bitR 128 (readG coreK 2) 5 3968 (some 9) ∧
      reaches (at0 coreK) 15 bitW 128 (readG coreK 2) 5 3968 (some 9)) := by
  refine ⟨⟨by unfold reaches; decide +kernel, by unfold reaches; decide +kernel, by unfold reaches; decide +kernel, by decide, .inr (by decide)⟩,
    by unfold reaches; decide +kernel, ⟨quiet rfl rfl rfl rfl _ _ _ _ _ (by decide) (by decide) (by decide),
      quiet rfl rfl rfl rfl _ _ _ _ _ (by decide) (by decide) (by decide), quiet rfl rfl rfl rfl _ _ _ _ _ (by decide) (by decide) (by decide),
      fun h => absurd h (by decide)⟩, ⟨quiet rfl rfl rfl rfl _ _ _ _ _ (by decide) (by decide) (by decide), by decide, by decide +kernel, by decide +kernel, by decide +kernel,
      by decide, by unfold reaches; decide +kernel, by unfold reaches; decide +kernel⟩⟩

/-- Capabilities: a check that passes and one that fails at each of its five tests; a region that can be made, one past the die, and one that
overlaps; a derivation within its source, and one beyond. -/
def sub0 (c : Core) (need n : Nat) : Nat :=
  if (readK c 15).2 = false then 1 else if (readK c 15).1.toNat / 2 ^ 92 % 16 ≠ 0 then 2 else if (readK c 15).1.toNat / 2 ^ 120 ≠ 0 then 3
  else if (readK c 15).1.toNat / 2 ^ 104 % 64 &&& need ≠ need then 4
  else if (readK c 15).1.toNat / 2 ^ 47 % 2 ^ 45 < (readG c 1).toNat + n ∨ 2 ^ 47 < (readK c 15).1.toNat % 2 ^ 47 + (readG c 1).toNat + n then 5 else 0

theorem witness_capability_checks :
    (curCtx (at0 coreK)).service = false ∧ coreK.phase = .alone ∧ CanIssue coreK [1, 55] [] [] [15] 1 ∧
    (BitVec.ofNat 64 ((readK coreK 15).1.toNat % 2 ^ 47) + readG coreK 1).toNat % 8 = 0 ∧ sub0 coreK 2 8 = 0 ∧
    sub0 (withK coreK (capOf 5 0 4096) false) 2 8 = 1 ∧ sub0 (withK coreK (capOf 5 2 4096) true) 2 8 = 2 ∧
    sub0 (withK coreK (capOf 5 0 4096 ||| (1 <<< 120)) true) 2 8 = 3 ∧ sub0 (withK coreK (capOf 5 0 4096 &&& ~~~(63 <<< 104 : BitVec 128)) true) 2 8 = 4 ∧
    sub0 (withK coreK (capOf 5 0 4095) true) 2 8 = 5 := by
  refine ⟨rfl, rfl, quiet rfl rfl rfl rfl _ _ _ _ _ (by decide) (by decide) (by decide), by decide +kernel, by decide +kernel, by decide +kernel, by decide +kernel,
    by decide +kernel, by decide +kernel, by decide +kernel⟩

def coreMk : Core := withK (withG (withG core0 54 (2 ^ 47 - 64)) 55 (63 * 2 ^ 48 + 2 ^ 56 + 64)) (capOf 0 0 4096) true
def coreMkD : Core := withK (withG (withG core0 54 4032) 55 (63 * 2 ^ 48 + 64)) (capOf 0 0 4096) true
def region0 : Region := { base := 0, len := 4096, gen := 3, ctx := 0 }
theorem witness_capability_instructions :
    ((16 : Word).toNat % 16 = 0 ∧ reach (at0 core0) true 16 ∧ CanIssue core0 [55] [] [] [15] 1) ∧
    (let g := readG coreMk 54
     let m := (readG coreMk 55).toNat
     CanIssue coreMk [54, 55] [] [] [] 0 ∧ m / 2 ^ 45 % 8 = 0 ∧ m / 2 ^ 54 % 4 = 0 ∧ m / 2 ^ 60 = 0 ∧ m / 2 ^ 56 % 16 ≤ 1 ∧
      (g.toNat / 2 ^ 57 = 0 ∧ g.toNat / 2 ^ 47 = (at0 coreMk).port.rank ∧ (at0 coreMk).regions.length < 1024 ∧
        ∀ r ∈ (at0 coreMk).regions, ¬(r.base < g.toNat % 2 ^ 47 + m % 2 ^ 45 ∧ g.toNat % 2 ^ 47 < r.base + r.len))) ∧
    (¬((2 ^ 47 : Word).toNat / 2 ^ 47 = (at0 core0).port.rank) ∧
      ¬∀ r ∈ [region0], ¬(r.base < 4095 + 1 ∧ 4095 < r.base + r.len)) ∧
    (let g := readG coreMkD 54
     let m := (readG coreMkD 55).toNat
     let v := (readK coreMkD 15).1.toNat
     CanIssue coreMkD [54, 55] [] [] [15] 0 ∧ m / 2 ^ 54 = 0 ∧ m / 2 ^ 45 % 8 = 0 ∧
      ((readK coreMkD 15).2 = true ∧ v / 2 ^ 109 % 2 = 1 ∧ v / 2 ^ 104 % 64 &&& (m / 2 ^ 48 % 64) = m / 2 ^ 48 % 64 ∧ v % 2 ^ 47 ≤ g.toNat ∧
        g.toNat + m % 2 ^ 45 ≤ v % 2 ^ 47 + v / 2 ^ 47 % 2 ^ 45) ∧ ¬(g.toNat + (m + 1) % 2 ^ 45 ≤ v % 2 ^ 47 + v / 2 ^ 47 % 2 ^ 45)) ∧
    (region0.base ≤ 4095 ∧ 4095 < region0.base + region0.len ∧ ¬(4096 < region0.base + region0.len)) := by
  refine ⟨⟨by decide, ⟨.inl rfl, .inl rfl⟩, quiet rfl rfl rfl rfl _ _ _ _ _ (by decide) (by decide) (by decide)⟩,
    ⟨quiet rfl rfl rfl rfl _ _ _ _ _ (by decide) (by decide) (by decide), by decide +kernel, by decide +kernel, by decide +kernel, by decide +kernel, by decide +kernel⟩,
    by decide, ⟨quiet rfl rfl rfl rfl _ _ _ _ _ (by decide) (by decide) (by decide), by decide +kernel, by decide +kernel, by decide +kernel, by decide +kernel⟩, by decide⟩

/-- FifoBindingPegsAndWindows: names that bind to rank 5 and to a core of this die, an unbinding; a rank and channel at their tops; streams. -/
theorem witness_fifo_binding :
    (let w : Word := 2 ^ 63 + 5 * 2 ^ 20 + 511 * 2 ^ 11 + 7
     CanIssue (withG core0 1 w) [1] [] [] [] 0 ∧ w.toNat / 2 ^ 63 = 1 ∧ w.toNat / 2 ^ 30 % 2 ^ 33 = 0 ∧ w.toNat / 2 ^ 3 % 256 = 0 ∧
      (mget Fifo.init core0.fifos 7).peer = none ∧ w.toNat / 2 ^ 20 % 1024 ∈ (curCtx (at0 core0)).members ∧ w.toNat / 2 ^ 20 % 1024 ≠ (at0 core0).port.rank ∧
      w.toNat / 2 ^ 20 % 1024 = 5 ∧ ∃ l, linkTo (at0 core0) false 5 = some l) ∧
    (let w : Word := 2 ^ 63 + 511 * 2 ^ 11 + 7
     w.toNat / 2 ^ 20 % 1024 = (at0 core0).port.rank ∧ (at0 core0).cur / 512 * 512 + w.toNat / 2 ^ 11 % 512 ≠ (at0 core0).cur) ∧
    (let c : Core := { core0 with fifos := [(7, { Fifo.init with peer := some (5, 3, 1) })] }
     CanIssue c [1] [] [] [] 0 ∧ (readG c 1).toNat / 2 ^ 63 = 0 ∧ (mget Fifo.init c.fifos 7).peer.isSome = true ∧ (mget Fifo.init c.fifos 7).fi = [] ∧
      (mget Fifo.init c.fifos 7).fo = [] ∧ (mget Fifo.init c.fifos 7).resv = 0 ∧ fifoSending (at0 c) (at0 c).cur 7 = false) ∧
    (CanIssue core0 [1] [55] [] [] 0 ∧ (4095 : Word).toNat < 4096 ∧ (4 : Word).toNat ≤ 4 ∧ (13 : Word).toNat = 13) ∧
    (CanIssue core0 [1] [55] [] [] 1 ∧ (2 ^ 47 - 32 : Word).toNat % 32 = 0 ∧ (2 ^ 47 - 32 : Word).toNat / 2 ^ 57 = 0 ∧
      (2 ^ 47 - 32 : Word).toNat / 2 ^ 47 = (at0 core0).port.rank ∧ (at0 core0).port.rank ∈ (curCtx (at0 core0)).members) := by
  refine ⟨⟨quiet rfl rfl rfl rfl _ _ _ _ _ (by decide) (by decide) (by decide), by decide +kernel, by decide +kernel, by decide +kernel, rfl, by decide +kernel, by decide +kernel, by decide +kernel, ⟨_, rfl⟩⟩, by decide +kernel,
    ⟨quiet rfl rfl rfl rfl _ _ _ _ _ (by decide) (by decide) (by decide), by decide +kernel, rfl, rfl, rfl, rfl, rfl⟩,
    ⟨quiet rfl rfl rfl rfl _ _ _ _ _ (by decide) (by decide) (by decide), by decide +kernel, by decide +kernel, by decide +kernel⟩,
    ⟨quiet rfl rfl rfl rfl _ _ _ _ _ (by decide) (by decide) (by decide), by decide +kernel, by decide +kernel, by decide +kernel, by decide +kernel⟩⟩

/-- A chase descriptor at offset 64 of the scratchpad: one step, all zeros but NSTEP; a landing basket of 256 bytes. -/
def coreCh : Core :=
  { withG (withG core0 1 64) 2 (7 * 2 ^ 8 + 255) with
    alloc := [(0, 4096)], baskets := [(255, 256 * 2 ^ 22)], k := core0.k.set 15 (capOf 5 0 4096, true) }
def atCh : State := { at0 coreCh with sram := [(80, 1)] }

/-- ChasesAndDrtCommands: a chase with and without a capability; the longest and the shortest put with and without .tags; a registration
to revoke; a table with its first entry free, and a full one. -/
def coreRma (n : Word) (r type : Nat) : Core :=
  withK (withG (withG (withG (withG core0 1 16) 2 (4096 - 16)) 54 (2 ^ 63 + 32)) 55 n) (capOf r type 4096) true
def registration0 : Registration := { base := 0, len := 4096, perms := 63, gen := 9, ctx := 0, closing := false, started := 0, waiter := none }
def atReg (l : List (Nat × Option Registration)) : State :=
  let s := at0 (coreRma 64 0 2)
  { s with drt := { s.drt with regs := l } }

theorem mget_filled (f : Nat → Option Registration) (h : ∀ i, f i ≠ none) :
    ∀ n a i, a ≤ i → i < a + n → mget none ((List.range' a n).map fun i => (i, f i)) i ≠ none := by
  intro n
  induction n with
  | zero => intro a i h1 h2; omega
  | succ n ih =>
    intro a i h1 h2
    rw [List.range'_succ, List.map_cons, mget]
    split
    · exact h a
    · exact ih (a + 1) i (by omega) (by omega)

theorem witness_chases :
    (let o := readG coreCh 1
     let l := readG coreCh 2
     let n := leNat ((descBytes atCh o.toNat 32).drop 16 |>.take 1) % 16
     let bs := descBytes atCh o.toNat (32 + 16 * n)
     let start : Word := BitVec.ofNat 64 (leNat (bs.take 8))
     let steps := chaseSteps n (bs.drop 32)
     o.toNat % 32 = 0 ∧ chaseIllegal atCh o = false ∧ landingIllegal coreCh l = false ∧
       ∀ cp : Bool, chaseFail atCh 15 cp start (steps.any fun z => z.k) = none) ∧
    CanIssue (curCore atCh) [1, 2] [] [] [] 0 ∧ CanIssue (curCore atCh) [1, 2] [] [] [15] 0 ∧ (mget [] (curCore atCh).engs 11).length < 16 ∧
    (curCtx atCh).service = false := by
  refine ⟨by decide +kernel, quiet rfl rfl rfl rfl _ _ _ _ _ (by decide) (by decide) (by decide),
    quiet rfl rfl rfl rfl _ _ _ _ _ (by decide) (by decide) (by decide), by decide +kernel, rfl⟩

theorem witness_drt_commands :
    (∀ c ∈ [coreRma (4096 - 16) 5 2, coreRma 1 5 2], (mget [] c.engs 12).length < 16 ∧ CanIssue c [1, 54, 55] [] [] [15] 0 ∧
      CanIssue c [1, 54] [] [] [15] 0 ∧ CanIssue c [] [] [] [15] 0) ∧
    (let s := at0 (coreRma (4096 - 16) 5 2)
     let n := readG (curCore s) 55
     let l := readG (curCore s) 54
     1 ≤ n.toNat ∧ n.toNat ≤ 2 ^ 20 ∧ l.toNat / 2 ^ 63 = 1 ∧
      (n.toNat % 16 = 0 ∧ l.toNat % 16 = 0 ∧ ((readK (curCore s) 15).1.toNat % 2 ^ 47 + (readG (curCore s) 1).toNat) % 16 = 0) ∧
      reachesDrt s 15 bitW n.toNat (readG (curCore s) 1) ∧ reachesDrt s 15 bitR n.toNat (readG (curCore s) 1) ∧
      (readG (curCore s) 2).toNat % 8 = 0 ∧ reachesDrt s 15 bitW 8 (readG (curCore s) 2)) ∧
    ((curCtx (atReg [(0, some registration0)])).service = false ∧ (readK (curCore (atReg [(0, some registration0)])) 15).2 = true ∧
      (readK (curCore (atReg [(0, some registration0)])) 15).1.toNat / 2 ^ 92 % 16 = 2 ∧
      openRegistration (atReg [(0, some registration0)]) (readK (curCore (atReg [(0, some registration0)])) 15).1 = some (0, registration0)) := by
  refine ⟨?_, ⟨by decide +kernel, by decide +kernel, by decide +kernel, by decide +kernel, by unfold reachesDrt; decide +kernel,
    by unfold reachesDrt; decide +kernel, by decide +kernel, by unfold reachesDrt; decide +kernel⟩, by decide +kernel⟩
  intro c hc
  simp only [List.mem_cons, List.not_mem_nil, or_false] at hc
  rcases hc with rfl | rfl <;>
  exact ⟨by decide, quiet rfl rfl rfl rfl _ _ _ _ _ (by decide) (by decide) (by decide),
    quiet rfl rfl rfl rfl _ _ _ _ _ (by decide) (by decide) (by decide), quiet rfl rfl rfl rfl _ _ _ _ _ (by decide) (by decide) (by decide)⟩

theorem witness_registrations :
    (let c := withG (withG core0 1 (2 ^ 47 - 16)) 2 (63 * 2 ^ 48 + 16)
     CanIssue c [1, 2] [] [] [] 0 ∧ (readG c 1).toNat / 2 ^ 57 = 0 ∧ (readG c 1).toNat / 2 ^ 47 = (at0 c).port.rank ∧
      (readG c 2).toNat / 2 ^ 45 % 8 = 0 ∧ (readG c 2).toNat / 2 ^ 54 = 0) ∧
    ((mget none (at0 core0).drt.regs 0 : Option Registration) = none ∧ ∀ j < 0, (mget none (at0 core0).drt.regs j : Option Registration) ≠ none) ∧
    ∀ i < 4096, mget none (atReg ((List.range' 0 4096).map fun i => (i, some registration0))).drt.regs i ≠ none := by
  refine ⟨⟨quiet rfl rfl rfl rfl _ _ _ _ _ (by decide) (by decide) (by decide), by decide, by decide, by decide, by decide⟩,
    ⟨by decide, fun j hj => absurd hj (by omega)⟩, fun i hi => ?_⟩
  exact mget_filled (fun _ => some registration0) (fun _ => by simp) 4096 0 i (Nat.zero_le _) (by omega)

/-- DeferredTraps: a hold at and under its limit; a report on a running task, with and without the CP's retry; one on a core with no task. -/
def report0 (retry : Bool) : Report :=
  { code := 4, sub := 1, addr := 8, agent := 0, time := 0, eng := false, tl := 15, obj := 0, epc := 64, kind := 0, retry := retry }
def coreHeld (n : Nat) : Core := { core0 with held := n, hold := some { sub := 4, obj := 0x103, tl := 15 }, csr := { core0.csr with wdog := 5 } }
def coreRep (b : Bool) : Core := { core0 with reports := [report0 b] }

theorem witness_deferred_traps :
    (∀ n, (coreAt (at0 (coreHeld n)) 0).hold = some { sub := 4, obj := 0x103, tl := 15 } ∧ (coreAt (at0 (coreHeld n)) 0).task.isSome = true ∧
      (coreAt (at0 (coreHeld n)) 0).stop = none) ∧
    (coreAt (at0 (coreHeld 5)) 0).csr.wdog.toNat % 2 ^ 32 ≤ (coreHeld 5).held ∧ (coreHeld 4).held < (coreAt (at0 (coreHeld 4)) 0).csr.wdog.toNat % 2 ^ 32 ∧
    (∀ b, (coreAt (at0 (coreRep b)) 0).reports = [report0 b] ∧ (coreAt (at0 (coreRep b)) 0).asyncs = [] ∧
      (coreAt (at0 (coreRep b)) 0).stop = none ∧ (coreAt (at0 (coreRep b)) 0).task.isSome = true ∧ (report0 b).retry = b) ∧
    (let c : Core := { coreRep false with task := none, begun := false }
     (coreAt (at0 c) 0).task = none ∧ ¬((report0 false).code = 3 ∧ (report0 false).sub = 2)) ∧
    (coreAt (at0 core0) 0).reports = [] ∧ (coreAt (at0 core0) 0).asyncs = [] :=
  ⟨fun _ => ⟨rfl, rfl, rfl⟩, by decide, by decide, fun _ => ⟨rfl, rfl, rfl, rfl, rfl⟩, ⟨rfl, by decide⟩, rfl, rfl⟩

/-- A launch of context 0 that core 1 alone holds, of 5 iterations, priority 9. -/
def lrec (lw prio last multi : Nat) : BitVec 512 :=
  BitVec.ofNat 512 (multi * 2 ^ 479 + 5 * 2 ^ 192 + prio * 2 ^ 184 + last * 2 ^ 180 + 1 * 2 ^ 177 + lw * 2 ^ 170 + 64)
def launch0 (r : BitVec 512) (ph : LaunchPhase) (held : List Nat) (ord : Nat) : Launch where
  seq := 7
  ctx := 0
  record := r
  recAddr := 0
  phase := ph
  held := held
  k := 2
  step := 0
  ord := ord
  last := 0
  given := []
  running := 0
  start := 0
  kth := 1
  told := false
  queue := none
  had := false
def ready0 (n : Nat) : Ready := { ctx := 0, addr := 0, prio := n, lw := 0, lh := 0, x0 := 0, y0 := 0, at_ := 0, q := 3 }

/-- A die with one launch, a ready queue and an overflow list, whose core 0 runs no task; a leaf maps the first page to address 1 MiB. -/
def coreI : Core := { core0 with task := none, begun := false }
def atL (ls : List Launch) (rs os : List Ready) : State :=
  let s := at0 coreI
  { s with tlb := [(0, 0, 0x1000DF)], fcp := { s.fcp with launches := ls, ready := rs, overflow := os } }

/-- TasksStart: a staged task on an idle core; an iteration for core 0, alone and beside a ready task of equal priority; a ready task whose
record, all zeros at address 0, can be read. -/
theorem witness_tasks_start :
    (let s := at0 { coreI with staged := some task0 }
     (coreAt s 0).staged = some task0 ∧ (coreAt s 0).task = none ∧ (coreAt s 0).stop = none ∧ (ctxAt s (0 / 512)).resident = true ∧ coreClaimed s 0 = false) ∧
    (∀ rs ∈ [[], [ready0 9]], let s := atL [launch0 (lrec 0 9 0 0) .committed [0] 4] rs []
     let l := launch0 (lrec 0 9 0 0) .committed [0] 4
     (ctxAt s (0 / 512)).resident = true ∧ coreFree s 0 = true ∧ walkerCandidate s 0 = some (l, 4) ∧ walkerPick s l = some 0 ∧
      (∀ r ∈ readyHead s 0, effPrio s r ≤ l.record.toNat / 2 ^ 184 % 256) ∧ l.given = []) ∧
    (let s := atL [launch0 (lrec 0 9 0 0) .committed [0] 4] [ready0 10] []
     (ctxAt s (0 / 512)).resident = true ∧ coreFree s 0 = true ∧ coreChoice s 0 = some (.ready (ready0 10)) ∧ (ready0 10).ctx = 0 / 512 ∧
      takesReady s 0 (ready0 10) = true ∧
      ∃ t g, performMem s (coreKey (ready0 10).ctx 0) (fcpAgent s (ready0 10).q false) false (ready0 10).addr (.load 64 false) = .ok (t, g) ∧
        g.poison = false ∧ recordBad t (BitVec.ofNat 512 (leNat g.bytes)) = false) := by
  refine ⟨by decide +kernel, by decide +kernel, by decide +kernel, by decide +kernel, by decide +kernel, rfl, by decide +kernel, ?_⟩
  exact ⟨_, _, rfl, by decide +kernel, by decide +kernel⟩

/-- RecordsAndLaunches: records whose DEP is 2, 1 and 0; a record of rank 5; an overflow entry; a launch that asks for a free core, for one
that a later launch holds, and for one that an earlier or a committed launch holds; finished supersteps and finished launches. -/
def atD (n : Byte) : State := { atL [] [] [] with hbm := writeBytes [] (1048576 + 16) [n] }

theorem witness_records :
    (∀ n ∈ [0, 1, 2], (atD n).memWf ∧ (0 : Word).toNat / 2 ^ 47 % 1024 = (atD n).port.rank ∧ ((0, 0) : Nat × Word) ∉ (atD n).fcp.pendDec ∧
      ∃ p c s1 s2, locateAny (atD n) (coreKey 0 0) false 0 64 .atomic = .ok ([(p, 64, c)], s1) ∧
        raceAll s1 false (fcpAgent (atD n) (atD n).time false) false true 0 [(p, 64, c)] = .ok s2 ∧ depAt s1 p = n.toNat) ∧
    (∃ u l, (5 * 2 ^ 47 : Word).toNat / 2 ^ 47 % 1024 ≠ (atD 0).port.rank ∧ ((0, 5 * 2 ^ 47) : Nat × Word) ∉ (atD 0).fcp.pendDec ∧
      takeUnit (atD 0) 0 = some u ∧ linkTo u false ((5 * 2 ^ 47 : Word).toNat / 2 ^ 47 % 1024) = some l) ∧
    (let s := atL [] [] [ready0 3, ready0 200]
     s.fcp.overflow.find? (fun r => r.prio == 200) = some (ready0 200) ∧ s.fcp.ready.length < 65536) := by
  refine ⟨?_, ?_, by decide +kernel⟩
  · intro n hn
    simp only [List.mem_cons, List.not_mem_nil, or_false] at hn
    rcases hn with rfl | rfl | rfl <;>
    exact ⟨by unfold State.memWf; decide +kernel, by decide, by simp [atD, atL, at0, State.reset, Fcp.reset], _, _, _, _, rfl, rfl, by decide +kernel⟩
  · exact ⟨_, _, by decide, by simp [atD, atL, at0, State.reset, Fcp.reset], rfl, rfl⟩

/-- RecordsAndLaunches, further clauses. -/
theorem witness_launches :
    (∀ ph ∈ [LaunchPhase.reserving, .backoff 0],
      let l := launch0 (lrec 1 9 0 0) ph [0] 0
      let other (n : Nat) (ph : LaunchPhase) : Launch := { launch0 (lrec 0 9 0 0) ph [1] 0 with seq := n }
      (∀ os ∈ [[], [other 8 .reserving], [other 6 .reserving], [other 8 .committed]],
        let s := atL (l :: os) [] []
        launched s l.seq = some l ∧ (l.phase = .reserving ∨ l.phase = .backoff s.time) ∧ (ctxAt s l.ctx).resident = true ∧
          (lrCores s l.ctx l.record)[l.held.length]? = some 1 ∧ holders s l 1 = os) ∧
      (other 8 .reserving).phase ≠ .committed ∧ l.seq < (other 8 .reserving).seq ∧ (other 6 .reserving).seq < l.seq ∧
      (other 8 .committed).phase = .committed) ∧
    (∀ z ∈ [(1, 0), (1, 1), (0, 0)],
      let l := launch0 (lrec 0 9 z.1 z.2) .committed [0] 5
      let s := atL [l] [] []
      launched s l.seq = some l ∧ l.phase = .committed ∧ l.running = 0 ∧ nextIteration l = none ∧ allDone (coreAt s 0) ∧ l.held = [0]) ∧
    (let l (a b : Nat) := launch0 (lrec 0 9 a b) .committed [0] 5
     ((l 1 0).step < (l 1 0).record.toNat / 2 ^ 180 % 16 ∧ (l 1 0).record.toNat / 2 ^ 479 % 2 = 0) ∧
      ((l 1 1).step < (l 1 1).record.toNat / 2 ^ 180 % 16 ∧ (l 1 1).record.toNat / 2 ^ 479 % 2 = 1 ∧ (l 1 1).told = false) ∧
      ((l 0 0).record.toNat / 2 ^ 180 % 16 ≤ (l 0 0).step ∧ (l 0 0).record.toNat / 2 ^ 384 % 2 ^ 64 = 0 ∧ (l 0 0).queue = none)) := by
  refine ⟨by decide +kernel, ?_, by decide +kernel⟩
  intro z hz
  have hd : allDone coreI := ⟨rfl, rfl, by simp [coreI, core0, Core.init], by simp [coreI, core0, Core.init]⟩
  simp only [List.mem_cons, List.not_mem_nil, or_false] at hz
  rcases hz with rfl | rfl | rfl <;> exact ⟨by decide +kernel, rfl, rfl, by decide +kernel, hd, rfl⟩

/-- RecordsAndLaunches: the peers have been told and have reached the superstep's end; a finished launch whose DONEREC lies at this die and at
rank 5; one whose owner has not answered, and one whose owner has. -/
def launchD (d : Nat) : Launch := { launch0 (lrec 0 9 0 0) .committed [0] 5 with record := lrec 0 9 0 0 + BitVec.ofNat 512 (d * 2 ^ 384) }
theorem witness_launches_finish :
    (let l : Launch := { launch0 (lrec 0 9 1 1) .committed [0] 5 with told := true }
     l.told = true ∧ peersReached (atL [l] [] []) l = true ∧ l.step < l.record.toNat / 2 ^ 180 % 16 ∧ l.record.toNat / 2 ^ 479 % 2 = 1) ∧
    (∀ d ∈ [64, 5 * 2 ^ 47], let s := atL [launchD d] [] []
     launched s (launchD d).seq = some (launchD d) ∧ (launchD d).phase = .committed ∧ (launchD d).running = 0 ∧ nextIteration (launchD d) = none ∧
      (launchD d).held = [0] ∧ allDone (coreAt s 0) ∧ (launchD d).record.toNat / 2 ^ 180 % 16 ≤ (launchD d).step ∧
      (BitVec.ofNat 64 ((launchD d).record.toNat / 2 ^ 384) : Word) = BitVec.ofNat 64 d) ∧
    (let s := atL [launchD 64] [] []
     (64 : Word).toNat / 2 ^ 47 % 1024 = s.port.rank ∧ accessHeld s none (coreKey 0 0) false 64 .taskDec = false ∧
      ∃ v g, performMem s (coreKey 0 0) (fcpAgent s s.time false) false 64 .taskDec = .ok (v, g)) ∧
    (let s := atL [launchD (5 * 2 ^ 47)] [] []
     (5 * 2 ^ 47 : Word).toNat / 2 ^ 47 % 1024 ≠ s.port.rank ∧ ∃ v o, takeUnit s 0 = some v ∧ linkTo v false ((5 * 2 ^ 47 : Word).toNat / 2 ^ 47 % 1024) = some o) ∧
    ∀ n ∈ [1, 2], let l := launch0 (lrec 0 9 0 0) (.finishing n) [] 5
      launched (atL [l] [] []) l.seq = some l ∧ l.phase = .finishing n := by
  refine ⟨⟨rfl, by decide +kernel, by decide +kernel, by decide +kernel⟩, ?_, ⟨by decide +kernel, by decide +kernel, _, _, rfl⟩, ?_, by decide +kernel⟩
  · have hd : allDone coreI := ⟨rfl, rfl, by simp [coreI, core0, Core.init], by simp [coreI, core0, Core.init]⟩
    intro d hd'
    simp only [List.mem_cons, List.not_mem_nil, or_false] at hd'
    rcases hd' with rfl | rfl <;> exact ⟨by decide +kernel, rfl, rfl, by decide +kernel, rfl, hd, by decide +kernel, by decide +kernel⟩
  · exact ⟨by decide +kernel, _, _, rfl, rfl⟩

/-- RetrainingErrorsAndRetirement: a retrain that is due, one that is not, one under way; a checked and an unchecked core, with a first and a
third mismatch at one bundle; the free edges of the mesh; no context resident. Records that fit the store exist unless it holds none. -/
def atV (v : Vbus) (t : Nat) : State := { at0 core0 with vbus := [(3, v)], time := t }
def atChk (n : Nat) : State :=
  { at0 { core0 with mismatch := n, missPc := core0.pc } with ctxs := [(0, some { ctx0 with checked := true })] }
def atNone : State := { at0 core0 with ctxs := [(0, some { ctx0 with resident := false })] }

theorem witness_retraining :
    (∀ t, vbusAt (atV { due := 7, ends := none } t) 3 = { due := 7, ends := none }) ∧
    (7 ≤ (atV { due := 7, ends := none } 7).time ∧ busQueued (atV { due := 7, ends := none } 7) 3 = false) ∧
    (atV { due := 7, ends := none } 6).time < 7 ∧ 7 + 8000000 ≤ (atV { due := 7, ends := none } 8000007).time ∧
    (∀ t, vbusAt (atV { due := 7, ends := some 9 } t) 3 = { due := 7, ends := some 9 }) :=
  ⟨fun _ => rfl, by decide, by decide, by decide, fun _ => rfl⟩

/-- RetrainingErrorsAndRetirement, further clauses. -/
theorem witness_soft_errors :
    eight (at0 core0) ∧ ((coreAt (at0 core0) 0).task.isSome = true ∧ (coreAt (at0 core0) 0).stop = none ∧ (coreAt (at0 core0) 0).parity = 0) ∧
    (coreAt (at0 { core0 with parity := 1 }) 0).parity ≠ 0 ∧ (ctxAt (at0 core0) (0 / 512)).checked = false ∧
    (∀ n, (ctxAt (atChk n) (0 / 512)).checked = true ∧ (coreAt (atChk n) 0).task.isSome = true ∧ (coreAt (atChk n) 0).stop = none ∧
      (if (coreAt (atChk n) 0).missPc = (coreAt (atChk n) 0).pc then (coreAt (atChk n) 0).mismatch else 0) + 1 = n + 1) ∧
    (let o : EngOp := { opDone (.mxZero 1) 3 with ended := false }
     mget [] (coreAt (at0 (coreOf o)) 0).engs 4 = [o] ∧ o.fired = true ∧ o.ended = false ∧ o.await = 0) :=
  ⟨rfl, ⟨rfl, rfl, rfl⟩, by decide, rfl, fun _ => ⟨rfl, rfl, rfl, by simp [atChk, at0, coreAt, mget]⟩, rfl, rfl, rfl, rfl⟩

/-- RetrainingErrorsAndRetirement, further clauses. -/
theorem witness_retirement :
    (∀ p ∈ [0, 16 + 32 * 15], p % 32 < 17 ∧ p / 32 < 16) ∧ (∀ e ∈ atNone.ctxs, ∀ x, e.2 = some x → x.resident = false) ∧
    (5 ∉ atNone.shape.badCh) ∧ (atNone.shape.records.length < Config.storeCapacity ∨ Config.storeCapacity = 0) := by
  refine ⟨by decide, ?_, by decide, ?_⟩
  · intro e he x hx
    obtain rfl : e = (0, some { ctx0 with resident := false }) := by simpa [atNone] using he
    injection hx with hx
    rw [← hx]
  · exact (Nat.eq_zero_or_pos _).symm

/-- TranslationsAndAiring: a tfence that awaits one peer and two; 33 pages of context 0, the first one's A bit set or clear; a sweep that may
not run; an AIRED fault of this die and of rank 5; a seam. The compressor's size of a page is the implementation's: the page fits a zone as
large as it, and no zone that is full. -/
def tableMem (a : Byte) : Memory :=
  [(4096, 1), (4097, 32), (8192, 1), (8193, 64), (16384, 1), (16385, 68), (17408, a), (17410, 16),
   (17416, 3), (17418, 17), (17424, 3), (17426, 18), (17432, 3), (17434, 19), (17440, 3), (17442, 20),
   (17448, 3), (17450, 21), (17456, 3), (17458, 22), (17464, 3), (17466, 23), (17472, 3), (17474, 24),
   (17480, 3), (17482, 25), (17488, 3), (17490, 26), (17496, 3), (17498, 27), (17504, 3), (17506, 28),
   (17512, 3), (17514, 29), (17520, 3), (17522, 30), (17528, 3), (17530, 31), (17536, 3), (17538, 32),
   (17544, 3), (17546, 33), (17552, 3), (17554, 34), (17560, 3), (17562, 35), (17568, 3), (17570, 36),
   (17576, 3), (17578, 37), (17584, 3), (17586, 38), (17592, 3), (17594, 39), (17600, 3), (17602, 40),
   (17608, 3), (17610, 41), (17616, 3), (17618, 42), (17624, 3), (17626, 43), (17632, 3), (17634, 44),
   (17640, 3), (17642, 45), (17648, 3), (17650, 46), (17656, 3), (17658, 47), (17664, 3), (17666, 48)]
def atAir (a : Byte) (lowmark airsize : Word) (used : Nat) : State :=
  let s := at0 core0
  { s with
    ctxs := [(0, some { ctx0 with ptroot := 4096 })], hbm := tableMem a
    page := { s.page with lowmark := lowmark, airsize := airsize, airbase := 65536 }, airing := { s.airing with used := used } }
def leaf0 : Leaf := { frame := 2 ^ 20, ctx := 0, ea := 17408, page := 0 }
def accTf (w : List Nat) : Access := acc 7 (.tfence 1 w true) .none
def coreAired (a : Word) : Core :=
  { core0 with
    stop := some { code := 3, between := false }
    csr := { core0.csr with tcause := 2 * 2 ^ 16, tval := a } }

theorem witness_translations :
    (∀ w, (ctxAt (at0 { core0 with accs := [accTf w] }) (0 / 512)).resident = true ∧ (coreAt (at0 { core0 with accs := [accTf w] }) 0).accs = [accTf w] ∧
      (coreAt (at0 { core0 with accs := [accTf w] }) 0).snap = none ∧ (accTf w).op = .tfence 1 w true) ∧ (6 ≠ 5 ∧ 6 ∈ [5, 6]) ∧
    (at0 core0).memWf ∧ (at0 core0).page.lowmark = 0 ∧
    (∀ a, (coreAt (at0 (coreAired a)) 0).stop = some { code := 3, between := false } ∧ ({ code := 3, between := false } : Stop).code = 3 ∧
      (coreAt (at0 (coreAired a)) 0).csr.tcause.toNat / 2 ^ 16 % 256 = 2) ∧
    (coreAt (at0 (coreAired (5 * 2 ^ 47))) 0).csr.tval.toNat / 2 ^ 47 % 1024 ≠ (at0 core0).port.rank ∧ seamOf (at0 core0) 0 = none :=
  ⟨fun _ => ⟨rfl, rfl, rfl, rfl⟩, by decide, by unfold State.memWf; decide, by decide, fun _ => ⟨rfl, rfl, show (131072 : Word).toNat / 2 ^ 16 % 256 = 2 by decide⟩, by decide, rfl⟩

theorem zone_full (bs : List Byte) : zoneFits (atAir 0x03 5 9 10) bs = false :=
  decide_eq_false (show ¬(10 + Config.compressedSize bs ≤ 9) by omega)

theorem zone_roomy (bs : List Byte) (h : Config.compressedSize bs < 2 ^ 64) :
    zoneFits (atAir 0x03 5 (BitVec.ofNat 64 (Config.compressedSize bs)) 0) bs = true :=
  decide_eq_true (show 0 + Config.compressedSize bs ≤ (BitVec.ofNat 64 (Config.compressedSize bs)).toNat by
    rw [BitVec.toNat_ofNat, Nat.mod_eq_of_lt h, Nat.zero_add])

/-- A word of memory that no listed byte touches is 0. -/
theorem mget_gap {m : Memory} {a : Nat} (h : ∀ e ∈ m, e.1 ≠ a) : readByte m a = 0 := by
  induction m with
  | nil => rfl
  | cons e r ih =>
    obtain ⟨k, x⟩ := e
    have hk : ¬a = k := fun g => h (k, x) (List.mem_cons_self ..) g.symm
    rw [readByte, mget, if_neg hk]
    exact ih fun e he => h e (List.mem_cons_of_mem _ he)

theorem readNat_gap {m : Memory} {lo hi a : Nat} (h : ∀ e ∈ m, e.1 < lo ∨ hi ≤ e.1) (h1 : lo ≤ a) (h2 : a + 8 ≤ hi) : readNat m a 8 = 0 := by
  have hb : readBytes m a 8 = List.replicate 8 0 := by
    refine List.ext_getElem (by simp [readBytes]) fun i hi hj => ?_
    have hl : i < 8 := by simpa [readBytes] using hi
    simp only [readBytes, List.getElem_map, List.getElem_range, List.getElem_replicate]
    exact mget_gap fun e he => by have := h e he; omega
  rw [readNat, hb]
  rfl

theorem flatMap_prefix {α : Type} (f : Nat → List α) (k n : Nat) (hk : k ≤ n) (h : ∀ i, k ≤ i → i < n → f i = []) :
    (List.range n).flatMap f = (List.range k).flatMap f := by
  obtain ⟨d, rfl⟩ := Nat.exists_eq_add_of_le hk
  induction d with
  | zero => rfl
  | succ d ih =>
    rw [← Nat.add_assoc, List.range_succ, List.flatMap_append, ih (by omega) fun i h1 h2 => h i h1 (by omega)]
    simp [h (k + d) (by omega) (by omega)]

/-- The leaves under a table whose upper nodes hold one entry each and whose last node holds 33. -/
def lastLeaves (m : Memory) : List Leaf :=
  (List.range 33).flatMap fun i =>
    let e : Word := BitVec.ofNat 64 (readNat m (17408 + 8 * i) 8)
    if bits e 0 1 = 0 then [] else if bits e 1 1 = 1 then [{ frame := bits e 10 42 * 1024, ctx := 0, ea := 17408 + 8 * i, page := i }]
    else leavesUnder m 0 [] (bits e 10 42 * 1024) i

theorem leaves_of (m : Memory) (g0 : ∀ e ∈ m, e.1 < 4098 ∨ 8192 ≤ e.1) (g1 : ∀ e ∈ m, e.1 < 8194 ∨ 16384 ≤ e.1)
    (g2 : ∀ e ∈ m, e.1 < 16386 ∨ 17408 ≤ e.1) (g3 : ∀ e ∈ m, e.1 < 17667 ∨ 17920 ≤ e.1) (v0 : readNat m 4096 8 = 0x2001)
    (v1 : readNat m 8192 8 = 0x4001) (v2 : readNat m 16384 8 = 0x4401) : leavesUnder m 0 levels 4096 0 = lastLeaves m := by
  have z0 (i : Nat) (h : 1 ≤ i) (h' : i < 512) : readNat m (4096 + 8 * i) 8 = 0 := readNat_gap g0 (by omega) (by omega)
  have z1 (i : Nat) (h : 1 ≤ i) (h' : i < 1024) : readNat m (8192 + 8 * i) 8 = 0 := readNat_gap g1 (by omega) (by omega)
  have z2 (i : Nat) (h : 1 ≤ i) (h' : i < 128) : readNat m (16384 + 8 * i) 8 = 0 := readNat_gap g2 (by omega) (by omega)
  have z3 (i : Nat) (h : 33 ≤ i) (h' : i < 64) : readNat m (17408 + 8 * i) 8 = 0 := readNat_gap g3 (by omega) (by omega)
  have b0 : bits (BitVec.ofNat 64 0x2001) 10 42 * 1024 = 8192 := by decide
  have b1 : bits (BitVec.ofNat 64 0x4001) 10 42 * 1024 = 16384 := by decide
  have b2 : bits (BitVec.ofNat 64 0x4401) 10 42 * 1024 = 17408 := by decide
  have n0 : ¬bits (BitVec.ofNat 64 0x2001) 0 1 = 0 := by decide
  have n1 : ¬bits (BitVec.ofNat 64 0x4001) 0 1 = 0 := by decide
  have n2 : ¬bits (BitVec.ofNat 64 0x4401) 0 1 = 0 := by decide
  have m0 : ¬bits (BitVec.ofNat 64 0x2001) 1 1 = 1 := by decide
  have m1 : ¬bits (BitVec.ofNat 64 0x4001) 1 1 = 1 := by decide
  have m2 : ¬bits (BitVec.ofNat 64 0x4401) 1 1 = 1 := by decide
  have hz : bits (BitVec.ofNat 64 0) 0 1 = 0 := by decide
  rw [levels, leavesUnder, flatMap_prefix _ 1 512 (by omega) fun i h h' => by rw [z0 i h h']; exact if_pos hz]
  simp only [List.range_one, List.flatMap_singleton, Nat.mul_zero, Nat.add_zero, v0]
  rw [if_neg n0, if_neg m0, b0, leavesUnder, flatMap_prefix _ 1 1024 (by omega) fun i h h' => by rw [z1 i h h']; exact if_pos hz]
  simp only [List.range_one, List.flatMap_singleton, Nat.mul_zero, Nat.add_zero, v1]
  rw [if_neg n1, if_neg m1, b1, leavesUnder, flatMap_prefix _ 1 128 (by omega) fun i h h' => by rw [z2 i h h']; exact if_pos hz]
  simp only [List.range_one, List.flatMap_singleton, Nat.mul_zero, Nat.add_zero, v2]
  rw [if_neg n2, if_neg m2, b2, leavesUnder, flatMap_prefix _ 33 64 (by omega) fun i h h' => by rw [z3 i h h']; exact if_pos hz]
  simp only [lastLeaves, Nat.zero_mul, Nat.zero_add, if_true]

theorem table_leaves (a : Byte) (ha : a ∈ [0x43, 0x03]) : allLeaves (atAir a 5 9 0) = lastLeaves (tableMem a) := by
  simp only [List.mem_cons, List.not_mem_nil, or_false] at ha
  rw [allLeaves, atAir]
  simp only [List.flatMap_cons, List.flatMap_nil, List.append_nil]
  rcases ha with rfl | rfl <;>
  exact leaves_of _ (by decide) (by decide) (by decide) (by decide) (by decide +kernel) (by decide +kernel) (by decide +kernel)

theorem next_leaf (a : Byte) (ha : a ∈ [0x43, 0x03]) : nextLeaf (atAir a 5 9 0) (allLeaves (atAir a 5 9 0)) = some leaf0 := by
  rw [table_leaves a ha]
  simp only [List.mem_cons, List.not_mem_nil, or_false] at ha
  rcases ha with rfl | rfl <;> decide +kernel

theorem marked : readNat (atAir 0x43 5 9 0).hbm 17408 8 / 2 ^ 6 % 2 = 1 := by decide +kernel
theorem unmarked : readNat (atAir 0x03 5 9 0).hbm 17408 8 / 2 ^ 6 % 2 = 0 := by decide +kernel

/-- TranslationsAndAiring, further clauses. -/
theorem witness_airing_memory : (atAir 0x43 5 9 0).memWf ∧ (atAir 0x03 5 9 0).memWf ∧
    leaf0.ea + 8 ≤ (atAir 0x03 5 9 0).page.airbase.toNat + (atAir 0x03 5 9 0).airing.used := by
  unfold State.memWf
  decide +kernel

def seam0 : Seam := { name := 5 * 2 ^ 20, ctx := 0, desc := window0.desc, members := [0], parts := [], merged := [], sent := [] }
def atSeam : State := let s := at0 core0; { s with port := { s.port with seams := [seam0] } }
/-- TranslationsAndAiring, further clauses. -/
theorem witness_seams :
    seamOf atSeam (5 * 2 ^ 20) = some seam0 ∧ ∃ l, linkTo atSeam false ((5 * 2 ^ 20 : Word).toNat / 2 ^ 20 % 1024) = some l :=
  ⟨by decide +kernel, _, rfl⟩

/-- HostAndGrants: a running die with queue 63 enabled and room for two commands; a doorbell one too far; a queue that is not enabled, and a
die before boot; a die with a context and one without; queue 63 with a malformed command, a NOP and a WAIT at its head. The CP's images
verify, or one of them does not. -/
def cmd0 (w : BitVec 512) : Cmd := { words := w, addr := 8192, num := 1, jseq := 0, ridx := 0, started := false, inst := none }
def atHost (cs : List Cmd) : State :=
  let s := at0 core0
  { s with
    page := { s.page with bootst := 3, qdbase := 4096 }, hbm := [(6112, 3)]
    fcp := { s.fcp with cmds := match cs with | [] => [] | _ => [(63, cs)] } }

theorem witness_doorbells :
    ((atHost []).memWf ∧ quietJournal (atHost []) ∧ bootStage (atHost []) ≠ 0 ∧ qdEn (atHost []) 63 = true ∧
      doorbellOk (2 : BitVec 32).toNat (qdTail (atHost []) 63) (qdHead (atHost []) 63) (qdLog (atHost []) 63) = true) ∧
    doorbellOk (3 : BitVec 32).toNat (qdTail (atHost []) 63) (qdHead (atHost []) 63) (qdLog (atHost []) 63) = false ∧
    qdEn (atHost []) 62 = false ∧ bootStage (at0 core0) = 0 ∧ (2 ^ 40 + 2 : Word).toNat % 2 ^ 32 = (2 : BitVec 32).toNat ∧
    doorbellOk (0 : BitVec 32).toNat ((atHost []).cp.mtail % 2 ^ 32) ((atHost []).cp.mhead % 2 ^ 32) (atHost []).page.msize.toNat = true ∧
    doorbellOk (2 ^ 31 : BitVec 32).toNat ((atHost []).cp.mtail % 2 ^ 32) ((atHost []).cp.mhead % 2 ^ 32) (atHost []).page.msize.toNat = false := by
  refine ⟨⟨?_, ?_, by decide, by decide +kernel, by decide +kernel⟩, by decide +kernel, by decide +kernel, by decide, by decide, by decide +kernel,
    by decide +kernel⟩
  · unfold State.memWf; decide +kernel
  · unfold quietJournal; decide

/-- HostAndGrants, further clauses. -/
theorem witness_page_and_boot :
    bootStage (atHost []) ≠ 0 ∧ (∃ e ∈ (atHost []).ctxs, e.2.isSome = true) ∧ (∀ e ∈ { atHost [] with ctxs := [] }.ctxs, e.2 = none) ∧
    (atHost []).page.bootst ≠ 0 ∧ (at0 core0).page.bootst = 0 ∧
    (Config.firmwareOk 0 = false ∨ (Config.firmwareOk 0 = true ∧ Config.firmwareOk 1 = false) ∨
      (Config.firmwareOk 0 = true ∧ Config.firmwareOk 1 = true ∧ (Config.bootFail = 0 ∨ Config.bootFail ≠ 0))) := by
  refine ⟨by decide, ⟨_, List.mem_singleton_self _, rfl⟩, by simp, by decide, by decide, ?_⟩
  cases Config.firmwareOk 0 <;> cases Config.firmwareOk 1 <;> simp [em]

theorem next_63 (w : BitVec 512) (h : queueReady (atHost [cmd0 w]) 63 = true) : nextQueue (atHost [cmd0 w]) = some 63 := by
  have hp : qdPrio (atHost [cmd0 w]) 63 = 0 := show qdPrio (atHost []) 63 = 0 by decide +kernel
  have hl : (atHost [cmd0 w]).fcp.lastQ = [] := rfl
  have hf : (atHost [cmd0 w]).fcp.cmds = [(63, [cmd0 w])] := rfl
  simp [nextQueue, hf, h, hp, hl, mget]

/-- HostAndGrants, further clauses. -/
theorem witness_ready_queues : nextQueue (atHost []) = none ∧ ∀ w ∈ [0, 3, 2 ^ 8, 4], nextQueue (atHost [cmd0 w]) = some 63 := by
  refine ⟨by decide +kernel, ?_⟩
  simp only [List.forall_mem_cons]
  exact ⟨next_63 _ (by decide +kernel), next_63 _ (by decide +kernel), next_63 _ (by decide +kernel), next_63 _ (by decide +kernel), by simp⟩

/-- HostAndGrants, further clauses. -/
theorem witness_grants :
    (∀ w, queueCmds (atHost [cmd0 w]) 63 = [cmd0 w] ∧ mget [] (atHost [cmd0 w]).fcp.dtDone 63 = [] ∧
      (cmd0 w).num = (mget 0 (atHost [cmd0 w]).fcp.dt 63).toNat + 1 ∧ (cmd0 w).num < 2 ^ 64) ∧
    (cmdBad (atHost [cmd0 (2 ^ 8)]) (cmd0 (2 ^ 8)).words = true ∧ cmdBad (atHost [cmd0 4]) (cmd0 4).words = true ∧
      cmdBad (atHost [cmd0 0]) (cmd0 0).words = false ∧ cmdKind (cmd0 0).words = 0 ∧
      cmdBad (atHost [cmd0 3]) (cmd0 3).words = false ∧ cmdKind (cmd0 3).words = 3) ∧
    ∀ cs, (atHost cs).hbm = [(6112, 3)] ∧ (atHost cs).page = (atHost []).page :=
  ⟨fun _ => ⟨rfl, rfl, rfl, show 1 < 2 ^ 64 by decide⟩, by decide +kernel, fun _ => ⟨rfl, rfl⟩⟩

/-- What a computation that succeeds gives. -/
def got {ε α : Type} (d : α) : Except ε α → α
  | .ok x => x
  | .error _ => d
theorem got_ok {ε α β : Type} (d : α × β) {x : Except ε (α × β)} (h : (found x).isSome = true) : x = .ok ((got d x).1, (got d x).2) := by
  cases x with
  | ok y => rfl
  | error e => exact absurd h (by simp [found])
theorem found_ok {ε α : Type} {x : Except ε α} {y : α} (h : found x = some y) : x = .ok y := by
  cases x <;> simp_all [found]
/-- What a computation that fails gives. -/
def lost {ε α : Type} : Except ε α → Option ε
  | .ok _ => none
  | .error e => some e
theorem lost_error {ε α : Type} {x : Except ε α} {e : ε} (h : lost x = some e) : x = .error e := by
  cases x <;> simp_all [lost]

/-- LaunchGrants and CollectiveGrants: queue 63 with a LAUNCH or a COLL at its head; the first page of context 0 lies at address 1 MiB. A
record of each status, and an address that is not canonical; a group of ranks 0 and 5, and none; a malformed command, a buffer of rank 5, a
program with an unknown step, and one that ends at once. -/
def atFcp (m : Memory) (w : BitVec 512) : State :=
  { atHost [cmd0 w] with hbm := m, tlb := [(0, 0, 0x1000DF)], ctxs := [(0, some { ctx0 with grptab := 12288 })] }
def memRec (r : BitVec 512) : Memory := writeNat [(6112, 3)] 1048576 64 r.toNat
def launches0 : List (BitVec 512 × Nat) :=
  [(lrec 0 9 0 0, 0), (lrec 0 9 0 0 + 1, 1), (lrec 7 9 0 0, 2), (lrec 0 9 0 0 - BitVec.ofNat 512 (2 ^ 177), 3), (lrec 0 9 0 1, 4),
    (lrec 0 9 0 0 + BitVec.ofNat 512 (2 ^ 488), 5)]

theorem witness_launch_grants :
    (∀ e ∈ launches0, let s := atFcp (memRec e.1) 1
      nextQueue s = some 63 ∧ queueCmds s 63 = [cmd0 1] ∧ cmdBad s 1 = false ∧ cmdKind 1 = 1 ∧ quietJournal s ∧ launchError s 0 e.1 = e.2 ∧
      ∃ v bs, fcpAccess (granted s 63) (cmdCtx 1) s.time false (cmdAddr 1) (.load 64 false) = .ok (v, bs) ∧ quietJournal v ∧
        queueCmds v 63 = [cmd0 1] ∧ BitVec.ofNat 512 (leNat bs) = e.1 ∧ launchError v 0 e.1 = e.2 ∧ v.hbm = memRec e.1) ∧
    (∀ e ∈ launches0, (atFcp (memRec e.1) 1).memWf) ∧
    (let w : BitVec 512 := 1 + BitVec.ofNat 512 (2 ^ 57 * 2 ^ 192)
     let s := atFcp (memRec (lrec 0 9 0 0)) w
     nextQueue s = some 63 ∧ cmdBad s w = false ∧ cmdKind w = 1 ∧
      ∃ e, fcpAccess (granted s 63) (cmdCtx w) s.time false (cmdAddr w) (.load 64 false) = .error e ∧ e.aired = false) := by
  refine ⟨?_, ?_, by decide +kernel, by decide +kernel, by decide +kernel, FcpErr.of 9, lost_error (by decide +kernel), by decide⟩
  · simp only [launches0, List.forall_mem_cons]
    refine ⟨?_, ?_, ?_, ?_, ?_, ?_, by simp⟩ <;>
    exact ⟨by decide +kernel, rfl, by decide +kernel, by decide +kernel, by unfold quietJournal; decide, by unfold launchError; decide +kernel, _, _,
      got_ok (State.reset, []) (by decide +kernel), by unfold quietJournal; decide +kernel, by decide +kernel, by decide +kernel, by unfold launchError; decide +kernel, by decide +kernel⟩
  · simp only [launches0, List.forall_mem_cons]
    refine ⟨?_, ?_, ?_, ?_, ?_, ?_, by simp⟩ <;> (unfold State.memWf; decide +kernel)

def coll0 : BitVec 512 := BitVec.ofNat 512 (2 + 256 * 2 ^ 160)
def group0 : Nat := 1 + 2 ^ 5 + 2 ^ 1048 + 2 ^ 1055 + 64 * 2 ^ 1088 + 4096 * 2 ^ 1152
/-- Group 0, with SNT of rank 5 equal to n, and the first program word w. -/
def memGrp (n : Byte) (w : Byte) : Memory := writeBytes (writeBytes (writeNat [(6112, 3)] 12288 256 group0) (1048576 + 88) [n]) (1048576 + 7) [w]

theorem witness_collective_starts :
    (let s := atFcp [(6112, 3)] 2
     nextQueue s = some 63 ∧ cmdBad s 2 = false ∧ cmdKind 2 = 2 ∧ cmdBlk 2 < 256) ∧
    (let s := atFcp [(6112, 3)] coll0
     nextQueue s = some 63 ∧ cmdBad s coll0 = false ∧ cmdKind coll0 = 2 ∧ groupUsable s (cmdCtx coll0) (groupEntry s (cmdCtx coll0) (cmdGrp coll0)) = false) ∧
    (let w := coll0 + BitVec.ofNat 512 (5 * 2 ^ 47 * 2 ^ 320)
     let s := atFcp (memGrp 0 0) w
     nextQueue s = some 63 ∧ cmdBad s w = false ∧ groupUsable s (cmdCtx w) (groupEntry s (cmdCtx w) (cmdGrp w)) = true ∧
      (cmdBuf w 0).toNat / 2 ^ 47 % 1024 ≠ s.port.rank) ∧
    (let s := atFcp (memGrp 0 0xF0) coll0
     nextQueue s = some 63 ∧ ∃ e n, collCheck (granted s 63) coll0 = .error (e, n) ∧ e.aired = false) ∧
    (let s := atFcp (memGrp 0 0) coll0
     nextQueue s = some 63 ∧ s.memWf ∧ quietJournal s ∧
      ¬(cmdType coll0 = 3 ∨ cmdOp coll0 = 3 ∨ cmdBlk coll0 % 256 ≠ 0 ∨ cmdBlk coll0 < 256 ∨ 2 ^ 30 < cmdBlk coll0 ∨ (cmdAddr coll0).toNat % 8 ≠ 0) ∧
      ∃ v prog, collCheck (granted s 63) coll0 = .ok (v, prog) ∧ quietJournal v ∧ queueCmds v 63 = [cmd0 coll0] ∧ v.hbm = s.hbm) := by
  refine ⟨by decide +kernel, by decide +kernel, by decide +kernel, ⟨by decide +kernel, FcpErr.of 7, 0, lost_error (by decide +kernel), by decide⟩,
    by decide +kernel, by unfold State.memWf; decide +kernel, by unfold quietJournal; decide, by decide +kernel, _, _,
    got_ok (State.reset, []) (by decide +kernel), by unfold quietJournal; decide +kernel, by decide +kernel, by decide +kernel⟩

/-- CollectiveGrants: an instance at an END that waits, ends or cannot read its counters, and one that reaches its END after a step; one under
way; each step with the counters that let it go on or make it wait. -/
def inst0 (prog : List Word) : Instance_ where
  prog := prog
  seq := 1
  step := 0
  loops := []
  out := 0
  inn := 0
  blocks := 0
  data := []
  head := []
  ovf := false
  start := 0
  bad := 0
  adds := []
def grant0 (n : Byte) (prog : List Word) : Grant := { s := atFcp (memGrp n 0) coll0, i := inst0 prog, moved := 0, wr := [], rd := [] }
def step0 (op low : Nat) : Word := BitVec.ofNat 64 (op * 2 ^ 60 + low)

/-- A small step that ends an instance, and one that makes it fail with its pages all here. -/
def ends : Micro → Bool
  | .done _ => true
  | _ => false
def failsHere : Micro → Bool
  | .fail _ e => !e.aired
  | _ => false
theorem ends_done {m : Micro} (h : ends m = true) : ∃ d, m = .done d := by
  cases m <;> simp [ends] at h ⊢
theorem failsHere_fail {m : Micro} (h : failsHere m = true) : ∃ d e, m = .fail d e ∧ e.aired = false := by
  cases m <;> simp_all [failsHere]

theorem witness_collective_runs :
    ((atFcp (memGrp 1 0) coll0).memWf ∧ quietJournal (atFcp (memGrp 1 0) coll0) ∧ queueCmds (atFcp (memGrp 1 0) coll0) 63 = [cmd0 coll0] ∧
      (inst0 [0]).adds = []) ∧
    (∀ b, Runs 63 4096 coll0 0 b b) ∧ (grant0 1 [0]).moved < chunkBytes (grant0 1 [0]).s ∧ microStep 63 coll0 (grant0 1 [0]) = .wait ∧
    (∃ d, microStep 63 coll0 (grant0 0 [0]) = .done d) ∧
    (let b : Grant := { grant0 0 [0] with s := { (grant0 0 [0]).s with tlb := [] } }
     ∃ d e, microStep 63 coll0 b = .fail d e ∧ e.aired = false) ∧
    (∃ b, Runs 63 4096 coll0 1 (grant0 1 [step0 6 2, 0]) b ∧ b.moved < 4096 ∧ microStep 63 coll0 b = .wait) ∧
    (let c : Cmd := { cmd0 coll0 with started := true, inst := some (inst0 [0]) }
     let s := { atFcp (memGrp 0 0) coll0 with fcp := { (atFcp (memGrp 0 0) coll0).fcp with cmds := [(63, [c])] } }
     nextQueue s = some 63 ∧ queueCmds s 63 = [c] ∧ c.inst = some (inst0 [0])) ∧
    (cmd0 coll0).addr + 16 ≤ (ctxAt (atFcp (memGrp 0 0) coll0) (cmdCtx coll0)).grptab + 256 * cmdGrp coll0 + 131 := by
  refine ⟨⟨by unfold State.memWf; decide +kernel, by unfold quietJournal; decide, rfl, rfl⟩, Runs.refl, by decide +kernel, by decide +kernel, ends_done (by decide +kernel),
    failsHere_fail (by decide +kernel), ⟨{ grant0 1 [step0 6 2, 0] with i := { inst0 [step0 6 2, 0] with step := 1 } },
      .step (by decide +kernel) (by decide +kernel) (.refl _), by decide +kernel, by decide +kernel⟩, by decide +kernel, by decide +kernel⟩

theorem witness_collective_steps :
    (∀ p, (grant0 0 p).i.bad = 0) ∧
    (let g := grpOf (groupEntry (grant0 0 []).s (cmdCtx coll0) (cmdGrp coll0))
     g.ranks = [0, 5] ∧ g.psub = 1 ∧ g.me = 0) ∧
    (∀ n ∈ [(0 : Byte), 1], let s := (grant0 n []).s
      let g := grpOf (groupEntry s (cmdCtx coll0) (cmdGrp coll0))
      drained s (cmdCtx coll0) g = .ok (n == 0) ∧ grpCount s (cmdCtx coll0) g 1 8 = .ok n.toNat ∧ grpCount s (cmdCtx coll0) g 1 4 = .ok 0 ∧
        grpCount s (cmdCtx coll0) g 1 0 = .ok 0 ∧ grpCount s (cmdCtx coll0) g 1 12 = .ok 0) ∧
    (1 ≤ (1 + 2 ^ 32 - 0) % 2 ^ 32 ∧ (0 + 2 ^ 32 - 0) % 2 ^ 32 = 0) ∧
    (∀ op ∈ [0, 1, 2, 6, 7, 8], (step0 op 0).toNat / 2 ^ 60 = op) ∧ ((step0 6 1).getLsbD 0 = true ∧ (step0 6 2).getLsbD 0 = false) ∧
    ((step0 7 0).toNat % 65536 = 0 ∧ (step0 7 3).toNat % 65536 = 3) ∧
    ((step0 1 (2 * 2 ^ 46)).getLsbD 59 = false ∧ max 1 2 ≤ 0 ^^^ (step0 1 (2 * 2 ^ 46)).toNat / 2 ^ 46 % 1024 ∧
      0 ^^^ (step0 1 (2 ^ 46)).toNat / 2 ^ 46 % 1024 < max 1 2) ∧
    (slotCount coll0 0 true ≤ 1 ∧ 0 < slotCount coll0 0 false) ∧
    (∃ ls l, [{ first := 1, count := 2, c := 1 : LoopLevel }] = ls ++ [l] ∧ ¬l.c + 1 < l.count) := by
  refine ⟨fun _ => rfl, by decide +kernel, ?_, by decide, by decide, by decide, by decide, by decide, by decide +kernel, [], _, rfl, by decide⟩
  simp only [List.forall_mem_cons]
  exact ⟨⟨found_ok (by decide +kernel), found_ok (by decide +kernel), found_ok (by decide +kernel), found_ok (by decide +kernel), found_ok (by decide +kernel)⟩,
    ⟨found_ok (by decide +kernel), found_ok (by decide +kernel), found_ok (by decide +kernel), found_ok (by decide +kernel), found_ok (by decide +kernel)⟩, by simp⟩

/-- ManagementCommands: each command apart from the ring; a die with no context resident, and one with; commands at their limits and past
them; positions that a rank may be given, the spare free and taken; a table image that passes the check for rank 0's column, and an empty one. -/
def entries : List (Nat × Byte) := [(8192, 2),
  (8208, 1), (8209, 2), (8210, 3), (8211, 4), (8212, 5), (8213, 6), (8214, 7), (8215, 8), (8216, 9), (8217, 10), (8218, 11), (8219, 12), (8220, 13),
  (8221, 14), (8222, 15), (8223, 16), (8224, 17), (8225, 18), (8226, 19), (8227, 20), (8228, 21), (8229, 22), (8230, 23), (8231, 24), (8232, 25),
  (8233, 26), (8234, 27), (8235, 28), (8236, 29), (8237, 30), (8238, 31), (8239, 63)]
def atTab : State := { at0 core0 with hbm := entries }
/-- A management command at an address of the ring. -/
def mcmd (w : Nat) : Cmd := { cmd0 (BitVec.ofNat 512 w) with jseq := 5 }
def atRing (l : List Cmd) : State :=
  let s := at0 core0
  { s with page := { s.page with mring := 8192, msize := 4 }, cp := { s.cp with mtail := 1, mhead := 1, mcmds := l } }

theorem apart_idle (s : State) (h : s.cp.mcmds = []) (i : Instr) : apart i s := by
  intro g
  rw [mgmtNext, h] at g
  exact absurd g (by simp)

/-- A die whose rank 33 has its shelf's spare position. -/
def atSpare : State := setLabel (at0 core0) 33 (some (1, 32))

theorem witness_management :
    (∀ i, apart i (at0 core0) ∧ apart i atNone ∧ apart i atTab) ∧ noneResident atNone ∧ (∃ e ∈ (at0 core0).ctxs, ∃ x, e.2 = some x ∧ x.resident = true) ∧
    (∀ e ∈ atNone.ctxs, ∀ x, e.2 = some x → x.checked = false) ∧
    (labels (at0 core0) 63 (some 95) ∧ labels (at0 core0) 63 none ∧ labels (at0 core0) 63 (some 96) ∧ labels atSpare 33 (some 96) ∧ ¬labels atSpare 34 (some 96) ∧
      ¬labels (at0 core0) 1024 none ∧ ¬labels (at0 core0) 63 (some 94)) ∧
    (slotNow (at0 core0) < 1 ∧ 0 ≤ slotNow (at0 core0)) ∧
    (8192 + 1040 ≤ hbmBytes atTab ∧ tableFault atTab .column (tableImage atTab 8192) = none ∧ 4 % (tableImage atTab 8192).length = 0 ∧
      3 % (tableImage atTab 8192).length ≠ 0 ∧ slotNow atTab < 4) ∧
    tableFault atTab .shelf (tableImage atTab 0) = some (6, 0xFF, 0xFF, 0xFF) ∧ slotNow (at0 core0) < 7 ∧
    (at0 core0).memWf ∧ (0 + 32 ≤ hbmBytes (at0 core0) ∧ 4096 + 512 ≤ hbmBytes (at0 core0)) ∧ hbmBytes (at0 core0) < (hbmBytes (at0 core0) - 31) + 32 := by
  have one (P : Ctx → Prop) (h : P { ctx0 with resident := false }) : ∀ e ∈ atNone.ctxs, ∀ x, e.2 = some x → P x := by
    intro e he x hx
    obtain rfl : e = (0, some { ctx0 with resident := false }) := by simpa [atNone] using he
    injection hx with hx
    rwa [← hx]
  refine ⟨fun i => ⟨apart_idle _ rfl i, apart_idle _ rfl i, apart_idle _ rfl i⟩, one _ rfl, ⟨_, List.mem_singleton_self _, _, rfl, rfl⟩, one _ rfl,
    ⟨⟨by decide, .inr (.inl rfl)⟩, ⟨by decide, .inl rfl⟩, ⟨by decide, .inr (.inr ⟨rfl, by decide +kernel⟩)⟩, ⟨by decide, .inr (.inr ⟨rfl, by decide +kernel⟩)⟩,
      fun h => ?_, fun h => absurd h.1 (by decide), fun h => by simpa using h.2⟩, by decide +kernel, by decide +kernel, by decide +kernel, by decide +kernel, ?_, by decide +kernel, by decide +kernel⟩
  · rcases h.2 with g | g | g
    · simp at g
    · simp at g
    · exact g.2 1 (by decide) (by decide) (by decide +kernel)
  · unfold State.memWf
    decide

/-- ManagementCommands: the oldest accepted command is each of those whose STATUS is stated. -/
theorem witness_served :
    (∀ l, (atRing l).memWf ∧ quietJournal (atRing l) ∧ (atRing l).cp.mcmds = l) ∧
    mgmtInstr (mcmd (4 + 3 * 2 ^ 64)).words = some (.gate 3) ∧ mgmtInstr (mcmd (4 + 4 * 2 ^ 64)).words = some (.gate 4) ∧
    mgmtInstr (mcmd (5 + 63 * 2 ^ 64 + 96 * 2 ^ 128 + 7 * 2 ^ 192)).words = some (.relabel 63 (some 96) 7) ∧
    mgmtInstr (mcmd (5 + 63 * 2 ^ 64 + 2 ^ 63 * 2 ^ 128 + 7 * 2 ^ 192)).words = some (.relabel 63 none 7) ∧
    mgmtInstr (mcmd (7 + 1 * 2 ^ 64 + 33 * 2 ^ 128 + 3 * 2 ^ 192 + 64 * 2 ^ 256)).words = some (.setpeg 1 33 3 64) ∧
    mgmtInstr (mcmd (8 + 1 * 2 ^ 64 + 8192 * 2 ^ 128 + 4 * 2 ^ 192)).words = some (.table 1 8192 4) ∧
    mgmtInstr (mcmd (9 + 16 * 2 ^ 64 + 7 * 2 ^ 128)).words = some (.tlen 16 7) ∧
    (∀ z ∈ [(at0 core0).ctxs, atNone.ctxs], let s := { atRing [mcmd (4 + 3 * 2 ^ 64)] with ctxs := z }
      s.cp.mcmds = mcmd (4 + 3 * 2 ^ 64) :: [] ∧ quietJournal s) := by
  refine ⟨fun l => ⟨⟨rfl, rfl⟩, show (0 : Nat) < 12 by decide, rfl⟩, by decide +kernel, by decide +kernel, by decide +kernel,
    by decide +kernel, by decide +kernel, by decide +kernel, by decide +kernel, fun z _ => ⟨rfl, show (0 : Nat) < 12 by decide⟩⟩

/-- ContextCommands: a resident context and one that is not; an image that can be restored, one whose ranges overlap, one of another size;
a header from which a context, independent or checked, can be created, and one whose name is taken; a context without work, and one with a
queued command; a stopped core, and one stopped for a double trap; a queue with a command and one without. -/
def coreAl : Core := { core0 with alloc := [(0, 4096)] }
def atTwo (z : Byte) (c : Core) : State :=
  { at0 coreAl with
    ctxs := [(0, some ctx0), (1, some { ctx0 with resident := false })], cores := [(0, coreAl), (512, c)], hbm := [(65536, 1), (65554, z)] }
def atNew (m : Memory) : State :=
  let s := at0 core0
  { s with page := { s.page with bootst := 3 }, hbm := m }
def atStop (n : Nat) : State := at0 { core0 with stop := some { code := n, between := false } }

theorem witness_contexts :
    ((ctxAt (atTwo 16 core0) 0).resident = true ∧ (ctxAt (atTwo 16 core0) 1).resident = false) ∧
    (∀ c ∈ [core0, coreAl], let s := atTwo 16 c
      ctxAt? s 1 = some { ctx0 with resident := false } ∧ 65536 % 4096 = 0 ∧ 65536 + 4096 ≤ hbmBytes s ∧ readNat s.hbm 65536 2 = 1 ∧
        readNat s.hbm (65536 + 0x10) 8 = zBytes s false ∧ launchesFit s 1 = true ∧ (residents s).length < 16) ∧
    readNat (atTwo 8 core0).hbm (65536 + 0x10) 8 ≠ zBytes (atTwo 8 core0) false := by
  refine ⟨by decide, ?_, by decide +kernel⟩
  intro c hc
  simp only [List.mem_cons, List.not_mem_nil, or_false] at hc
  rcases hc with rfl | rfl <;>
  exact ⟨rfl, by decide, by decide +kernel, by decide +kernel, by decide +kernel, by decide, by decide⟩

theorem restorable : overlapsResident (loadImage (atTwo 16 core0) 1 65536) 1 = false := by decide +kernel
theorem overlapping : overlapsResident (loadImage (atTwo 16 coreAl) 1 65536) 1 = true := by decide +kernel

/-- ContextCommands, further clauses. -/
theorem witness_create :
    (∀ m ∈ [[(65536, 1)], [(65536, 1), (65538, 1)]], let s := atNew m
      bootStage s = 3 ∧ readNat s.hbm 65536 8 % 65536 = 1 ∧ uOn s = true ∧ headerZero s 65536 = true ∧
        headerAddrs s 65536 (coreCount s (readNat s.hbm 65536 8 / 65536 % 2 == 1)) (zBytes s (readNat s.hbm 65536 8 / 65536 % 2 == 1)) = true ∧
        ctxAt? s 1 = none) ∧
    ((ctxAt? (atNew []) (readNat (atNew []).hbm 65536 8 % 65536)).isSome = true ∧ headerZero (atNew []) 65536 = true ∧
      headerAddrs (atNew []) 65536 (coreCount (atNew []) false) (zBytes (atNew []) false) = true) := by
  refine ⟨?_, by decide +kernel⟩
  intro m hm
  simp only [List.mem_cons, List.not_mem_nil, or_false] at hm
  rcases hm with rfl | rfl <;> exact ⟨by decide, by decide +kernel, by decide, by decide +kernel, by decide +kernel, by decide +kernel⟩

/-- ContextCommands, further clauses. -/
theorem witness_destroy_resume_abort :
    (ctxAt? atNone 0 = some { ctx0 with resident := false } ∧ ctxQueued atNone 0 = false ∧ ctxQueued (atHost [cmd0 0]) 0 = true) ∧
    (∀ n, ctxAt? (atStop n) 0 = some ctx0 ∧ (ctxAt (atStop n) 0).ncore = 512 ∧ (ctxAt (atStop n) 0).resident = true ∧
      (coreAt (atStop n) (512 * 0 + 0)).stop = some { code := n, between := false } ∧ (coreAt (atStop n) (512 * 0 + 0)).task = some task0) ∧
    (task0.record = none ∧ task0.done = 0) ∧ queueCmds (atHost [cmd0 0]) 63 = cmd0 0 :: [] ∧ queueCmds (atHost []) 62 = [] ∧
    ∀ i, apart i (atHost []) ∧ apart i (atHost [cmd0 0]) ∧ apart i (atStop 2) ∧ apart i (atStop 0x11) ∧ apart i (atNew []) :=
  ⟨⟨rfl, rfl, by decide +kernel⟩, fun _ => ⟨rfl, rfl, rfl, rfl, rfl⟩, ⟨rfl, rfl⟩, rfl, rfl,
    fun i => ⟨apart_idle _ rfl i, apart_idle _ rfl i, apart_idle _ rfl i, apart_idle _ rfl i, apart_idle _ rfl i⟩⟩

/-- Frames that arrive by the shelf link of port 5. -/
def frame0 (v : Fin 4) (src dst seq : Nat) (b : Body) : Frame :=
  { ctx := 0, vc := v, sh := false, src := src, dh := false, dst := dst, hops := 1, seq := seq, pseq := 0, resv := false, body := b }
def link5 : Link := { plane := .shelf, port := 5 }

/-- Whether a frame comes as `Comes` says. -/
def comesB (s : State) (l : Link) (f : Frame) (k : Nat) : Bool :=
  f.seq % 65536 == lget 0 s.port.inSeq l f.vc.val && (relayLink s l f).isNone && !poolFull s l f.vc.val && !f.resv && decide (f.hops ≤ 6) &&
    bodyKind f.body == k && kindVc k == f.vc.val && k != 0x3F && !f.dh && f.dst == s.port.rank && (heldSlots s l f.vc.val).isEmpty &&
    !frameHeld (accepted s l f) f && !frameStarved (accepted s l f) f && !behindLater s.port.later f && bootStage s != 0 && (k == 0x36 || f.ctx != 0xFFFF && (ctxAt? s f.ctx).isSome)

theorem comes_of {s : State} {l : Link} {f : Frame} {k : Nat} (h : comesB s l f k = true) : Comes s l f k := by
  simp only [comesB, Bool.and_eq_true, Bool.or_eq_true, Bool.not_eq_true', beq_iff_eq, bne_iff_ne, decide_eq_true_eq, Option.isNone_iff_eq_none,
    List.isEmpty_iff] at h
  obtain ⟨⟨⟨⟨⟨⟨⟨⟨⟨⟨⟨⟨⟨⟨⟨h1, h2⟩, h3⟩, h4⟩, h5⟩, h6⟩, h7⟩, h8⟩, h9⟩, h10⟩, h11⟩, h12⟩, h14⟩, h15⟩, h16⟩, h13⟩ := h
  exact ⟨h1, ⟨h2, h3⟩, ⟨h4, h5, h6, h7, h8⟩, ⟨h9, h10⟩, ⟨h11, h12, h14⟩, h15, h16, h13⟩

/-- FrameOrder: a frame that passes on; frames before, at and beyond the one expected, and one that finds the pool full; bad headers; a frame for
rank 32 that goes on through this die. -/
def started (s : State) : State := { s with page := { s.page with bootst := 3 } }
def atPool (n : Nat) : State :=
  let s := started (at0 core0)
  { s with port := { s.port with inSeq := [(link5, 1, 7)], inHand := List.replicate n (link5, 1, 6) } }

theorem witness_frame_order :
    (let f := frame0 1 5 6 0 (.done { core := 0, stream := 13, id := 1 })
     frameOf (.doneFrame link5 f) = some (0x21, link5, f) ∧ relayLink (at0 core0) link5 f = some { plane := .shelf, port := 6 } ∧
      relayLink (started (at0 core0)) link5 f = some { plane := .shelf, port := 6 } ∧ bootStage (at0 core0) = 0 ∧ bootStage (started (at0 core0)) ≠ 0) ∧
    (∀ n, let f := frame0 1 5 0 n (.done { core := 0, stream := 13, id := 1 }); frameOf (.doneFrame link5 f) = some (0x21, link5, f)) ∧
    (∀ n ∈ [6, 7, 8], relayLink (atPool 0) link5 (frame0 1 5 0 n .none) = none) ∧ lget 0 (atPool 0).port.inSeq link5 1 = 7 ∧
    (6 % 65536 ≠ 7 ∧ seqBefore 6 7 = true) ∧ (8 % 65536 ≠ 7 ∧ seqBefore 8 7 = false) ∧ (7 % 65536 = 7 ∧ poolFull (atPool 8) link5 1 = true) ∧
    poolFull (atPool 0) link5 1 = false ∧
    ({ frame0 1 5 0 7 .none with resv := true }.resv = true ∧ 6 < { frame0 1 5 0 7 .none with hops := 7 }.hops ∧
      bodyKind (frame0 1 5 0 7 .none).body ≠ 0x21 ∧ kindVc 0x21 ≠ (frame0 2 5 0 7 .none).vc.val) ∧
    (let f := frame0 1 5 32 7 (.done { core := 0, stream := 13, id := 1 })
     relayLink (atPool 0) link5 f = none ∧ bootStage (atPool 0) ≠ 0 ∧ f.resv = false ∧ f.hops ≤ 6 ∧ bodyKind f.body = 0x21 ∧ kindVc 0x21 = f.vc.val ∧
      f.dst ≠ (atPool 0).port.rank ∧ nextLink (atPool 0) link5 f = some { plane := .column, port := 1 } ∧ ∀ n j bs, f.body ≠ .contrib n j bs) := by
  refine ⟨⟨rfl, by decide +kernel, by decide +kernel, by decide, by decide⟩, fun _ => rfl, by decide +kernel, by decide +kernel, by decide, by decide, by decide +kernel, by decide +kernel,
    ⟨rfl, by decide, by decide, by decide⟩, ?_⟩
  exact ⟨by decide +kernel, by decide, rfl, by decide, by decide, by decide, by decide, by decide +kernel, fun _ _ _ h => Body.noConfusion h⟩

/-- FramesDelivered, memory: a load, a store, an atomic, a memory atomic, and both kinds of SEND to a page of this die; an atomic into a
reduction window; a load of a page that is not mapped; a chase packet. -/
def who5 : Who := { agent := 0, q := 0, rx := false }
def ret5 : Ret := { core := 3, stream := 13, id := 1 }
def atM : State := started (atL [] [] [])
def windowM : Window := { window0 with desc := BitVec.ofNat 256 1 ||| (BitVec.ofNat 256 1 <<< 30) ||| (BitVec.ofNat 256 32768 <<< 192), members := [5, 6] }
def atWin : State :=
  let s := atM
  { s with port := { s.port with windows := [(0, some windowM)] } }
def memF (v : Fin 4) (a : Word) (op : MemOp) : Frame := frame0 v 5 0 0 (.mem who5 ret5 none a op)
def chase5 : ChasePkt where
  ret := ret5
  ctx := 0
  rank := 5
  basket := 0
  slot := 0
  tag := 0
  trap := false
  nstep := 1
  s := 0
  steps := [{ off := 0, w := 4, k := false, mask := 0 }]
  addend := 0
  p := 64
  hops := 0
  k := 0
  cap := none
  who := who5

theorem comes_memory :
    ∀ p ∈ [(memF 0 64 (.load 8 false), 0x10), (memF 2 64 (.store (leBytes 8 1) false), 0x00), (memF 0 64 (.atomic .add 4 5 0), 0x11),
        (memF 2 64 (.mop .add .nat 4 5 0), 0x05), (frame0 2 5 0 0 (.send false who5 ret5 none 64 [1]), 0x01),
        (frame0 2 5 0 0 (.send true who5 ret5 none 64 [1]), 0x06), (frame0 0 5 0 0 (.chase chase5), 0x12), (memF 0 65536 (.load 8 false), 0x10)],
      Comes atM link5 p.1 p.2 := fun p hp => comes_of (by revert p hp; decide +kernel)

theorem witness_memory_frames :
    (∀ op ∈ [MemOp.load 8 false, .store (leBytes 8 1) false, .atomic .add 4 5 0, .mop .add .nat 4 5 0],
      ∃ u x, windowRefused (accepted atM link5 (memF 0 64 op)) 0 64 op = false ∧ x.poison = false ∧
        performGen (accepted atM link5 (memF 0 64 op)) (coreKey 0 0) who5 false none 64 op = .ok (u, x)) ∧
    (windowRefused (accepted atWin link5 (memF 0 32768 (.atomic .add 4 5 0))) 0 32768 (.atomic .add 4 5 0) = true ∧
      Comes atWin link5 (memF 0 32768 (.atomic .add 4 5 0)) 0x11) ∧
    (∃ b, windowRefused (accepted atM link5 (memF 0 65536 (.load 8 false))) 0 65536 (.load 8 false) = false ∧
      performGen (accepted atM link5 (memF 0 65536 (.load 8 false))) (coreKey 0 0) who5 false none 65536 (.load 8 false) = .error b ∧
      ¬(b.code = 7 ∧ b.sub = 6) ∧ ¬(b.code = 3 ∧ b.sub = 2) ∧ b.code ≠ 5) ∧
    (∀ z, ∃ u x, performGen (accepted atM link5 (frame0 2 5 0 0 (.send z who5 ret5 none 64 [1]))) (coreKey 0 0) who5 false none 64 (.store [1] false) =
      .ok (u, x)) ∧
    (5 ≠ atM.port.rank ∧ ∃ h, linkTo atM false 5 = some h) := by
  refine ⟨?_, ⟨by decide +kernel, comes_of (by decide +kernel)⟩, ⟨_, by decide +kernel, rfl, by decide +kernel, by decide +kernel, by decide +kernel⟩,
    by intro z; cases z <;> exact ⟨_, _, rfl⟩, by decide, _, rfl⟩
  intro op hop
  simp only [List.mem_cons, List.not_mem_nil, or_false] at hop
  rcases hop with rfl | rfl | rfl | rfl <;> exact ⟨_, _, by decide +kernel, rfl, rfl⟩

/-- FramesDelivered, the other kinds: one frame of each; a pair bound to the frame's sender and one that is not; an arrival in order and one
that waits for earlier writes; a registration with room, one without, one that ends; contributions of rank 5 to a window that waits for
rank 6, in one frame, in the first and in the second of two; an acknowledgement and a NAK with a frame in the replay store. -/
def kinds : List (Frame × Nat) :=
  let f (v : Fin 4) (b : Body) : Frame := frame0 v 5 0 0 b
  [(f 1 (.data ret5 [0] false false), 0x20), (f 1 (.done ret5), 0x21), (f 1 (.chres ret5 false 0 0 0 []), 0x22), (f 1 (.bounce chase5), 0x23),
    (f 1 (.fault ret5 3 1 0 0 0), 0x24), (f 1 (.winack 0 0), 0x26), (f 2 (.fifo 0 7 3 1 [9]), 0x02), (f 1 (.fqcred 0 7 3 1 64), 0x25),
    (f 3 (.arrive 0 1 ret5 false), 0x32), ({ f 3 (.arrive 0 1 ret5 false) with pseq := 1 }, 0x32), (f 3 (.expect 0 1 2 ret5 true), 0x33),
    (f 3 (.sstep 0 1 0), 0x34), (f 3 (.viol 5 4 0), 0x35), (f 3 (.darn 9), 0x36), (f 3 (.winreg 0 1 [0]), 0x37), (f 3 (.winreg 0 1 []), 0x37),
    (f 2 (.contrib 0 0 []), 0x03), (f 2 (.wpart 0 0 0 [] [5]), 0x04), (f 2 (.wpart 0 0 1 [] []), 0x04), (f 2 (.wpart 0 0 2 [] [5]), 0x04)]

def atK : State :=
  { atWin with cores := [(0, { core0 with fifos := [(7, { Fifo.init with peer := some (5, 3, 1) })] })] }

theorem comes_kinds : ∀ p ∈ kinds, Comes atK link5 p.1 p.2 := fun p hp => comes_of (by revert p hp; decide +kernel)

def atSeams (n : Nat) (d : BitVec 256) : State :=
  let s := atK
  { s with port := { s.port with seams := List.replicate n { seam0 with name := 3, desc := d } } }
def sent5 (v : Fin 4) (n : Nat) (t : Option Nat) (tries : Nat) : Sent :=
  { link := link5, frame := frame0 v 0 5 n (.done ret5), sentAt := t, tries := tries }

theorem witness_control_frames :
    ((ctxAt atK 0).resident = true ∧ (fifoAt (coreAt atK (512 * 0 + 0)) 7).peer = some (5, 3, 1) ∧ (fifoAt (coreAt atK (512 * 0 + 0)) 6).peer ≠ some (5, 3, 1)) ∧
    (coreExists atK (ctxAt atK 0).checked 0 = true ∧ mustWait (accepted atK link5 (frame0 3 5 0 0 (.arrive 0 1 ret5 false))) (frame0 3 5 0 0 (.arrive 0 1 ret5 false)) = false ∧
      (let f : Frame := { frame0 3 5 0 0 (.arrive 0 1 ret5 false) with pseq := 1 }
       mustWait (accepted atK link5 f) f = true)) ∧
    (let u := dropSeam (accepted atK link5 (frame0 3 5 0 0 (.winreg 0 1 [0]))) 0
     u.port.seams.length < 32 ∧ storeUsed u + storeBytes 1 ≤ reductionStore) ∧
    (let u := dropSeam (accepted (atSeams 4 2047) link5 (frame0 3 5 0 0 (.winreg 0 2047 [0]))) 0
     reductionStore < storeUsed u + storeBytes 2047) ∧
    (32 ≤ (dropSeam (accepted (atSeams 32 1) link5 (frame0 3 5 0 0 (.winreg 0 1 [0]))) 0).port.seams.length) ∧
    ((0 : Word).toNat = atK.port.rank * 2 ^ 20 + (0 : Word).toNat % 16 ∧ atK.port.rank < 1024 ∧ windowAt atK ((0 : Word).toNat % 16) = some windowM ∧
      windowM.status = 0 ∧ 0 < winLen windowM.desc ∧ windowM.members.contains 5 = true ∧
      windowFull { windowM with merged := mset windowM.merged 0 (mget [] windowM.merged 0 ++ [5]) } = false ∧ ∀ r ∈ [5], windowM.members.contains r = true) := by
  refine ⟨⟨rfl, by decide, by decide⟩, ⟨by decide +kernel, by decide +kernel, by decide +kernel⟩, by decide +kernel, by decide +kernel, by decide +kernel,
    ⟨by decide, by decide, rfl, rfl, by decide, by decide, by decide +kernel, by decide⟩⟩

/-- WindowsComplete: the contribution and the partial of rank 5 that fill the window, rank 6 having come before; one that comes late; a window
whose lane is busy; a write and a completion on a free lane. -/
def windowL (st : Nat) : Window := { windowM with status := st, merged := [(0, [6])], parts := [(0, [])] }
def atFill (st : Nat) : State :=
  let s := atK
  { s with port := { s.port with windows := [(0, some (windowL st))] } }

theorem witness_windows_complete :
    (∀ st ∈ [0, 2], (0 : Word).toNat = (atFill st).port.rank * 2 ^ 20 + (0 : Word).toNat % 16 ∧ (atFill st).port.rank < 1024 ∧
      windowAt (atFill st) 0 = some (windowL st) ∧ (windowL st).active = true ∧ (windowL st).status = st ∧
      Comes (atFill st) link5 (frame0 2 5 0 0 (.contrib 0 0 [])) 0x03) ∧
    Comes (atFill 0) link5 (frame0 2 5 0 0 (.wpart 0 0 0 [] [5])) 0x04 ∧
    (0 < winLen (windowL 0).desc ∧ (windowL 0).members.contains 5 = true ∧ (∀ r ∈ [5], (windowL 0).members.contains r = true) ∧
      windowFull { windowL 0 with
        parts := mset (windowL 0).parts 0 (mergeElems (wdType (windowL 0).desc) (wdOp (windowL 0).desc) (mget [] (windowL 0).parts 0) (frameElems (wdType (windowL 0).desc) []))
        merged := mset (windowL 0).merged 0 (mget [] (windowL 0).merged 0 ++ [5]) } = true ∧
      windowFull { windowL 0 with
        parts := mset (windowL 0).parts 0 (mergeElems (wdType (windowL 0).desc) (wdOp (windowL 0).desc) (mget [] (windowL 0).parts 0) [])
        merged := mset (windowL 0).merged 0 (mget [] (windowL 0).merged 0 ++ [5]) } = true) ∧
    (let w : Window := { windowL 0 with merged := [(0, [6, 5])] }
     let s := atM
     let s : State := { s with cp := { s.cp with jobs := [{ lane := 1, ctx := 0, unit := 4, q := 0, op := .complete 0 0 }] } }
     windowFull w = true ∧ s.cp.jobs.any (fun x => x.lane == 2 * w.core + 1) = true ∧ w.members.Nodup ∧ ∀ r ∈ w.members, r < 1024) ∧
    (let j (op : UnitOp) (q : Nat) : UnitJob := { lane := 1, ctx := 0, unit := 4, q := q, op := op }
     atM.cp.jobs.any (fun x => x.lane == (j (.complete 0 1) 0).lane) = false ∧ (64 : Word).toNat / 2 ^ 47 % 1024 = atM.port.rank ∧
      accessHeld atM none (512 * 0) false 64 (.store [1] false) = false ∧
      (∃ v g, performMem atM (512 * 0) { unitWho atM (j (.write 64 [1]) 0).unit with q := 0 } false 64 (.store [1] false) = .ok (v, g)) ∧
      (1 : Nat) ≤ { atM with time := 1 }.time) := by
  refine ⟨?_, comes_of (by decide +kernel), by decide +kernel, ⟨by decide +kernel, by decide, by decide, by decide⟩,
    ⟨rfl, by decide +kernel, by decide +kernel, ⟨_, _, rfl⟩, Nat.le_refl _⟩⟩
  intro st hst
  simp only [List.mem_cons, List.not_mem_nil, or_false] at hst
  rcases hst with rfl | rfl <;> exact ⟨by decide, by decide, rfl, rfl, rfl, comes_of (by decide +kernel)⟩

/-- FramesDelivered, further clauses. -/
theorem witness_acknowledgements :
    (∀ b ∈ [Body.pegs [(1, 7)], .nak [(1, 7)]], let f := frame0 3 5 0 0 b
      relayLink (at0 core0) link5 f = none ∧ f.vc.val = 3 ∧ f.resv = false ∧ f.hops ≤ 6 ∧ f.body = b) ∧
    (let s := at0 core0
     let s : State := { s with port := { s.port with replay := [sent5 1 6 (some 0) 0, sent5 1 7 (some 0) 7, sent5 2 0 (some 0) 8] } }
     ∀ q ∈ s.port.replay.filter (fun q => !((q.link == link5 && q.frame.vc.val == 1) && seqBefore q.frame.seq 7)),
       (q.link == link5 && q.frame.vc.val == 1) = true → q.tries < 8) := by
  refine ⟨?_, by decide +kernel⟩
  intro b hb
  simp only [List.mem_cons, List.not_mem_nil, or_false] at hb
  rcases hb with rfl | rfl <;> exact ⟨by decide +kernel, rfl, rfl, by decide, rfl⟩

/-- Slots: a frame whose port a lane of the table addresses, with pegs left and without; frames in the replay store before and at their timeout, and
after eight resends; a swap, a new TLEN, a relabelling and a repair before their slot and at it, and none. -/
def atPort (g : Port → Port) : State :=
  let s := at0 core0
  { s with port := g { s.port with tables := [[BitVec.ofNat 128 (63 * (2 ^ 128 - 1) / 255 - 63 + 5)], []] } }
def q5 (t : Option Nat) (tries : Nat) : Sent := sent5 1 0 t tries
def atReplay (now tries : Nat) : State := { atPort fun p => { p with replay := [q5 (some 10) tries] } with time := now }

theorem witness_slots :
    slotNow (atPort fun p => { p with nextSlot := 1 }) < (atPort fun p => { p with nextSlot := 1 }).port.nextSlot ∧
    (∀ n ∈ [0, 8], let s := atPort fun p => { p with queue := [q5 none 0], pegs := [(link5, 1, n)] }
      s.port.nextSlot ≤ slotNow s ∧ s.port.queue = [q5 none 0] ∧ 16 ≤ s.port.tlen ∧ s.port.replay = [] ∧ isControl (q5 none 0).frame = false ∧
        (q5 none 0).transit = false ∧ (q5 none 0).frees = none ∧ lanePort s (q5 none 0) ∈ slotPorts s (q5 none 0).link.plane (slotNow s) ∧
        pegsOf s link5 1 = n) ∧
    (∀ e ∈ (at0 core0).cores, e.2.fifos = []) ∧
    (∀ now tries, (atReplay now tries).port.replay = [q5 (some 10) tries] ∧ (q5 (some 10) tries).sentAt = some 10) ∧
    10 + 4 * mangleCycles (atReplay 0 0) .shelf = 8202 := by
  refine ⟨by decide, ?_, fun e he => ?_, fun _ _ => ⟨rfl, rfl⟩, by decide⟩
  · intro n hn
    simp only [List.mem_cons, List.not_mem_nil, or_false] at hn
    rcases hn with rfl | rfl <;>
    exact ⟨by decide, rfl, by decide, rfl, rfl, rfl, rfl, by decide +kernel, by decide⟩
  · obtain rfl : e = (0, core0) := by simpa [at0] using he
    rfl

/-- Slots, further clauses. -/
theorem witness_changes :
    (∀ n, (atPort fun p => { p with shadowT := [none, some (n, [])] }).port.shadowT.getD (planeCode .column) none = some (n, [])) ∧
    (at0 core0).port.shadowT.getD (planeCode .column) none = none ∧ slotNow (at0 core0) = 0 ∧
    (∀ n, (atPort fun p => { p with tlenAt := some (16, n) }).port.tlenAt = some (16, n)) ∧
    (∀ n p, (atPort fun q => { q with relabelAt := [(n, 7, p)] }).port.relabelAt = [(n, 7, p)]) ∧
    (darnNext (at0 core0) = none ∧ darnNext (atPort fun p => { p with lossOn := [.shelf, .column], darnAt := [(9, some .shelf)] }) = some .column) ∧
    (∀ n o, (atPort fun p => { p with darnAt := [(n, o)], lanesDown := [(.shelf, 15)] }).port.darnAt = [(n, o)] ∧
      (Plane.shelf, 15) ∈ (atPort fun p => { p with darnAt := [(n, o)], lanesDown := [(.shelf, 15)] }).port.lanesDown) :=
  ⟨fun _ => rfl, rfl, rfl, fun _ => rfl, fun _ _ => rfl, ⟨rfl, by decide⟩, fun _ _ => ⟨rfl, List.mem_singleton_self _⟩⟩

/-- OpticalFaults: a live peer at and before 64 mangle cycles of silence, and one that is dead. -/
theorem witness_silence :
    live (atPort id) (0, 5) = true ∧ live (atPort fun p => { p with dead := [(0, 5)] }) (0, 5) = false ∧
    (let s : State := { atPort id with time := 64 * 2048 }
     0 + 64 * mangleCycles s .shelf ≤ s.time ∧ s.port.queue = [] ∧ s.port.replay = [] ∧ s.port.heard = []) ∧
    (let s : State := { atPort id with time := 64 * 2048 - 1 }
     s.time < 0 + 64 * mangleCycles s .shelf) := by
  refine ⟨by decide, by decide, ⟨by decide, rfl, rfl, rfl⟩, by decide⟩

/-- LandingsAndDeadlines: a value for a load of rank 5; no landing; a bounced chase of a context that is resident and of one that is not,
without a step and toward rank 5, with and without a peg; a seam before its deadline and past it; a window that is active, not active, and ended;
an unbind that can complete, and one with a word left. -/
def atLand : State :=
  let s := at0 { coreFar with landing := [(13, 1)] }
  { s with port := { s.port with landing := [frame0 1 5 0 0 (.data { core := 0, stream := 13, id := 7 } (leBytes 8 9) false false)] } }

theorem witness_landing :
    (∃ f a e, atLand.port.landing[0]? = some f ∧ (ctxAt? atLand f.ctx).isSome = true ∧ f.body = .data { core := 0, stream := 13, id := 7 } (leBytes 8 9) false false ∧
      (ctxAt atLand (0 / 512)).resident = true ∧ (coreAt atLand 0).accs = [a] ∧ a.id = 7 ∧ (coreAt atLand 0).snap = none ∧
      (coreAt atLand 0).livelock = none ∧ rising (coreAt atLand 0).landing ∧ a.img = 0 ∧ a.land = 0 ∧ a.op = .mem [e] (.scalar 8 false) 0 ∧
      e.ix = 0 ∧ e.op = .load 8 false) ∧ atLand.port.landing[1]? = none :=
  ⟨⟨_, _, _, rfl, rfl, rfl, rfl, rfl, rfl, rfl, rfl, by unfold rising; decide, rfl, rfl, rfl, rfl, rfl⟩, rfl⟩

def atBounce (p : ChasePkt) (n : Nat) : State := atPort fun q => { q with bounced := [p], pegs := [(link5, 0, n)] }
def chaseTo5 : ChasePkt := { chase5 with p := 5 * 2 ^ 47 }

/-- LandingsAndDeadlines, further clauses. -/
theorem witness_bounces :
    (∀ p n, (atBounce p n).port.bounced[0]? = some p) ∧ (ctxAt (atBounce chaseTo5 0) chaseTo5.ctx).resident = true ∧
    (ctxAt (atBounce { chase5 with ctx := 1 } 0) 1).resident = false ∧ ({ chase5 with steps := [] }).steps = [] ∧
    (∃ st r o e l, chaseTo5.steps = st :: r ∧ chaseAddr (atBounce chaseTo5 0) chaseTo5 st = .ok (o, e) ∧ linkTo (atBounce chaseTo5 0) false o = some l ∧
      pegsOf (atBounce chaseTo5 0) l 0 = 0 ∧ pegsOf (atBounce chaseTo5 1) l 0 ≠ 0) :=
  ⟨fun _ _ => rfl, by decide, by decide, rfl, _, _, _, _, link5, rfl, rfl, rfl, by decide, by decide⟩

def lateDesc (n : Nat) : BitVec 256 := window0.desc ||| BitVec.ofNat 256 (n * 2 ^ 128)
/-- LandingsAndDeadlines, further clauses. -/
theorem witness_deadlines :
    (∀ n ∈ [8192, 8193], let m : Seam := { seam0 with desc := lateDesc n }
      let s := atPort fun p => { p with seams := [m] }
      s.port.seams[0]? = some m ∧ seamOf s m.name = some m ∧ wdDeadline m.desc = n ∧ s.time = 0) ∧
    (∀ w, windowAt (atPort fun p => { p with windows := [(3, some w)] }) 3 = some w) ∧
    (window0.status = 0 ∧ window0.active = true ∧ wdDeadline window0.desc ≤ (at0 core0).time) ∧ ({ window0 with status := 2 }).status ≠ 0 ∧
    ({ window0 with active := false }).active = false ∧ (at0 core0).time < wdDeadline (lateDesc 1) := by
  refine ⟨?_, fun _ => rfl, by decide +kernel, by decide, rfl, by decide +kernel⟩
  intro n hn
  simp only [List.mem_cons, List.not_mem_nil, or_false] at hn
  rcases hn with rfl | rfl <;> exact ⟨rfl, by decide +kernel, by decide +kernel, rfl⟩

/-- LandingsAndDeadlines, further clauses. -/
theorem witness_unbind :
    (let c : Core := { core0 with fifos := [(7, { Fifo.init with peer := some (5, 3, 1) })], hold := some { sub := 4, obj := 0x106, tl := 15 } }
     (coreAt (at0 c) 0).hold = some { sub := 4, obj := 0x106, tl := 15 } ∧ (fifoAt (coreAt (at0 c) 0) 7).peer.isSome = true ∧
      (fifoAt (coreAt (at0 c) 0) 7).fo = [] ∧ (fifoAt (coreAt (at0 c) 0) 7).resv = 0 ∧ fifoSending (at0 c) 0 7 = false ∧ peerBeyond (at0 c) (fifoAt (coreAt (at0 c) 0) 7) = false) ∧
    (coreAt (at0 core0) 0).hold = none ∧ (fifoAt (coreAt (at0 coreF) 0) 0).fo ≠ [] :=
  ⟨⟨rfl, rfl, rfl, rfl, rfl, by decide⟩, rfl, by decide⟩

/-- DrtPackets: packets for a registration of the first page of this die: new ones, one seen before, one that waits here; refused for its
generation; an unflagged flag, a flagged one that waits for a put; a flush request behind a flag of its core and one alone. -/
def packet0 (op : Nat) (flagged : Bool) (gen : BitVec 8) (mid seqcnt : Nat) : Packet where
  op := op
  flagged := flagged
  tagged := false
  last := true
  src := 5
  dst := 0
  mid := mid
  pidx := 0
  gen := gen
  code := 0
  len := 8
  addr := 64
  seqcnt := seqcnt
  tags := 0
  data := [1, 2, 3, 4, 5, 6, 7, 8]
def atDrt (g : Drt → Drt) : State :=
  let s := atM
  { s with drt := g { s.drt with regs := [(0, some registration0)] } }
def atDrt0 : State := atDrt id
def put0 : Packet := packet0 1 false 9 3 0
def flagP (fl : Bool) : Packet := packet0 4 fl 9 3 1
def flush0 : Packet := packet0 5 false 9 4 0

theorem witness_drt_target :
    (isDuplicate (atDrt fun d => { d with seen := [(5, 3, 0, 0)] }) put0 = true ∧ isDuplicate atDrt0 put0 = false) ∧
    waitsHere (atDrt fun d => { d with flags := [flagP true] }) (flagP true) = true ∧
    (∃ c, packetCheck (noteSeen atDrt0 put0) 8 put0.addr put0.len permW = .error c ∧ packetCheck (noteSeen atDrt0 put0) 8 put0.addr put0.len permR = .error c) ∧
    (∃ r u, packetCheck (noteSeen atDrt0 put0) put0.gen put0.addr put0.len permW = .ok r ∧
      placeBytesAt (noteSeen atDrt0 put0) r.ctx put0.addr (put0.data.take put0.len) 0 = .ok u) ∧
    (∃ r u ps, packetCheck (noteSeen atDrt0 put0) put0.gen put0.addr put0.len permR = .ok r ∧
      answerGet put0 r.ctx (packetCuts put0.len) 0 (ackPacket (noteSeen atDrt0 put0) put0) = .ok (u, ps)) := by
  refine ⟨by decide, by decide, ⟨1, rfl, rfl⟩, ⟨registration0, _, rfl, rfl⟩, ⟨registration0, _, _, rfl, rfl⟩⟩

/-- DrtPackets, further clauses. -/
theorem witness_drt_flags :
    (∀ p ∈ [flagP true, flagP false, flush0], waitsHere atDrt0 p = false ∧ isDuplicate atDrt0 p = false) ∧
    (flagReady atDrt0 (flagP false) = true ∧ (flagP false).flagged = false ∧
      ∃ r u, packetCheck (ackPacket (noteSeen atDrt0 (flagP false)) (flagP false)) (flagP false).gen (flagP false).addr 8 permW = .ok r ∧
        placeBytesAt (ackPacket (noteSeen atDrt0 (flagP false)) (flagP false)) r.ctx (flagP false).addr ((flagP false).data.take 8) 0 = .ok u ∧
        u.drt = (ackPacket (noteSeen atDrt0 (flagP false)) (flagP false)).drt) ∧
    flagReady atDrt0 (flagP true) = false ∧ flushReady atDrt0 flush0 = true ∧ flushReady (atDrt fun d => { d with flags := [flagP true] }) flush0 = false ∧
    (∀ p, (atDrt fun d => { d with flags := [p] }).drt.flags[0]? = some p ∧ (atDrt fun d => { d with flags := [p] }).drt.flags[1]? = none) ∧
    ((flagP true).op = 4 ∧ flush0.op ≠ 4 ∧ flushReady (atDrt fun d => { d with flags := [flush0] }) flush0 = true ∧
      flushReady (atDrt fun d => { d with flags := [flush0, flagP true] }) flush0 = false ∧
      flagReady (atDrt fun d => { d with flags := [flagP true] }) (flagP true) = false) ∧
    (let s := atDrt fun d => { d with flags := [flagP true], placed := [(5, 2)] }
     flagReady s (flagP true) = true ∧ sequenceFailed s (flagP true) = none ∧
      ∃ r u, packetCheck s (flagP true).gen (flagP true).addr 8 permW = .ok r ∧
        placeBytesAt s r.ctx (flagP true).addr ((flagP true).data.take 8) 0 = .ok u ∧ u.drt = s.drt) := by
  refine ⟨by decide, ⟨by decide, rfl, registration0, _, rfl, rfl, rfl⟩, by decide, by decide, by decide, fun _ => ⟨rfl, rfl⟩, by decide,
    ⟨by decide, by decide, registration0, _, rfl, rfl, rfl⟩⟩

/-- ... at the source: a put with one packet and with two, a get that a packet fills and one that it does not, a flush; an answer that is kept;
messages before and at their timeouts; a registration that drains, and ones that do not. -/
def message0 (kind need : Nat) (ps : List Packet) : Message where
  mid := 3
  core := 0
  opNum := 1
  kind := kind
  dst := 5
  packets := ps
  sentAt := 0
  start := 0
  need := need
  gotBytes := 0
  localAddr := 64
def atMsg (m : Message) : State := atDrt fun d => { d with msgs := [m] }
def put1 : Packet := { put0 with pidx := 1 }

theorem witness_drt_source :
    (∀ m ∈ [message0 1 0 [put0], message0 1 0 [put0, put1], message0 3 8 [put0], message0 3 9 [put0], message0 5 0 [put0]],
      Awaits (atMsg m) put0 m ∧ unfailed (atMsg m) m) ∧
    (∃ q ∈ (message0 1 0 [put0]).packets, q.pidx = put0.pidx) ∧ (∀ q ∈ (message0 1 0 [put0]).packets, q.pidx = put0.pidx) ∧
    (∃ q ∈ (message0 1 0 [put0, put1]).packets, q.pidx ≠ put0.pidx) ∧ (message0 3 8 [put0]).kind ≠ 1 ∧
    (coreAt (atMsg (message0 3 8 [put0])) 0).csr.drtst.toNat / 2 ^ 16 % 256 = 0 ∧
    (isDuplicate (atMsg (message0 3 8 [put0])) put0 = false ∧ put0.pidx = 0 ∧ (drtLocal (message0 3 8 [put0]).localAddr).1 = false ∧
      (message0 3 8 [put0]).need ≤ (message0 3 8 [put0]).gotBytes + put0.len ∧ (message0 3 9 [put0]).gotBytes + put0.len < (message0 3 9 [put0]).need) ∧
    (∀ m ∈ [message0 3 8 [put0], message0 3 9 [put0]], ∃ u g,
      unitTry (atMsg m) (m.core / 512) (drtWho (atMsg m)) (drtLocal m.localAddr).2 (.store (put0.data.take put0.len) false) 4 = .ok (u, g) ∧
        u.drt = (atMsg m).drt) ∧
    (let n := msgCount (atMsg (message0 5 0 [put0])) 0 5 false
     msgCount (atMsg (message0 5 n [put0])) 0 5 false = (message0 5 n [put0]).need ∧
       msgCount (atMsg (message0 5 (n + 1) [put0])) 0 5 false ≠ (message0 5 (n + 1) [put0]).need) := by
  refine ⟨?_, ⟨put0, by simp [message0], rfl⟩, by simp [message0], ⟨put1, by simp [message0], by decide⟩, by decide, by decide, by decide, ?_, by decide⟩
  · intro m hm
    simp only [List.mem_cons, List.not_mem_nil, or_false] at hm
    rcases hm with rfl | rfl | rfl | rfl | rfl <;>
    exact ⟨⟨rfl, rfl, rfl, rfl⟩, fun o h => absurd h (by simp [atMsg, atDrt, atM, started, atL, at0, coreAt, mget, coreI, core0, Core.init, queueOf, message0])⟩
  · intro m hm
    simp only [List.mem_cons, List.not_mem_nil, or_false] at hm
    rcases hm with rfl | rfl <;> exact ⟨_, _, rfl, rfl⟩

/-- DrtPackets, further clauses. -/
theorem witness_drt_timeouts :
    (let s := atDrt fun d => { d with serving := [message0 3 0 [put0]] }
     s.drt.msgs = [] ∧ s.drt.serving = [message0 3 0 [put0]] ∧ (message0 3 0 [put0]).mid = put0.mid ∧ (message0 3 0 [put0]).dst = put0.src) ∧
    ((message0 3 0 [put0]).packets ≠ [] ∧ (message0 3 0 []).packets = [] ∧ (message0 3 0 [put0]).sentAt + 200000 = 200000 ∧
      (message0 3 0 [put0]).start + 2000000 = 2000000) ∧
    (∀ m, (atMsg m).drt.msgs = [m] ∧ (atMsg m).drt.serving = []) ∧
    (∀ r, rising (atReg [(0, some r)]).drt.regs ∧ mget none (atReg [(0, some r)]).drt.regs 0 = some r) ∧
    ({ registration0 with closing := true }.closing = true ∧ { registration0 with closing := true }.started = 0 ∧ registration0.closing = false ∧
      { registration0 with started := 2 }.started ≠ 0 ∧ registration0.waiter = none) := by
  refine ⟨⟨rfl, rfl, rfl, rfl⟩, ⟨by simp [message0], rfl, rfl, rfl⟩, fun _ => ⟨rfl, rfl⟩, fun r => ⟨?_, rfl⟩, by decide⟩
  exact List.pairwise_singleton _ _

/-- The core runs its task outside a loop, with nothing pending. -/
theorem plain_core0 : Plainly core0 := ⟨rfl, rfl, rfl, rfl, rfl, by decide⟩

/-- A core whose tend has issued: with a load still to return, and with none. -/
def coreEnd : Core := { core0 with after := .tend }
def coreEndR : Core := { coreR with after := .tend }

/-- A bundle of a header word alone. -/
def header (h : Nat) : Bundle := BitVec.ofNat 256 h

/-- BundlesIssue: a bundle of nops, a header with a take and one with a count but no wait, a semaphore below the count (at 255 and at 1), a
header that waits, takes and signals at its limits, and a tend that waits for a load and one that ends its task. -/
theorem witness_bundles_issue :
    Plainly (curCore (at0 core0)) ∧
    (∀ h ∈ [2 ^ 29, 1, 65535], (curCore (at0 core0)).after = .next ∧ bundlePart (header h) 0 / 2 ^ 28 % 2 = 0 ∧
      (bundlePart (header h) 0 / 2 ^ 29 % 2 = 1 ∨ bundlePart (header h) 0 % 65536 ≠ 0)) ∧
    (∀ n ∈ [1, 255], let h := 2 ^ 28 + n * 2 ^ 8 + 255
      (curCore (at0 core0)).seq.active = false ∧ encodingFails (curCore (at0 core0)) [header h] = none ∧
      bundlePart (header h) 0 / 2 ^ 28 % 2 = 1 ∧
      mget 0 (curCore (at0 core0)).sems (bundlePart (header h) 0 % 256) < bundlePart (header h) 0 / 256 % 256) ∧
    (let c := { core0 with sems := [(255, 255)] }
     (255 : Nat) ≤ mget 0 (curCore (at0 c)).sems 255 ∧ (0 : Nat) ≤ mget 0 (curCore (at0 c)).sems 0 ∧ Plainly (curCore (at0 c))) ∧
    ((curCore (at0 coreEndR)).after = .tend ∧ loadsPending (curCore (at0 coreEndR)) = true) ∧
    ((curCore (at0 coreEnd)).after = .tend ∧ loadsPending (curCore (at0 coreEnd)) = false ∧ (curCore (at0 coreEnd)).task = some task0 ∧
      task0.record = none ∧ task0.done = 0 ∧ task0.launch = none) := by
  refine ⟨plain_core0, by decide +kernel, by decide +kernel, ⟨by decide, by decide, rfl, rfl, rfl, rfl, rfl, by decide⟩, ⟨rfl, rfl⟩,
    rfl, rfl, rfl, rfl, rfl, rfl⟩

/-- IllegalBundlesTrap: an X0 word with no instruction behind a header whose wait is not met; headers with WEN = 0 and with SEN = 0; and a
legal header; a core that signals SINC = 0. -/
theorem witness_illegal_bundles :
    (let b := header (2 ^ 28 + 2 ^ 8 + 0x7F * 2 ^ 57)
     (curCore (at0 core0)).after ≠ .tend ∧ (curCore (at0 core0)).after ≠ .eret ∧ encodingFails (curCore (at0 core0)) [b] = some (0, 0)) ∧
    (∀ h ∈ [2 ^ 29, 1, 2 ^ 16, 2 ^ 27], (bundlePart (header h) 0 / 2 ^ 28 % 2 = 0 ∧
        (bundlePart (header h) 0 / 2 ^ 29 % 2 = 1 ∨ bundlePart (header h) 0 % 65536 ≠ 0)) ∨
      (bundlePart (header h) 0 / 2 ^ 30 % 2 = 0 ∧ bundlePart (header h) 0 / 2 ^ 16 % 4096 ≠ 0)) ∧
    (let h := bundlePart (header (2 ^ 30 + 255 * 2 ^ 16)) 0
     h < 2 ^ 31 ∧ h / 2 ^ 29 % 2 = 0 ∧ h % 65536 = 0 ∧ h / 2 ^ 30 % 2 = 1) ∧
    Plainly (curCore (at0 core0)) ∧
    (let c := { core0 with sems := [(0, 65535)], semOps := [SemOp.inc 0 0] }
     rising c.sems ∧ (∀ i, mget 0 c.sems i ≤ 65535) ∧ c.semOps = [.inc 0 0]) := by
  refine ⟨⟨by decide, by decide, by decide +kernel⟩, by decide +kernel, by decide +kernel, plain_core0, List.pairwise_singleton _ _, ?_, rfl⟩
  intro i
  by_cases h : i = 0 <;> simp [mget, h]

/-- A die whose core 0 stands at pc 0, where the page at 1 MiB of HBM holds a bundle of addi g5, g4, 16 in X0 alone. -/
def atFetch : State :=
  { at0 core0 with tlb := [(0, 0, 0x1000DF)], turn := [0], hbm := writeBytes [] (1048576 + 4) [0x10, 0x80, 0x28, 0x06] }

/-- StepRunsTheDecodedInstruction: the bundle is fetched, decodes, passes its tests and completes; an agenda, a stage with work left, and the
end of a cycle. -/
theorem witness_step_runs :
    (∃ ps s1, Issues atFetch 0 [] ∧ Plainly (coreAt atFetch 0) ∧
      locateAll { atFetch with cur := 0 } (0 / 512) .fetch (pieces (localOf (coreAt atFetch 0).pc) 32) = .ok (ps, s1) ∧ s1.cores = atFetch.cores ∧
      let b : Bundle := BitVec.ofNat 256 (leNat (ps.flatMap fun p => codeRead s1 (coreAt atFetch 0).epoch p.1 p.2.1))
      let u := onCore { s1 with turn := [], cur := 0 } 0 fun c => clearLivelock c c.pc 32 3
      (∀ m < 8, m ≠ 1 → bundlePart b m = 0) ∧ bundlePart b 1 ≠ 0 ∧
      decode (partClass false 1) (bundlePart b 1) = some (.addi 5 4 16) ∧ slotClass (.addi 5 4 16) ≠ none ∧ encodingFails (curCore u) [b] = none ∧
      let v := onCur u fun c => { c with q := c.q }
      let y : Syl := { slot := 1 - 1, stage := 0, i := .addi 5 4 16, w := bundlePart b 1 }
      checkGroup (curCore u) (posedTests [y] v) = .ok ∧
      ∃ t, exec (.addi 5 4 16) (onCur v fun c => { c with phase := .run, slot := 1 - 1, stg := 0 }) = .next t) ∧
    (let s := { at0 core0 with agenda := [.slotStart] }
     s.agenda = Instr.slotStart :: []) ∧
    (∀ g ∈ [1, 2], let s := { at0 core0 with stage := g, todo := [.slotStart] }
     s.agenda = [] ∧ (s.stage = 1 ∨ s.stage = 2) ∧ s.todo = Instr.slotStart :: []) ∧
    (let s := { State.reset with stage := 2 }
     s.agenda = [] ∧ s.stage = 2 ∧ s.todo = [] ∧ s.cores = [] ∧ mgmtWaiting s = false ∧ s.port.waiting = [] ∧ s.port.later = [] ∧
       s.drt.out = [] ∧ s.fcp.pendMark = [] ∧ s.cp.jobs = []) := by
  refine ⟨⟨_, _, ⟨rfl, rfl, rfl, rfl, rfl, by decide +kernel, ⟨rfl, rfl⟩, rfl⟩, plain_core0, rfl, rfl, by decide +kernel, by decide +kernel,
    by decide +kernel, by decide, by decide +kernel, by decide +kernel, _, rfl⟩, rfl, by decide, ?_⟩
  exact ⟨rfl, rfl, rfl, rfl, by decide, rfl, rfl, rfl, rfl, rfl⟩

/-- DecodeOfEncode: a well-formed instruction that stands in a slot, with operands at their limits, and a word that decodes. -/
theorem witness_decode_of_encode :
    slotClass (.addi 55 63 0x1FFF) = some .x ∧ wellFormed (.addi 55 63 0x1FFF) = true ∧ decode .x 0x06288010 = some (.addi 5 4 16) := by decide

/-- A step that goes on has a next state. -/
theorem next_of {o : Host.Outcome State Fault Refusal} (h : (match o with | .next _ => true | .fault _ => false | .refused _ => false) = true) :
    ∃ t, o = .next t := by
  cases o with
  | next t => exact ⟨t, rfl⟩
  | fault _ => cases h
  | refused _ => cases h

/-- StepKeepsMemoryCanonical: a die at the end of a cycle and one whose core issues a bundle, each of which has a next step. -/
theorem witness_step_keeps_memory :
    ((at0 core0).memWf ∧ ∃ t, step { at0 core0 with stage := 2 } = .next t) ∧ (atFetch.memWf ∧ ∃ t, step atFetch = .next t) := by
  refine ⟨⟨by unfold State.memWf; decide +kernel, next_of (by decide +kernel)⟩, by unfold State.memWf; decide +kernel, next_of (by decide +kernel)⟩

/-! ### Values that the manual works out: chapters 06, 10 and R283 -/

/-- The value that one syllable puts in flight. -/
def gives (i : Instr) (c : Core) : Option Val :=
  match exec i (at0 { c with phase := .run }) with
  | .next t => (curCore t).results.getLast?.map fun r => r.val
  | .fault _ => none
  | .refused _ => none

/-- A core with general registers 1 and 2. -/
def withAB (a b : Int) : Core := withG (withG core0 1 (BitVec.ofInt 64 a)) 2 (BitVec.ofInt 64 b)

/-- Division at its limits (chapter 10). -/
theorem test_div_truncates : gives (.div 3 1 2) (withAB 7 (-2)) = some (.s (BitVec.ofInt 64 (-3))) := by decide +kernel
theorem test_rem_sign_of_dividend : gives (.rem 3 1 2) (withAB (-7) 2) = some (.s (BitVec.ofInt 64 (-1))) := by decide +kernel
theorem test_divu_by_zero : gives (.divu 3 1 2) (withAB 5 0) = some (.s (BitVec.ofInt 64 (-1))) := by decide +kernel
theorem test_div_overflow : gives (.div 3 1 2) (withAB (-2 ^ 63) (-1)) = some (.s (BitVec.ofInt 64 (-2 ^ 63))) := by decide +kernel
theorem test_remu_by_zero : gives (.remu 3 1 2) (withAB 5 0) = some (.s 5) := by decide +kernel

/-- Shift counts out of range (chapter 10). -/
theorem test_shl_full_width : gives (.shl 3 1 2 false) (withAB 1 64) = some (.s 0) := by decide +kernel
theorem test_shl_word_full_width : gives (.shl 3 1 2 true) (withAB 1 32) = some (.s 0) := by decide +kernel
theorem test_sra_word_past_width : gives (.sra 3 1 2 true) (withAB 0x80000000 40) = some (.s (BitVec.ofInt 64 (-1))) := by decide +kernel
theorem test_sra_huge_count : gives (.sra 3 1 2 false) (withAB 0x4000000000000000 (-1)) = some (.s 0) := by decide +kernel

/-- The digest of three bytes, as FIPS 180-4 gives it: the function that R402 and R408 name. -/
theorem test_sha256_abc :
    leNat (sha256 [0x61, 0x62, 0x63]).reverse = 0xba7816bf8f01cfea414140de5dae2223b00361a396177a9cb410ff61f20015ad := by decide +kernel

/-- Payload frames of a slot (R283). -/
theorem test_slot_frames : [16, 128, 1000].map slotFrames = [6, 55, 440] := by decide +kernel

/-- The block pair of chapter 06: its sum, a residue that a soft error has changed, and the fp32 element that takes the sum. -/
theorem test_block_sum : limbSum [100, -50, 127, 3] [90, 60, -127, 7] = some (-10108) := by decide +kernel
theorem test_residue_check_fails : reconstruct 12 92 132 184 = none := by decide +kernel
/-- 1.0 − 39.484375 = −38.484375, 0xC219F000 in fp32. -/
theorem test_block_accumulates : (accumulate false 0x3F800000 false (-10108) (-8)).x = 0xC219F000 := by decide +kernel

/-- The lane reduction tree of chapter 10: lanes 0 and 32 hold 2^24 and 1, lanes 1 and 33 hold 1; the sum is 16,777,218. -/
theorem test_vred_tree :
    gives (.vred .fp32 .add 2 1 0 .rne false)
      { core0 with v := core0.v.set 1 (BitVec.ofNat 2048 (0x4B800000 + 0x3F800000 * 2 ^ 32 + 0x3F800000 * 2 ^ 1024 + 0x3F800000 * 2 ^ 1056)) } =
    some (.v (BitVec.ofNat 2048 0x4B800001)) := by decide +kernel

/-- A codeword of R283 is 0 at the 30 roots of its generator, and its next power is no root. -/
theorem test_codeword :
    (let w := [1, 2, 3, 1000] ++ rsParity rsGenerator [1, 2, 3, 1000]
     (gfPowers 31 1).map fun x => (w.foldl (fun a c => gfMul a x ^^^ c) 0 == 0)) = List.replicate 30 true ++ [false] := by decide +kernel

/-- Header bits 95:0 of R286: SEQ 7, CTX 1, two bytes of DONE on VC 1 from rank 3 to rank 5. -/
theorem test_frame_header :
    headerLow { ctx := 1, vc := 1, sh := false, src := 3, dh := false, dst := 5, hops := 1, seq := 7, pseq := 0, resv := false,
                body := .done { core := 0, stream := 13, id := 0 } } 2 =
      1 * 2 ^ 22 + 5 * 2 ^ 25 + 3 * 2 ^ 36 + 1 * 2 ^ 47 + 0x21 * 2 ^ 49 + 2 * 2 ^ 55 + 1 * 2 ^ 64 + 7 * 2 ^ 80 := by decide +kernel

/-- CRC-32C of the nine digits is 0xE3069283, the check value of the code that R258 names. -/
theorem test_crc32c : crc32c ((List.range 9).map fun i => BitVec.ofNat 8 (0x31 + i)) = 0xE3069283 := by decide +kernel

end Sys2Proof.Tests
end

section
/-! PROOFS. Bit fields of words, and what the write events of the control registers store (R3, R130). -/

namespace Sys2Proof.Machine

open Sys2Proof.Stmt

/-! ### Bit fields -/

/-- A field at bit 0 is a remainder. -/
@[simp] theorem bits_zero (x : Word) (n : Nat) : bits x 0 n = x.toNat % 2 ^ n := by simp [bits]

/-- The upper half of a word is a quotient. -/
theorem bits_upper_half (x : Word) : bits x 32 32 = x.toNat / 2 ^ 32 := by
  have := x.isLt
  unfold bits
  omega

/-- A single low bit, as a word. -/
theorem and_one_eq_ofNat (x : Word) : x &&& 1 = BitVec.ofNat 64 (x.toNat % 2) := by
  apply BitVec.eq_of_toNat_eq
  have hand : (x &&& 1).toNat = x.toNat % 2 := Nat.and_one_is_mod _
  rw [hand, BitVec.toNat_ofNat]
  omega

/-- A mask has exactly the bits of its field. -/
theorem getLsbD_mask (lo n i : Nat) (hi : i < 64) : (mask lo n).getLsbD i = decide (lo ≤ i ∧ i < lo + n) := by
  have hn : lo ≤ i ∧ i - lo < n ↔ lo ≤ i ∧ i < lo + n := by omega
  simp only [mask, BitVec.getLsbD_ofNat, hi, decide_true, Bool.true_and, Nat.testBit_two_pow_mul, Nat.testBit_two_pow_sub_one, ← hn,
    Bool.decide_and]

/-- Replacing a field splits the number into what lies above the field, the new field and what lies below it. -/
theorem replaced_field_split (x lo n v : Nat) :
    x - x / 2 ^ lo % 2 ^ n * 2 ^ lo + v % 2 ^ n * 2 ^ lo = 2 ^ lo * (2 ^ n * (x / 2 ^ lo / 2 ^ n) + v % 2 ^ n) + x % 2 ^ lo := by
  have low : 2 ^ lo * (x / 2 ^ lo) + x % 2 ^ lo = x := Nat.div_add_mod x _
  have high : 2 ^ n * (x / 2 ^ lo / 2 ^ n) + x / 2 ^ lo % 2 ^ n = x / 2 ^ lo := Nat.div_add_mod _ _
  have whole : x = 2 ^ lo * (2 ^ n * (x / 2 ^ lo / 2 ^ n)) + x / 2 ^ lo % 2 ^ n * 2 ^ lo + x % 2 ^ lo := by
    conv_lhs => rw [← low, ← high]
    ring
  rw [Nat.mul_add, Nat.mul_comm (2 ^ lo) (v % 2 ^ n)]
  omega

/-- `setBits` changes the bits of its field alone. -/
theorem getLsbD_setBits (x : Word) (lo n v i : Nat) (hi : i < 64) :
    (setBits x lo n v).getLsbD i = if lo ≤ i ∧ i < lo + n then v.testBit (i - lo) else x.getLsbD i := by
  simp only [setBits, bits, replaced_field_split, BitVec.getLsbD_ofNat, hi, decide_true, Bool.true_and,
    Nat.testBit_two_pow_mul_add _ (Nat.mod_lt _ (Nat.two_pow_pos _)), Nat.testBit_mod_two_pow]
  by_cases below : i < lo
  · simp [below, Nat.not_le.mpr below, BitVec.getLsbD]
  · by_cases inside : i - lo < n
    · have : lo ≤ i ∧ i < lo + n := by omega
      simp [below, inside, this]
    · have : ¬(lo ≤ i ∧ i < lo + n) := by omega
      have hsub : i - lo - n + n + lo = i := by omega
      simp [below, inside, this, BitVec.getLsbD, Nat.testBit_div_two_pow, hsub]

/-- Copying a field of `new` into `old`, as a number and by masks. -/
theorem setBits_bits_eq_field (old new : Word) (lo n : Nat) : setBits old lo n (bits new lo n) = field old new lo n := by
  apply BitVec.eq_of_getLsbD_eq
  intro i hi
  simp only [getLsbD_setBits _ _ _ _ _ hi, field, BitVec.getLsbD_or, BitVec.getLsbD_and, BitVec.getLsbD_not, hi, getLsbD_mask _ _ _ hi]
  by_cases inside : lo ≤ i ∧ i < lo + n
  · have hn : i - lo < n := by omega
    simp [inside, bits, hn, Nat.testBit_mod_two_pow, Nat.testBit_div_two_pow, BitVec.getLsbD]
  · simp [inside]

/-! ### What the registers keep of a written value -/

theorem wdogValue_eq (v : Word) : wdogValue v = BitVec.ofNat 64 (max 0x400 (v.toNat % 2 ^ 32)) := by
  simp only [wdogValue, bits_zero]

theorem fpcsrValue_eq (v : Word) : fpcsrValue v = v &&& (mask 0 5 ||| mask 8 2 ||| mask 11 2) := by
  have fields : (mask 0 5 ||| mask 8 2 ||| mask 11 2) = 0x1B1F := by decide
  rw [fields, fpcsrValue]

theorem parkcfgValue_eq (v : Word) : parkcfgValue v = v &&& (mask 0 24 ||| mask 25 1) := by
  have fields : (mask 0 24 ||| mask 25 1) = 0x2FFFFFF := by decide
  rw [fields, parkcfgValue]

theorem resvcfgValue_eq (v : Word) : resvcfgValue v = BitVec.ofNat 64 (max 1 (min 64 (v.toNat % 128))) := by
  simp only [resvcfgValue, bits_zero, Nat.reducePow]

theorem drtcfgValue_eq (n : Nat) (old v : Word) :
    drtcfgValue n old v = if 16 ≤ n ∧ v.toNat % 2 = 0 then old else BitVec.ofNat 64 (v.toNat % 2) := by
  simp only [drtcfgValue, bits_zero, pow_one, and_one_eq_ofNat]

theorem drtstValue_eq (old v : Word) : drtstValue old v = if v.toNat % 2 ^ 16 = 0 then 0 else field old v 0 16 := by
  rw [drtstValue, setBits_bits_eq_field, bits_zero]

theorem eqstValue_eq (old v : Word) : eqstValue old v = if v.toNat / 2 ^ 32 = 0 then 0 else field old v 32 32 := by
  rw [eqstValue, setBits_bits_eq_field, bits_upper_half]

/-! ### The registers without behaviour of their own (R130) -/

/-- The field of the counters GXOOB, CPOOB and FQST. -/
theorem mask_low_half : mask 0 32 = 0xFFFFFFFF := by decide

theorem csrStore_mxst (v : Word) (c : Csrs) : csrStore c 0x013 v = { c with mxst := v &&& mask 0 33 } := by
  have fields : mask 0 33 = 0x1FFFFFFFF := by decide
  rw [fields]; rfl

theorem csrStore_syncst (v : Word) (c : Csrs) : csrStore c 0x018 v = { c with syncst := field c.syncst v 0 2 } := by
  have fields : mask 0 2 = 3 := by decide
  rw [field, fields]; rfl

theorem csrStore_gxcfg (v : Word) (c : Csrs) : csrStore c 0x019 v = { c with gxcfg := v } := rfl

theorem csrStore_gxoob (v : Word) (c : Csrs) : csrStore c 0x01A v = { c with gxoob := v &&& mask 0 32 } := by
  rw [mask_low_half]; rfl

theorem csrStore_tvec (v : Word) (c : Csrs) : csrStore c 0x024 v = { c with tvec := v &&& (mask 0 1 ||| mask 6 51) } := by
  have fields : (mask 0 1 ||| mask 6 51) = 0x1FFFFFFFFFFFFC1 := by decide
  rw [fields]; rfl

theorem csrStore_tdeleg (v : Word) (c : Csrs) :
    csrStore c 0x025 v = { c with tdeleg := v &&& (mask 1 2 ||| mask 5 3 ||| mask 10 2 ||| mask 13 1 ||| mask 15 2) } := by
  have fields : (mask 1 2 ||| mask 5 3 ||| mask 10 2 ||| mask 13 1 ||| mask 15 2) = 0x1ACE6 := by decide
  rw [fields]; rfl

theorem csrStore_fqst (v : Word) (c : Csrs) : csrStore c 0x044 v = { c with fqst := v &&& mask 0 32 } := by
  rw [mask_low_half]; rfl

theorem csrStore_cpoob (v : Word) (i : Fin 4) (c : Csrs) :
    csrStore c (0x030 + i.val) v = { c with cpoob := c.cpoob.set i (v &&& mask 0 32) } := by
  rw [mask_low_half]
  match i with
  | 0 | 1 | 2 | 3 => rfl

/-- The addresses of CPOOB0 to CPOOB3 (R259). -/
theorem toNat_cpoob_address (i : Fin 4) : (0x030 + BitVec.ofNat 12 i : BitVec 12).toNat = 0x030 + i.val := by
  match i with
  | 0 | 1 | 2 | 3 => rfl

/-! ### Write events -/

/-- An event that is one `applyCsr` is a write event of that register. -/
theorem writesCsr_of_applyCsr {i : Instr} {a : Nat} {x : Nat → Csrs → Csrs}
    (h : ∀ s, exec i s = .next (applyCsr s a (x (s.page.npm1.toNat % 256)))) : WritesCsr i a x :=
  fun s => ⟨_, h s, onCur_only s _⟩

/-- CONTROL_REGISTER_WRITE stores what `csrStore` gives. -/
theorem writesCsr_controlRegisterWrite {b : BitVec 12} {v : Word} {a : Nat} {f : Csrs → Csrs} (ha : b.toNat = a)
    (hf : ∀ c, csrStore c a v = f c) : WritesCsr (.controlRegisterWrite b v) a fun _ => f := by
  obtain rfl : (fun c => csrStore c a v) = f := funext hf
  subst ha
  exact writesCsr_of_applyCsr fun _ => rfl

/-- Settles O9: every write event is one `applyCsr`, and the value each register keeps is the one that its fields give. -/
theorem controlRegisterWriteEvents : Obligations.ControlRegisterWriteEvents := by
  simp only [Obligations.ControlRegisterWriteEvents, ← wdogValue_eq, ← fpcsrValue_eq, ← parkcfgValue_eq, ← resvcfgValue_eq,
    ← drtcfgValue_eq, ← drtstValue_eq, ← eqstValue_eq]
  exact ⟨
    fun _ => writesCsr_of_applyCsr fun _ => rfl, -- WDOG
    fun _ => writesCsr_of_applyCsr fun _ => rfl, -- FPCSR
    fun _ => writesCsr_of_applyCsr fun _ => rfl, -- PARKCFG
    fun _ => writesCsr_of_applyCsr fun _ => rfl, -- RESVCFG
    fun _ => writesCsr_of_applyCsr fun _ => rfl, -- DRTCFG
    fun _ => writesCsr_of_applyCsr fun _ => rfl, -- DRTST
    fun _ => writesCsr_of_applyCsr fun _ => rfl, -- EQST
    fun v => writesCsr_controlRegisterWrite rfl (csrStore_mxst v),
    fun v => writesCsr_controlRegisterWrite rfl (csrStore_syncst v),
    fun v => writesCsr_controlRegisterWrite rfl (csrStore_gxcfg v),
    fun v => writesCsr_controlRegisterWrite rfl (csrStore_gxoob v),
    fun v => writesCsr_controlRegisterWrite rfl (csrStore_tvec v),
    fun v => writesCsr_controlRegisterWrite rfl (csrStore_tdeleg v),
    fun v i => writesCsr_controlRegisterWrite (toNat_cpoob_address i) (csrStore_cpoob v i),
    fun v => writesCsr_controlRegisterWrite rfl (csrStore_fqst v)⟩

end Sys2Proof.Machine
end

section
/-! PROOFS. The management commands (R396): how the CP serves a command of the ring, and what GATE, RELABEL, SETPEG, TABLE, TLEN and
ATTEST do (R274, R280, R282, R290, R405, R408). -/

namespace Sys2Proof.Machine

open Sys2Proof.Stmt

/-! ### Little-endian numbers in memory -/

@[simp] theorem length_leBytes (n x : Nat) : (leBytes n x).length = n := by
  induction n generalizing x with
  | zero => rfl
  | succ n ih => simp [leBytes, ih]

/-- The number in `n` little-endian bytes is the one they were made of, modulo their range. -/
theorem leNat_leBytes (n x : Nat) : leNat (leBytes n x) = x % 256 ^ n := by
  induction n generalizing x with
  | zero => simp [leBytes, leNat, Nat.mod_one]
  | succ n ih => rw [leBytes, leNat, ih, BitVec.toNat_ofNat, pow_succ' 256 n, Nat.mod_mul]

/-- A part of the bytes just stored reads back. -/
theorem readBytes_writeBytes_part {m : Memory} (h : Memory.wf m = true) (a : Nat) (bs : List Byte) (k n : Nat) (hk : k + n ≤ bs.length) :
    readBytes (writeBytes m a bs) (a + k) n = (bs.drop k).take n := by
  apply List.ext_getElem
  · simp only [readBytes, List.length_map, List.length_range, List.length_take, List.length_drop]
    omega
  · intro i hi _
    have hin : k + i < bs.length := by
      simp only [readBytes, List.length_map, List.length_range] at hi
      omega
    simp only [readBytes, List.getElem_map, List.getElem_range, List.getElem_take, List.getElem_drop, Nat.add_assoc]
    exact readByte_writeBytes_same h a bs (k + i) hin

/-- A number stored in memory reads back, modulo the range of its bytes. -/
theorem readNat_writeBytes_leBytes {m : Memory} (h : Memory.wf m = true) (a n x : Nat) :
    readNat (writeBytes m a (leBytes n x)) a n = x % 256 ^ n := by
  have part := readBytes_writeBytes_part h a (leBytes n x) 0 n (by simp)
  rw [Nat.add_zero, List.drop_zero, List.take_of_length_le (by simp)] at part
  rw [readNat, part, leNat_leBytes]

/-! ### Physical writes and the journal -/

@[simp] theorem hbmWrite_hbm (s : State) (a : Nat) (bs : List Byte) : (hbmWrite s a bs).hbm = writeBytes s.hbm a bs := rfl
@[simp] theorem hbmWrite_cp (s : State) (a : Nat) (bs : List Byte) : (hbmWrite s a bs).cp = s.cp := rfl
@[simp] theorem hbmWrite_page (s : State) (a : Nat) (bs : List Byte) : (hbmWrite s a bs).page = s.page := rfl

/-- Without a configured ring an entry goes to the mirror only (R399). -/
theorem journalRing_quiet {s : State} (h : quietJournal s) (m : Nat) (bs : List Byte) : journalRing s m bs = s := by
  have : ¬12 ≤ s.page.jlog.toNat := Nat.not_le.mpr h
  simp [journalRing, this]

/-- Without a configured ring, marking a command's entry changes the mirror alone. -/
theorem journalMark_quiet {s : State} (h : quietJournal s) (queue : Nat) (c : Cmd) (state status tlv : Nat) :
    ∃ m, journalMark s queue c state status tlv = { s with cp := { s.cp with mirror := m } } := by
  unfold journalMark
  dsimp only
  split
  · exact ⟨_, journalRing_quiet (by exact h) ..⟩
  · exact ⟨s.cp.mirror, journalRing_quiet h ..⟩

/-! ### Service of a command (R396) -/

/-- The event of a command is the CP's service of an effect that takes a state `s` to `t` with STATUS `st` only where `P s t st`. -/
def HasEffect (i : Instr) (P : State → State → Nat → Prop) : Prop :=
  ∃ f : State → State × Nat, (∀ s, exec i s = serve i f s) ∧ ∀ s, ∃ t st, f s = (t, st) ∧ P s t st

/-- What the service of a command relies on: the effect leaves memory, the host's page and the management ring alone. -/
structure KeepsRing (s t : State) : Prop where
  hbm : t.hbm = s.hbm
  page : t.page = s.page
  mcmds : t.cp.mcmds = s.cp.mcmds
  mhead : t.cp.mhead = s.cp.mhead
  mtail : t.cp.mtail = s.cp.mtail

theorem KeepsRing.refl (s : State) : KeepsRing s s := ⟨rfl, rfl, rfl, rfl, rfl⟩

/-- A command that is not the ring's next has its effect alone. -/
theorem HasEffect.apart {i : Instr} {P : State → State → Nat → Prop} (h : HasEffect i P) {s : State} (hs : apart i s) :
    ∃ t st, exec i s = .next t ∧ P s t st := by
  obtain ⟨f, hexec, heffect⟩ := h
  obtain ⟨t, st, hf, hP⟩ := heffect s
  have hnext : mgmtNext s ≠ some i := hs
  exact ⟨t, st, by rw [hexec, serve, if_neg hnext, hf], hP⟩

/-- Serving the oldest accepted command takes it off the ring and stores the STATUS of its effect, which sees the machine but for
the CP as it was. -/
theorem HasEffect.serves {i : Instr} {P : State → State → Nat → Prop} {ok : State → Nat → Prop} (h : HasEffect i P)
    (keeps : ∀ s t st, P s t st → KeepsRing s t ∧ st < 256) (status : ∀ s cp t st, P { s with cp := cp } t st → ok s st) :
    Serves i ok := by
  obtain ⟨f, hexec, heffect⟩ := h
  intro s c r hwf hquiet hring hi
  have hnext : mgmtNext s = some i := by simp [mgmtNext, hring, hi]
  obtain ⟨m, hstart⟩ := journalMark_quiet (s := { s with cp := { s.cp with mcmds := r } }) hquiet 0x40 c 2 0 0
  obtain ⟨t, st, hf, hP⟩ := heffect { s with cp := { s.cp with mcmds := r, mirror := m } }
  obtain ⟨hkeeps, hst⟩ := keeps _ _ _ hP
  have hquiet' : quietJournal (hbmWrite t (c.addr + 1) (leBytes 1 st)) := by
    rw [quietJournal, hbmWrite_page, hkeeps.page]
    exact hquiet
  obtain ⟨m', hend⟩ := journalMark_quiet hquiet' 0x40 c (if st = 0 then 3 else 4) st 0
  have hserved : exec i s = .next (journalMark (hbmWrite t (c.addr + 1) (leBytes 1 st)) 0x40 c (if st = 0 then 3 else 4) st 0) := by
    simp only [hexec, serve, if_pos hnext, serveHead, hring, hstart, hf]
  rw [hend] at hserved
  refine ⟨_, hserved, hkeeps.mcmds, hkeeps.mhead, hkeeps.mtail, ?_⟩
  have hread : readNat (writeBytes t.hbm (c.addr + 1) (leBytes 1 st)) (c.addr + 1) 1 = st := by
    rw [readNat_writeBytes_leBytes (by rw [hkeeps.hbm]; exact hwf.1), pow_one, Nat.mod_eq_of_lt hst]
  simp only [hbmWrite_hbm, hread]
  exact status s _ t st hP

/-! ### The conditions of the commands, in the words of the statement -/

theorem not_residents_isEmpty_iff (s : State) : (!(residents s).isEmpty) = true ↔ ¬noneResident s := by
  rw [Bool.not_eq_true', ← Bool.not_eq_true, not_iff_not]
  simp only [residents, List.isEmpty_iff, List.filterMap_eq_nil_iff, noneResident]
  refine forall₂_congr fun e _ => ?_
  rcases e.2 with _ | x <;> simp

theorem checkedExists_iff (s : State) : checkedExists s = true ↔ ¬noneChecked s := by
  simp only [checkedExists, List.any_eq_true, noneChecked, not_forall, exists_prop]
  refine exists_congr fun e => and_congr_right fun _ => ?_
  rcases e.2 with _ | x <;> simp

/-- 64 × shelf + port names the position (shelf, port) when the port is below 64. -/
theorem position_eq_iff {a shelf port : Nat} (h : port < 64) : (a / 64, a % 64) = (shelf, port) ↔ a = 64 * shelf + port := by
  simp only [Prod.mk.injEq]
  omega

/-- The model's test of a position is R274's: the default, or the free spare. -/
theorem labelOk_iff (s : State) (r a : Nat) : labelOk s r (a / 64, a % 64) = true ↔
    a = 64 * (r / 32) + r % 32 ∨
      (a = 64 * (r / 32) + 32 ∧ ∀ k < 32, 32 * (r / 32) + k ≠ r → rankPos s (32 * (r / 32) + k) ≠ some (r / 32, 32)) := by
  have hport : r % 32 < 64 := by omega
  rw [labelOk, Bool.or_eq_true, Bool.and_eq_true, beq_iff_eq, beq_iff_eq, position_eq_iff hport, position_eq_iff (by decide)]
  refine or_congr_right (and_congr_right fun hspare => ?_)
  rw [(position_eq_iff (shelf := r / 32) (port := 32) (by decide)).mpr hspare]
  simp

theorem labels_none_iff (s : State) (r : Nat) : Stmt.labels s r none ↔ r < 1024 := by simp [Stmt.labels]

theorem labels_some_iff (s : State) (r a : Nat) : Stmt.labels s r (some a) ↔ r < 1024 ∧ labelOk s r (a / 64, a % 64) = true := by
  rw [labelOk_iff]
  simp [Stmt.labels]

theorem slotBegun_iff (s : State) (n : Nat) : slotBegun s n = true ↔ n ≤ slotNow s := decide_eq_true_iff

/-! ### GATE (R405) -/

/-- The die after a change of its gating state: with layer 1 gated the odd banks have lost their contents. -/
def gated (g : Nat) (s : State) : State :=
  let u := if g % 2 = 1 then dropOddBanks s else s
  writeCatalogue { u with shape := { u.shape with gate := g } }

@[simp] theorem gated_gate (g : Nat) (s : State) : (gated g s).shape.gate = g := rfl
@[simp] theorem gated_hbm (g : Nat) (s : State) : (gated g s).hbm = s.hbm := by unfold gated; split <;> rfl
@[simp] theorem gated_ctxs (g : Nat) (s : State) : (gated g s).ctxs = s.ctxs := by unfold gated; split <;> rfl
@[simp] theorem gated_cores (g : Nat) (s : State) : (gated g s).cores = s.cores := by unfold gated; split <;> rfl
@[simp] theorem gated_page (g : Nat) (s : State) : (gated g s).page = s.page := by unfold gated; split <;> rfl
@[simp] theorem gated_cp (g : Nat) (s : State) : (gated g s).cp = s.cp := by unfold gated; split <;> rfl

/-- Dropping the entries of some addresses leaves the others. -/
theorem mget_filter_key {α : Type} (d : α) (keep : Nat → Bool) (m : SMap α) (i : Nat) :
    mget d (m.filter fun e => keep e.1) i = if keep i = true then mget d m i else d := by
  induction m with
  | nil => simp [mget]
  | cons e r ih =>
    obtain ⟨k, x⟩ := e
    by_cases hk : keep k = true <;> by_cases hi : i = k
    · subst hi; simp [mget, hk]
    · simp [mget, hk, hi, ih]
    · subst hi; simp [hk, ih]
    · simp [mget, hk, hi, ih]

theorem readByte_dropOddBanks (s : State) (a : Nat) :
    readByte (dropOddBanks s).sram a = if a / 65536 % 2 = 1 then 0 else readByte s.sram a := by
  have hkeep : evenBank a = true ↔ ¬a / 65536 % 2 = 1 := by
    rw [evenBank, beq_iff_eq]
    omega
  refine (mget_filter_key unlistedByte evenBank s.sram a).trans ?_
  simp only [hkeep, ite_not]
  rfl

theorem readByte_gated (g : Nat) (s : State) (a : Nat) :
    readByte (gated g s).sram a = if g % 2 = 1 ∧ a / 65536 % 2 = 1 then 0 else readByte s.sram a := by
  have hsram : (gated g s).sram = (if g % 2 = 1 then dropOddBanks s else s).sram := rfl
  rw [hsram]
  by_cases hg : g % 2 = 1
  · simp only [hg, if_true, true_and, readByte_dropOddBanks]
  · simp only [hg, if_false, false_and]

/-- What GATE does: refused for its argument, for a resident or a checked context, or the new gating state. -/
inductive GateOutcome (g : Nat) (s : State) : State → Nat → Prop
  | badArgument (hg : 3 < g) : GateOutcome g s s 3
  | busy (hg : g ≤ 3) (hres : ¬noneResident s) : GateOutcome g s s 1
  | checked (hg : g ≤ 3) (hres : noneResident s) (hlow : 2 ≤ g) (hchk : ¬noneChecked s) : GateOutcome g s s 2
  | done (hg : g ≤ 3) (hres : noneResident s) (hchk : 2 ≤ g → noneChecked s) : GateOutcome g s (gated g s) 0

theorem gate_hasEffect (g : Nat) : HasEffect (.gate g) (GateOutcome g) := by
  refine ⟨_, fun s => rfl, fun s => ?_⟩
  dsimp only
  by_cases hg : 3 < g
  · exact ⟨_, _, if_pos hg, .badArgument hg⟩
  rw [if_neg hg]
  have hg' := Nat.not_lt.mp hg
  by_cases hres : noneResident s
  · rw [if_neg fun hne => (not_residents_isEmpty_iff s).mp hne hres]
    by_cases hchk : 2 ≤ g ∧ checkedExists s = true
    · exact ⟨_, _, if_pos hchk, .checked hg' hres hchk.1 ((checkedExists_iff s).mp hchk.2)⟩
    · refine ⟨_, _, if_neg hchk, .done hg' hres fun hlow => ?_⟩
      exact not_not.mp fun hn => hchk ⟨hlow, (checkedExists_iff s).mpr hn⟩
  · exact ⟨_, _, if_pos ((not_residents_isEmpty_iff s).mpr hres), .busy hg' hres⟩

theorem GateOutcome.keepsRing {g st : Nat} {s t : State} (h : GateOutcome g s t st) : KeepsRing s t ∧ st < 256 := by
  cases h with
  | badArgument | busy | checked => exact ⟨.refl s, by decide⟩
  | done => exact ⟨by constructor <;> simp, by decide⟩

theorem gate_done {s : State} {g : Nat} (ha : apart (.gate g) s) (hres : noneResident s) (hg : g < 4) (hchk : 2 ≤ g → noneChecked s) :
    exec (.gate g) s = .next (gated g s) := by
  obtain ⟨t, st, hexec, hout⟩ := (gate_hasEffect g).apart ha
  cases hout with
  | badArgument hg' => omega
  | busy _ hres' => exact absurd hres hres'
  | checked _ _ hlow hchk' => exact absurd (hchk hlow) hchk'
  | done => exact hexec

theorem gate_refused {s : State} {g : Nat} (ha : apart (.gate g) s)
    (hr : 3 < g ∨ ¬noneResident s ∨ (2 ≤ g ∧ ¬noneChecked s)) : exec (.gate g) s = .next s := by
  obtain ⟨t, st, hexec, hout⟩ := (gate_hasEffect g).apart ha
  cases hout with
  | badArgument | busy | checked => exact hexec
  | done hg hres hchk =>
    rcases hr with hr | hr | ⟨hlow, hr⟩
    · omega
    · exact absurd hres hr
    · exact absurd (hchk hlow) hr

theorem GateOutcome.status {g st : Nat} {s t : State} (h : GateOutcome g s t st) :
    (3 < g → st = 3) ∧ (g ≤ 3 → (¬noneResident s → st = 1) ∧
      (noneResident s → (2 ≤ g ∧ ¬noneChecked s → st = 2) ∧ (g < 2 ∨ noneChecked s → st = 0))) := by
  cases h with
  | badArgument hg => exact ⟨fun _ => rfl, fun hg' => by omega⟩
  | busy hg hres => exact ⟨fun hg' => by omega, fun _ => ⟨fun _ => rfl, fun hres' => absurd hres' hres⟩⟩
  | checked hg hres hlow hchk =>
    refine ⟨fun hg' => by omega, fun _ => ⟨fun hres' => absurd hres hres', fun _ => ⟨fun _ => rfl, ?_⟩⟩⟩
    rintro (hlow' | hchk')
    · omega
    · exact absurd hchk' hchk
  | done hg hres hchk =>
    exact ⟨fun hg' => by omega, fun _ => ⟨fun hres' => absurd hres hres', fun _ => ⟨fun hno => absurd (hchk hno.1) hno.2, fun _ => rfl⟩⟩⟩

theorem gate_serves (g : Nat) : Serves (.gate g) fun s st => (3 < g → st = 3) ∧ (g ≤ 3 → (¬noneResident s → st = 1) ∧
    (noneResident s → (2 ≤ g ∧ ¬noneChecked s → st = 2) ∧ (g < 2 ∨ noneChecked s → st = 0))) :=
  (gate_hasEffect g).serves (fun _ _ _ h => h.keepsRing) fun _ _ _ _ h => h.status

/-! ### RELABEL (R274) -/

/-- The port with a relabel noted for its slot. -/
def relabelNoted (r : Nat) (p : Option Nat) (n : Nat) (s : State) : State :=
  { s with port := { s.port with relabelAt := s.port.relabelAt ++ [(n, r, p.map fun a => (a / 64, a % 64))] } }

/-- What RELABEL does: refused for its arguments or for a slot that has begun, or noted for its slot. -/
inductive RelabelOutcome (r : Nat) (p : Option Nat) (n : Nat) (s : State) : State → Nat → Prop
  | badArgument (hlab : ¬Stmt.labels s r p) : RelabelOutcome r p n s s 3
  | passed (hlab : Stmt.labels s r p) (hn : n ≤ slotNow s) : RelabelOutcome r p n s s 6
  | done (hlab : Stmt.labels s r p) (hn : slotNow s < n) : RelabelOutcome r p n s (relabelNoted r p n s) 0

theorem relabel_hasEffect (r : Nat) (p : Option Nat) (n : Nat) : HasEffect (.relabel r p n) (RelabelOutcome r p n) := by
  refine ⟨_, fun s => rfl, fun s => ?_⟩
  dsimp only
  split_ifs with hbad hpast
  · refine ⟨_, _, rfl, .badArgument ?_⟩
    cases p with
    | none => simpa [labels_none_iff] using hbad
    | some a => simpa [labels_some_iff, imp_iff_not_or] using hbad
  all_goals
    have hlab : Stmt.labels s r p := by
      cases p with
      | none => simpa [labels_none_iff] using hbad
      | some a => simpa [labels_some_iff] using hbad
  · exact ⟨_, _, rfl, .passed hlab ((slotBegun_iff s n).mp hpast)⟩
  · exact ⟨_, _, rfl, .done hlab (Nat.not_le.mp ((slotBegun_iff s n).not.mp hpast))⟩

theorem RelabelOutcome.keepsRing {r n st : Nat} {p : Option Nat} {s t : State} (h : RelabelOutcome r p n s t st) :
    KeepsRing s t ∧ st < 256 := by
  cases h with
  | badArgument | passed => exact ⟨.refl s, by decide⟩
  | done => exact ⟨⟨rfl, rfl, rfl, rfl, rfl⟩, by decide⟩

theorem relabel_done {s : State} {r n : Nat} {p : Option Nat} (ha : apart (.relabel r p n) s) (hlab : Stmt.labels s r p)
    (hn : slotNow s < n) : exec (.relabel r p n) s = .next (relabelNoted r p n s) := by
  obtain ⟨t, st, hexec, hout⟩ := (relabel_hasEffect r p n).apart ha
  cases hout with
  | badArgument hlab' => exact absurd hlab hlab'
  | passed _ hn' => omega
  | done => exact hexec

theorem relabel_refused {s : State} {r n : Nat} {p : Option Nat} (ha : apart (.relabel r p n) s)
    (hr : ¬Stmt.labels s r p ∨ n ≤ slotNow s) : exec (.relabel r p n) s = .next s := by
  obtain ⟨t, st, hexec, hout⟩ := (relabel_hasEffect r p n).apart ha
  cases hout with
  | badArgument | passed => exact hexec
  | done hlab hn =>
    rcases hr with hr | hr
    · exact absurd hlab hr
    · omega

theorem RelabelOutcome.status {r n st : Nat} {p : Option Nat} {s t : State} (h : RelabelOutcome r p n s t st) :
    (¬Stmt.labels s r p → st = 3) ∧ (Stmt.labels s r p → st = if n ≤ slotNow s then 6 else 0) := by
  cases h with
  | badArgument hlab => exact ⟨fun _ => rfl, fun hlab' => absurd hlab' hlab⟩
  | passed hlab hn => exact ⟨fun hlab' => absurd hlab hlab', fun _ => (if_pos hn).symm⟩
  | done hlab hn => exact ⟨fun hlab' => absurd hlab hlab', fun _ => (if_neg (Nat.not_le.mpr hn)).symm⟩

theorem relabel_serves (r : Nat) (p : Option Nat) (n : Nat) : Serves (.relabel r p n) fun s st =>
    (¬Stmt.labels s r p → st = 3) ∧ (Stmt.labels s r p → st = if n ≤ slotNow s then 6 else 0) :=
  (relabel_hasEffect r p n).serves (fun _ _ _ h => h.keepsRing) fun _ _ _ _ h => h.status

/-! ### SETPEG (R290) -/

/-- A count kept per link and virtual channel, after one of them is set. -/
theorem lget_lput (d : Nat) (m : List (Link × Nat × Nat)) (l l' : Link) (v v' x : Nat) :
    lget d (lput m l v x) l' v' = if l' = l ∧ v' = v then x else lget d m l' v' := by
  by_cases heq : l' = l ∧ v' = v
  · obtain ⟨rfl, rfl⟩ := heq
    simp [lget, lput]
  · have hhead : (l == l' && v == v') = false := by simpa [@eq_comm _ l l', @eq_comm _ v v'] using heq
    have hkept : ∀ e : Link × Nat × Nat, (decide ((!(e.1 == l && e.2.1 == v)) = true ∧ (e.1 == l' && e.2.1 == v') = true)) =
        (e.1 == l' && e.2.1 == v') := by
      intro e
      by_cases he : e.1 = l' ∧ e.2.1 = v'
      · have hhere : (l' == l && v' == v) = false := by simpa using heq
        simp [he.1, he.2, hhere]
      · have hother : (e.1 == l' && e.2.1 == v') = false := by simpa using he
        simp [hother]
    simp only [lget, lput, List.find?_cons, hhead, List.find?_filter, hkept, if_neg heq]

/-- SETPEG's arguments are in range (R290). -/
def pegArguments (pl p v z : Nat) : Prop := pl < 2 ∧ p < 34 ∧ v < 4 ∧ 1 ≤ z ∧ z ≤ 64

theorem not_pegArguments_iff (pl p v z : Nat) : ¬pegArguments pl p v z ↔ 1 < pl ∨ 33 < p ∨ 3 < v ∨ z = 0 ∨ 64 < z := by
  unfold pegArguments
  omega

/-- The port with the size of one receive pool set. -/
def poolSet (pl p v z : Nat) (s : State) : State :=
  { s with port := { s.port with pool := lput s.port.pool { plane := planeOf pl, port := p } v z } }

/-- What SETPEG does: refused for its arguments or for a resident context, or one pool set. -/
inductive SetpegOutcome (pl p v z : Nat) (s : State) : State → Nat → Prop
  | badArgument (harg : ¬pegArguments pl p v z) : SetpegOutcome pl p v z s s 3
  | busy (harg : pegArguments pl p v z) (hres : ¬noneResident s) : SetpegOutcome pl p v z s s 1
  | done (harg : pegArguments pl p v z) (hres : noneResident s) : SetpegOutcome pl p v z s (poolSet pl p v z s) 0

theorem setpeg_hasEffect (pl p v z : Nat) : HasEffect (.setpeg pl p v z) (SetpegOutcome pl p v z) := by
  refine ⟨_, fun s => rfl, fun s => ?_⟩
  dsimp only
  split_ifs with hbad hres
  · exact ⟨_, _, rfl, .badArgument ((not_pegArguments_iff pl p v z).mpr hbad)⟩
  all_goals have harg : pegArguments pl p v z := not_not.mp ((not_pegArguments_iff pl p v z).not.mpr hbad)
  · exact ⟨_, _, rfl, .busy harg ((not_residents_isEmpty_iff s).mp hres)⟩
  · exact ⟨_, _, rfl, .done harg (not_not.mp ((not_residents_isEmpty_iff s).not.mp hres))⟩

theorem SetpegOutcome.keepsRing {pl p v z st : Nat} {s t : State} (h : SetpegOutcome pl p v z s t st) : KeepsRing s t ∧ st < 256 := by
  cases h with
  | badArgument | busy => exact ⟨.refl s, by decide⟩
  | done => exact ⟨⟨rfl, rfl, rfl, rfl, rfl⟩, by decide⟩

theorem setpeg_done {s : State} {pl p v z : Nat} (ha : apart (.setpeg pl p v z) s) (hres : noneResident s)
    (harg : pegArguments pl p v z) : exec (.setpeg pl p v z) s = .next (poolSet pl p v z s) := by
  obtain ⟨t, st, hexec, hout⟩ := (setpeg_hasEffect pl p v z).apart ha
  cases hout with
  | badArgument harg' => exact absurd harg harg'
  | busy _ hres' => exact absurd hres hres'
  | done => exact hexec

theorem setpeg_refused {s : State} {pl p v z : Nat} (ha : apart (.setpeg pl p v z) s)
    (hr : ¬noneResident s ∨ ¬pegArguments pl p v z) : exec (.setpeg pl p v z) s = .next s := by
  obtain ⟨t, st, hexec, hout⟩ := (setpeg_hasEffect pl p v z).apart ha
  cases hout with
  | badArgument | busy => exact hexec
  | done harg hres =>
    rcases hr with hr | hr
    · exact absurd hres hr
    · exact absurd harg hr

theorem SetpegOutcome.status {pl p v z st : Nat} {s t : State} (h : SetpegOutcome pl p v z s t st) :
    (¬pegArguments pl p v z → st = 3) ∧ (pegArguments pl p v z → (¬noneResident s → st = 1) ∧ (noneResident s → st = 0)) := by
  cases h with
  | badArgument harg => exact ⟨fun _ => rfl, fun harg' => absurd harg' harg⟩
  | busy harg hres => exact ⟨fun harg' => absurd harg harg', fun _ => ⟨fun _ => rfl, fun hres' => absurd hres' hres⟩⟩
  | done harg hres => exact ⟨fun harg' => absurd harg harg', fun _ => ⟨fun hres' => absurd hres hres', fun _ => rfl⟩⟩

theorem setpeg_serves (pl p v z : Nat) : Serves (.setpeg pl p v z) fun s st => (1 < pl ∨ 33 < p ∨ 3 < v ∨ z = 0 ∨ 64 < z → st = 3) ∧
    (pl < 2 → p < 34 → v < 4 → 1 ≤ z → z ≤ 64 → (¬noneResident s → st = 1) ∧ (noneResident s → st = 0)) := by
  refine (setpeg_hasEffect pl p v z).serves (fun _ _ _ h => h.keepsRing) fun _ _ _ _ h => ?_
  obtain ⟨hbad, hok⟩ := h.status
  exact ⟨fun hr => hbad ((not_pegArguments_iff pl p v z).mpr hr), fun hpl hp hv h1 h64 => hok ⟨hpl, hp, hv, h1, h64⟩⟩

/-! ### TABLE (R282) -/

/-- TABLE's arguments are in range: a plane, and an image within the memory. -/
def tableArguments (pl a : Nat) (s : State) : Prop := pl < 2 ∧ a + 1040 ≤ hbmBytes s

theorem not_tableArguments_iff (pl a : Nat) (s : State) : ¬tableArguments pl a s ↔ 1 < pl ∨ hbmBytes s < a + 1040 := by
  unfold tableArguments
  omega

/-- The port with the image at `a` waiting for slot `n`. -/
def tableNoted (pl a n : Nat) (s : State) : State :=
  { s with port := { s.port with shadowT := s.port.shadowT.set pl (some (n, tableImage s a)) } }

/-- What TABLE does: refused for its arguments, for a table that breaks a rule, for a slot that is no multiple of the table's length or
one that has begun, or the table waits for its slot. -/
inductive TableOutcome (pl a n : Nat) (s : State) : State → Nat → Prop
  | badArgument (harg : ¬tableArguments pl a s) : TableOutcome pl a n s s 3
  | badTable (harg : tableArguments pl a s) {sub lane line peer : Nat}
      (hfault : tableFault s (planeOf pl) (tableImage s a) = some (sub, lane, line, peer)) :
      TableOutcome pl a n s (fabricFault s sub (planeOf pl) lane line peer) 9
  | notMultiple (harg : tableArguments pl a s) (hok : tableFault s (planeOf pl) (tableImage s a) = none)
      (hn : n % (tableImage s a).length ≠ 0) : TableOutcome pl a n s s 3
  | passed (harg : tableArguments pl a s) (hok : tableFault s (planeOf pl) (tableImage s a) = none)
      (hn : n % (tableImage s a).length = 0) (hpast : n ≤ slotNow s) : TableOutcome pl a n s s 6
  | done (harg : tableArguments pl a s) (hok : tableFault s (planeOf pl) (tableImage s a) = none)
      (hn : n % (tableImage s a).length = 0) (hfuture : slotNow s < n) : TableOutcome pl a n s (tableNoted pl a n s) 0

theorem table_hasEffect (pl a n : Nat) : HasEffect (.table pl a n) (TableOutcome pl a n) := by
  refine ⟨_, fun s => rfl, fun s => ?_⟩
  dsimp only
  by_cases harg : tableArguments pl a s
  · rw [if_neg (fun hbad => (not_tableArguments_iff pl a s).mpr hbad harg)]
    cases hfault : tableFault s (planeOf pl) (tableImage s a) with
    | some e => exact ⟨_, _, rfl, .badTable harg hfault⟩
    | none =>
      dsimp only
      split_ifs with hn hpast
      · exact ⟨_, _, rfl, .notMultiple harg hfault hn⟩
      · exact ⟨_, _, rfl, .passed harg hfault (not_not.mp hn) ((slotBegun_iff s n).mp hpast)⟩
      · exact ⟨_, _, rfl, .done harg hfault (not_not.mp hn) (Nat.not_le.mp ((slotBegun_iff s n).not.mp hpast))⟩
  · exact ⟨_, _, if_pos ((not_tableArguments_iff pl a s).mp harg), .badArgument harg⟩

theorem TableOutcome.keepsRing {pl a n st : Nat} {s t : State} (h : TableOutcome pl a n s t st) : KeepsRing s t ∧ st < 256 := by
  cases h with
  | badArgument | notMultiple | passed => exact ⟨.refl s, by decide⟩
  | badTable | done => exact ⟨⟨rfl, rfl, rfl, rfl, rfl⟩, by decide⟩

theorem table_done {s : State} {pl a n : Nat} (ha : apart (.table pl a n) s) (harg : tableArguments pl a s)
    (hok : tableFault s (planeOf pl) (tableImage s a) = none) (hn : n % (tableImage s a).length = 0) (hfuture : slotNow s < n) :
    exec (.table pl a n) s = .next (tableNoted pl a n s) := by
  obtain ⟨t, st, hexec, hout⟩ := (table_hasEffect pl a n).apart ha
  cases hout with
  | badArgument harg' => exact absurd harg harg'
  | badTable _ hfault => simp [hok] at hfault
  | notMultiple _ _ hn' => exact absurd hn hn'
  | passed _ _ _ hpast => omega
  | done => exact hexec

theorem table_refused {s : State} {pl a n : Nat} (ha : apart (.table pl a n) s)
    (hr : ¬tableArguments pl a s ∨
      (tableFault s (planeOf pl) (tableImage s a) = none ∧ (n % (tableImage s a).length ≠ 0 ∨ n ≤ slotNow s))) :
    exec (.table pl a n) s = .next s := by
  obtain ⟨t, st, hexec, hout⟩ := (table_hasEffect pl a n).apart ha
  cases hout with
  | badArgument | notMultiple | passed => exact hexec
  | badTable harg hfault =>
    rcases hr with hr | ⟨hok, -⟩
    · exact absurd harg hr
    · simp [hok] at hfault
  | done harg hok hn hfuture =>
    rcases hr with hr | ⟨-, hr | hr⟩
    · exact absurd harg hr
    · exact absurd hn hr
    · omega

theorem table_fault {s : State} {pl a n sub lane line peer : Nat} (ha : apart (.table pl a n) s) (harg : tableArguments pl a s)
    (hfault : tableFault s (planeOf pl) (tableImage s a) = some (sub, lane, line, peer)) :
    exec (.table pl a n) s = .next (fabricFault s sub (planeOf pl) lane line peer) := by
  obtain ⟨t, st, hexec, hout⟩ := (table_hasEffect pl a n).apart ha
  cases hout with
  | badArgument harg' => exact absurd harg harg'
  | badTable _ hfault' =>
    rw [hfault] at hfault'
    cases hfault'
    exact hexec
  | notMultiple _ hok | passed _ hok | done _ hok => simp [hok] at hfault

theorem planeCode_planeOf {pl : Nat} (h : pl < 2) : planeCode (planeOf pl) = pl := by
  match pl, h with
  | 0, _ | 1, _ => rfl

theorem TableOutcome.status {pl a n st : Nat} {s t : State} (h : TableOutcome pl a n s t st) :
    (¬tableArguments pl a s → st = 3) ∧ (tableArguments pl a s →
      (tableFault s (planeOf pl) (tableImage s a) ≠ none → st = 9) ∧
      (tableFault s (planeOf pl) (tableImage s a) = none →
        (n % (tableImage s a).length ≠ 0 → st = 3) ∧
        (n % (tableImage s a).length = 0 → st = if n ≤ slotNow s then 6 else 0))) := by
  cases h with
  | badArgument harg => exact ⟨fun _ => rfl, fun harg' => absurd harg' harg⟩
  | badTable harg hfault => exact ⟨fun harg' => absurd harg harg', fun _ => ⟨fun _ => rfl, fun hok => by simp [hok] at hfault⟩⟩
  | notMultiple harg hok hn =>
    exact ⟨fun harg' => absurd harg harg', fun _ => ⟨fun hbad => absurd hok hbad, fun _ => ⟨fun _ => rfl, fun hn' => absurd hn' hn⟩⟩⟩
  | passed harg hok hn hpast =>
    exact ⟨fun harg' => absurd harg harg', fun _ => ⟨fun hbad => absurd hok hbad, fun _ =>
      ⟨fun hn' => absurd hn hn', fun _ => (if_pos hpast).symm⟩⟩⟩
  | done harg hok hn hfuture =>
    exact ⟨fun harg' => absurd harg harg', fun _ => ⟨fun hbad => absurd hok hbad, fun _ =>
      ⟨fun hn' => absurd hn hn', fun _ => (if_neg (Nat.not_le.mpr hfuture)).symm⟩⟩⟩

theorem table_serves (pl a n : Nat) : Serves (.table pl a n) fun s st => (1 < pl ∨ hbmBytes s < a + 1040 → st = 3) ∧
    (pl < 2 → a + 1040 ≤ hbmBytes s →
      let t := tableImage s a
      let ok : Prop := tableFault s (planeOf pl) t = none
      (¬ok → st = 9) ∧ (ok → n % t.length ≠ 0 → st = 3) ∧ (ok → n % t.length = 0 → st = if n ≤ slotNow s then 6 else 0)) := by
  refine (table_hasEffect pl a n).serves (fun _ _ _ h => h.keepsRing) fun s cp _ st h => ?_
  obtain ⟨hbad, hargs⟩ := h.status
  refine ⟨fun hr => hbad ((not_tableArguments_iff pl a s).mpr hr), fun hpl hin => ?_⟩
  obtain ⟨hfault, hok⟩ := hargs ⟨hpl, hin⟩
  exact ⟨hfault, fun h0 => (hok h0).1, fun h0 => (hok h0).2⟩

/-! ### TLEN (R280) -/

/-- What TLEN does: refused for its length or for a slot that has begun, or the length waits for its slot. -/
inductive TlenOutcome (t n : Nat) (s : State) : State → Nat → Prop
  | badArgument (harg : t < 16 ∨ 1000 < t) : TlenOutcome t n s s 3
  | passed (harg : ¬(t < 16 ∨ 1000 < t)) (hpast : n ≤ slotNow s) : TlenOutcome t n s s 6
  | done (harg : ¬(t < 16 ∨ 1000 < t)) (hfuture : slotNow s < n) :
      TlenOutcome t n s { s with port := { s.port with tlenAt := some (t, n) } } 0

theorem tlen_hasEffect (t n : Nat) : HasEffect (.tlen t n) (TlenOutcome t n) := by
  refine ⟨_, fun s => rfl, fun s => ?_⟩
  dsimp only
  split_ifs with harg hpast
  · exact ⟨_, _, rfl, .badArgument harg⟩
  · exact ⟨_, _, rfl, .passed harg ((slotBegun_iff s n).mp hpast)⟩
  · exact ⟨_, _, rfl, .done harg (Nat.not_le.mp ((slotBegun_iff s n).not.mp hpast))⟩

theorem TlenOutcome.keepsRing {t n st : Nat} {s u : State} (h : TlenOutcome t n s u st) : KeepsRing s u ∧ st < 256 := by
  cases h with
  | badArgument | passed => exact ⟨.refl s, by decide⟩
  | done => exact ⟨⟨rfl, rfl, rfl, rfl, rfl⟩, by decide⟩

theorem tlen_done {s : State} {t n : Nat} (ha : apart (.tlen t n) s) (h16 : 16 ≤ t) (h1000 : t ≤ 1000) (hfuture : slotNow s < n) :
    exec (.tlen t n) s = .next { s with port := { s.port with tlenAt := some (t, n) } } := by
  obtain ⟨u, st, hexec, hout⟩ := (tlen_hasEffect t n).apart ha
  cases hout with
  | badArgument | passed => omega
  | done => exact hexec

theorem tlen_refused {s : State} {t n : Nat} (ha : apart (.tlen t n) s) (hr : t < 16 ∨ 1000 < t ∨ n ≤ slotNow s) :
    exec (.tlen t n) s = .next s := by
  obtain ⟨u, st, hexec, hout⟩ := (tlen_hasEffect t n).apart ha
  cases hout with
  | badArgument | passed => exact hexec
  | done => omega

theorem TlenOutcome.status {t n st : Nat} {s u : State} (h : TlenOutcome t n s u st) :
    st = if t < 16 ∨ 1000 < t then 3 else if n ≤ slotNow s then 6 else 0 := by
  cases h with
  | badArgument harg => rw [if_pos harg]
  | passed harg hpast => rw [if_neg harg, if_pos hpast]
  | done harg hfuture => rw [if_neg harg, if_neg (Nat.not_le.mpr hfuture)]

theorem tlen_serves (t n : Nat) :
    Serves (.tlen t n) fun s st => st = if t < 16 ∨ 1000 < t then 3 else if n ≤ slotNow s then 6 else 0 :=
  (tlen_hasEffect t n).serves (fun _ _ _ h => h.keepsRing) fun _ _ _ _ h => h.status

/-! ### ATTEST (R408) -/

/-- The 512 bytes of the report on the nonce at `a`: the body and its signature. -/
def attestReport (s : State) (a : Nat) : List Byte :=
  let b := attestBody s (readBytes s.hbm a 32)
  b ++ leBytes 384 (Config.deviceSign b).toNat

@[simp] theorem length_readBytes (m : Memory) (a n : Nat) : (readBytes m a n).length = n := by simp [readBytes]

theorem length_attestReport (s : State) (a : Nat) : (attestReport s a).length = 512 := by simp [attestReport, attestBody]

/-- The report begins with the nonce and the digests of the two images. -/
theorem attestReport_eq (s : State) (a : Nat) : ∃ rest, attestReport s a = readBytes s.hbm a 32 ++
    (leBytes 32 (Config.imageDigest 0).toNat ++ (leBytes 32 (Config.imageDigest 1).toNat ++ rest)) :=
  ⟨leBytes 8 s.shape.applied ++ (leBytes 8 (devshape s false).toNat ++ (leBytes 16 0 ++
      leBytes 384 (Config.deviceSign (attestBody s (readBytes s.hbm a 32))).toNat)),
    by simp only [attestReport, attestBody, List.append_assoc]⟩

/-- What ATTEST does: refused for a nonce or a report outside the memory, or the report is written. -/
inductive AttestOutcome (a r : Nat) (s : State) : State → Nat → Prop
  | badArgument (harg : hbmBytes s < a + 32 ∨ hbmBytes s < r + 512) : AttestOutcome a r s s 3
  | done (harg : ¬(hbmBytes s < a + 32 ∨ hbmBytes s < r + 512)) : AttestOutcome a r s (hbmWrite s r (attestReport s a)) 0

theorem attest_hasEffect (a r : Nat) : HasEffect (.attest a r) (AttestOutcome a r) := by
  refine ⟨_, fun s => rfl, fun s => ?_⟩
  by_cases harg : hbmBytes s < a + 32 ∨ hbmBytes s < r + 512
  · exact ⟨_, _, if_pos harg, .badArgument harg⟩
  · exact ⟨_, _, if_neg harg, .done harg⟩

theorem attest_done {s : State} {a r : Nat} (ha : apart (.attest a r) s) (hnonce : a + 32 ≤ hbmBytes s) (hreport : r + 512 ≤ hbmBytes s) :
    exec (.attest a r) s = .next (hbmWrite s r (attestReport s a)) := by
  obtain ⟨t, st, hexec, hout⟩ := (attest_hasEffect a r).apart ha
  cases hout with
  | badArgument => omega
  | done => exact hexec

theorem attest_refused {s : State} {a r : Nat} (ha : apart (.attest a r) s) (hr : hbmBytes s < a + 32 ∨ hbmBytes s < r + 512) :
    exec (.attest a r) s = .next s := by
  obtain ⟨t, st, hexec, hout⟩ := (attest_hasEffect a r).apart ha
  cases hout with
  | badArgument => exact hexec
  | done harg => exact absurd hr harg

theorem hbmWrite_only (s : State) (a : Nat) (bs : List Byte) : hbmWrite s a bs =
    { s with
      hbm := (hbmWrite s a bs).hbm
      capTags := (hbmWrite s a bs).capTags
      poison := (hbmWrite s a bs).poison
      prior := (hbmWrite s a bs).prior } := rfl

/-- The nonce stands at the start of the report. -/
theorem readByte_report_nonce {s : State} (h : s.memWf) (a r : Nat) {i : Nat} (hi : i < 32) :
    readByte (hbmWrite s r (attestReport s a)).hbm (r + i) = readByte s.hbm (a + i) := by
  have hin : i < (attestReport s a).length := by rw [length_attestReport]; omega
  obtain ⟨rest, heq⟩ := attestReport_eq s a
  rw [hbmWrite_hbm, readByte_writeBytes_same h.1 r _ i hin]
  simp only [heq]
  rw [List.getElem_append_left (by simpa using hi)]
  simp [readBytes]

/-- The digests of the images follow the nonce. -/
theorem readNat_report_digest {s : State} (h : s.memWf) (a r : Nat) :
    readNat (hbmWrite s r (attestReport s a)).hbm (r + 32) 32 = (Config.imageDigest 0).toNat ∧
      readNat (hbmWrite s r (attestReport s a)).hbm (r + 64) 32 = (Config.imageDigest 1).toNat := by
  obtain ⟨rest, heq⟩ := attestReport_eq s a
  have hlen := length_attestReport s a
  have hword (x : BitVec 256) : leNat (leBytes 32 x.toNat) = x.toNat := by
    rw [leNat_leBytes]
    exact Nat.mod_eq_of_lt x.isLt
  constructor
  · have hpart : ((attestReport s a).drop 32).take 32 = leBytes 32 (Config.imageDigest 0).toNat := by
      rw [heq, List.drop_left' (by simp), List.take_left' (by simp)]
    rw [hbmWrite_hbm, readNat, readBytes_writeBytes_part h.1 r _ 32 32 (by omega), hpart, hword]
  · have hpart : ((attestReport s a).drop 64).take 32 = leBytes 32 (Config.imageDigest 1).toNat := by
      rw [heq, ← List.append_assoc, List.drop_left' (by simp), List.take_left' (by simp)]
    rw [hbmWrite_hbm, readNat, readBytes_writeBytes_part h.1 r _ 64 32 (by omega), hpart, hword]

/-! ### The statement -/

/-- Settles O46: each command's clauses follow from its outcome, apart from the ring by `HasEffect.apart` and on it by
`HasEffect.serves`. -/
theorem managementCommands : Obligations.ManagementCommands := by
  refine ⟨?gate, ?gateRefused, ?relabel, ?setpeg, ?setpegRefused, ?table, ?tableRefused, ?tlen, ?attest, gate_serves, relabel_serves,
    setpeg_serves, table_serves, tlen_serves⟩
  case gate =>
    intro s g ha hres hg hchk
    refine ⟨gated g s, gate_done ha hres hg ?_, gated_gate g s, gated_hbm g s, gated_ctxs g s, gated_cores g s, readByte_gated g s⟩
    exact hchk
  case gateRefused => exact fun s g ha hr => gate_refused ha hr
  case relabel => exact fun s r n p ha => ⟨relabel_done ha, relabel_refused ha⟩
  case setpeg =>
    intro s pl p v z ha hres hpl hp hv h1 h64
    exact ⟨poolSet pl p v z s, setpeg_done ha hres ⟨hpl, hp, hv, h1, h64⟩, rfl, fun l u => lget_lput 0 s.port.pool _ l v u z⟩
  case setpegRefused =>
    exact fun s pl p v z ha hr => setpeg_refused ha (hr.imp_right (not_pegArguments_iff pl p v z).mpr)
  case table =>
    intro s pl a n ha hpl hin
    refine ⟨table_done ha ⟨hpl, hin⟩, fun hok hr => table_refused ha (.inr ⟨hok, hr⟩), fun sub lane line peer hfault => ?_⟩
    refine ⟨_, _, table_fault ha ⟨hpl, hin⟩ hfault, rfl, rfl, rfl, rfl, ?_, rfl⟩
    rw [planeCode_planeOf hpl]
  case tableRefused => exact fun s pl a n ha hr => table_refused ha (.inl ((not_tableArguments_iff pl a s).mpr hr))
  case tlen => exact fun s t n ha => ⟨tlen_done ha, tlen_refused ha⟩
  case attest =>
    intro s a r ha hwf
    refine ⟨fun hnonce hreport => ?_, attest_refused ha⟩
    obtain ⟨hcp, hfcp⟩ := readNat_report_digest hwf a r
    refine ⟨_, attest_done ha hnonce hreport, hbmWrite_only .., fun i hi => readByte_report_nonce hwf a r hi, hcp, hfcp, fun x hx => ?_⟩
    rw [hbmWrite_hbm]
    exact readByte_writeBytes_other _ _ _ _ (by rw [length_attestReport]; exact hx)

end Sys2Proof.Machine
end

section
/-! PROOFS. The end of a task and the return from a handler (R25, R132, R229). -/

namespace Sys2Proof.Machine

/-- Every interlocked load and tl.acq of the task has returned. -/
def LoadsReturned (c : Core) : Prop := c.rets = [] ∧ ∀ a ∈ c.accs, a.dest = .none ∧ ∀ t n, a.op ≠ .tlAcq t n

/-- Every operation that the handler has issued has completed. -/
def HandlerDone (c : Core) : Prop :=
  c.results = [] ∧ c.accs = [] ∧ c.rets = [] ∧ ∀ n, c.snap = some n → ∀ e ∈ c.engs, ∀ o ∈ e.2, o.order ≤ n.issued

theorem loadsPending_eq_false_iff (c : Core) : loadsPending c = false ↔ LoadsReturned c := by
  have hacq : ∀ op : AccOp, (match op with | .tlAcq _ _ => true | _ => false) = false ↔ ∀ t n, op ≠ .tlAcq t n := by
    intro op; cases op <;> simp
  simp only [loadsPending, LoadsReturned, Bool.or_eq_false_iff, Bool.not_eq_false', List.isEmpty_iff, List.any_eq_false,
    Bool.not_eq_true, bne_eq_false_iff_eq]
  refine and_congr_right fun _ => forall₂_congr fun a _ => and_congr_right fun _ => ?_
  exact hacq a.op

theorem handlerPending_eq_false_iff (c : Core) : handlerPending c = false ↔ HandlerDone c := by
  cases h : c.snap with
  | none => simp [handlerPending, HandlerDone, h, and_assoc]
  | some n => simp [handlerPending, HandlerDone, h, and_assoc]

/-- A noted hold changes the issuing core's record only; an eret's hold counts as an issue cycle. -/
theorem leaves_held {i : Instr} {s : State} {h : Hold} {x : Core} (he : exec i s = .next (noteHold s h))
    (hx : { curCore s with
      held := (curCore s).held + 1, hold := some h
      icycle := if h.obj = 0x105 then (curCore s).icycle + 1 else (curCore s).icycle } = x) : Leaves i s x :=
  ⟨_, he, hx ▸ onCur_only s _⟩

variable {s : State}

theorem tend_ends (h : CanIssue (curCore s) [] [] [] [] 0) (hl : LoadsReturned (curCore s)) :
    Leaves .tend s { curCore s with after := .tend } := by
  refine leaves_of h (slot := slotBR) (f := fun s => setAfter s .tend) rfl rfl rfl rfl rfl rfl rfl rfl ?_ (Nat.le_refl 0) _ rfl rfl
  exact if_neg (by simp [(loadsPending_eq_false_iff _).mpr hl])

theorem tend_waits (h : CanIssue (curCore s) [] [] [] [] 0) (hp : (curCore s).phase = .alone) (hl : ¬LoadsReturned (curCore s)) :
    Leaves .tend s { curCore s with held := (curCore s).held + 1, hold := some { sub := 4, obj := 0x103, tl := 15, slot := 2 } } := by
  have hpend : loadsPending (curCore s) = true := Bool.not_eq_false _ ▸ mt (loadsPending_eq_false_iff _).mp hl
  exact leaves_held (hold_own h (slot := slotBR) (f := fun s => setAfter s .tend) rfl rfl rfl rfl rfl hp rfl rfl rfl (if_pos hpend)) rfl

theorem eret_returns (h : CanIssue (curCore s) [] [] [] [] 0) (hh : (curCore s).inH = true) (hd : HandlerDone (curCore s)) :
    Leaves .eret s { curCore s with after := .eret } := by
  refine leaves_of h (slot := slotBR) (f := fun s => setAfter s .eret) rfl rfl rfl rfl rfl ?_ rfl rfl ?_ (Nat.le_refl 0) _ rfl rfl
  · exact if_neg (by simp [hh])
  · exact if_neg (by simp [(handlerPending_eq_false_iff _).mpr hd])

theorem eret_waits (h : CanIssue (curCore s) [] [] [] [] 0) (hp : (curCore s).phase = .alone) (hh : (curCore s).inH = true)
    (hd : ¬HandlerDone (curCore s)) :
    Leaves .eret s
      { curCore s with
        held := (curCore s).held + 1, hold := some { sub := 4, obj := 0x105, tl := 15, slot := 2 }, icycle := (curCore s).icycle + 1 } := by
  have hpend : handlerPending (curCore s) = true := Bool.not_eq_false _ ▸ mt (handlerPending_eq_false_iff _).mp hd
  refine leaves_held (hold_own h (slot := slotBR) (f := fun s => setAfter s .eret) rfl rfl rfl rfl rfl hp ?_ rfl rfl (if_pos hpend)) rfl
  exact if_neg (by simp [hh])

theorem eret_illegal_outside_handler (h : CanIssue (curCore s) [] [] [] [] 0) (hp : (curCore s).phase = .alone)
    (hh : (curCore s).inH = false) : exec .eret s = .next (takeTrap s s.cur (Cause.precise 0x01 1 2)) :=
  trap_opnd h (slot := slotBR) (f := fun s => setAfter s .eret) rfl rfl rfl rfl rfl hp (if_pos (congrArg Bool.not hh)) rfl

/-- Settles O7: a tend goes on with no load pending and an eret with no operation of its handler pending; else the test of its own holds
it, and outside handler state the operand test of eret fails. -/
theorem taskEndAndReturnConditions : Obligations.TaskEndAndReturnConditions := fun _ h =>
  ⟨tend_ends h, eret_returns h, fun hp => ⟨tend_waits h hp, eret_waits h hp, eret_illegal_outside_handler h hp⟩⟩

end Sys2Proof.Machine
end

section
/-! PROOFS. Barriers: their instructions at issue, and the phases of a barrier (R42 to R44, R213 to R216). -/

namespace Sys2Proof.Machine

open Sys2Proof.Stmt

/-! ### At issue -/

theorem bnLocal_eq (w : Word) : bnLocal w = decide (w.toNat / 2 ^ 10 % 2 = 1) := by simp [bnLocal, bits, beq_eq_decide]

theorem bits_above_name (w : Word) : bits w 30 34 = w.toNat / 2 ^ 30 := by
  have := w.isLt
  exact Nat.mod_eq_of_lt (by omega)

/-- The tests of a good name pass. -/
theorem barTests_good {s : State} {w : Word} (h : goodName s w) : (barTests s w).opnd = none ∧ (barTests s w).dom = none := by
  obtain ⟨htop, hhome⟩ := h
  refine ⟨if_neg (by simpa [bits_above_name] using htop), if_neg ?_⟩
  simpa [bnLocal_eq, bnRank, bits, or_iff_not_imp_left] using hhome

/-- The access of the issuing task, numbered, is its request. -/
theorem newAccess_eq_request (s : State) (op : AccOp) :
    { newAccess s op .none 1 false with id := (curCore s).issued + 1 } = request s op .none 0 1 0 false := by
  simp [newAccess, request, taskWho, agentId, keyCore]

/-- A barrier instruction on a good name puts its request in the queue. -/
theorem leaves_barrier_request {s : State} {i : Instr} {rg : List Nat} {w : Word} {op : AccOp} (h : CanIssue (curCore s) rg [] [] [] 1)
    (hn : goodName s w) (hu : uses i = ⟨rg, [], [], [], [], [], []⟩)
    (he : exec i s = issue s slotEN i (barTests s w) fun s => popsOf (pushAccess s (newAccess s op .none 1 false)) i) :
    Leaves i s (queued (curCore s) rg (request s op .none 0 1 0 false)) := by
  obtain ⟨hopnd, hdom⟩ := barTests_good hn
  exact leaves_queued h he (by rw [hu]) (by rw [hu]) (by rw [hu]) (by rw [hu]) hopnd rfl hdom rfl (Nat.le_refl 1) _ rfl
    (congrArg _ (newAccess_eq_request s op))

theorem barInit_leaves {s : State} {a b : Fin 64} (h : CanIssue (curCore s) [a.val, b.val, b.val + 1] [] [] [] 0)
    (htop : (readG (curCore s) a).toNat / 2 ^ 30 = 0) (hlocal : (readG (curCore s) a).toNat / 2 ^ 10 % 2 = 1)
    (hhigh : (readG (curCore s) b).toNat / 2 ^ 32 = 0) (hlen : (readG (curCore s) b).toNat / 2 ^ 25 % 128 ≤ 64)
    (hlist : (readG (curCore s) b).toNat / 2 ^ 25 % 128 ≠ 0 → (readG (curCore s) (b.val + 1)).toNat % 8 = 0) :
    Leaves (.barInit a b) s
      { barsOf (curCore s) (mset (curCore s).bars (bnBar (readG (curCore s) a)) (barrierOf (readG (curCore s) b) (readG (curCore s) (b.val + 1))))
        with pops := popped (curCore s) [a.val, b.val, b.val + 1] } := by
  refine leaves_of h (slot := slotEN) (i := .barInit a b) (f := fun s => popsOf (onCur s fun c => { c with
    bars := mset c.bars _ (barrierOf _ _) }) (.barInit a b)) rfl rfl rfl rfl rfl (if_neg ?_) ?_ rfl rfl (Nat.le_refl 0) _ (onCur_onCur _ _ _) rfl
  · rw [bits_above_name, bnLocal_eq, bits_upper_half, htop, hlocal, hhigh, decide_eq_false (Nat.not_lt.mpr hlen : ¬64 < bits _ 25 7)]
    simp
  · show (if bits (readG (curCore s) b) 25 7 = 0 then none else alignFail slotEN _ 8) = none
    split
    · rfl
    · next hne => exact if_neg (by simpa [bits] using hlist hne)

theorem barrierOf_eq (x l : Word) : barrierOf x l =
    { base := x.toNat % 65536, extra := 0, arr := 0, ph := 0, rlen := x.toNat / 2 ^ 25 % 128, rlist := l
      sem := if x.toNat / 2 ^ 24 % 2 = 1 then some (x.toNat / 2 ^ 16 % 256) else none } := by
  simp [barrierOf, bits]

theorem barrierInstructionsIssue : Stmt.BarrierInstructionsIssue := by
  intro s a b
  refine ⟨fun h hn => ⟨?_, ?_⟩, fun h hn => ?_, fun h htop hlocal hhigh hlen hlist => ?_, fun h hp htop => ?_⟩
  · exact leaves_barrier_request h hn rfl rfl
  · exact leaves_barrier_request h hn rfl rfl
  · have he := leaves_barrier_request (i := .expect a b) (op := .expect _ (bits (readG (curCore s) b) 0 16)) h hn rfl rfl
    rwa [bits_zero] at he
  · refine ⟨_, barInit_leaves h htop hlocal hhigh hlen hlist, ?_, fun i hi => mget_mset_other _ _ _ _ _ ?_⟩
    · rw [← barrierOf_eq, show (readG (curCore s) a).toNat % 1024 = bnBar (readG (curCore s) a) by simp [bnBar]]
      exact mget_mset_same _ _ _ _
    · simpa [bnBar] using hi
  · have hbad : failIf (bits (readG (curCore s) a) 30 34 != 0) (illegal slotEN) = some (Cause.precise 0x01 2 6) :=
      if_pos (by simpa [bits_above_name] using htop)
    refine trap_opnd (t := barTests s (readG (curCore s) a)) h (slot := slotEN)
      (f := fun s => popsOf (pushAccess s (newAccess s (.arrive _ false) .none 1 false)) (.arrive a)) rfl rfl rfl rfl rfl hp hbad rfl

/-! ### An arrival or expectation leaves the queue -/

/-- The head of the queue that stands under a number. -/
theorem heads_find {s : State} {k : Nat} {a : Access} {r : List Access} (h : Heads s k a r) :
    ((coreAt s k).accs.find? fun b => b.id == a.id) = some a := by simp [h.queue]

theorem heads_performable {s : State} {k : Nat} {a : Access} {r : List Access} (h : Heads s k a r) : performable s k a = true := by
  have hq := h.quiet
  simp only [performable, h.queue, List.takeWhile_cons, bne_self_eq_false, Bool.false_eq_true, if_false, List.all_nil, Bool.and_true,
    Bool.not_eq_true', List.any_eq_false]
  exact fun x hx => by simp [hq x hx]

/-- Taking the head out of the queue leaves the rest. -/
theorem heads_dropAccess {s : State} {k : Nat} {a : Access} {r : List Access} (h : Heads s k a r) {c : Core}
    (ha : c.accs = (coreAt s k).accs) (hs : c.snap = (coreAt s k).snap) : dropAccess c a.id = { c with accs := r } := by
  have hr : (r.filter fun b => b.id != a.id) = r := List.filter_eq_self.mpr fun b hb => by simpa using h.alone b hb
  simp only [dropAccess, ha, hs, h.queue, h.noSnap, List.filter_cons, bne_self_eq_false, Bool.false_eq_true, if_false, hr, Option.map_none]

/-- An operation at the head of the queue that may take effect is run by its own arm. -/
theorem accessPerform_head {s : State} {k : Nat} {a : Access} {r : List Access} (h : Heads s k a r) {w : Word} :
    (∀ x, a.op = .arrive w x → exec (.accessPerform k a.id) s = .next (barrierOp s k a w true 1)) ∧
    (∀ n, a.op = .expect w n → exec (.accessPerform k a.id) s = .next (barrierOp s k a w false n)) := by
  have hripe : ∀ op, a.op = op → ¬(releases op = true ∧ a.ripe = 0) := fun op ho hc => h.noted (ho ▸ hc.1) hc.2
  have hdue : ¬s.time < a.ripe := Nat.not_lt.mpr h.due
  constructor <;> intro x hx <;>
    (show execAccessPerform k a.id s = _; simp only [execAccessPerform, heads_find h, h.unsent, heads_performable h, Bool.not_true, Bool.or_self, Bool.false_eq_true, if_false, hx, if_neg (hripe _ hx), if_neg hdue])

/-- A local arrival or expectation joins the events of its barrier. -/
theorem barrierOp_local {s : State} {k : Nat} {a : Access} {r : List Access} (h : Heads s k a r) {w : Word}
    (hl : w.toNat / 2 ^ 10 % 2 = 1) (hx : coreExists s (ctxAt s (keyCtx k)).checked (keyCore k) = true) (arrival : Bool) (n : Nat) :
    barrierOp s k a w arrival n = onCore s k fun c =>
      { c with accs := r, barEvs := c.barEvs ++ [{ bar := w.toNat % 1024, from_ := if arrival then 0 else 2, n := n, ret := none }] } := by
  have hlocal : bnLocal w = true := by simpa [bnLocal_eq] using hl
  have hbar : bnBar w = w.toNat % 1024 := by simp [bnBar]
  simp only [barrierOp, hlocal, true_or, if_true, barHome, hx, barEvent, hbar]
  simp only [onCore, setCore, coreAt, mget_mset_same, mset_mset]
  congr 2
  exact heads_dropAccess h rfl rfl

theorem barrierOp_event {s : State} {k : Nat} {a : Access} {r : List Access} (h : Heads s k a r) {w : Word}
    (hl : w.toNat / 2 ^ 10 % 2 = 1) (hx : coreExists s (ctxAt s (keyCtx k)).checked (keyCore k) = true) (arrival : Bool) (n : Nat) :
    barrierOp s k a w arrival n = { s with cores := (barrierOp s k a w arrival n).cores } ∧
    coreAt (barrierOp s k a w arrival n) k = { coreAt s k with
      accs := r, barEvs := (coreAt s k).barEvs ++ [{ bar := w.toNat % 1024, from_ := if arrival then 0 else 2, n := n, ret := none }] } := by
  rw [barrierOp_local h hl hx]
  exact ⟨rfl, coreAt_onCore_same ..⟩

/-! ### Phases -/

/-- Two changes of one core's record are one. -/
theorem onCore_onCore (s : State) (k : Nat) (f g : Core → Core) : onCore (onCore s k f) k g = onCore s k fun c => g (f c) := by
  simp only [onCore, setCore, coreAt, mget_mset_same, mset_mset]

/-- What the end of a phase leaves of its barrier. -/
def nextPhase (x : Barrier) : Barrier := { x with ph := (x.ph + 1) % 65536, arr := 0, extra := 0 }

/-- The semaphore change that the end of a phase makes. -/
def phaseSignal (x : Barrier) : List SemOp := match x.sem with | some i => [.inc i 1] | none => []

theorem barrierFull_iff (x : Barrier) : barrierFull x = true ↔ 0 < x.base + x.extra ∧ x.arr = x.base + x.extra := by
  simp [barrierFull]

/-- A barrier whose test fails is left alone. -/
theorem testBarrier_open {s : State} {k b : Nat} (h : ¬barrierFull (barrierAt (coreAt s k) b) = true) : testBarrier s k b = s := if_neg h

/-- A barrier without a release list whose test holds: its phase ends, and its semaphore is incremented. -/
theorem testBarrier_full {s : State} {k b : Nat} (h : barrierFull (barrierAt (coreAt s k) b) = true)
    (hl : (barrierAt (coreAt s k) b).rlen = 0) : ∃ q, testBarrier s k b = onCore s k fun c =>
      { c with bars := mset c.bars b (nextPhase (barrierAt (coreAt s k) b)), semq := q
               semOps := c.semOps ++ phaseSignal (barrierAt (coreAt s k) b) } := by
  rw [testBarrier, if_pos h, completePhase]
  generalize barrierAt (coreAt s k) b = x at hl
  obtain ⟨base, extra, arr, ph, rlen, rlist, sem⟩ := x
  cases hl
  cases sem with
  | none => exact ⟨(coreAt s k).semq, by simp only [phaseSignal, List.append_nil]; rfl⟩
  | some i => exact ⟨max s.time (mget 0 (coreAt s k).semq i) |> mset (coreAt s k).semq i, rfl⟩

/-- An overflow is noted in SYNCST.BOV, and nothing else changes. -/
theorem setBov_form (c : Core) (b : Nat) : ∃ v : Word, setBov c b = { c with csr := { c.csr with syncst := v } } ∧ v.getLsbD 1 = true := by
  unfold setBov
  split
  · next h => exact ⟨_, rfl, h⟩
  · refine ⟨_, rfl, ?_⟩
    rw [getLsbD_setBits _ _ _ _ _ (by decide), getLsbD_setBits _ _ _ _ _ (by decide)]
    rfl

theorem bit1_of_getLsbD {v : Word} (h : v.getLsbD 1 = true) : v.toNat / 2 % 2 = 1 := by
  have : v.toNat.testBit 1 = true := h
  simpa [Nat.testBit, Nat.shiftRight_eq_div_pow, Nat.and_comm 1, Nat.and_one_is_mod] using this

/-- An arrival without an answer to give: it overflows, ends the phase, or counts. -/
theorem applyArrival_cases {s : State} {k : Nat} {e : BarEvent} (hret : e.ret = none)
    (hl : (barrierAt (coreAt s k) e.bar).rlen = 0) (hopen : ¬barrierFull (barrierAt (coreAt s k) e.bar) = true) :
    let x := barrierAt (coreAt s k) e.bar
    (x.arr = 65535 → applyArrival s k e = onCore s k fun c => setBov c e.bar) ∧
    (x.arr ≠ 65535 → x.arr + 1 = x.base + x.extra → ∃ q, applyArrival s k e = onCore s k fun c =>
      { c with bars := mset c.bars e.bar (nextPhase x), semq := q, semOps := c.semOps ++ phaseSignal x }) ∧
    (x.arr ≠ 65535 → x.arr + 1 ≠ x.base + x.extra →
      applyArrival s k e = onCore s k fun c => { c with bars := mset c.bars e.bar { x with arr := x.arr + 1 } }) := by
  simp only [applyArrival, hret, returnDone]
  refine ⟨fun h => ?_, fun h hfull => ?_, fun h hfull => ?_⟩
  · simp only [if_pos h]
    refine testBarrier_open ?_
    obtain ⟨v, hv, -⟩ := setBov_form (coreAt s k) e.bar
    rw [coreAt_onCore_same, hv]
    exact hopen
  · simp only [if_neg h]
    have hx : barrierAt (coreAt (onCore s k fun c =>
        { c with bars := mset c.bars e.bar { barrierAt (coreAt s k) e.bar with arr := (barrierAt (coreAt s k) e.bar).arr + 1 } }) k) e.bar =
        { barrierAt (coreAt s k) e.bar with arr := (barrierAt (coreAt s k) e.bar).arr + 1 } := by
      rw [coreAt_onCore_same]; exact mget_mset_same _ _ _ _
    obtain ⟨q, hq⟩ := testBarrier_full (by rw [hx, barrierFull_iff]; simp only; omega) (by rw [hx]; exact hl)
    refine ⟨q, hq.trans ?_⟩
    rw [hx, onCore_onCore]
    simp only [mset_mset]
    rfl
  · simp only [if_neg h]
    refine testBarrier_open ?_
    rw [coreAt_onCore_same, barrierFull_iff]
    rintro ⟨-, h2⟩
    simp only [barrierAt, mget_mset_same] at h2
    exact hfull h2

/-- A barrier with EXTRA raised by an expectation, to 65,535 − BASE at most. -/
def expecting (x : Barrier) (n : Nat) : Barrier :=
  { x with extra := if 65535 < x.base + x.extra + n then 65535 - x.base else x.extra + n }

/-- An expectation raises EXTRA; past 65,535 − BASE it is noted as an overflow. -/
theorem applyExpect_form (c : Core) (e : BarEvent) : ∃ v, applyExpect c e =
    { c with csr := { c.csr with syncst := v }, bars := mset c.bars e.bar (expecting (barrierAt c e.bar) e.n) } := by
  unfold applyExpect expecting
  by_cases h : 65535 < (barrierAt c e.bar).base + (barrierAt c e.bar).extra + e.n
  · obtain ⟨v, hv, -⟩ := setBov_form
      { c with bars := mset c.bars e.bar { barrierAt c e.bar with extra := 65535 - (barrierAt c e.bar).base } } e.bar
    exact ⟨v, by simp only [h, if_true]; exact hv⟩
  · exact ⟨c.csr.syncst, by simp only [h, if_false]⟩

/-- What the end of a cycle does with one barrier event. -/
def eventApplied (s : State) (k : Nat) (e : BarEvent) : State :=
  if e.from_ < 2 then applyArrival s k e else if e.from_ = 2 then expectAt s k e else s

/-- The only event of a core's cycle, for a resident context and a barrier whose test fails. -/
theorem barrierArrivalApplied_one {s : State} {k : Nat} {e : BarEvent} (he : (coreAt s k).barEvs = [e])
    (hr : (ctxAt s (keyCtx k)).resident = true) (hopen : ¬barrierFull (barrierAt (coreAt s k) e.bar) = true) {c : Core}
    (hc : eventApplied (onCore s k fun c => { c with barEvs := [] }) k e = setCore s k c) :
    exec (.barrierArrivalApplied k) s = .next (setCore s k c) := by
  have htest : testBarrier (onCore s k fun c => { c with barEvs := [] }) k e.bar = onCore s k fun c => { c with barEvs := [] } :=
    testBarrier_open (by rw [coreAt_onCore_same]; exact hopen)
  have htake : takeBars (onCore s k fun c => { c with barEvs := [] }) k [e.bar] = onCore s k fun c => { c with barEvs := [] } := if_pos hr
  have hkeep : keepBars (keepCsr (onCore s k fun c => { c with barEvs := [] }) (setCore s k c) k 0x018) k [e.bar] = setCore s k c := by
    rw [keepCsr, if_pos (.inl hr)]
    exact if_pos hr
  show execBarrierArrivalApplied k s = _
  simp only [execBarrierArrivalApplied, he, List.map_cons, List.map_nil, (List.nodup_singleton e.bar).dedup, htake, List.foldl_cons, List.foldl_nil,
    htest, List.filter_cons, List.filter_nil]
  rw [← hkeep, ← hc, eventApplied]
  have hfrom : e.from_ = 0 ∨ e.from_ = 1 ∨ e.from_ = 2 ∨ 2 < e.from_ := by omega
  rcases hfrom with h | h | h | h
  · simp [h]
  · simp [h]
  · simp [h]
  · simp [show e.from_ ≠ 0 by omega, show e.from_ ≠ 1 by omega, show e.from_ ≠ 2 by omega, show ¬e.from_ < 2 by omega]

/-- R43: what the one arrival or expectation of a cycle leaves, from what it does to the core's record. -/
theorem barrierArrivalApplied_leaves {s : State} {k : Nat} {e : BarEvent} (he : (coreAt s k).barEvs = [e])
    (hr : (ctxAt s (keyCtx k)).resident = true) (hret : e.ret = none) (hl : (barrierAt (coreAt s k) e.bar).rlen = 0)
    (hopen : ¬barrierFull (barrierAt (coreAt s k) e.bar) = true) :
    ∃ c, exec (.barrierArrivalApplied k) s = .next (setCore s k c) ∧ c.barEvs = [] ∧
      (∀ i, i ≠ e.bar → barrierAt c i = barrierAt (coreAt s k) i) ∧ c.g = (coreAt s k).g ∧
      let x := barrierAt (coreAt s k) e.bar
      (e.from_ < 2 → x.arr < 65535 →
        if x.arr + 1 = x.base + x.extra then barrierAt c e.bar = nextPhase x ∧ c.semOps = (coreAt s k).semOps ++ phaseSignal x
        else barrierAt c e.bar = { x with arr := x.arr + 1 } ∧ c.semOps = (coreAt s k).semOps) ∧
      (e.from_ < 2 → x.arr = 65535 → c.csr.syncst.getLsbD 1 = true) ∧
      (e.from_ = 2 → barrierAt c e.bar = expecting x e.n) := by
  have happ := fun {c} => barrierArrivalApplied_one (c := c) he hr hopen
  have hx : barrierAt (coreAt (onCore s k fun c => { c with barEvs := [] }) k) e.bar = barrierAt (coreAt s k) e.bar := by
    rw [coreAt_onCore_same]; rfl
  have hother : ∀ (x : Barrier) i, i ≠ e.bar → mget Barrier.init (mset (coreAt s k).bars e.bar x) i = barrierAt (coreAt s k) i :=
    fun x i hi => mget_mset_other _ _ _ _ _ hi
  obtain ⟨hover, hend, hcount⟩ := applyArrival_cases (s := onCore s k fun c => { c with barEvs := [] }) (k := k) hret (by rw [hx]; exact hl)
    (by rw [hx]; exact hopen)
  rw [hx] at hover hend hcount
  simp only [onCore_onCore] at hover hend hcount
  rcases Nat.lt_trichotomy e.from_ 2 with hfrom | hfrom | hfrom
  · by_cases h : (barrierAt (coreAt s k) e.bar).arr = 65535
    · obtain ⟨v, hv, hbit⟩ := setBov_form { coreAt s k with barEvs := [] } e.bar
      exact ⟨_, happ ((if_pos hfrom).trans ((hover h).trans (congrArg (setCore s k) hv))), rfl, fun _ _ => rfl, rfl,
        fun _ hlt => absurd h hlt.ne, fun _ _ => hbit, fun h2 => absurd h2 hfrom.ne⟩
    · by_cases hfull : (barrierAt (coreAt s k) e.bar).arr + 1 = (barrierAt (coreAt s k) e.bar).base + (barrierAt (coreAt s k) e.bar).extra
      · obtain ⟨q, hq⟩ := hend h hfull
        refine ⟨_, happ ((if_pos hfrom).trans hq), rfl, hother _, rfl, fun _ _ => ?_, fun _ ha => absurd ha h, fun h2 => absurd h2 hfrom.ne⟩
        rw [if_pos hfull]
        exact ⟨mget_mset_same _ _ _ _, rfl⟩
      · refine ⟨_, happ ((if_pos hfrom).trans (hcount h hfull)), rfl, hother _, rfl, fun _ _ => ?_, fun _ ha => absurd ha h, fun h2 => absurd h2 hfrom.ne⟩
        rw [if_neg hfull]
        exact ⟨mget_mset_same _ _ _ _, rfl⟩
  · obtain ⟨v, hv⟩ := applyExpect_form { coreAt s k with barEvs := [] } e
    have hexp : eventApplied (onCore s k fun c => { c with barEvs := [] }) k e = setCore s k (applyExpect { coreAt s k with barEvs := [] } e) := by
      simp only [eventApplied, hfrom, lt_irrefl, if_false, if_true, expectAt, hret, returnDone, onCore_onCore]
      rfl
    exact ⟨_, happ (hexp.trans (congrArg (setCore s k) hv)), rfl, hother _, rfl, fun h2 => absurd hfrom h2.ne, fun h2 => absurd hfrom h2.ne, fun _ => mget_mset_same _ _ _ _⟩
  · exact ⟨_, happ ((if_neg (by omega)).trans (if_neg (by omega))), rfl, fun _ _ => rfl, rfl, fun h2 => absurd hfrom (by omega),
      fun h2 => absurd hfrom (by omega), fun h2 => absurd hfrom (by omega)⟩

/-- R43: a phase whose target an expectation has met completes at the first test of a cycle. -/
theorem barrierDeferredCompletion_full {s : State} {k b : Nat} (hr : (ctxAt s (keyCtx k)).resident = true)
    (hfull : barrierFull (barrierAt (coreAt s k) b) = true) (hl : (barrierAt (coreAt s k) b).rlen = 0) :
    ∃ q, exec (.barrierDeferredCompletion k b) s = .next (onCore s k fun c =>
      { c with bars := mset c.bars b (nextPhase (barrierAt (coreAt s k) b)), semq := q
               semOps := c.semOps ++ phaseSignal (barrierAt (coreAt s k) b) }) := by
  obtain ⟨q, hq⟩ := testBarrier_full hfull hl
  refine ⟨q, ?_⟩
  show execBarrierDeferredCompletion k b s = _
  rw [execBarrierDeferredCompletion, takeBars, if_pos hr, hq]
  exact congrArg _ (if_pos hr)

theorem barrierPhases : Stmt.BarrierPhases := by
  refine ⟨fun s k a r w h hl hx => ⟨fun x hop => ?_, fun n hop => ?_⟩, fun s k e he hr hret => ?_, fun s k b hr => ?_⟩
  · exact ⟨_, (accessPerform_head h).1 x hop, barrierOp_event h hl hx true 1⟩
  · exact ⟨_, (accessPerform_head h).2 n hop, barrierOp_event h hl hx false n⟩
  · intro x hl hopen
    obtain ⟨c, hexec, hevs, hother, hg, harr, hover, hexp⟩ :=
      barrierArrivalApplied_leaves he hr hret hl (by rw [barrierFull_iff]; exact hopen)
    refine ⟨_, hexec, ?_⟩
    rw [coreAt_setCore_same]
    refine ⟨hevs, hother, rfl, rfl, hg, harr, fun h2 h => bit1_of_getLsbD (hover h2 h), fun h2 hbase => ?_⟩
    refine (hexp h2).trans ?_
    have : (if 65535 < x.base + x.extra + e.n then 65535 - x.base else x.extra + e.n) = min (x.extra + e.n) (65535 - x.base) := by
      split <;> omega
    rw [← this]
    rfl
  · intro x h0 heq hl
    obtain ⟨q, hq⟩ := barrierDeferredCompletion_full (s := s) (k := k) (b := b) hr ((barrierFull_iff _).mpr ⟨h0, heq⟩) hl
    refine ⟨_, hq, rfl, ?_⟩
    rw [coreAt_onCore_same]
    exact ⟨mget_mset_same _ _ _ _, fun i hi => mget_mset_other _ _ _ _ _ hi, rfl, rfl⟩

/-- Settles O29: a barrier instruction queues its request; an arrival overflows, counts or ends the phase, and an expectation raises EXTRA. -/
theorem barriers : Obligations.Barriers := ⟨barrierInstructionsIssue, barrierPhases⟩

end Sys2Proof.Machine
end

section
/-! PROOFS. Traps taken after their cause (R22, R165, R225, R226). -/

namespace Sys2Proof.Machine

open Sys2Proof.Stmt

variable {s : State} {k : Nat} {r : Report}

theorem wdogLimit_eq (c : Core) : wdogLimit c = c.csr.wdog.toNat % 2 ^ 32 := bits_zero _ _

/-- The watchdog of a held bundle decides. -/
theorem starvationTrap_held {h : Hold} (hh : (coreAt s k).hold = some h) (ht : (coreAt s k).task.isSome = true)
    (hs : (coreAt s k).stop = none) :
    exec (.starvationTrap k) s =
      .next (if wdogLimit (coreAt s k) ≤ (coreAt s k).held then takeTrap s k (starvationCause h) else s) := by
  show execStarvationTrap k s = _
  simp only [execStarvationTrap, hh, ht, hs, Option.isNone_none, Bool.true_and, decide_eq_true_eq]
  split <;> rfl

/-- The only report of a core is the one that it takes. -/
theorem dropReport_only (h : (coreAt s k).reports = [r]) :
    (onCore s k fun c => dropReport c r) = onCore s k fun c => { c with reports := [] } := by
  have : dropReport (coreAt s k) r = { coreAt s k with reports := [] } := by simp [dropReport, h]
  rw [onCore, this, onCore]

theorem pendingReports_only (h : (coreAt s k).reports = [r]) (ha : (coreAt s k).asyncs = []) : pendingReports (coreAt s k) = [r] := by
  simp [pendingReports, h, ha]

theorem pendingTrapTaken_only (h : (coreAt s k).reports = [r]) (ha : (coreAt s k).asyncs = []) (hs : (coreAt s k).stop = none)
    (ht : (coreAt s k).task.isSome = true) :
    exec (.pendingTrapTaken k) s = .next (takeReported (onCore s k fun c => { c with reports := [] }) k r) := by
  show execPendingTrapTaken k s = _
  simp only [execPendingTrapTaken, Option.isNone_eq_false_iff.mpr ht, hs, Option.isSome_none, Bool.or_self, Bool.false_eq_true, if_false,
    pendingReports_only h ha, lowestReport, List.foldl_cons, List.foldl_nil, dropReport_only h]

theorem trapBetweenTasks_only (h : (coreAt s k).reports = [r]) (ha : (coreAt s k).asyncs = []) (hs : (coreAt s k).stop = none)
    (ht : (coreAt s k).task = none) (hretry : r.retry = false) (hcp : ¬(r.code = 3 ∧ r.sub = 2)) :
    exec (.trapBetweenTasks k) s =
      .next (stopCore (onCore s k fun c => { c with reports := [] }) k { causeOf r with eng := true } true (stagedEntry s k)) := by
  have hres : cpResolves (reportCause r) = false := by
    simpa [cpResolves, reportCause] using hcp
  show execTrapBetweenTasks k s = _
  simp only [execTrapBetweenTasks, ht, hs, Option.isSome_none, Bool.or_self, Bool.false_eq_true, if_false, h, ha, List.append_nil,
    lowestReport, List.foldl_cons, List.foldl_nil, dropReport_only h, hretry, hres]
  rfl

/-- With no report nothing is taken, at a boundary or between tasks. -/
theorem no_report_no_trap (h : (coreAt s k).reports = []) (ha : (coreAt s k).asyncs = []) :
    exec (.pendingTrapTaken k) s = .next s ∧ exec (.trapBetweenTasks k) s = .next s := by
  constructor
  · show execPendingTrapTaken k s = _
    simp only [execPendingTrapTaken, pendingReports, h, ha, ite_self, List.append_nil, lowestReport, List.foldl_nil]
  · show execTrapBetweenTasks k s = _
    simp only [execTrapBetweenTasks, h, ha, List.append_nil, lowestReport, List.foldl_nil, ite_self]

/-- Settles O40: the watchdog of a held bundle decides about its starvation trap, and a core's only report is the one that it takes. -/
theorem deferredTraps : Obligations.DeferredTraps := by
  refine ⟨fun s k h hh ht hs => ⟨fun hlim => ?_, fun hlim => ?_⟩, fun s k r h ha hs => ⟨fun ht => ⟨fun hretry => ?_, fun hretry => ?_⟩, ?_⟩,
    fun s k => no_report_no_trap⟩
  · rw [starvationTrap_held hh ht hs, if_pos (by rwa [wdogLimit_eq])]
    rfl
  · rw [starvationTrap_held hh ht hs, if_neg (by rw [wdogLimit_eq]; omega)]
  · rw [pendingTrapTaken_only h ha hs ht, takeReported, if_neg (by simp [hretry])]
    rfl
  · rw [pendingTrapTaken_only h ha hs ht, takeReported, if_pos hretry]
    rfl
  · exact trapBetweenTasks_only h ha hs

end Sys2Proof.Machine
end

section
/-! PROOFS. Bundles: their header, bundles without syllables, their commit (R76 to R78, R95, R208). -/

namespace Sys2Proof.Machine

open Sys2Proof.Stmt

/-! ### Headers -/

theorem hWen_eq (h : Nat) : hWen h = decide (h / 2 ^ 28 % 2 = 1) := by simp [hWen, bit, beq_eq_decide]
theorem hWtk_eq (h : Nat) : hWtk h = decide (h / 2 ^ 29 % 2 = 1) := by simp [hWtk, bit, beq_eq_decide]
theorem hSen_eq (h : Nat) : hSen h = decide (h / 2 ^ 30 % 2 = 1) := by simp [hSen, bit, beq_eq_decide]
theorem hSdone_eq (h : Nat) : hSdone h = decide (h / 2 ^ 27 % 2 = 1) := by simp [hSdone, bit, beq_eq_decide]
theorem hPfx_eq (h : Nat) : hPfx h = decide (h / 2 ^ 31 % 2 = 1) := by simp [hPfx, bit, beq_eq_decide]

/-- A header that sets wait fields without WEN breaks R78. -/
theorem headerBad_of_wait {h : Nat} (hwen : h / 2 ^ 28 % 2 = 0) (hset : h / 2 ^ 29 % 2 = 1 ∨ h % 65536 ≠ 0) : headerBad h = true := by
  have hw : hWen h = false := by rw [hWen_eq]; exact decide_eq_false (by omega)
  have hf : (hWtk h || fld h 0 16 != 0) = true := by
    rw [hWtk_eq, Bool.or_eq_true, decide_eq_true_iff, bne_iff_ne, fld, Nat.pow_zero, Nat.div_one]
    exact hset
  rw [headerBad, hw, hf]
  rfl

/-- A bundle with a bad header is illegal at its header. -/
theorem encodingFails_header (c : Core) {b : Bundle} (h : headerBad (bundlePart b 0) = true) : encodingFails c [b] = some (7, 0) := by
  have : headerFails c [b] 0 b = true := by simp [headerFails, h]
  simp [encodingFails, staged, List.range_succ_eq_map, this, slotHdr]

theorem trapHere_of_noViol {s : State} {k : Cause} (h : k.viol = none) : trapHere s k = takeTrap s s.cur k := by
  simp [trapHere, violNotice, h]

/-- Where a bundle's header is bad the issue traps at the header. -/
theorem bundleIssue_header_trap {s : State} {b : Bundle} (hafter : (curCore s).after = .next) (h : headerBad (bundlePart b 0) = true) :
    exec (.bundleIssue [b]) s = .next (takeTrap s s.cur (Cause.precise 0x01 1 7)) := by
  show execBundleIssue _ s = _
  simp only [execBundleIssue, hafter, reduceCtorEq, or_self, if_false, encodingFails_header _ h]
  exact congrArg _ (trapHere_of_noViol rfl)

/-- The header that waits for n at semaphore w, takes it, and signals i to semaphore g. -/
def waitTakeSignal (w n g i : Nat) : Nat := w + n * 2 ^ 8 + g * 2 ^ 16 + i * 2 ^ 24 + 2 ^ 28 + 2 ^ 29 + 2 ^ 30

/-- Its fields. -/
theorem waitTakeSignal_fields {w n g i : Nat} (hw : w < 256) (hn : n < 256) (hg : g < 256) (hi : i < 8) :
    let h := waitTakeSignal w n g i
    h < 2 ^ 32 ∧ hPfx h = false ∧ hSen h = true ∧ hWtk h = true ∧ hWen h = true ∧ hSdone h = false ∧ hSinc h = i ∧ hSsem h = g ∧
      hWth h = n ∧ hWsem h = w := by
  simp only [hPfx_eq, hSen_eq, hWtk_eq, hWen_eq, hSdone_eq, hSinc, hSsem, hWth, hWsem, fld, waitTakeSignal, decide_eq_false_iff_not,
    decide_eq_true_eq]
  omega

/-! ### The live stage of a bundle outside loops -/

/-- A loopx of the bundle cuts the iterations of the loop and nothing else. -/
theorem cutLoop_form (c : Core) (ws : List Bundle) : ∃ n, cutLoop c ws = { c with seq := { c.seq with n := n } } := by
  unfold cutLoop
  split
  · exact ⟨_, rfl⟩
  · exact ⟨c.seq.n, rfl⟩

theorem stageLive_outside {c : Core} (h : c.seq.active = false) (sg : Nat) : stageLive c sg = true := by simp [stageLive, h]

/-- Outside loops the header of the bundle acts. -/
theorem liveHeaders_outside {c : Core} (h : c.seq.active = false) (b : Bundle) : liveHeaders c [b] = [bundlePart b 0] := by
  simp [liveHeaders, staged, List.range_succ_eq_map, stageLive_outside h]

/-- A bundle whose semaphore is below its count is held at its header. -/
theorem bundleIssue_semaphore_hold {s : State} {b : Bundle} (hafter : (curCore s).after = .next) (hloop : (curCore s).seq.active = false)
    (henc : encodingFails (curCore s) [b] = none) (hwen : hWen (bundlePart b 0) = true)
    (hlow : semAt (curCore s) (hWsem (bundlePart b 0)) < hWth (bundlePart b 0)) :
    exec (.bundleIssue [b]) s = .next (noteHold s { sub := 1, obj := hWsem (bundlePart b 0), tl := 15, slot := slotHdr }) := by
  obtain ⟨n, hcut⟩ := cutLoop_form (curCore s) [b]
  have hlive : liveHeaders (cutLoop (curCore s) [b]) [b] = [bundlePart b 0] := liveHeaders_outside (by rw [hcut]; exact hloop) b
  have hhold : headerHold (curCore s) [bundlePart b 0] = some { sub := 1, obj := hWsem (bundlePart b 0), tl := 15, slot := slotHdr } := by
    rw [headerHold, List.find?_cons_of_pos (by rw [hwen, Bool.true_and]; exact decide_eq_true hlow)]
  show execBundleIssue _ s = _
  simp only [execBundleIssue, hafter, reduceCtorEq, or_self, if_false, henc, hlive, hhold]

/-! ### Bundles without syllables -/

/-- Parts 1 to 7 of the bundle are zero. -/
def NoSyllables (b : Bundle) : Prop := ∀ k, 1 ≤ k → k ≤ 7 → bundlePart b k = 0

/-- A header alone: its word, and no syllable. -/
theorem header_alone {h : Nat} (hh : h < 2 ^ 32) :
    bundlePart (BitVec.ofNat 256 h) 0 = h ∧ NoSyllables (BitVec.ofNat 256 h) := by
  have hto : (BitVec.ofNat 256 h).toNat = h := by rw [BitVec.toNat_ofNat]; omega
  refine ⟨by simp only [bundlePart, hto]; omega, fun k h1 _ => ?_⟩
  have : h < 2 ^ (32 * k) := hh.trans_le (Nat.pow_le_pow_right (by omega) (by omega))
  rw [bundlePart, hto, Nat.div_eq_of_lt this, Nat.zero_mod]

theorem sylsOf_empty {b : Bundle} (h : NoSyllables b) : sylsOf [b] = [] := by
  simp only [sylsOf, List.flatMap_eq_nil_iff, List.mem_range]
  intro k hk
  simp [staged, List.range_succ_eq_map, sylAt, h (k + 1) (by omega) (by omega)]

theorem cutLoop_empty (c : Core) {b : Bundle} (h : NoSyllables b) : cutLoop c [b] = c := by simp [cutLoop, sylsOf_empty h]

/-- Such a bundle with a good header, and no PFX, is legal. -/
theorem encodingFails_empty (c : Core) {b : Bundle} (h : NoSyllables b) (hbad : headerBad (bundlePart b 0) = false)
    (hpfx : hPfx (bundlePart b 0) = false) : encodingFails c [b] = none := by
  have hpart : ∀ k, 1 ≤ k → k ≤ 7 → partFails c [b] k 0 b = false := fun k h1 h7 => by simp [partFails, hpfx, h k h1 h7]
  have hhead : headerFails c [b] 0 b = false := by simp [headerFails, hbad, hpfx]
  simp only [encodingFails, List.head?_eq_none_iff, List.flatMap_eq_nil_iff, List.mem_range]
  intro k hk
  by_cases h0 : k = 0
  · simp [staged, List.range_succ_eq_map, h0, hhead]
  · simp [staged, List.range_succ_eq_map, h0, hpart k (by omega) (by omega)]

theorem posedTests_empty (s : State) : posedTests [] s = [] := rfl

/-- A bundle without syllables that its header does not hold commits at once. -/
theorem bundleIssue_empty {s : State} {b : Bundle} (hafter : (curCore s).after = .next) (hloop : (curCore s).seq.active = false)
    (h : NoSyllables b) (hbad : headerBad (bundlePart b 0) = false) (hpfx : hPfx (bundlePart b 0) = false)
    (hhold : headerHold (curCore s) [bundlePart b 0] = none) :
    exec (.bundleIssue [b]) s = .next (commitBundle (curCore s) [bundlePart b 0] (onCur s (headerAcquires [bundlePart b 0]))) := by
  show execBundleIssue _ s = _
  simp only [execBundleIssue, hafter, reduceCtorEq, or_self, if_false, encodingFails_empty _ h hbad hpfx, cutLoop_empty _ h,
    liveHeaders_outside hloop, hhold, sylsOf_empty h, List.filter_nil, posedTests_empty, runAll]
  rfl

/-! ### Commit -/

/-- The header of a bundle that owes no signal acts on the semaphore changes only. -/
theorem headerActs_one (h : Nat) (c : Core) : headerActs [h] c = { c with semOps := c.semOps ++
    (if hWen h && hWtk h then [.take (hWsem h) (hWth h)] else []) ++ (if hSen h && !hSdone h then [.inc (hSsem h) (hSinc h)] else []) } := by
  simp only [headerActs, List.foldl_cons, List.foldl_nil, semOp]
  split <;> split <;> simp

/-- What the commit does to the core's record before it moves on. -/
def commitCore (before : Core) (hs : List Nat) (c : Core) : Core :=
  let c := headerActs hs c
  let c := { c with sdone := c.sdone ++ ((hs.filter fun h => hSen h && hSdone h).map (owedBy before c)) }
  let c := countLock before.lock.isSome (applyPops c)
  { c with icycle := c.icycle + 1, held := 0, hold := none, mismatch := 0, parity := 0, phase := .alone, slot := 0, stg := 0, posed := [] }

theorem commitBundle_eq (before : Core) (hs : List Nat) (s : State) :
    commitBundle before hs s = followUp (markBegun (onCur s (commitCore before hs)) s.cur) := rfl

/-- With no lock, no word to pop and no signal to owe, only the header's changes stand beside the counts. -/
theorem commitCore_plain {before c : Core} {h : Nat} (hlock : c.lock = none) (hpops : c.pops = []) (howed : (hSen h && hSdone h) = false) :
    commitCore before [h] c = { headerActs [h] c with
      icycle := c.icycle + 1, held := 0, hold := none, mismatch := 0, parity := 0, phase := .alone, slot := 0, stg := 0, posed := [] } := by
  obtain ⟨⟩ := c
  cases hlock
  cases hpops
  simp only [commitCore, headerActs_one, List.filter_cons, howed, Bool.false_eq_true, if_false, List.filter_nil, List.map_nil, List.append_nil]
  rfl

/-- A change of the issuing core's record is known by what it makes of that record. -/
theorem onCur_congr {s : State} {f g : Core → Core} (h : f (curCore s) = g (curCore s)) : onCur s f = onCur s g := by
  show setCore s s.cur (f (curCore s)) = setCore s s.cur (g (curCore s))
  rw [h]

theorem onCur_eq_coreSet {s : State} {f g : Core → Core} (h : f (curCore s) = g (curCore s)) : onCur s f = coreSet s s.cur g := onCur_congr h

theorem markBegun_begun {s : State} {k : Nat} (h : (coreAt s k).begun = true) : markBegun s k = s := if_pos h

theorem followUp_next {s : State} (h : (curCore s).after = .next) : followUp s = onCur s advance := by simp only [followUp, h]

/-- Outside loops a core moves on to the next bundle. -/
theorem advance_outside {c : Core} (h : c.seq.active = false) : advance c = { c with pc := c.pc + 32 } := if_neg (by simp [h])

/-- The commit of a bundle of a core that issues plainly, whose header owes no signal. -/
theorem commitBundle_plain {s : State} {before : Core} {h : Nat} (hp : Plainly (curCore s)) (howed : (hSen h && hSdone h) = false) :
    commitBundle before [h] s = onCur s fun c => committed (headerActs [h] c) := by
  have hcore := commitCore_plain (before := before) hp.lock hp.pops howed
  have hcur : curCore (onCur s (commitCore before [h])) = commitCore before [h] (curCore s) := curCore_onCur _ _
  rw [headerActs_one] at hcore
  rw [commitBundle_eq, markBegun_begun, followUp_next, onCur_onCur]
  · refine onCur_congr ?_
    rw [advance_outside, hcore, headerActs_one]
    · rfl
    · rw [hcore]; exact hp.loop
  · rw [hcur, hcore]; exact hp.after
  · show (curCore (onCur s (commitCore before [h]))).begun = true
    rw [hcur, hcore]; exact hp.begun

/-- The same after the header's wait, if any, has been satisfied. -/
theorem commitBundle_acquiring {s : State} {h : Nat} (hp : Plainly (curCore s)) (howed : (hSen h && hSdone h) = false) :
    commitBundle (curCore s) [h] (onCur s (headerAcquires [h])) = onCur s fun c => committed (headerActs [h] (headerAcquires [h] c)) := by
  obtain ⟨hafter, hbegun, hloop, hlock, hpops, hroom⟩ := hp
  have hp' : Plainly (curCore (onCur s (headerAcquires [h]))) := by
    rw [curCore_onCur]
    exact ⟨hafter, hbegun, hloop, hlock, hpops, hroom⟩
  rw [commitBundle_plain hp' howed, onCur_onCur]

/-! ### The end of a task -/

theorem dropSnapshot_g (c : Core) : (dropSnapshot c).g = c.g := by
  have hfold : ∀ (ds : List Dest) (c : Core), (ds.foldl (fun c d => match d with
      | .fo i => let f := fifoAt c i; setFifo c i { f with resv := f.resv - 1 }
      | .none | .g _ | .hb _ | .p _ | .v _ | .k _ | .shape _ _ => c) c).g = c.g := by
    intro ds
    induction ds with
    | nil => exact fun _ => rfl
    | cons d ds ih =>
      intro c
      rw [List.foldl_cons, ih]
      cases d <;> rfl
  unfold dropSnapshot
  split
  · rfl
  · exact hfold _ c

/-- A task without a record and a DONEREC ends: its core's record changes, and its launch, if it has one, counts it off. -/
theorem endTask_form {s : State} {k : Nat} {x : Task} (ht : (coreAt s k).task = some x) (hr : x.record = none) (hd : x.done = 0) :
    ∃ c : Core, c.task = none ∧ c.stop = none ∧ c.g = (coreAt s k).g ∧ endTask s k =
      match x.launch.bind fun l => launchOf s l.1 with
      | some l => setLaunch (setCore s k c) { l with running := l.running - 1 }
      | none => setCore s k c := by
  refine ⟨_, ?_, ?_, ?_, by simp only [endTask, ht, hr, hd, if_true]; rfl⟩
  · rfl
  · rfl
  · exact dropSnapshot_g _

theorem bundleIssue_tend {s : State} (ws : List Bundle) (h : (curCore s).after = .tend) : exec (.bundleIssue ws) s =
    .next (if loadsPending (curCore s) then noteHold s { sub := 4, obj := 0x103, tl := 15, slot := slotBR } else endTask s s.cur) := by
  show execBundleIssue _ s = _
  simp only [execBundleIssue, h, true_or, if_true, retire]

/-- A bundle of nops issues. -/
theorem bundleIssue_nops {s : State} (hp : Plainly (curCore s)) : exec (.bundleIssue [0]) s = .next (coreSet s s.cur fun c => committed c) := by
  have hno : NoSyllables 0 := fun k _ _ => by simp [bundlePart]
  have hhead : bundlePart 0 0 = 0 := by decide
  rw [bundleIssue_empty hp.after hp.loop hno (by rw [hhead]; decide) (by rw [hhead]; decide) (by rw [hhead]; rfl), hhead,
    commitBundle_acquiring hp (by decide)]
  refine congrArg _ (onCur_eq_coreSet ?_)
  rw [headerActs_one]
  simp [headerAcquires, hWen_eq, hSen_eq]

/-- A bundle whose header's wait is satisfied issues, with its take and its signal. -/
theorem bundleIssue_satisfied {s : State} {h : Nat} (hlt : h < 2 ^ 32) (hpfx : hPfx h = false) (hsen : hSen h = true) (hwtk : hWtk h = true)
    (hwen : hWen h = true) (hsdone : hSdone h = false) (hle : hWth h ≤ mget 0 (curCore s).sems (hWsem h)) (hp : Plainly (curCore s)) :
    exec (.bundleIssue [BitVec.ofNat 256 h]) s = .next (coreSet s s.cur fun c =>
      committed { c with q := max c.q (mget 0 c.semq (hWsem h)), semOps := c.semOps ++ [.take (hWsem h) (hWth h), .inc (hSsem h) (hSinc h)] }) := by
  obtain ⟨hpart, hno⟩ := header_alone hlt
  have hbad : headerBad h = false := by simp [headerBad, hwen, hsen, hpfx]
  have hhold : headerHold (curCore s) [h] = none := by simp [headerHold, hwen, hsdone, semAt, Nat.not_lt.mpr hle]
  rw [bundleIssue_empty hp.after hp.loop hno (by rw [hpart]; exact hbad) (by rw [hpart]; exact hpfx) (by rw [hpart]; exact hhold), hpart,
    commitBundle_acquiring hp (by rw [hsdone, Bool.and_false])]
  refine congrArg _ (onCur_eq_coreSet ?_)
  simp [headerActs_one, headerAcquires, hwen, hwtk, hsen, hsdone]

theorem bundleIssue_waitTakeSignal {s : State} {w n g i : Nat} (hw : w < 256) (hn : n < 256) (hg : g < 256) (hi : i < 8)
    (hle : n ≤ mget 0 (curCore s).sems w) (hp : Plainly (curCore s)) :
    exec (.bundleIssue [BitVec.ofNat 256 (waitTakeSignal w n g i)]) s = .next (coreSet s s.cur fun c =>
      committed { c with q := max c.q (mget 0 c.semq w), semOps := c.semOps ++ [.take w n, .inc g i] }) := by
  obtain ⟨hlt, hpfx, hsen, hwtk, hwen, hsdone, hsinc, hssem, hwth, hwsem⟩ := waitTakeSignal_fields hw hn hg hi
  have h := bundleIssue_satisfied hlt hpfx hsen hwtk hwen hsdone (by rw [hwth, hwsem]; exact hle) hp
  rwa [hwth, hwsem, hsinc, hssem] at h

/-- A bundle whose semaphore is below its count is held and names it. -/
theorem bundleIssue_below {s : State} {b : Bundle} (hafter : (curCore s).after = .next) (hloop : (curCore s).seq.active = false)
    (henc : encodingFails (curCore s) [b] = none) (hwen : bundlePart b 0 / 2 ^ 28 % 2 = 1)
    (hlow : mget 0 (curCore s).sems (bundlePart b 0 % 256) < bundlePart b 0 / 256 % 256) :
    exec (.bundleIssue [b]) s = .next (coreSet s s.cur fun c =>
      { c with held := c.held + 1, hold := some { sub := 1, obj := bundlePart b 0 % 256, tl := 15, slot := 7 } }) := by
  have hsem : hWsem (bundlePart b 0) = bundlePart b 0 % 256 := by simp [hWsem, fld]
  have hth : hWth (bundlePart b 0) = bundlePart b 0 / 256 % 256 := by simp [hWth, fld]
  rw [bundleIssue_semaphore_hold hafter hloop henc (by rw [hWen_eq]; exact decide_eq_true hwen) (by rw [hsem, hth]; exact hlow)]
  refine congrArg _ (onCur_eq_coreSet ?_)
  rw [hsem, if_neg (show bundlePart b 0 % 256 ≠ 0x105 by omega)]
  rfl

/-- A tend that has issued waits for its task's loads. -/
theorem bundleIssue_tend_waits {s : State} (ws : List Bundle) (hafter : (curCore s).after = .tend) (h : loadsPending (curCore s) = true) :
    ∃ t, exec (.bundleIssue ws) s = .next t ∧ t = { s with cores := t.cores } ∧ (curCore t).hold.isSome = true ∧
      (curCore t).task = (curCore s).task := by
  rw [bundleIssue_tend ws hafter, if_pos h]
  exact ⟨_, rfl, rfl, by rw [noteHold, curCore_onCur]; rfl, by rw [noteHold, curCore_onCur]⟩

/-- Once they have returned, a task without a record, a DONEREC and a launch ends. -/
theorem bundleIssue_tend_ends {s : State} (ws : List Bundle) {x : Task} (hafter : (curCore s).after = .tend)
    (h : loadsPending (curCore s) = false) (ht : (curCore s).task = some x) (hr : x.record = none) (hd : x.done = 0) (hl : x.launch = none) :
    ∃ t, exec (.bundleIssue ws) s = .next t ∧ t = { s with cores := t.cores } ∧ (curCore t).task = none ∧ (curCore t).g = (curCore s).g := by
  obtain ⟨c, htask, -, hg, he⟩ := endTask_form (s := s) (k := s.cur) ht hr hd
  rw [bundleIssue_tend ws hafter, if_neg (by simp [h]), he, hl]
  refine ⟨_, rfl, rfl, ?_⟩
  show (coreAt (setCore s s.cur c) s.cur).task = none ∧ (coreAt (setCore s s.cur c) s.cur).g = (coreAt s s.cur).g
  rw [coreAt_setCore_same]
  exact ⟨htask, hg⟩

/-- Settles O54: a bundle without syllables goes on or is held by its header alone, and a core that keeps a tend ends its task once its
loads have returned. -/
theorem bundlesIssue : Obligations.BundlesIssue := fun _ =>
  ⟨bundleIssue_nops, fun _ hafter hwen hset => bundleIssue_header_trap hafter (headerBad_of_wait hwen hset),
    fun _ => bundleIssue_below, fun _ _ _ _ => bundleIssue_waitTakeSignal, bundleIssue_tend_waits, fun ws _ => bundleIssue_tend_ends ws⟩

end Sys2Proof.Machine
end

section
/-! PROOFS. A step of the die: what the outside and the units have, a core's issue, the end of a cycle (R20, R76, R80). -/

namespace Sys2Proof.Machine

open Sys2Proof.Stmt

/-! ### What is tried first -/

theorem step_agenda {s : State} {i : Instr} {r : List Instr} (h : s.agenda = i :: r) : step s = exec i { s with agenda := r } := by
  simp only [step, pick, h]

theorem step_todo {s : State} {i : Instr} {r : List Instr} (ha : s.agenda = []) (hs : s.stage = 1 ∨ s.stage = 2) (h : s.todo = i :: r) :
    step s = exec i { s with todo := r } := by
  rcases hs with hs | hs <;> simp [step, pick, pickUnit, pickBarrier, ha, hs, h]

/-- With no core and nothing waiting the cycle ends. -/
theorem step_idle {s : State} (ha : s.agenda = []) (hs : s.stage = 2) (ht : s.todo = []) (hc : s.cores = []) (hm : mgmtWaiting s = false)
    (hw : s.port.waiting = []) (hl : s.port.later = []) (hd : s.drt.out = []) (hp : s.fcp.pendMark = []) (hj : s.cp.jobs = []) :
    step s = .next { s with time := s.time + 1, stage := 0, todo := [], turn := [] } := by
  have hkeep : keepAbsent s = s := by simp [keepAbsent, hc]
  have hcores : { s with cores := s.cores.map fun e => (e.1, endCore (ctxAt s (keyCtx e.1)).resident e.2) } = s := by
    rw [hc, List.map_nil, ← hc]
  have hbad : serveBad s = s := if_neg (by simp [hm])
  have hfifo : moveFifos s = s := by simp [moveFifos, boundPairs, hc]
  have hout : leavePackets 4 s = s := by
    simp only [leavePackets, hd, List.map_nil, List.filter_nil, List.isEmpty_nil, if_true]
    rw [← hd]
  have hunits : retryUnits s = s := by
    simp only [retryUnits, retryMarks, hp, List.foldl_nil, hj, runJobs]
    rw [← hp, ← hj]
  have hlater : retryLater s = s := by
    simp only [retryLater, hl, retryEach]
    rw [← hl]
  have hresume : resumeWaiting s = s := by simp [resumeWaiting, hc]
  have hbegin : beginCycle s = { s with time := s.time + 1, stage := 0, todo := [], turn := [] } := by simp [beginCycle, hc]
  have hpick : pick s = (none, s) := by simp [pick, pickBarrier, ha, hs, ht]
  simp only [step, hpick, endCycle, hkeep, hcores, hbad, hfifo, hout, hunits, hw, retryWaiting, hlater, hresume, hbegin]

/-! ### Syllables -/

/-- A syllable of a bundle runs as it does on its own. -/
theorem runSyllable_eq_exec {i : Instr} (h : slotClass i ≠ none) (s : State) : runSyllable i s = exec i s := by
  cases i <;> first | exact absurd rfl h | rfl

/-- Of a list without repetitions, a function that answers at one place only. -/
theorem filterMap_eq_singleton {α β : Type} {f : α → Option β} {l : List α} {x : α} {y : β} (hl : l.Nodup) (hx : x ∈ l) (hf : f x = some y)
    (hother : ∀ z ∈ l, z ≠ x → f z = none) : l.filterMap f = [y] := by
  induction l with
  | nil => cases hx
  | cons z r ih =>
    obtain ⟨hz, hr⟩ := List.nodup_cons.mp hl
    by_cases hzx : z = x
    · subst hzx
      rw [List.filterMap_cons_some hf, List.filterMap_eq_nil_iff.mpr]
      exact fun w hw => hother w (List.mem_cons_of_mem _ hw) fun e => hz (e ▸ hw)
    · rw [List.filterMap_cons_none (hother z List.mem_cons_self hzx)]
      exact ih hr (List.mem_of_ne_of_mem (Ne.symm hzx) hx) fun w hw => hother w (List.mem_cons_of_mem _ hw)

theorem sylsOf_one (b : Bundle) : sylsOf [b] = (List.range 7).filterMap fun k => sylAt b (k + 1) 0 := by
  simp only [sylsOf, staged, List.length_singleton, List.range_one, List.zip_cons_cons, List.zip_nil_right, List.filterMap_cons, List.filterMap_nil]
  rw [List.filterMap_eq_flatMap_toList]
  refine List.flatMap_congr fun k _ => ?_
  cases sylAt b (k + 1) 0 <;> rfl

/-- The only syllable of a bundle. -/
theorem sylsOf_only {b : Bundle} {j : Nat} {i : Instr} (h1 : 1 ≤ j) (h7 : j ≤ 7) (hother : ∀ m < 8, m ≠ j → bundlePart b m = 0)
    (hj : bundlePart b j ≠ 0) (hdec : decode (partClass false j) (bundlePart b j) = some i) :
    sylsOf [b] = [{ slot := j - 1, stage := 0, i := i, w := bundlePart b j }] := by
  have hhead : hPfx (bundlePart b 0) = false := by rw [hother 0 (by omega) (by omega)]; rfl
  rw [sylsOf_one]
  refine filterMap_eq_singleton List.nodup_range (List.mem_range.mpr (show j - 1 < 7 by omega)) ?_ fun k hk hne => ?_
  · have hw : bundlePart b (j - 1 + 1) ≠ 0 := by rwa [Nat.sub_add_cancel h1]
    simp only [sylAt, Nat.sub_add_cancel h1, hj, if_false, hhead, hdec, Option.map_some]
  · exact if_pos (hother _ (by have := List.mem_range.mp hk; omega) (by omega))

/-! ### A core in turn -/

theorem clearLivelock_form (c : Core) (a : Word) (n kind : Nat) : ∃ l, clearLivelock c a n kind = { c with livelock := l } := by
  unfold clearLivelock
  split
  · split
    · exact ⟨none, rfl⟩
    · exact ⟨c.livelock, rfl⟩
  · exact ⟨c.livelock, rfl⟩

theorem issueAddrs_outside {c : Core} (h : c.seq.active = false) : issueAddrs c = [c.pc] := if_neg (by simp [h])

/-- The fetch of the one bundle of a core outside a loop. -/
theorem fetchFor_outside {s s1 : State} {k : Nat} {ps : List (Phys × Nat × Bool)} (h : (coreAt s k).seq.active = false)
    (hl : locateAll s (keyCtx k) .fetch (pieces (localOf (coreAt s k).pc) 32) = .ok (ps, s1)) :
    fetchFor s k = .ok ([BitVec.ofNat 256 (leNat (ps.flatMap fun p => codeRead s1 (coreAt s k).epoch p.1 p.2.1))], s1) := by
  simp only [fetchFor, issueAddrs_outside h, fetchAll, fetchBundle, hl]

/-- With nothing before it, the turn of a core outside a loop is the issue of the bundle it fetches. -/
theorem coreNext_issues {s t : State} {k : Nat} {ws : List Bundle} (hw : (coreAt s k).csrws = []) (hres : dueResult (coreAt s k) = none)
    (hmay : mayIssue s k = true) (hrep : pendingReports (coreAt s k) = []) (hhold : (coreAt s k).hold = none)
    (hafter : (coreAt s k).after = .next) (hf : fetchFor s k = .ok (ws, t)) :
    coreNext s k = .go (.bundleIssue ws) (onCore t k fun c => (issueAddrs c).foldl (fun c a => clearLivelock c a 32 3) c) := by
  have hresident : (ctxAt s (keyCtx k)).resident = true := by
    simp only [mayIssue, Bool.and_eq_true] at hmay
    exact hmay.1.1.1.1.1
  simp [coreNext, hw, hres, hmay, hresident, issueTurn, hrep, hhold, hafter, hf]

theorem step_turn {s t : State} {k : Nat} {r : List Nat} {i : Instr} (ha : s.agenda = []) (hs : s.stage = 0) (ht : s.turn = k :: r)
    (hn : coreNext { s with cur := k } k = .go i t) : step s = exec i { t with turn := r, cur := k } := by
  have hturn : coreTurn s.turn s = (some i, { t with turn := r, cur := k }) := by rw [ht, coreTurn, hn]
  have hpick : pick s = (some i, { t with turn := r, cur := k }) := by
    rw [pick, ha]
    exact (if_pos hs).trans (by rw [pickCore, hturn])
  rw [step, hpick]

/-- The core in turn issues the bundle it fetches. -/
theorem step_issues {s s1 : State} {k : Nat} {r : List Nat} {ps : List (Phys × Nat × Bool)} (hi : Issues s k r) (hp : Plainly (coreAt s k))
    (hl : locateAll { s with cur := k } (keyCtx k) .fetch (pieces (localOf (coreAt s k).pc) 32) = .ok (ps, s1)) (hc : s1.cores = s.cores) :
    step s = exec (.bundleIssue [BitVec.ofNat 256 (leNat (ps.flatMap fun p => codeRead s1 (coreAt s k).epoch p.1 p.2.1))])
      (onCore { s1 with turn := r, cur := k } k fun c => clearLivelock c c.pc 32 3) := by
  have hcore : coreAt s1 k = coreAt s k := congrArg (mget Core.init · k) hc
  have hclear : (issueAddrs (coreAt s1 k)).foldl (fun c a => clearLivelock c a 32 3) (coreAt s1 k) =
      clearLivelock (coreAt s1 k) (coreAt s1 k).pc 32 3 := by
    rw [issueAddrs_outside (hcore ▸ hp.loop)]
    rfl
  have hpending : pendingReports (coreAt s k) = [] := by simp [pendingReports, hi.reports]
  have hnext := coreNext_issues (s := { s with cur := k }) (k := k) hi.writes hi.results hi.may hpending hi.hold hp.after
    (fetchFor_outside (s := { s with cur := k }) hp.loop hl)
  rw [step_turn hi.agenda hi.stage hi.turn hnext]
  exact congrArg (fun c => exec _ (setCore { s1 with turn := r, cur := k } k c)) hclear

/-! ### A bundle of one syllable -/

theorem headerAcquires_zero (c : Core) : headerAcquires [0] c = { c with q := c.q } := rfl

/-- A bundle of one syllable whose encoding and tests pass runs the syllable and commits. -/
theorem bundleIssue_single {u t : State} {b : Bundle} {j : Nat} {i : Instr} (h1 : 1 ≤ j) (h7 : j ≤ 7)
    (hother : ∀ m < 8, m ≠ j → bundlePart b m = 0) (hj : bundlePart b j ≠ 0) (hdec : decode (partClass false j) (bundlePart b j) = some i)
    (hi : slotClass i ≠ none) (hafter : (curCore u).after = .next) (hloop : (curCore u).seq.active = false)
    (henc : encodingFails (curCore u) [b] = none)
    (htests : checkGroup (curCore u) (posedTests [{ slot := j - 1, stage := 0, i := i, w := bundlePart b j }] (onCur u fun c => { c with q := c.q })) = .ok)
    (hrun : exec i (onCur (onCur u fun c => { c with q := c.q }) fun c => { c with phase := .run, slot := j - 1, stg := 0 }) = .next t) :
    exec (.bundleIssue [b]) u = .next (commitBundle (curCore u) [0]
      (onCur t (noteSources (curCore (onCur u fun c => { c with q := c.q })) { slot := j - 1, stage := 0, i := i, w := bundlePart b j }))) := by
  have hhead : bundlePart b 0 = 0 := hother 0 (by omega) (by omega)
  obtain ⟨n, hn⟩ := cutLoop_form (curCore u) [b]
  have hloop' : (cutLoop (curCore u) [b]).seq.active = false := by rw [hn]; exact hloop
  have hlive : liveHeaders (cutLoop (curCore u) [b]) [b] = [0] := by rw [liveHeaders_outside hloop', hhead]
  have hsyls : (sylsOf [b]).filter (fun y => stageLive (cutLoop (curCore u) [b]) y.stage) =
      [{ slot := j - 1, stage := 0, i := i, w := bundlePart b j }] := by
    rw [sylsOf_only h1 h7 hother hj hdec]
    exact List.filter_cons_of_pos (stageLive_outside hloop' 0)
  have hwait : headerHold (curCore u) [0] = none := rfl
  have hacq : onCur u (headerAcquires [0]) = onCur u fun c => { c with q := c.q } := onCur_congr (headerAcquires_zero _)
  show execBundleIssue [b] u = _
  rw [execBundleIssue, if_neg (by simp [hafter]), henc]
  simp only [hlive, hwait, hsyls, hacq, htests, runAll, runSyllable_eq_exec hi, hrun]

/-- Settles O56: each conjunct is one way in which `pick` finds the next event; a bundle of one syllable runs it and commits. -/
theorem stepRunsTheDecodedInstruction : Obligations.StepRunsTheDecodedInstruction := by
  refine ⟨fun s k r ps s1 hi hp hl hc => ?_, fun i s h => runSyllable_eq_exec h s, fun s i r h => step_agenda h, fun s i r => step_todo,
    fun s => step_idle⟩
  have hcore : coreAt s1 k = coreAt s k := congrArg (mget Core.init · k) hc
  have hstep := step_issues hi hp hl hc
  refine ⟨hstep, fun j i h1 h7 hother hj hdec hs henc htests t hrun => hstep.trans ?_⟩
  obtain ⟨l, hl⟩ := clearLivelock_form (coreAt s k) (coreAt s k).pc 32 3
  have hcur : curCore (onCore { s1 with turn := r, cur := k } k fun c => clearLivelock c c.pc 32 3) = { coreAt s k with livelock := l } := by
    refine (coreAt_setCore_same ..).trans ?_
    show clearLivelock (coreAt s1 k) (coreAt s1 k).pc 32 3 = _
    rw [hcore, hl]
  exact bundleIssue_single h1 h7 hother hj hdec hs (by rw [hcur]; exact hp.after) (by rw [hcur]; exact hp.loop) henc htests hrun

end Sys2Proof.Machine
end

section
/-! PROOFS. What locating and performing a memory access leaves unchanged: everything but the two memories and what goes with their bytes
(R160 to R163, R177), and for a task record the ready queue and the CP's log (R37). -/

namespace Sys2Proof.Machine

/-! ### Memory alone -/

/-- `t` is `s` but for the bytes of both memories and what is kept beside them: capability tags, race tags, poison, the bytes before stores,
and cached leaves. -/
def OnlyMemory (s t : State) : Prop :=
  t = { s with hbm := t.hbm, sram := t.sram, capTags := t.capTags, rtags := t.rtags, poison := t.poison, prior := t.prior, tlb := t.tlb }

theorem OnlyMemory.intro {s : State} (h m : Memory) (c : List Nat) (r : SMap (BitVec 128)) (p : List Nat)
    (q : List (Nat × Nat × Byte)) (l : List (Nat × Nat × Word)) :
    OnlyMemory s { s with hbm := h, sram := m, capTags := c, rtags := r, poison := p, prior := q, tlb := l } := rfl

theorem OnlyMemory.refl (s : State) : OnlyMemory s s := rfl

theorem OnlyMemory.trans {s t u : State} (h1 : OnlyMemory s t) (h2 : OnlyMemory t u) : OnlyMemory s u := by
  have h : u = { { s with hbm := t.hbm, sram := t.sram, capTags := t.capTags, rtags := t.rtags, poison := t.poison, prior := t.prior, tlb := t.tlb } with
    hbm := u.hbm, sram := u.sram, capTags := u.capTags, rtags := u.rtags, poison := u.poison, prior := u.prior, tlb := u.tlb } := h1 ▸ h2
  exact h

theorem OnlyMemory.cores {s t : State} (h : OnlyMemory s t) : t.cores = s.cores := by rw [h]
theorem OnlyMemory.ctxs {s t : State} (h : OnlyMemory s t) : t.ctxs = s.ctxs := by rw [h]
theorem OnlyMemory.fcp {s t : State} (h : OnlyMemory s t) : t.fcp = s.fcp := by rw [h]

theorem physWrite_onlyMemory (s : State) (p : Phys) (bs : List Byte) : OnlyMemory s (physWrite s p bs) := by
  unfold physWrite
  split
  · exact .intro ..
  · exact .intro ..

theorem notePrior_onlyMemory (s : State) (p : Phys) (n : Nat) : OnlyMemory s (notePrior s p n) := .intro ..

theorem setTag_onlyMemory (s : State) (p : Phys) (b : Bool) : OnlyMemory s (setTag s p b) := .intro ..

theorem writePieces_onlyMemory (s : State) (ps : List (Phys × Nat × Bool)) (bs : List Byte) : OnlyMemory s (writePieces s ps bs) := by
  induction ps generalizing s bs with
  | nil => exact .refl s
  | cons x r ih => exact (physWrite_onlyMemory s x.1 _).trans (ih _ _)

theorem notePieces_onlyMemory (ps : List (Phys × Nat × Bool)) (s : State) : OnlyMemory s (notePieces ps s) := by
  induction ps generalizing s with
  | nil => exact .refl s
  | cons x r ih => exact (notePrior_onlyMemory s x.1 _).trans (ih _)

theorem writeMasked_onlyMemory (s : State) (p : Phys) (i : Nat) (bs : List (Option Byte)) : OnlyMemory s (writeMasked s p i bs) := by
  induction bs generalizing s i with
  | nil => exact .refl s
  | cons x r ih =>
    cases x with
    | none => exact ih s (i + 1)
    | some b => exact (physWrite_onlyMemory s _ _).trans (ih _ _)

theorem saxpy_onlyMemory (a : Nat) (px py : Phys) (ks : List Nat) (s : State) : OnlyMemory s (ks.foldl (saxpyElem a px py) s) := by
  induction ks generalizing s with
  | nil => exact .refl s
  | cons k r ih => exact (physWrite_onlyMemory s _ _).trans (ih _)

/-! ### Locating -/

theorem translate_onlyMemory {s t : State} {x va a : Nat} {k : Kind} {c : Bool} (h : translate s x va k = .ok (a, c, t)) : OnlyMemory s t := by
  simp only [translate] at h
  repeat' split at h
  all_goals first | (injection h with h; injection h with _ h; injection h with _ h; subst h; exact .intro ..) | cases h

theorem locate_onlyMemory {s t : State} {x va n : Nat} {k : Kind} {p : Phys} {c : Bool} (h : locate s x va n k = .ok (p, c, t)) :
    OnlyMemory s t := by
  unfold locate at h
  dsimp only at h
  split at h
  · split at h
    · injection h with h; injection h with _ h; injection h with _ h
      exact h ▸ .refl s
    · cases h
  · split at h
    · cases h
    next ht =>
      injection h with h; injection h with _ h; injection h with _ h
      exact h ▸ translate_onlyMemory ht

theorem locateAll_onlyMemory {s t : State} {x : Nat} {k : Kind} {l : List (Nat × Nat)} {ps : List (Phys × Nat × Bool)}
    (h : locateAll s x k l = .ok (ps, t)) : OnlyMemory s t := by
  induction l generalizing s ps with
  | nil =>
    injection h with h; injection h with _ h
    exact h ▸ .refl s
  | cons e r ih =>
    unfold locateAll at h
    split at h
    · cases h
    next h1 =>
      split at h
      · cases h
      next h2 =>
        injection h with h; injection h with _ h
        subst h
        exact (locate_onlyMemory h1).trans (ih h2)

theorem locateAny_onlyMemory {s t : State} {c n : Nat} {sp : Bool} {a : Word} {k : Kind} {ps : List (Phys × Nat × Bool)}
    (h : locateAny s c sp a n k = .ok (ps, t)) : OnlyMemory s t := by
  unfold locateAny at h
  split at h
  · split at h
    · unfold locateSp at h
      split at h
      · injection h with h; injection h with _ h
        exact h ▸ .refl s
      · cases h
    · cases h
  · split at h
    · exact locateAll_onlyMemory h
    · cases h

theorem raceAll_onlyMemory {s t : State} {own atomic writes : Bool} {who : Who} {a : Word} {ps : List (Phys × Nat × Bool)}
    (h : raceAll s own who atomic writes a ps = .ok t) : OnlyMemory s t := by
  unfold raceAll at h
  split at h
  · injection h with h
    exact h ▸ .refl s
  · split at h
    · cases h
    · injection h with h
      exact h ▸ .intro ..

/-! ### Performing -/

/-- Of an access that has been located: once its race check has passed and a write has been noted, everything but memory is as before. -/
theorem raced_onlyMemory {s s1 s2 : State} {c n : Nat} {sp own atomic writes : Bool} {who : Who} {a : Word} {k : Kind}
    {ps : List (Phys × Nat × Bool)} (hl : locateAny s c sp a n k = .ok (ps, s1)) (hr : raceAll s1 own who atomic writes a ps = .ok s2) :
    OnlyMemory s s2 ∧ OnlyMemory s (notePieces ps s2) :=
  have h := (locateAny_onlyMemory hl).trans (raceAll_onlyMemory hr)
  ⟨h, h.trans (notePieces_onlyMemory ps s2)⟩

theorem performMem_saxpy_onlyMemory {s t : State} {c n : Nat} {who : Who} {sp : Bool} {a x y : Word} {ty : MopTy} {g : Got}
    (h : performMem s c who sp a (.mop .saxpy ty n x y) = .ok (t, g)) : OnlyMemory s t := by
  unfold performMem at h
  dsimp only at h
  split at h
  · cases h
  next hl =>
    split at h
    · cases h
    next hr =>
      split at h
      · cases h
      next hx =>
        split at h
        · cases h
        next hrx =>
          cases h
          exact (((raced_onlyMemory hl hr).2.trans (locateAny_onlyMemory hx)).trans (raceAll_onlyMemory hrx)).trans (saxpy_onlyMemory ..)

/-- An access that moves no task record leaves everything but memory. -/
theorem performMem_onlyMemory {s t : State} {c : Nat} {who : Who} {sp : Bool} {a : Word} {op : MemOp} {g : Got}
    (h : performMem s c who sp a op = .ok (t, g)) (hdec : op ≠ .taskDec) (hpost : ∀ b, op ≠ .taskPost b) : OnlyMemory s t := by
  by_cases hsaxpy : ∃ ty n x y, op = .mop .saxpy ty n x y
  · obtain ⟨ty, n, x, y, rfl⟩ := hsaxpy
    exact performMem_saxpy_onlyMemory h
  unfold performMem at h
  split at h
  · cases h
  next ps s1 hl =>
    dsimp only at h
    split at h
    · cases h
    next s2 hr =>
      obtain ⟨hread, hwrite⟩ := raced_onlyMemory hl hr
      cases op with
      | load n b => cases h; exact hread
      | store d b =>
        cases h
        cases b
        · exact hwrite.trans (writePieces_onlyMemory ..)
        · exact (hwrite.trans (writePieces_onlyMemory ..)).trans (setTag_onlyMemory ..)
      | storeM d => cases h; exact hwrite.trans (writeMasked_onlyMemory ..)
      | atomic o n x y => cases h; exact hwrite.trans (writePieces_onlyMemory ..)
      | fetchAdd n x => cases h; exact hwrite.trans (writePieces_onlyMemory ..)
      | taskDec => exact absurd rfl hdec
      | taskPost b => exact absurd rfl (hpost b)
      | mop o ty n x y =>
        cases o with
        | saxpy => exact absurd ⟨ty, n, x, y, rfl⟩ hsaxpy
        | add | max | min | cas => cases h; exact hwrite.trans (writePieces_onlyMemory ..)

end Sys2Proof.Machine
end

section
/-! PROOFS. Tasks start: a staged task, an iteration of a launch, a record of the ready queue (R24, R34 to R39). -/

namespace Sys2Proof.Machine

/-! ### A staged task -/

theorem stagedTaskStart_starts {s : State} {k : Nat} {x : Task} (hx : (coreAt s k).staged = some x) (ht : (coreAt s k).task = none)
    (hs : (coreAt s k).stop = none) (hr : (ctxAt s (keyCtx k)).resident = true) (hc : coreClaimed s k = false) :
    exec (.stagedTaskStart k) s = .next { setCore s k (beginTask s.tick s.epoch (coreAt s k) x) with tick := s.tick + 1 } := by
  show execStagedTaskStart k s = _
  simp only [execStagedTaskStart, hx]
  exact if_pos (by simp [ht, hs, hr, hc])

theorem getD_startRegs (n : Nat) (regs : List Word) {i : Nat} (h1 : 1 ≤ i) (h8 : i ≤ 8) : (startRegs n regs).getD i 0 = regs.getD (i - 1) 0 := by
  have hi : i < 64 := by omega
  have h0 : i ≠ 0 := by omega
  simp [startRegs, List.getD_eq_getElem?_getD, hi, h0, h8]

/-- At a task start the scalar names 1 to 8 read the preloaded values. -/
theorem readG_beginTask (n e : Nat) (c : Core) (x : Task) {i : Nat} (h1 : 1 ≤ i) (h8 : i ≤ 8) :
    readG (beginTask n e c x) i = x.regs.getD (i - 1) 0 := by
  have hname : physG (beginTask n e c x) i = i := if_neg (by omega)
  rw [readG, if_neg (by omega), if_neg (by omega), if_neg (by omega), hname]
  exact getD_startRegs n x.regs h1 h8

/-! ### An iteration -/

theorem toNat_entry (r : BitVec 512) : (BitVec.ofNat 64 (rbits r 0 57)).toNat = r.toNat % 2 ^ 57 := by
  simp only [rbits, pow_zero, Nat.div_one, BitVec.toNat_ofNat]
  omega

theorem ofNat_rbits_word (r : BitVec 512) (i : Nat) : BitVec.ofNat 64 (rbits r i 64) = BitVec.ofNat 64 (r.toNat / 2 ^ i) := by
  apply BitVec.eq_of_toNat_eq
  simp [rbits]

theorem length_iterationRegs (l : Launch) (o : Nat) : (iterationTask l o).regs.length = 8 := by simp [iterationTask]

theorem iterationTask_argument (l : Launch) (o : Nat) : (iterationTask l o).regs.getD 6 0 = BitVec.ofNat 64 (l.record.toNat / 2 ^ 64) := by
  rw [← ofNat_rbits_word]
  rfl

/-- A tie goes to the walker (R35). -/
theorem coreChoice_iteration {s : State} {k : Nat} {l : Launch} {o : Nat} (hw : walkerCandidate s k = some (l, o))
    (hr : ∀ r, readyHead s k = some r → effPrio s r ≤ lrPrio l.record) : coreChoice s k = some (.iteration l o) := by
  unfold coreChoice
  rw [hw]
  cases h : readyHead s k with
  | none => rfl
  | some r => exact congrArg some (if_pos (hr r h))

theorem coreTaskChoice_iteration {s : State} {k o : Nat} {l : Launch} (hres : (ctxAt s (keyCtx k)).resident = true) (hfree : coreFree s k = true)
    (hc : coreChoice s k = some (.iteration l o)) (hp : walkerPick s l = some k) :
    exec (.coreTaskChoice k) s = .next (stageIteration s k l o) := by
  show execCoreTaskChoice k s = _
  simp only [execCoreTaskChoice, hres, hfree, hc, hp, Bool.not_true, Bool.or_self, Bool.false_eq_true, if_false, if_true]

theorem coreTaskChoice_ready {s : State} {k : Nat} {r : Ready} (hres : (ctxAt s (keyCtx k)).resident = true) (hfree : coreFree s k = true)
    (hc : coreChoice s k = some (.ready r)) (hk : r.ctx = keyCtx k) (ht : takesReady s k r = true) :
    exec (.coreTaskChoice k) s = .next (dispatchRecord s k r) := by
  show execCoreTaskChoice k s = _
  rw [execCoreTaskChoice, if_neg (by simp [hres, hfree]), hc]
  exact congrArg _ (if_pos ⟨hk.symm, ht⟩)

/-- Staging the next new iteration moves its launch on by one. -/
theorem stageIteration_moves {s : State} {k o : Nat} {l : Launch} (hg : l.given = []) {m : Launch} (hm : m ∈ s.fcp.launches) (hs : m.seq = l.seq) :
    ∃ m' ∈ (stageIteration s k l o).fcp.launches, m'.seq = l.seq ∧ m'.ord = l.ord + 1 ∧ m'.running = l.running + 1 := by
  refine ⟨_, List.mem_map.mpr ⟨m, hm, if_pos hs⟩, rfl, ?_, rfl⟩
  simp [hg]

theorem coreAt_stageIteration (s : State) (k o : Nat) (l : Launch) :
    coreAt (stageIteration s k l o) k = { coreAt s k with staged := some (iterationTask l o) } := coreAt_setCore_same ..

/-! ### A record of the ready queue -/

/-- A change of STATE leaves the ready queue. -/
theorem markRecord_ready (s : State) (x : Nat) (a : Word) (st : Nat) : (markRecord s x a st).fcp.ready = s.fcp.ready := by
  unfold markRecord
  split
  · split
    next h =>
      rw [performMem_onlyMemory h (by simp) (by simp)]
    · split <;> rfl
  · rfl
  · rfl

theorem unitTry_done {s t : State} {x : Nat} {who : Who} {a : Word} {op : MemOp} {g : Got} (n : Nat)
    (h : performMem s (coreKey x 0) who false a op = .ok (t, g)) : unitTry s x who a op n = .ok (t, g) := by
  cases n with
  | zero => exact h
  | succ n => simp only [unitTry, h]

/-- A record that is read whole and passes its check is staged. -/
theorem dispatchRecord_stages {s t : State} {k : Nat} {e : Ready} {g : Got}
    (h : performMem s (coreKey e.ctx 0) (fcpAgent s e.q false) false e.addr (.load 64 false) = .ok (t, g)) (hp : g.poison = false)
    (hb : recordBad t (BitVec.ofNat 512 (leNat g.bytes)) = false) :
    dispatchRecord s k e = stageTask (markRecord (dropReady t e) e.ctx e.addr 2) k (recordTask e (BitVec.ofNat 512 (leNat g.bytes))) := by
  have hb' : recordBad (dropReady t e) (BitVec.ofNat 512 (leNat g.bytes)) = false := hb
  simp only [dispatchRecord, unitTry_done 4 h, hp, hb', Bool.false_eq_true, if_false]

theorem coreAt_stageTask (s : State) (k : Nat) (x : Task) : (coreAt (stageTask s k x) k).staged = some x :=
  congrArg Core.staged (coreAt_setCore_same ..)

theorem length_recordRegs (e : Ready) (w : BitVec 512) : (recordTask e w).regs.length = 8 := by simp [recordTask]

theorem recordTask_argument (e : Ready) (w : BitVec 512) : (recordTask e w).regs.getD 6 0 = BitVec.ofNat 64 (w.toNat / 2 ^ 64) := by
  rw [← ofNat_rbits_word]
  rfl

theorem recordTask_done (e : Ready) (w : BitVec 512) : (recordTask e w).done.toNat = w.toNat / 2 ^ 448 := by
  have hw := w.isLt
  simp only [recordTask, rbits, BitVec.toNat_ofNat]
  omega

/-- Settles O41: the core record at a task's start, and the two things a free core may take. -/
theorem tasksStart : Obligations.TasksStart := by
  refine ⟨fun s k x hx ht hs hr hc => ?_, fun s k l o hres hfree hw hp hr hg => ?_, fun s t k r g hres hfree hc hk htake hperf hpois => ?_⟩
  · refine ⟨_, stagedTaskStart_starts hx ht hs hr hc, rfl, fun j hj => coreAt_setCore_other s k j _ hj, ?_⟩
    have hcore : coreAt { setCore s k (beginTask s.tick s.epoch (coreAt s k) x) with tick := s.tick + 1 } k =
      beginTask s.tick s.epoch (coreAt s k) x := coreAt_setCore_same ..
    rw [hcore]
    exact ⟨rfl, rfl, rfl, rfl, rfl, fun _ => readG_beginTask _ _ _ _, rfl, rfl, rfl, rfl, rfl, rfl, rfl, rfl, rfl, rfl, rfl, rfl, rfl, rfl, rfl⟩
  · have hrun : exec (.coreTaskChoice k) s = .next (stageIteration s k l o) :=
      coreTaskChoice_iteration hres hfree (coreChoice_iteration hw hr) hp
    refine ⟨_, hrun, ⟨iterationTask l o, congrArg Core.staged (coreAt_stageIteration s k o l), rfl, rfl, toNat_entry _,
      length_iterationRegs l o, iterationTask_argument l o, rfl⟩, rfl, fun j hj => coreAt_setCore_other _ k j _ hj, ?_,
      fun m hm hs => stageIteration_moves hg hm hs⟩
    rw [coreAt_stageIteration]
  · intro w hb
    have hrun : exec (.coreTaskChoice k) s = .next (dispatchRecord s k r) :=
      coreTaskChoice_ready hres hfree hc hk htake
    rw [dispatchRecord_stages hperf hpois hb] at hrun
    exact ⟨_, hrun, markRecord_ready _ _ _ 2, _, coreAt_stageTask _ k _, rfl, rfl, rfl, toNat_entry w, length_recordRegs r w,
      recordTask_argument r w, recordTask_done r w, rfl⟩

end Sys2Proof.Machine
end

section
/-! PROOFS. Task records and launches: decrements, the overflow list, gang reservation, supersteps, completion (R31, R32, R36 to R41). -/

namespace Sys2Proof.Machine

open Sys2Proof.Stmt

/-! ### The form of memory along an access -/

theorem memWf_store {s : State} (h : s.memWf) (sp : Bool) : Memory.wf (store s sp) = true := by
  cases sp
  · exact h.1
  · exact h.2

theorem memWf_translate {s t : State} {x va a : Nat} {k : Kind} {c : Bool} (hs : s.memWf) (h : translate s x va k = .ok (a, c, t)) : t.memWf := by
  simp only [translate] at h
  repeat' split at h
  all_goals first | (injection h with h; injection h with _ h; injection h with _ h; subst h; first | exact hs | exact ⟨wf_writeNat hs.1 .., hs.2⟩) | cases h

theorem memWf_locate {s t : State} {x va n : Nat} {k : Kind} {p : Phys} {c : Bool} (hs : s.memWf) (h : locate s x va n k = .ok (p, c, t)) :
    t.memWf := by
  unfold locate at h
  dsimp only at h
  split at h
  · split at h
    · injection h with h; injection h with _ h; injection h with _ h
      exact h ▸ hs
    · cases h
  · split at h
    · cases h
    next ht =>
      injection h with h; injection h with _ h; injection h with _ h
      exact h ▸ memWf_translate hs ht

theorem memWf_locateAll {s t : State} {x : Nat} {k : Kind} {l : List (Nat × Nat)} {ps : List (Phys × Nat × Bool)} (hs : s.memWf)
    (h : locateAll s x k l = .ok (ps, t)) : t.memWf := by
  induction l generalizing s ps with
  | nil =>
    injection h with h; injection h with _ h
    exact h ▸ hs
  | cons e r ih =>
    unfold locateAll at h
    split at h
    · cases h
    next h1 =>
      split at h
      · cases h
      next h2 =>
        injection h with h; injection h with _ h
        subst h
        exact ih (memWf_locate hs h1) h2

theorem memWf_locateAny {s t : State} {c n : Nat} {a : Word} {k : Kind} {ps : List (Phys × Nat × Bool)} (hs : s.memWf)
    (h : locateAny s c false a n k = .ok (ps, t)) : t.memWf := by
  unfold locateAny at h
  rw [if_neg Bool.false_ne_true] at h
  split at h
  · exact memWf_locateAll hs h
  · cases h

/-- The race check changes no tag but race tags. -/
theorem raceAll_form {s t : State} {own atomic writes : Bool} {who : Who} {a : Word} {ps : List (Phys × Nat × Bool)}
    (h : raceAll s own who atomic writes a ps = .ok t) : ∃ r, t = { s with rtags := r } := by
  unfold raceAll at h
  split at h
  · injection h with h
    exact ⟨s.rtags, h.symm⟩
  · split at h
    · cases h
    · injection h with h
      exact ⟨_, h.symm⟩

/-! ### Bytes at a place -/

theorem store_physWrite_same (s : State) (p : Phys) (bs : List Byte) : store (physWrite s p bs) p.sp = writeBytes (store s p.sp) p.a bs := by
  obtain ⟨sp, a⟩ := p
  cases sp <;> rfl

theorem store_physWrite_other (s : State) (p : Phys) (bs : List Byte) : store (physWrite s p bs) (!p.sp) = store s (!p.sp) := by
  obtain ⟨sp, a⟩ := p
  cases sp <;> rfl

theorem physWrite_fcp (s : State) (p : Phys) (bs : List Byte) : (physWrite s p bs).fcp = s.fcp := by
  rw [physWrite_onlyMemory s p bs]

theorem physWrite_keepsBut (s : State) (p : Phys) (a : Nat) (bs : List Byte) : keepsBut s (physWrite s { p with a := a } bs) p a bs.length := by
  refine ⟨fun x hx => ?_, fun x => congrArg (readByte · x) (store_physWrite_other s { p with a := a } bs)⟩
  rw [store_physWrite_same s { p with a := a } bs]
  exact readByte_writeBytes_other _ _ _ _ hx

/-! ### A task record -/

theorem depAt_eq (s : State) (p : Phys) : leNat (physRead s { p with a := p.a + 16 } 4) = depAt s p := rfl

theorem leNat_lt (l : List Byte) : leNat l < 256 ^ l.length := by
  induction l with
  | nil => exact Nat.one_pos
  | cons b r ih =>
    have := b.isLt
    simp only [leNat, List.length_cons, pow_succ]
    omega

theorem depAt_lt (s : State) (p : Phys) : depAt s p < 2 ^ 32 := by
  have h := leNat_lt (physRead s { p with a := p.a + 16 } 4)
  have hlen : (physRead s { p with a := p.a + 16 } 4).length = 4 := by simp [physRead, readBytes]
  rw [hlen] at h
  exact h

theorem depAt_physWrite {s : State} (h : s.memWf) (p : Phys) (n : Nat) :
    depAt (physWrite s { p with a := p.a + 16 } (leBytes 4 n)) p = n % 2 ^ 32 := by
  show leNat (readBytes (store (physWrite s { p with a := p.a + 16 } (leBytes 4 n)) p.sp) (p.a + 16) 4) = _
  rw [store_physWrite_same s { p with a := p.a + 16 }]
  exact readNat_writeBytes_leBytes (memWf_store h p.sp) _ 4 n

/-- A change elsewhere leaves DEP. -/
theorem depAt_of_keepsBut {s t : State} {p : Phys} {a n : Nat} (h : keepsBut s t p a n) (ha : p.a + 20 ≤ a) : depAt t p = depAt s p := by
  refine congrArg leNat (List.map_congr_left fun i hi => h.1 _ (.inl ?_))
  have := List.mem_range.mp hi
  omega

theorem setRecState_byte {s : State} (h : s.memWf) (p : Phys) (n : Nat) :
    readByte (store (setRecState s p n) p.sp) (p.a + 29) = BitVec.ofNat 8 n := by
  rw [setRecState, store_physWrite_same s { p with a := p.a + 29 }]
  exact readByte_writeByte_same (memWf_store h p.sp) _ _

theorem setRecState_keepsBut (s : State) (p : Phys) (n : Nat) : keepsBut s (setRecState s p n) p (p.a + 29) 1 := physWrite_keepsBut s p _ _

theorem setRecState_fcp (s : State) (p : Phys) (n : Nat) : (setRecState s p n).fcp = s.fcp := physWrite_fcp ..

theorem store_congr {s t : State} (h1 : t.hbm = s.hbm) (h2 : t.sram = s.sram) (sp : Bool) : store t sp = store s sp := by
  rw [store, store, h1, h2]

theorem enqueueReady_store (s : State) (r : Ready) (sp : Bool) : store (enqueueReady s r) sp = store s sp := by
  unfold enqueueReady
  split <;> exact store_congr rfl rfl sp

theorem enqueueReady_fcp (s : State) (r : Ready) : (enqueueReady s r).fcp = { s.fcp with ready := s.fcp.ready ++ [r] } ∨
    (enqueueReady s r).fcp = { s.fcp with overflow := s.fcp.overflow ++ [r] } := by
  unfold enqueueReady
  split
  · exact .inl rfl
  · exact .inr rfl

theorem keepsBut_congr {s t u : State} {p : Phys} {a n : Nat} (h : ∀ sp, store u sp = store t sp) (hk : keepsBut s t p a n) :
    keepsBut s u p a n := by
  simpa only [keepsBut, h] using hk

/-- The entry that a record makes at its place (R36, R39). -/
def readyEntry (r : BitVec 512) (a : Word) (now q : Nat) : Ready :=
  { ctx := rbits r 240 16, addr := a, prio := rbits r 184 8, lw := rbits r 180 3, lh := rbits r 177 3, x0 := rbits r 173 4, y0 := rbits r 169 4
    at_ := now, q := q }

/-- A record whose DEP is zero: it is queued as ready, or rejected. -/
theorem makeReady_cases (s : State) (p : Phys) (a : Word) (q : Nat) :
    (∃ r, makeReady s p a q = enqueueReady (setRecState s p 1) (readyEntry r a s.time q)) ∨
      ∃ x, makeReady s p a q = logCp (setRecState s p 5) 1 a.toNat x := by
  unfold makeReady
  dsimp only
  split
  · exact .inl ⟨_, rfl⟩
  · exact .inr ⟨_, rfl⟩

/-- What becomes of a record whose DEP is zero: its STATE byte says so, and the part's state. -/
theorem makeReady_leaves {s : State} (h : s.memWf) (p : Phys) (a : Word) (q : Nat) :
    keepsBut s (makeReady s p a q) p (p.a + 29) 1 ∧
      ((readByte (store (makeReady s p a q) p.sp) (p.a + 29) = 1 ∧ ∃ e : Ready, e.addr = a ∧ e.at_ = s.time ∧ e.q = q ∧
          ((makeReady s p a q).fcp = { s.fcp with ready := s.fcp.ready ++ [e] } ∨
            (makeReady s p a q).fcp = { s.fcp with overflow := s.fcp.overflow ++ [e] })) ∨
        (readByte (store (makeReady s p a q) p.sp) (p.a + 29) = 5 ∧ (makeReady s p a q).fcp = s.fcp)) := by
  rcases makeReady_cases s p a q with ⟨r, hr⟩ | ⟨x, hx⟩
  · rw [hr]
    refine ⟨keepsBut_congr (enqueueReady_store _ _) (setRecState_keepsBut s p 1), .inl ⟨?_, readyEntry r a s.time q, rfl, rfl, rfl, ?_⟩⟩
    · rw [enqueueReady_store]
      exact setRecState_byte h p 1
    · rw [← setRecState_fcp s p 1]
      exact enqueueReady_fcp _ _
  · rw [hx]
    exact ⟨keepsBut_congr (store_congr rfl rfl) (setRecState_keepsBut s p 5), .inr ⟨setRecState_byte h p 5, setRecState_fcp s p 5⟩⟩

/-! ### A decrement -/

theorem decTime_fcp (s : State) (q now : Nat) : decTime (fcpAgent s q false) now = now := by
  refine if_neg fun h => ?_
  have hunit : (agentId 2 s.port.rank 0 0).toNat / 16 % 512 = 1 := h.2
  simp only [agentId, BitVec.toNat_ofNat] at hunit
  omega

/-- A decrement of a record that can be reached. -/
theorem taskRecordDecrement_located {s s1 s2 : State} {x : Nat} {a : Word} {p : Phys} {chk : Bool} (ho : ownerOf a = s.port.rank)
    (hp : (x, a) ∉ s.fcp.pendDec) (hl : locateAny s (coreKey x 0) false a 64 .atomic = .ok ([(p, 64, chk)], s1))
    (hr : raceAll s1 false (fcpAgent s s.time false) false true a [(p, 64, chk)] = .ok s2) :
    exec (.taskRecordDecrement x a) s = .next (decRecordAt (notePrior s2 p 64) p a s.time) := by
  show execTaskRecordDecrement x a s = _
  rw [execTaskRecordDecrement, if_neg (by simpa using hp), decRecord, if_pos ho]
  have hperf : ∃ g, performMem s (coreKey x 0) (fcpAgent s s.time false) false a .taskDec =
      .ok (decRecordAt (notePrior s2 p 64) p a (decTime (fcpAgent s s.time false) s.time), g) := by
    simp only [performMem, memLen, memKind, hl, hr]
    exact ⟨_, rfl⟩
  obtain ⟨g, hg⟩ := hperf
  rw [hg, decTime_fcp]

/-- What a decrement leaves, by DEP. -/
theorem decRecordAt_of_zero {s : State} {p : Phys} (h : depAt s p = 0) (a : Word) (q : Nat) :
    decRecordAt s p a q = { s with fcp := { s.fcp with underflow := s.fcp.underflow + 1 } } := if_pos h

theorem decRecordAt_of_one {s : State} {p : Phys} (h : depAt s p = 1) (a : Word) (q : Nat) :
    decRecordAt s p a q = makeReady (physWrite s { p with a := p.a + 16 } (leBytes 4 0)) p a q := by
  rw [decRecordAt, depAt_eq, h]
  rfl

theorem decRecordAt_of_more {s : State} {p : Phys} (h : 2 ≤ depAt s p) (a : Word) (q : Nat) :
    decRecordAt s p a q = physWrite s { p with a := p.a + 16 } (leBytes 4 (depAt s p - 1)) := by
  rw [decRecordAt, depAt_eq]
  exact (if_neg (by omega)).trans (if_neg (by omega))

/-- The state in which a decrement is made: memory, the records' fields and the part's state are those of the located access. -/
theorem noted_sees {s1 s2 : State} {own atomic writes : Bool} {who : Who} {a : Word} {ps : List (Phys × Nat × Bool)}
    (hr : raceAll s1 own who atomic writes a ps = .ok s2) (p : Phys) (n : Nat) :
    (∀ sp, store (notePrior s2 p n) sp = store s1 sp) ∧ (notePrior s2 p n).fcp = s1.fcp ∧ (notePrior s2 p n).time = s1.time ∧
      (s1.memWf → (notePrior s2 p n).memWf) := by
  obtain ⟨r, rfl⟩ := raceAll_form hr
  exact ⟨store_congr rfl rfl, rfl, rfl, id⟩

/-- R37: one decrement, by DEP. -/
theorem taskRecordDecrement_here {s s1 s2 : State} {x : Nat} {a : Word} {p : Phys} {chk : Bool} (hwf : s.memWf) (ho : ownerOf a = s.port.rank)
    (hp : (x, a) ∉ s.fcp.pendDec) (hl : locateAny s (coreKey x 0) false a 64 .atomic = .ok ([(p, 64, chk)], s1))
    (hr : raceAll s1 false (fcpAgent s s.time false) false true a [(p, 64, chk)] = .ok s2) :
    (2 ≤ depAt s1 p → ∃ t, exec (.taskRecordDecrement x a) s = .next t ∧ depAt t p = depAt s1 p - 1 ∧ keepsBut s1 t p (p.a + 16) 4 ∧
      t.fcp = s1.fcp) ∧
    (depAt s1 p = 1 → ∃ t, exec (.taskRecordDecrement x a) s = .next t ∧ depAt t p = 0 ∧
      (∀ y, (y < p.a + 16 ∨ p.a + 20 ≤ y) → y ≠ p.a + 29 → readByte (store t p.sp) y = readByte (store s1 p.sp) y) ∧
      ((readByte (store t p.sp) (p.a + 29) = 1 ∧ ∃ e : Ready, e.addr = a ∧ e.at_ = s1.time ∧ e.q = s1.time ∧
          (t.fcp = { s1.fcp with ready := s1.fcp.ready ++ [e] } ∨ t.fcp = { s1.fcp with overflow := s1.fcp.overflow ++ [e] })) ∨
        (readByte (store t p.sp) (p.a + 29) = 5 ∧ t.fcp = s1.fcp))) ∧
    (depAt s1 p = 0 → ∃ t, exec (.taskRecordDecrement x a) s = .next t ∧ t.fcp = { s1.fcp with underflow := s1.fcp.underflow + 1 } ∧
      keepsBut s1 t p 0 0) := by
  obtain ⟨hstore, hfcp, htime, hwf1⟩ := noted_sees hr p 64
  have hnow : s1.time = s.time := by rw [locateAny_onlyMemory hl]
  have hexec := taskRecordDecrement_located ho hp hl hr
  have hdep : depAt (notePrior s2 p 64) p = depAt s1 p := by rw [depAt, hstore, depAt]
  generalize notePrior s2 p 64 = u at *
  have huwf : u.memWf := hwf1 (memWf_locateAny hwf hl)
  have hkeeps : ∀ {t : State} {b n : Nat}, keepsBut u t p b n → keepsBut s1 t p b n := by
    intro t b n h
    simpa only [keepsBut, hstore] using h
  refine ⟨fun h => ?_, fun h => ?_, fun h => ?_⟩
  · refine ⟨_, hexec, ?_⟩
    rw [decRecordAt_of_more (hdep ▸ h), hdep]
    have := depAt_lt s1 p
    refine ⟨(depAt_physWrite huwf p _).trans (Nat.mod_eq_of_lt (by omega)), hkeeps (physWrite_keepsBut u p _ _), ?_⟩
    rw [physWrite_fcp, hfcp]
  · refine ⟨_, hexec, ?_⟩
    rw [decRecordAt_of_one (hdep.trans h)]
    have hw := physWrite_keepsBut u p (p.a + 16) (leBytes 4 0)
    have hw0 := (depAt_physWrite huwf p 0).trans (Nat.zero_mod _)
    have hwfcp : (physWrite u { p with a := p.a + 16 } (leBytes 4 0)).fcp = s1.fcp := (physWrite_fcp ..).trans hfcp
    have hwtime : (physWrite u { p with a := p.a + 16 } (leBytes 4 0)).time = s1.time := by
      rw [physWrite_onlyMemory u { p with a := p.a + 16 } (leBytes 4 0)]
      exact htime
    have hwwf := memWf_physWrite huwf { p with a := p.a + 16 } (leBytes 4 0)
    generalize physWrite u { p with a := p.a + 16 } (leBytes 4 0) = v at *
    obtain ⟨hm, hst⟩ := makeReady_leaves hwwf p a s.time
    rw [hwfcp, hwtime, ← hnow] at hst
    rw [← hnow] at hm ⊢
    refine ⟨?_, fun y hy hne => ?_, hst⟩
    · rw [depAt_of_keepsBut hm (by omega), hw0]
    · rw [hm.1 y (by omega), (hkeeps hw).1 y hy]
  · refine ⟨_, hexec, ?_⟩
    rw [decRecordAt_of_zero (hdep.trans h)]
    exact ⟨by rw [hfcp], hkeeps ⟨fun _ _ => rfl, fun _ => rfl⟩⟩

/-! ### A decrement elsewhere -/

/-- A frame with a route joins the transmit queue; nothing but the port changes. -/
theorem sendBody_queues {s : State} {x : Nat} {vc : Fin 4} {dh : Bool} {d : Nat} {b : Body} {l : Link} (h : linkTo s dh d = some l) :
    ∃ (t : State) (q : Sent), sendBody s x vc dh d b = some t ∧ t = { s with port := t.port } ∧ t.port.queue = s.port.queue ++ [q] ∧ q.link = l ∧
      q.frame.dst = d ∧ q.frame.vc = vc ∧ q.frame.body = b := by
  unfold sendBody
  rw [h]
  exact ⟨_, _, rfl, rfl, rfl, rfl, rfl, rfl, rfl⟩

theorem taskRecordDecrement_sent {s u : State} {x : Nat} {a : Word} {l : Link} (ho : ownerOf a ≠ s.port.rank) (hp : (x, a) ∉ s.fcp.pendDec)
    (hu : takeUnit s 0 = some u) (hl : linkTo u false (ownerOf a) = some l) :
    ∃ (t : State) (q : Sent), exec (.taskRecordDecrement x a) s = .next t ∧ t = { u with port := t.port } ∧ t.port.queue = u.port.queue ++ [q] ∧
      q.link = l ∧ q.frame.dst = ownerOf a ∧ q.frame.vc = 2 ∧ ∃ w r, q.frame.body = .mem w r none a .taskDec := by
  obtain ⟨t, q, ht, hport, hq, hlink, hdst, hvc, hbody⟩ := sendBody_queues (x := x) (vc := 2)
    (b := .mem (fcpAgent s s.time false) { core := coreKey x 0, stream := 16, id := 0 } none a .taskDec) hl
  have hrun : exec (.taskRecordDecrement x a) s = .next t := by
    show execTaskRecordDecrement x a s = _
    rw [execTaskRecordDecrement, if_neg (by simpa using hp), decRecord, if_neg ho, sendDec, hu]
    simp only [ht]
  exact ⟨t, q, hrun, hport, hq, hlink, hdst, hvc, _, _, hbody⟩

/-! ### Launches: reservation -/

theorem grantCore_eq (s : State) (l : Launch) (k : Nat) : grantCore s l k = withLaunch s (grantedTo s l k) := rfl

/-- A launch that is reserving, or whose back-off has ended, requests its next core. -/
theorem launchBackoffExpiry_requests {s : State} {l : Launch} (hl : launched s l.seq = some l)
    (hp : l.phase = .reserving ∨ ∃ t, l.phase = .backoff t ∧ t ≤ s.time) (hr : (ctxAt s l.ctx).resident = true) :
    exec (.launchBackoffExpiry l.seq) s = .next (requestCore s l) := by
  have hl' : launchOf s l.seq = some l := hl
  show execLaunchBackoffExpiry l.seq s = _
  rw [execLaunchBackoffExpiry, hl']
  rcases hp with hp | ⟨t, hp, ht⟩
  · simp only [hp, if_pos hr]
  · simp only [hp, if_pos (And.intro ht hr)]

theorem requestCore_free {s : State} {l : Launch} {k : Nat} (hk : (lrCores s l.ctx l.record)[l.held.length]? = some k) (hh : holders s l k = []) :
    requestCore s l = withLaunch s (grantedTo s l k) := by
  simp only [requestCore, hk, hh, List.any_nil, Bool.false_eq_true, if_false, List.foldl_nil, grantCore_eq]

theorem requestCore_yields {s : State} {l m : Launch} {k : Nat} (hk : (lrCores s l.ctx l.record)[l.held.length]? = some k)
    (hh : holders s l k = [m]) (hm : m.phase ≠ .committed) (hs : l.seq < m.seq) :
    requestCore s l = withLaunch (withLaunch s (released s m)) (grantedTo s l k) := by
  have hfree : ([m].any fun m => m.phase == .committed || decide (m.seq < l.seq)) = false := by simp [hm, hs.le]
  simp only [requestCore, hk, hh, hfree, Bool.false_eq_true, if_false]
  rfl

theorem requestCore_refused {s : State} {l : Launch} {k : Nat} (hk : (lrCores s l.ctx l.record)[l.held.length]? = some k)
    (hh : ∃ m ∈ holders s l k, m.phase = .committed ∨ m.seq < l.seq) : requestCore s l = withLaunch s (released s l) := by
  have hany : ((holders s l k).any fun m => m.phase == .committed || decide (m.seq < l.seq)) = true := by simpa using hh
  simp only [requestCore, hk, hany, if_true]
  rfl

/-! ### Launches: supersteps and completion -/

theorem coreDrained_iff (c : Core) : coreDrained c = true ↔ allDone c := by
  cases h : c.snap <;> simp [coreDrained, allDone, h, and_assoc]

theorem stepDone_iff (s : State) (l : Launch) :
    stepDone s l = true ↔ l.phase = .committed ∧ l.running = 0 ∧ nextIteration l = none ∧ ∀ k ∈ l.held, allDone (coreAt s k) := by
  simp [stepDone, coreDrained_iff, and_assoc]

theorem rbits_one_beq (r : BitVec 512) (i : Nat) : (rbits r i 1 == 1) = decide (r.toNat / 2 ^ i % 2 = 1) := by simp [rbits, beq_eq_decide]

theorem lrMulti_eq (r : BitVec 512) : lrMulti r = decide (r.toNat / 2 ^ 479 % 2 = 1) := rbits_one_beq r 479

theorem lrDone_eq (r : BitVec 512) : lrDone r = BitVec.ofNat 64 (r.toNat / 2 ^ 384) := ofNat_rbits_word r 384

/-- The superstep after a finished one (R40): the messages of the old one are forgotten. -/
theorem superstepAdvance_advances {s : State} {l : Launch} (hl : launched s l.seq = some l) (hd : stepDone s l = true)
    (hlast : l.step < lrLast l.record) (hm : lrMulti l.record = false ∨ (l.told = true ∧ peersReached s l = true)) :
    ∃ t, exec (.superstepAdvance l.seq) s = .next t ∧ t = { s with fcp := t.fcp } ∧
      t.fcp.launches = (withLaunch s { l with step := l.step + 1, ord := 0, last := 0, told := false, start := s.time + 1 }).fcp.launches := by
  have hl' : launchOf s l.seq = some l := hl
  have htell : (lrMulti l.record && !l.told) = false := by rcases hm with h | ⟨h, -⟩ <;> simp [h]
  have hwait : (lrMulti l.record && !peersReached s l) = false := by rcases hm with h | ⟨-, h⟩ <;> simp [h]
  have hrun : ∃ f, exec (.superstepAdvance l.seq) s =
      .next (setLaunch { s with fcp := { s.fcp with sstep := f } }
        { l with step := l.step + 1, ord := 0, last := 0, told := false, start := s.time + 1 }) := by
    show ∃ f, execSuperstepAdvance l.seq s = _
    rw [execSuperstepAdvance, hl']
    simp only [hd, htell, hwait, hlast.not_ge, Bool.not_true, decide_false, Bool.or_self, Bool.false_eq_true, if_false]
    exact ⟨_, rfl⟩
  obtain ⟨f, hf⟩ := hrun
  exact ⟨_, hf, rfl, rfl⟩

/-- A launch over several dies tells its group first (R40). -/
theorem superstepAdvance_tells {s : State} {l : Launch} (hl : launched s l.seq = some l) (hd : stepDone s l = true)
    (hlast : l.step < lrLast l.record) (hm : lrMulti l.record = true) (ht : l.told = false) :
    exec (.superstepAdvance l.seq) s = .next (withLaunch (tellPeers s l) { l with told := true }) := by
  have hl' : launchOf s l.seq = some l := hl
  show execSuperstepAdvance l.seq s = _
  rw [execSuperstepAdvance, hl']
  simp only [hd, hm, ht, hlast.not_ge, Bool.not_true, Bool.not_false, Bool.and_self, decide_false, Bool.or_self, Bool.false_eq_true, if_false, if_true]
  rfl

theorem endLaunch_eq (s : State) (l : Launch) : endLaunch s l = launchOver s l := rfl

/-- A launch whose last superstep is over is completed (R41). -/
theorem launchCompletion_done {s : State} {l : Launch} (hl : launched s l.seq = some l) (hd : stepDone s l = true)
    (hlast : lrLast l.record ≤ l.step) : exec (.launchCompletion l.seq) s = .next (decDone s l) := by
  have hl' : launchOf s l.seq = some l := hl
  have hp := ((stepDone_iff s l).mp hd).1
  show execLaunchCompletion l.seq s = _
  rw [execLaunchCompletion, hl']
  simp only [hp, hd, hlast, decide_true, Bool.and_self, if_true]

theorem decDone_none {s : State} {l : Launch} (h : lrDone l.record = 0) : decDone s l = launchOver s l := if_pos h

theorem decDone_here {s v : State} {l : Launch} {g : Got} (h : lrDone l.record ≠ 0) (ho : ownerOf (lrDone l.record) = s.port.rank)
    (hh : accessHeld s none (coreKey l.ctx 0) false (lrDone l.record) .taskDec = false)
    (hp : performMem s (coreKey l.ctx 0) (fcpAgent s s.time false) false (lrDone l.record) .taskDec = .ok (v, g)) :
    decDone s l = launchOver v l := by
  simp only [decDone, h, ho, hh, unitTry_done 4 hp, if_true, if_false, Bool.false_eq_true, endLaunch_eq]

theorem takeUnit_port {s v : State} {n : Nat} (h : takeUnit s n = some v) : v = { s with port := v.port } := by
  unfold takeUnit at h
  dsimp only at h
  split at h
  · injection h with h
    rw [← h]
  · cases h

theorem decDone_sent {s v : State} {l : Launch} {o : Link} (h : lrDone l.record ≠ 0) (ho : ownerOf (lrDone l.record) ≠ s.port.rank)
    (hv : takeUnit s 0 = some v) (hl : linkTo v false (ownerOf (lrDone l.record)) = some o) :
    ∃ (t : State) (q : Sent), decDone s l = t ∧ t = { s with port := t.port, fcp := t.fcp } ∧
      t.fcp.launches = (withLaunch v { l with held := [], phase := .finishing 1 }).fcp.launches ∧ t.port.queue = v.port.queue ++ [q] ∧
      q.link = o ∧ q.frame.dst = ownerOf (lrDone l.record) ∧
      ∃ w, q.frame.body = .mem w { core := coreKey l.ctx 0, stream := 16, id := l.seq } none (lrDone l.record) .taskDec := by
  obtain ⟨t, q, ht, hport, hq, hlink, hdst, -, hbody⟩ := sendBody_queues (x := l.ctx) (vc := 2)
    (b := .mem (fcpAgent s s.time false) { core := coreKey l.ctx 0, stream := 16, id := l.seq } none (lrDone l.record) .taskDec) hl
  have hrun : decDone s l = setFinishing t l 1 := by simp only [decDone, h, ho, hv, ht, if_false]
  have hvs := takeUnit_port hv
  refine ⟨_, q, hrun, ?_, ?_, hq, hlink, hdst, _, hbody⟩
  · rw [hport, hvs]
    rfl
  · rw [hport]
    rfl

theorem launchCompletion_finishing {s : State} {l : Launch} (hl : launched s l.seq = some l) :
    (l.phase = .finishing 1 → exec (.launchCompletion l.seq) s = .next s) ∧
      (l.phase = .finishing 2 → exec (.launchCompletion l.seq) s = .next (launchOver s l)) := by
  have hl' : launchOf s l.seq = some l := hl
  refine ⟨fun h => ?_, fun h => ?_⟩
  · show execLaunchCompletion l.seq s = _
    simp only [execLaunchCompletion, hl', h]
  · show execLaunchCompletion l.seq s = _
    simp only [execLaunchCompletion, hl', h, endLaunch_eq]

/-- Settles O42: decrements by DEP and by owner, then the life of a launch in order: reservation, supersteps, completion. -/
theorem recordsAndLaunches : Obligations.RecordsAndLaunches := by
  refine ⟨fun s s1 s2 x a p chk hwf ho hp hl hr => taskRecordDecrement_here hwf ho hp hl hr,
    fun s u x a l ho hp hu hl => taskRecordDecrement_sent ho hp hu hl, fun s l r hr hroom => ?_, fun s l k hl hp hres hk => ?_,
    fun s l hl hph hrun hnext hdone => ?_, fun s l hl => launchCompletion_finishing hl⟩
  · show execReadyOverflowMove l s = _
    rw [execReadyOverflowMove, hr]
    exact if_pos hroom
  · have hreq := launchBackoffExpiry_requests hl hp hres
    exact ⟨fun hh => hreq.trans (congrArg _ (requestCore_free hk hh)), fun m hh hm hs => hreq.trans (congrArg _ (requestCore_yields hk hh hm hs)),
      fun hh => hreq.trans (congrArg _ (requestCore_refused hk hh))⟩
  · have hd : stepDone s l = true := (stepDone_iff s l).mpr ⟨hph, hrun, hnext, hdone⟩
    refine ⟨fun hlast hm => superstepAdvance_advances hl hd hlast ?_, fun hlast hm ht => superstepAdvance_tells hl hd hlast ?_ ht, fun hlast => ?_⟩
    · exact hm.imp_left fun h => (lrMulti_eq _).trans (decide_eq_false fun h1 => Nat.zero_ne_one (h.symm.trans h1))
    · exact (lrMulti_eq _).trans (decide_eq_true hm)
    · intro a
      have ha : lrDone l.record = a := lrDone_eq _
      have hexec := launchCompletion_done hl hd hlast
      rw [← ha]
      refine ⟨fun h => hexec.trans (congrArg _ (decDone_none h)), fun h ho hh v g hp => hexec.trans (congrArg _ (decDone_here h ho hh hp)),
        fun h ho v o hv hlink => ?_⟩
      obtain ⟨t, q, ht, hrest⟩ := decDone_sent h ho hv hlink
      exact ⟨t, q, hexec.trans (congrArg _ ht), hrest⟩

end Sys2Proof.Machine
end

section
/-! PROOFS. The management commands on contexts, stopped cores and queues (R48, R49, R230, R233 to R236, R396, R397). -/

namespace Sys2Proof.Machine

open Sys2Proof.Stmt

/-- A command that is not the ring's next has its effect alone. -/
theorem serve_apart {i : Instr} {s t : State} {n : Nat} {f : State → State × Nat} (h : apart i s) (hf : f s = (t, n)) :
    serve i f s = .next t := by
  have hnext : mgmtNext s ≠ some i := h
  rw [serve, if_neg hnext, hf]

/-! ### What moving images leaves -/

theorem hbmWrite_onlyMemory (s : State) (a : Nat) (bs : List Byte) : OnlyMemory s (hbmWrite s a bs) :=
  OnlyMemory.trans (t := dropPrior s { sp := false, a := a } bs.length) (.intro ..) (physWrite_onlyMemory _ { sp := false, a := a } bs)

theorem putHeader_onlyMemory (s : State) (x o v : Nat) : OnlyMemory s (putHeader s x o v) := hbmWrite_onlyMemory ..

theorem saveCore_onlyMemory (s : State) (k : Nat) : OnlyMemory s (saveCore s k) := .intro ..

theorem saveFifo_onlyMemory (s : State) (k i : Nat) : OnlyMemory s (saveFifo s k i) := .intro ..

theorem foldl_onlyMemory {α : Type} {f : State → α → State} (h : ∀ s x, OnlyMemory s (f s x)) (l : List α) (s : State) :
    OnlyMemory s (l.foldl f s) := by
  induction l generalizing s with
  | nil => exact .refl s
  | cons x r ih => exact (h s x).trans (ih _)

/-- Changes of cores leave the contexts. -/
theorem foldl_onCore_ctxs (f : Core → Core) (ks : List Nat) (s : State) : (ks.foldl (fun s k => onCore s k f) s).ctxs = s.ctxs := by
  induction ks generalizing s with
  | nil => rfl
  | cons k r ih => rw [List.foldl_cons, ih]; rfl

theorem ctxAt_of_some {s : State} {x : Nat} {c : Ctx} (h : ctxAt? s x = some c) : ctxAt s x = c := by rw [ctxAt, h]; rfl

theorem ctxAt?_setCtx (s : State) (x y : Nat) (c : Ctx) : ctxAt? (setCtx s x c) y = if y = x then some c else ctxAt? s y := by
  split
  next h => exact h ▸ mget_mset_same ..
  next h => exact mget_mset_other _ _ _ _ _ h

theorem ctxAt_setCtx (s : State) (x : Nat) (c : Ctx) : ctxAt (setCtx s x c) x = c :=
  ctxAt_of_some ((ctxAt?_setCtx s x x c).trans (if_pos rfl))

theorem ctxAt?_congr {s t : State} (h : t.ctxs = s.ctxs) (x : Nat) : ctxAt? t x = ctxAt? s x := congrArg (mget none · x) h

/-- A context that is resident exists. -/
theorem exists_of_resident {s : State} {x : Nat} (h : (ctxAt s x).resident = true) : ∃ c, ctxAt? s x = some c ∧ c.resident = true := by
  unfold ctxAt at h
  cases hc : ctxAt? s x with
  | none => rw [hc] at h; cases h
  | some c => rw [hc] at h; exact ⟨c, rfl, h⟩

/-! ### PREEMPT -/

/-- The launches of a pre-empted context have released their gangs (R48). -/
theorem releaseGangs_released (s : State) (x : Nat) {l : Launch} (hl : l ∈ (releaseGangs s x).fcp.launches) (hx : l.ctx = x)
    (hp : ∀ n, l.phase ≠ .finishing n) : l.held = [] ∧ l.phase = .reserving := by
  obtain ⟨m, -, rfl⟩ := List.mem_map.mp hl
  by_cases h : m.ctx = x ∧ isFinishing m = false
  · rw [if_pos h]
    exact ⟨rfl, rfl⟩
  · rw [if_neg h] at hx hp
    refine absurd ⟨hx, ?_⟩ h
    unfold isFinishing
    split
    next n hn => exact absurd hn (hp n)
    · rfl

/-- The last thing a pre-emption does: the gangs are released, the header is written, the context is no more resident. -/
theorem preemptCtx_form (s : State) (x n : Nat) : ∃ u v, OnlyMemory (releaseGangs u x) v ∧
    preemptCtx s x n = setCtx v x { ctxAt v x with resident := false, status := n } :=
  ⟨_, _, ((putHeader_onlyMemory ..).trans (putHeader_onlyMemory ..)).trans (putHeader_onlyMemory ..), rfl⟩

theorem preempt_resident {s : State} {x : Nat} (ha : apart (.preempt x) s) (h : (ctxAt s x).resident = true) :
    exec (.preempt x) s = .next (preemptCtx s x 1) := by
  obtain ⟨c, hc, hr⟩ := exists_of_resident h
  exact serve_apart (n := 0) ha (by simp only [hc, hr, if_true])

theorem preempt_absent {s : State} {x : Nat} (ha : apart (.preempt x) s) (h : (ctxAt s x).resident = false) : exec (.preempt x) s = .next s := by
  cases hc : ctxAt? s x with
  | none => exact serve_apart (n := 3) ha (by simp only [hc])
  | some c =>
    rw [ctxAt_of_some hc] at h
    exact serve_apart (n := 1) ha (by simp only [hc, h, Bool.false_eq_true, if_false])

theorem preempt_leaves {s : State} {x : Nat} (ha : apart (.preempt x) s) (h : (ctxAt s x).resident = true) :
    ∃ t, exec (.preempt x) s = .next t ∧ (ctxAt t x).resident = false ∧ (ctxAt t x).status = 1 ∧
      ∀ l ∈ t.fcp.launches, l.ctx = x → (∀ n, l.phase ≠ .finishing n) → l.held = [] ∧ l.phase = .reserving := by
  obtain ⟨u, v, hv, hform⟩ := preemptCtx_form s x 1
  refine ⟨_, preempt_resident ha h, ?_⟩
  rw [hform, ctxAt_setCtx]
  refine ⟨rfl, rfl, fun l hl => releaseGangs_released u x ?_⟩
  have hfcp : v.fcp = (releaseGangs u x).fcp := by rw [hv]
  rw [← hfcp]
  exact hl

/-! ### RESTORE -/

theorem restore_served {s t : State} {x a n : Nat} (ha : apart (.restore x a) s) (h : restoreCtx s x a = (t, n)) :
    exec (.restore x a) s = .next t := serve_apart ha h

/-- The first thing a restore of a loaded context does: its scratchpad is back, and it is resident. -/
def backIn (s : State) (x : Nat) : State :=
  setCtx (moveScratch s x false) x { ctxAt (moveScratch s x false) x with resident := true, status := 0 }

theorem makeResident_eq (s : State) (x : Nat) : makeResident s x =
    nextEpoch (putHeader ((ctxCores (backIn s x) x).foldl (fun s k => onCore s k fun c => { c with waits := c.task.isSome }) (backIn s x)) x 0x08 0) :=
  rfl

/-- A restored context is resident, with status 0. -/
theorem makeResident_ctx (s : State) (x : Nat) : (ctxAt (makeResident s x) x).resident = true ∧ (ctxAt (makeResident s x) x).status = 0 := by
  have hctxs : (makeResident s x).ctxs = (backIn s x).ctxs := by
    rw [makeResident_eq, nextEpoch_ctxs, (putHeader_onlyMemory ..).ctxs, foldl_onCore_ctxs]
  have hx : ctxAt (makeResident s x) x = { ctxAt (moveScratch s x false) x with resident := true, status := 0 } :=
    (congrArg (·.getD Ctx.absent) (ctxAt?_congr hctxs x)).trans (ctxAt_setCtx ..)
  rw [hx]
  exact ⟨rfl, rfl⟩

/-- RESTORE of an area that names the context and lies on the die, by the tests of R396 that are left. -/
theorem restore_checks {s : State} {x a : Nat} {c : Ctx} (ha : apart (.restore x a) s) (hc : ctxAt? s x = some c) (hr : c.resident = false)
    (halign : a % 4096 = 0) (hon : a + 4096 ≤ hbmBytes s) (hid : readNat s.hbm a 2 = x) :
    (readNat s.hbm (a + 0x10) 8 ≠ zBytes s c.checked → exec (.restore x a) s = .next s) ∧
      (readNat s.hbm (a + 0x10) 8 = zBytes s c.checked → launchesFit s x = true → (residents s).length < 16 →
        (overlapsResident (loadImage s x a) x = true → exec (.restore x a) s = .next s) ∧
        (overlapsResident (loadImage s x a) x = false →
          ∃ t, exec (.restore x a) s = .next t ∧ (ctxAt t x).resident = true ∧ (ctxAt t x).status = 0)) := by
  have hplace : ¬(a % 4096 ≠ 0 ∨ hbmBytes s < a + 4096 ∨ readNat s.hbm a 2 ≠ x) := by
    rintro (h | h | h)
    · exact h halign
    · exact h.not_ge hon
    · exact h hid
  refine ⟨fun hz => restore_served (n := 4) ha ?_, fun hz hfit hroom => ⟨fun ho => restore_served (n := 8) ha ?_, fun ho => ?_⟩⟩
  · simp only [restoreCtx, hc, hr, hplace, if_pos hz, Bool.false_eq_true, if_false]
  · simp only [restoreCtx, hc, hr, hplace, hz, hfit, ho, hroom.not_ge, ne_eq, not_true_eq_false, Bool.not_true, Bool.false_eq_true, if_false, if_true]
  · refine ⟨makeResident (loadImage s x a) x, restore_served (n := 0) ha ?_, makeResident_ctx _ x⟩
    simp only [restoreCtx, hc, hr, hplace, hz, hfit, ho, hroom.not_ge, ne_eq, not_true_eq_false, Bool.not_true, Bool.false_eq_true, if_false]

/-! ### CREATE and DESTROY -/

/-- A core whose records have been dropped is in its creation state. -/
theorem mget_dropped {x k : Nat} (m : SMap Core) (h : keyCtx k = x) : mget Core.init (m.filter fun e => keyCtx e.1 != x) k = Core.init :=
  (mget_filter_key _ (fun j => keyCtx j != x) m k).trans (if_neg (by simp [h]))

theorem keyCtx_coreKey (x : Nat) {n : Nat} (h : n < 512) : keyCtx (512 * x + n) = x := by
  unfold keyCtx
  omega

/-- The identity in a fresh header: the context, and whether it is checked (R234). -/
def headerCtx (s : State) (a : Nat) : Nat := readNat s.hbm a 8 % 65536
def headerChecked (s : State) (a : Nat) : Bool := readNat s.hbm a 8 / 65536 % 2 == 1

/-- The context that CREATE adds (R397). -/
def createdCtx (s : State) (a : Nat) : Ctx :=
  readHeader s { Ctx.absent with
    checked := headerChecked s a, service := readNat s.hbm a 8 / 131072 % 2 == 1, status := 2
    zsize := zBytes s (headerChecked s a), ncore := coreCount s (headerChecked s a) } a

/-- CREATE adds the context, with nothing listed for its cores. -/
theorem createCtx_done {s : State} {a : Nat} (hb : bootStage s = 3) (hx : headerCtx s a ≠ 0xFFFF)
    (hu : headerChecked s a = true → uOn s = true) (hz : headerZero s a = true)
    (hh : headerAddrs s a (coreCount s (headerChecked s a)) (zBytes s (headerChecked s a)) = true) (hc : ctxAt? s (headerCtx s a) = none) :
    ∃ t, createCtx s a = (t, 0) ∧
      OnlyMemory (setCtx { s with cores := s.cores.filter fun e => keyCtx e.1 != headerCtx s a } (headerCtx s a) (createdCtx s a)) t := by
  have hgate : ¬(headerChecked s a = true ∧ uOn s = false) := fun ⟨h1, h2⟩ => by rw [hu h1] at h2; cases h2
  have hargs : ¬(headerCtx s a = 0xFFFF ∨ (ctxAt? s (headerCtx s a)).isSome = true ∨
      headerAddrs s a (coreCount s (headerChecked s a)) (zBytes s (headerChecked s a)) = false ∨ headerZero s a = false) := by
    simp [hx, hc, hh, hz]
  have hform := ((if_neg (not_not.mpr hb)).trans ((if_neg hargs).trans (if_neg hgate)) : createCtx s a = _)
  refine ⟨_, hform, ?_⟩
  refine OnlyMemory.trans ?_ (foldl_onlyMemory (fun s k => foldl_onlyMemory (fun s i => saveFifo_onlyMemory s k i) _ s) _ _)
  refine OnlyMemory.trans ?_ (foldl_onlyMemory saveCore_onlyMemory _ _)
  exact ((putHeader_onlyMemory ..).trans (putHeader_onlyMemory ..)).trans (putHeader_onlyMemory ..)

/-- CREATE of a context that does not exist, in the words of R397. -/
theorem create_leaves {s : State} {a : Nat} (ha : apart (.create a) s) (hb : bootStage s = 3) (hx : headerCtx s a ≠ 0xFFFF)
    (hu : headerChecked s a = true → uOn s = true) (hz : headerZero s a = true)
    (hh : headerAddrs s a (coreCount s (headerChecked s a)) (zBytes s (headerChecked s a)) = true) (hc : ctxAt? s (headerCtx s a) = none) :
    ∃ t, exec (.create a) s = .next t ∧ (ctxAt t (headerCtx s a)).resident = false ∧ (ctxAt t (headerCtx s a)).status = 2 ∧
      (ctxAt t (headerCtx s a)).checked = headerChecked s a ∧ (ctxAt t (headerCtx s a)).area = a ∧
      (∀ n < 512, coreAt t (512 * headerCtx s a + n) = Core.init) ∧ ∀ y, y ≠ headerCtx s a → ctxAt? t y = ctxAt? s y := by
  obtain ⟨t, ht, hmem⟩ := createCtx_done hb hx hu hz hh hc
  have hctxs : ∀ y, ctxAt? t y = if y = headerCtx s a then some (createdCtx s a) else ctxAt? s y := by
    intro y
    rw [hmem]
    exact ctxAt?_setCtx ..
  have hnew : ctxAt t (headerCtx s a) = createdCtx s a := ctxAt_of_some ((hctxs _).trans (if_pos rfl))
  refine ⟨t, serve_apart ha ht, ?_⟩
  rw [hnew]
  refine ⟨rfl, rfl, rfl, rfl, fun n hn => ?_, fun y hy => (hctxs y).trans (if_neg hy)⟩
  rw [hmem]
  exact mget_dropped s.cores (keyCtx_coreKey _ hn)

theorem create_refused {s : State} {a : Nat} (ha : apart (.create a) s) (hb : bootStage s = 3) (hc : (ctxAt? s (headerCtx s a)).isSome = true) :
    exec (.create a) s = .next s := by
  have hargs : headerCtx s a = 0xFFFF ∨ (ctxAt? s (headerCtx s a)).isSome = true ∨
      headerAddrs s a (coreCount s (headerChecked s a)) (zBytes s (headerChecked s a)) = false ∨ headerZero s a = false := .inr (.inl hc)
  exact serve_apart ha ((if_neg (not_not.mpr hb)).trans (if_pos hargs))

/-- DESTROY removes the context, its cores, its launches and its ready entries (R397). -/
theorem destroyCtx_done {s : State} {x : Nat} {c : Ctx} (hc : ctxAt? s x = some c) (hr : c.resident = false) (hq : ctxQueued s x = false) :
    ∃ (t : State) (f : Fcp), destroyCtx s x = (t, 0) ∧ t.fcp.launches = f.launches.filter (fun l => l.ctx != x) ∧
      t.fcp.ready = f.ready.filter (fun r => r.ctx != x) ∧ (∃ m, t.ctxs = List.filter (fun e => e.1 != x) m) ∧
      ∃ m, t.cores = List.filter (fun e => keyCtx e.1 != x) m := by
  unfold destroyCtx
  rw [hc]
  dsimp only
  rw [if_neg (by simp [hr, hq])]
  exact ⟨_, _, rfl, rfl, rfl, ⟨_, rfl⟩, _, rfl⟩

theorem destroy_leaves {s : State} {x : Nat} {c : Ctx} (ha : apart (.destroy x) s) (hc : ctxAt? s x = some c) (hr : c.resident = false)
    (hq : ctxQueued s x = false) :
    ∃ t, exec (.destroy x) s = .next t ∧ ctxAt? t x = none ∧ (∀ n < 512, coreAt t (512 * x + n) = Core.init) ∧
      (∀ l ∈ t.fcp.launches, l.ctx ≠ x) ∧ ∀ r ∈ t.fcp.ready, r.ctx ≠ x := by
  obtain ⟨t, f, ht, hlaunches, hready, ⟨m, hctxs⟩, n, hcores⟩ := destroyCtx_done hc hr hq
  refine ⟨t, serve_apart ha ht, ?_, fun i hi => ?_, fun l hl => ?_, fun r hr => ?_⟩
  · rw [ctxAt?, hctxs]
    exact (mget_filter_key _ (fun j => j != x) m x).trans (if_neg (by simp))
  · rw [coreAt, hcores]
    exact mget_dropped n (keyCtx_coreKey x hi)
  · rw [hlaunches] at hl
    simpa using (List.mem_filter.mp hl).2
  · rw [hready] at hr
    simpa using (List.mem_filter.mp hr).2

theorem destroy_refused {s : State} {x : Nat} {c : Ctx} (ha : apart (.destroy x) s) (hc : ctxAt? s x = some c)
    (h : c.resident = true ∨ ctxQueued s x = true) : exec (.destroy x) s = .next s :=
  serve_apart (n := 1) ha (by simp only [destroyCtx, hc, if_pos h])

/-! ### RESUME -/

theorem thaw_keeps (c : Core) : (thaw c).stop = none ∧ (thaw c).task = c.task ∧ (thaw c).g = c.g := by
  unfold thaw
  dsimp only
  split
  · exact ⟨rfl, rfl, rfl⟩
  · exact ⟨rfl, rfl, rfl⟩

theorem advance_keeps (c : Core) : (advance c).stop = c.stop ∧ (advance c).task = c.task ∧ (advance c).g = c.g := by
  unfold advance
  split
  · split
    · exact ⟨rfl, rfl, rfl⟩
    · exact ⟨rfl, rfl, rfl⟩
  · exact ⟨rfl, rfl, rfl⟩

/-- A resumed core runs its task on. -/
theorem resumeCore_keeps (c : Core) (b : Bool) : (resumeCore c b).stop = none ∧ (resumeCore c b).task = c.task ∧ (resumeCore c b).g = c.g := by
  obtain ⟨h1, h2, h3⟩ := thaw_keeps c
  obtain ⟨h4, h5, h6⟩ := advance_keeps (thaw c)
  cases b
  · exact ⟨h1, h2, h3⟩
  · exact ⟨h4.trans h1, h5.trans h2, h6.trans h3⟩

/-- RESUME of a core of a resident context that is stopped at a bundle, with an action its stop allows. -/
theorem resume_served {s : State} {x n a : Nat} {st : Stop} (ha : apart (.resume x n a) s) (hx : ctxAt? s x ≠ none)
    (hn : n < (ctxAt s x).ncore) (hr : (ctxAt s x).resident = true) (hst : (coreAt s (512 * x + n)).stop = some st) (ha2 : a ≤ 2)
    (hcode : st.code ≠ 0x11 ∨ a = 2) : exec (.resume x n a) s = .next (resumeStopped s (512 * x + n) a st) := by
  obtain ⟨c, hc⟩ := Option.ne_none_iff_exists'.mp hx
  rw [ctxAt_of_some hc] at hn hr
  have hargs : ¬(2 < a ∨ c.ncore ≤ n) := by omega
  have hallowed : (!c.resident || (st.code == 0x11 && !st.between && a != 2)) = false := by
    rcases hcode with h | h <;> simp [hr, h]
  exact serve_apart (n := 0) ha (by simp only [hc, hargs, coreKey, hst, hallowed, Bool.false_eq_true, if_false])

/-- A double trap allows only the end of the task (R230). -/
theorem resume_refused {s : State} {x n a : Nat} {st : Stop} (ha : apart (.resume x n a) s) (hx : ctxAt? s x ≠ none)
    (hn : n < (ctxAt s x).ncore) (hst : (coreAt s (512 * x + n)).stop = some st) (hb : st.between = false) (hcode : st.code = 0x11) (ha2 : a < 2) :
    exec (.resume x n a) s = .next s := by
  obtain ⟨c, hc⟩ := Option.ne_none_iff_exists'.mp hx
  rw [ctxAt_of_some hc] at hn
  have hargs : ¬(2 < a ∨ c.ncore ≤ n) := by omega
  have hforbidden : (!c.resident || (st.code == 0x11 && !st.between && a != 2)) = true := by
    simp [hb, hcode, show a ≠ 2 by omega]
  exact serve_apart (n := 1) ha (by simp only [hc, hargs, coreKey, hst, hforbidden, if_false, if_true])

theorem resumeStopped_on {s : State} {k a : Nat} {st : Stop} (hb : st.between = false) (ha : a < 2) :
    ∃ b, resumeStopped s k a st = onCore s k fun c => resumeCore c b := by
  unfold resumeStopped
  rw [if_neg (by simp [hb])]
  match a, ha with
  | 0, _ => exact ⟨_, rfl⟩
  | 1, _ => exact ⟨_, rfl⟩

theorem resumeStopped_end (s : State) (k : Nat) {st : Stop} (hb : st.between = false) : resumeStopped s k 2 st = endTask s k :=
  if_neg (by simp [hb])

theorem resume_runs_on {s : State} {x n a : Nat} {st : Stop} (hexec : exec (.resume x n a) s = .next (resumeStopped s (512 * x + n) a st))
    (hb : st.between = false) (ha : a < 2) :
    ∃ t, exec (.resume x n a) s = .next t ∧ t = { s with cores := t.cores } ∧ (coreAt t (512 * x + n)).stop = none ∧
      (coreAt t (512 * x + n)).task = (coreAt s (512 * x + n)).task ∧ (coreAt t (512 * x + n)).g = (coreAt s (512 * x + n)).g ∧
      ∀ j, j ≠ 512 * x + n → coreAt t j = coreAt s j := by
  obtain ⟨b, hform⟩ := resumeStopped_on (s := s) (k := 512 * x + n) hb ha
  obtain ⟨h1, h2, h3⟩ := resumeCore_keeps (coreAt s (512 * x + n)) b
  rw [hform] at hexec
  refine ⟨_, hexec, rfl, ?_, ?_, ?_, fun j hj => coreAt_setCore_other _ _ j _ hj⟩
  · exact (congrArg Core.stop (coreAt_setCore_same ..)).trans h1
  · exact (congrArg Core.task (coreAt_setCore_same ..)).trans h2
  · exact (congrArg Core.g (coreAt_setCore_same ..)).trans h3

/-- The end of a task that has neither record nor DONEREC, as a change of cores and launches. -/
theorem endTask_leaves {s : State} {k : Nat} {y : Task} (ht : (coreAt s k).task = some y) (hr : y.record = none) (hd : y.done = 0) :
    endTask s k = { s with cores := (endTask s k).cores, fcp := (endTask s k).fcp } ∧ (coreAt (endTask s k) k).task = none ∧
      (coreAt (endTask s k) k).stop = none ∧ ∀ j, j ≠ k → coreAt (endTask s k) j = coreAt s j := by
  obtain ⟨c, htask, hstop, -, hform⟩ := endTask_form ht hr hd
  have hcores : (endTask s k).cores = (setCore s k c).cores ∧ endTask s k = { s with cores := (endTask s k).cores, fcp := (endTask s k).fcp } := by
    rw [hform]
    split
    · exact ⟨rfl, rfl⟩
    · exact ⟨rfl, rfl⟩
  have hcore : ∀ j, coreAt (endTask s k) j = coreAt (setCore s k c) j := fun j => congrArg (mget Core.init · j) hcores.1
  refine ⟨hcores.2, ?_, ?_, fun j hj => (hcore j).trans (coreAt_setCore_other _ _ j _ hj)⟩
  · rw [hcore, coreAt_setCore_same, htask]
  · rw [hcore, coreAt_setCore_same, hstop]

/-! ### ABORT -/

theorem queueCmds_setCmds (s : State) (q : Nat) (cs : List Cmd) : queueCmds (setCmds s q cs) q = cs := mget_mset_same ..

theorem journalRing_onlyMemory (s : State) (m : Nat) (bs : List Byte) : OnlyMemory s (journalRing s m bs) := by
  unfold journalRing
  split
  · exact hbmWrite_onlyMemory ..
  · exact .refl s

/-- The journal's entry of a command is memory and the mirror. -/
theorem journalMark_form (s : State) (q : Nat) (c : Cmd) (a b n : Nat) :
    ∃ m, OnlyMemory { s with cp := { s.cp with mirror := m } } (journalMark s q c a b n) := by
  unfold journalMark
  dsimp only
  split
  · exact ⟨_, journalRing_onlyMemory ..⟩
  · exact ⟨s.cp.mirror, journalRing_onlyMemory ..⟩

/-- What a completion leaves once the status and the journal are written. -/
theorem completed_leaves (s : State) (q n m : Nat) (r : List Cmd) :
    queueCmds (startLater (dtComplete (setCmds s q r) q n m) q) q = r ∧ (startLater (dtComplete (setCmds s q r) q n m) q).cores = s.cores ∧
      (startLater (dtComplete (setCmds s q r) q n m) q).ctxs = s.ctxs := ⟨queueCmds_setCmds s q r, rfl, rfl⟩

/-- A command's completion takes it off its queue and leaves cores and contexts. -/
theorem completeCmd_leaves {s : State} {q : Nat} {c : Cmd} {r : List Cmd} (h : queueCmds s q = c :: r) (n : Nat) (ovf : Bool) (f : Nat) :
    queueCmds (completeCmd s q n ovf f) q = r ∧ (completeCmd s q n ovf f).cores = s.cores ∧ (completeCmd s q n ovf f).ctxs = s.ctxs := by
  unfold completeCmd
  rw [h]
  dsimp only
  generalize leBytes 8 (n + ovf.toNat * 256 + f * 2 ^ 32) = bs
  have hmem := hbmWrite_onlyMemory s (c.addr + 8) bs
  generalize hbmWrite s (c.addr + 8) bs = u at hmem ⊢
  obtain ⟨m, hmark⟩ := journalMark_form u q c (if n = 0 then 3 else 4) n c.num
  generalize journalMark u q c (if n = 0 then 3 else 4) n c.num = v at hmark ⊢
  obtain ⟨hq, hcores, hctxs⟩ := completed_leaves v q c.num (v.time + 1) r
  exact ⟨hq, hcores.trans (hmark.cores.trans hmem.cores), hctxs.trans (hmark.ctxs.trans hmem.ctxs)⟩

theorem spoilGroup_onlyMemory (s : State) (x g : Nat) : OnlyMemory s (spoilGroup s x g) := hbmWrite_onlyMemory ..

/-- A launch that has started runs on without its command (R396). -/
def orphaned (s : State) (q : Nat) : State :=
  { s with fcp := { s.fcp with launches := s.fcp.launches.map fun l => if l.queue = some q then { l with queue := none } else l } }

/-- ABORT of a queue with a command at its head (R396). -/
theorem abortHead_leaves {s : State} {q : Nat} {c : Cmd} {r : List Cmd} (h : queueCmds s q = c :: r) :
    queueCmds (abortHead s q) q = r ∧ (abortHead s q).cores = s.cores ∧ (abortHead s q).ctxs = s.ctxs := by
  unfold abortHead
  rw [h]
  dsimp only
  split
  · have hmem := spoilGroup_onlyMemory s (cmdCtx c.words) (cmdGrp c.words)
    have hcmds : queueCmds (spoilGroup s (cmdCtx c.words) (cmdGrp c.words)) q = c :: r := by rw [queueCmds, hmem.fcp]; exact h
    obtain ⟨hq, hcores, hctxs⟩ := completeCmd_leaves hcmds 0x0B _ _
    exact ⟨hq, hcores.trans hmem.cores, hctxs.trans hmem.ctxs⟩
  · split
    · exact completeCmd_leaves (s := orphaned s q) h ..
    · exact completeCmd_leaves h ..

theorem abort_leaves {s : State} {q : Nat} {c : Cmd} {r : List Cmd} (ha : apart (.abort q) s) (hq : q < 64) (h : queueCmds s q = c :: r) :
    ∃ t, exec (.abort q) s = .next t ∧ queueCmds t q = r ∧ t.cores = s.cores ∧ t.ctxs = s.ctxs :=
  ⟨_, serve_apart (n := 0) ha (by simp only [hq.not_ge, h, List.isEmpty_cons, Bool.false_eq_true, if_false]), abortHead_leaves h⟩

theorem abort_refused {s : State} {q : Nat} (ha : apart (.abort q) s) (h : 64 ≤ q ∨ queueCmds s q = []) : exec (.abort q) s = .next s := by
  by_cases hq : 64 ≤ q
  · exact serve_apart ha (if_pos hq)
  · have hnil : (queueCmds s q).isEmpty = true := by simpa using h.resolve_left hq
    exact serve_apart ha ((if_neg hq).trans (if_pos hnil))

/-- Settles O47: each command apart from the ring, by what its tests let through. -/
theorem contextCommands : Obligations.ContextCommands := by
  refine ⟨fun s x ha => ⟨preempt_leaves ha, preempt_absent ha⟩, fun s x a c ha hc => ⟨fun hr => ?_, restore_checks ha hc⟩, fun s a ha hb => ?_,
    fun s x c ha hc => ⟨destroy_leaves ha hc, destroy_refused ha hc⟩, fun s x n a st ha hx hn _ hr hst hb => ?_,
    fun s q c r ha => ⟨abort_leaves ha, abort_refused ha⟩⟩
  · exact restore_served (n := 1) ha (by simp only [restoreCtx, hc, hr, if_true])
  · intro _ _ _ hx hu hz hh
    exact ⟨create_leaves ha hb hx hu hz hh, create_refused ha hb⟩
  · refine ⟨fun hcode ha2 => ?_, fun ha2 y ht hrec hd => ?_, resume_refused ha hx hn hst hb⟩
    · exact resume_runs_on (resume_served ha hx hn hr hst (by omega) (.inl hcode)) hb ha2
    · subst ha2
      have hexec := resume_served ha hx hn hr hst le_rfl (.inr rfl)
      rw [resumeStopped_end s _ hb] at hexec
      exact ⟨_, hexec, endTask_leaves ht hrec hd⟩

end Sys2Proof.Machine
end

section
/-! PROOFS. The host's side (R393 to R396, R407): doorbells, descriptors, the control page, boot. -/

namespace Sys2Proof.Machine

open Sys2Proof.Stmt

/-! ### Numbers in HBM -/

/-- A number in memory depends on its own bytes. -/
theorem readNat_congr {m m' : Memory} {a n : Nat} (h : ∀ x, a ≤ x → x < a + n → readByte m x = readByte m' x) : readNat m a n = readNat m' a n := by
  refine congrArg leNat (List.map_congr_left fun i hi => h _ (Nat.le_add_right ..) ?_)
  have := List.mem_range.mp hi
  omega

theorem readNat_lt (m : Memory) (a n : Nat) : readNat m a n < 256 ^ n := by
  have h := leNat_lt (readBytes m a n)
  have hlen : (readBytes m a n).length = n := by simp [readBytes]
  rwa [hlen] at h

theorem readByte_hbmWrite_other (s : State) (a : Nat) (bs : List Byte) {x : Nat} (h : x < a ∨ a + bs.length ≤ x) :
    readByte (hbmWrite s a bs).hbm x = readByte s.hbm x := readByte_writeBytes_other s.hbm a bs x h

theorem readNat_hbmWrite_other (s : State) (a : Nat) (bs : List Byte) {b n : Nat} (h : b + n ≤ a ∨ a + bs.length ≤ b) :
    readNat (hbmWrite s a bs).hbm b n = readNat s.hbm b n :=
  readNat_congr fun _ _ _ => readByte_hbmWrite_other s a bs (by omega)

theorem readNat_hbmWrite_same {s : State} (h : s.memWf) (a n x : Nat) : readNat (hbmWrite s a (leBytes n x)).hbm a n = x % 256 ^ n :=
  readNat_writeBytes_leBytes h.1 a n x

theorem qdAddr_hbmWrite (s : State) (a : Nat) (bs : List Byte) (q : Nat) : qdAddr (hbmWrite s a bs) q = qdAddr s q := by
  rw [qdAddr, hbmWrite_page, qdAddr]

/-- A counted event is one more of SECNT. -/
theorem countErr_eq (s : State) (i : Nat) : countErr s i = secntPlus s i := rfl

/-! ### Accepting commands (R395, R398) -/

/-- Without a configured ring, accepting a command into the journal changes its next number and the mirror alone. -/
theorem journalAccept_quiet {s : State} (h : quietJournal s) (q r : Nat) (bs : List Byte) :
    ∃ m, journalAccept s q r bs = (s.page.jnext, { s with page := { s.page with jnext := s.page.jnext + 1 }, cp := { s.cp with mirror := m } }) := by
  unfold journalAccept
  exact ⟨_, congrArg (Prod.mk _) (journalRing_quiet (by exact h) ..)⟩

/-- A command accepted at HEAD: it joins its queue, then HEAD moves on by one. -/
theorem acceptCmd_form {s : State} (h : quietJournal s) (q : Nat) : ∃ (u : State) (c : Cmd),
    acceptCmd s q = hbmWrite u (qdAddr s q + 20) (leBytes 4 (qdHead s q + 1)) ∧
      u = { s with fcp := u.fcp, page := { s.page with jnext := s.page.jnext + 1 }, cp := u.cp } ∧
      u.fcp.cmds = mset s.fcp.cmds q (queueCmds s q ++ [c]) := by
  unfold acceptCmd dtAccept
  dsimp only
  generalize readBytes s.hbm (qdRing s q + 64 * (qdHead s q % 2 ^ qdLog s q)) 64 = bs
  obtain ⟨m, hm⟩ := journalAccept_quiet (s := { s with fcp := { s.fcp with dtOps := mset s.fcp.dtOps q (mget 0 s.fcp.dtOps q + 1) } }) h q
    (qdHead s q) bs
  rw [hm]
  exact ⟨_, _, rfl, rfl, rfl⟩

/-- The state `t` after `n` commands of queue q have been accepted in state `s`. -/
structure HasAccepted (q n : Nat) (s t : State) : Prop where
  wf : t.memWf
  quiet : quietJournal t
  base : t.page.qdbase = s.page.qdbase
  tail : qdTail t q = qdTail s q
  head : qdHead t q = (qdHead s q + n) % 2 ^ 32
  cores : t.cores = s.cores
  ctxs : t.ctxs = s.ctxs
  length : (queueCmds t q).length = (queueCmds s q).length + n
  older : queueCmds s q <+: queueCmds t q
  others : ∀ p, p ≠ q → queueCmds t p = queueCmds s p

theorem qdHead_lt (s : State) (q : Nat) : qdHead s q < 2 ^ 32 := readNat_lt s.hbm (qdAddr s q + 20) 4

theorem HasAccepted.none {s : State} (hwf : s.memWf) (h : quietJournal s) (q : Nat) : HasAccepted q 0 s s :=
  ⟨hwf, h, rfl, rfl, (Nat.mod_eq_of_lt (qdHead_lt s q)).symm, rfl, rfl, rfl, List.prefix_rfl, fun _ _ => rfl⟩

theorem HasAccepted.one {s : State} (hwf : s.memWf) (h : quietJournal s) (q : Nat) : HasAccepted q 1 s (acceptCmd s q) := by
  obtain ⟨u, c, hform, hu, hcmds⟩ := acceptCmd_form h q
  have hmem := hbmWrite_onlyMemory u (qdAddr s q + 20) (leBytes 4 (qdHead s q + 1))
  have hpage : (acceptCmd s q).page = { s.page with jnext := s.page.jnext + 1 } := by rw [hform, hbmWrite_page, hu]
  have hq : ∀ p, queueCmds (acceptCmd s q) p = mget [] (mset s.fcp.cmds q (queueCmds s q ++ [c])) p := by
    intro p
    rw [queueCmds, hform, hmem.fcp, hcmds]
  have hhbm : u.hbm = s.hbm := by rw [hu]
  have huwf : u.memWf := memWf_of_eq hwf hhbm (by rw [hu])
  have haddr : qdAddr (acceptCmd s q) q = qdAddr s q := by rw [qdAddr, hpage, qdAddr]
  refine ⟨?_, ?_, ?_, ?_, ?_, ?_, ?_, ?_, ?_, fun p hp => ?_⟩
  · rw [hform]
    exact memWf_hbmWrite huwf _ _
  · rw [quietJournal, hpage]
    exact h
  · rw [hpage]
  · rw [qdTail, haddr, hform, readNat_hbmWrite_other _ _ _ (.inl (by omega)), hhbm, qdTail]
  · rw [qdHead, haddr, hform, readNat_hbmWrite_same huwf]
    rfl
  · rw [hform, hmem.cores, hu]
  · rw [hform, hmem.ctxs, hu]
  · rw [hq, mget_mset_same, List.length_append, List.length_singleton]
  · rw [hq, mget_mset_same]
    exact List.prefix_append ..
  · rw [hq, mget_mset_other _ _ _ _ _ hp, queueCmds]

theorem HasAccepted.trans {s t u : State} {q m n : Nat} (h1 : HasAccepted q m s t) (h2 : HasAccepted q n t u) : HasAccepted q (m + n) s u where
  wf := h2.wf
  quiet := h2.quiet
  base := h2.base.trans h1.base
  tail := h2.tail.trans h1.tail
  head := by rw [h2.head, h1.head, Nat.mod_add_mod, Nat.add_assoc]
  cores := h2.cores.trans h1.cores
  ctxs := h2.ctxs.trans h1.ctxs
  length := by rw [h2.length, h1.length, Nat.add_assoc]
  older := h1.older.trans h2.older
  others := fun p hp => (h2.others p hp).trans (h1.others p hp)

theorem acceptAll_accepts {s : State} (hwf : s.memWf) (h : quietJournal s) (q n : Nat) : HasAccepted q n s (acceptAll q n s) := by
  induction n generalizing s with
  | zero => exact .none hwf h q
  | succ n ih =>
    have h1 := HasAccepted.one hwf h q
    have hall := h1.trans (ih h1.wf h1.quiet)
    rw [Nat.add_comm 1 n] at hall
    exact hall

/-! ### Doorbells -/

theorem ringDoorbell_ok {s : State} {q t : Nat} (hb : bootStage s ≠ 0) (he : qdEn s q = true)
    (hd : doorbellOk t (qdTail s q) (qdHead s q) (qdLog s q) = true) :
    ringDoorbell s q t = acceptAll q ((t + 2 ^ 32 - qdHead s q) % 2 ^ 32) (hbmWrite s (qdAddr s q + 16) (leBytes 4 t)) :=
  if_pos (by simp [hb, he, hd])

theorem ringDoorbell_bad {s : State} {q t : Nat} (h : bootStage s = 0 ∨ qdEn s q = false ∨
    doorbellOk t (qdTail s q) (qdHead s q) (qdLog s q) = false) : ringDoorbell s q t = secntPlus s 7 := by
  refine (if_neg ?_).trans (countErr_eq s 7)
  rcases h with h | h | h <;> simp [h]

/-- The same with a HEAD that has not been reduced. -/
theorem reduced_head_reaches_tail {h t : Nat} (ht : t < 2 ^ 32) : (h + (t + 2 ^ 32 - h % 2 ^ 32) % 2 ^ 32) % 2 ^ 32 = t := by omega

/-- HEAD moved on by the number of new commands is TAIL. -/
theorem head_reaches_tail {h t : Nat} (hh : h < 2 ^ 32) (ht : t < 2 ^ 32) : (h + (t + 2 ^ 32 - h) % 2 ^ 32) % 2 ^ 32 = t := by omega

/-- A doorbell that moves TAIL forward within the ring accepts the commands up to it. -/
theorem doorbell_accepts {s : State} {q : Fin 64} {t : BitVec 32} (hwf : s.memWf) (h : quietJournal s) (hb : bootStage s ≠ 0)
    (he : qdEn s q = true) (hd : doorbellOk t.toNat (qdTail s q) (qdHead s q) (qdLog s q) = true) :
    ∃ u, exec (.doorbell q t) s = .next u ∧ qdTail u q = t.toNat ∧ qdHead u q = t.toNat ∧ u.cores = s.cores ∧ u.ctxs = s.ctxs ∧
      (queueCmds u q).length = (queueCmds s q).length + (t.toNat + 2 ^ 32 - qdHead s q) % 2 ^ 32 ∧
      queueCmds s q <+: queueCmds u q ∧ ∀ p, p ≠ q.val → queueCmds u p = queueCmds s p := by
  have hmem := hbmWrite_onlyMemory s (qdAddr s q + 16) (leBytes 4 t.toNat)
  have htail : qdTail (hbmWrite s (qdAddr s q + 16) (leBytes 4 t.toNat)) q = t.toNat := by
    rw [qdTail, qdAddr_hbmWrite, readNat_hbmWrite_same hwf]
    exact Nat.mod_eq_of_lt t.isLt
  have hhead : qdHead (hbmWrite s (qdAddr s q + 16) (leBytes 4 t.toNat)) q = qdHead s q := by
    rw [qdHead, qdAddr_hbmWrite, readNat_hbmWrite_other _ _ _ (.inr (by simp)), ← qdHead]
  have hwf' := memWf_hbmWrite hwf (qdAddr s q + 16) (leBytes 4 t.toNat)
  have hquiet : quietJournal (hbmWrite s (qdAddr s q + 16) (leBytes 4 t.toNat)) := by
    rw [quietJournal, hbmWrite_page]
    exact h
  have hexec : exec (.doorbell q t) s = .next (acceptAll q ((t.toNat + 2 ^ 32 - qdHead s q) % 2 ^ 32)
      (hbmWrite s (qdAddr s q + 16) (leBytes 4 t.toNat))) := congrArg Host.Outcome.next (ringDoorbell_ok hb he hd)
  generalize hbmWrite s (qdAddr s q + 16) (leBytes 4 t.toNat) = v at *
  have hall := acceptAll_accepts hwf' hquiet q ((t.toNat + 2 ^ 32 - qdHead s q) % 2 ^ 32)
  have hcmds : ∀ p, queueCmds v p = queueCmds s p := fun p => congrArg (fun f : Fcp => mget [] f.cmds p) hmem.fcp
  refine ⟨_, hexec, hall.tail.trans htail, ?_, hall.cores.trans hmem.cores, hall.ctxs.trans hmem.ctxs, ?_, ?_, fun p hp => ?_⟩
  · rw [hall.head, hhead]
    exact head_reaches_tail (qdHead_lt s q) t.isLt
  · rw [hall.length, hcmds]
  · rw [← hcmds]
    exact hall.older
  · rw [hall.others p hp, hcmds]

/-- A doorbell is a store to its word of the control page. -/
theorem pageWrite_doorbell (s : State) (q : Fin 64) (v : Word) : pageWrite s (0x100 + 8 * q.val) v = ringDoorbell s q (v.toNat % 2 ^ 32) := by
  have hq := q.isLt
  have hindex : (0x100 + 8 * q.val - 0x100) / 8 = q.val := by omega
  rw [pageWrite, if_pos (by omega), hindex]

/-! ### The management doorbell (R396) -/

/-- The state `t` after `n` management commands have been accepted in state `s`. -/
structure HasAcceptedMgmt (n : Nat) (s t : State) : Prop where
  only : t = { s with cp := t.cp, page := { s.page with jnext := s.page.jnext + n } }
  tail : t.cp.mtail = s.cp.mtail
  head : t.cp.mhead % 2 ^ 32 = (s.cp.mhead + n) % 2 ^ 32
  older : s.cp.mcmds <+: t.cp.mcmds
  length : t.cp.mcmds.length = s.cp.mcmds.length + n

theorem HasAcceptedMgmt.one {s : State} (h : quietJournal s) : HasAcceptedMgmt 1 s (acceptMgmt s) := by
  have hform : ∃ (m : SMap (BitVec 512)) (c : Cmd), acceptMgmt s = { s with
      page := { s.page with jnext := s.page.jnext + 1 }
      cp := { s.cp with mirror := m, mcmds := s.cp.mcmds ++ [c], mhead := (s.cp.mhead + 1) % 2 ^ 32 } } := by
    unfold acceptMgmt
    dsimp only
    obtain ⟨m, hm⟩ := journalAccept_quiet h 0x40 s.cp.mhead (readBytes s.hbm (s.page.mring.toNat + 64 * (s.cp.mhead % 2 ^ s.page.msize.toNat)) 64)
    rw [hm]
    exact ⟨_, _, rfl⟩
  obtain ⟨m, c, hform⟩ := hform
  rw [hform]
  exact ⟨rfl, rfl, Nat.mod_mod _ _, List.prefix_append .., List.length_append⟩

theorem HasAcceptedMgmt.trans {s t u : State} {m n : Nat} (h1 : HasAcceptedMgmt m s t) (h2 : HasAcceptedMgmt n t u) :
    HasAcceptedMgmt (m + n) s u where
  only := by
    have hpage : u.page = { s.page with jnext := s.page.jnext + (m + n) } := by rw [h2.only, h1.only, Nat.add_assoc]
    rw [← hpage, h2.only, h1.only]
  tail := h2.tail.trans h1.tail
  head := by rw [h2.head, Nat.add_mod, h1.head, ← Nat.add_mod, Nat.add_assoc]
  older := h1.older.trans h2.older
  length := by rw [h2.length, h1.length, Nat.add_assoc]

theorem HasAcceptedMgmt.quiet {s t : State} {n : Nat} (ht : HasAcceptedMgmt n s t) (h : quietJournal s) : quietJournal t := by
  rw [quietJournal, ht.only]
  exact h

theorem acceptMgmts_accepts {s : State} (h : quietJournal s) (n : Nat) : HasAcceptedMgmt n s (acceptMgmts n s) := by
  induction n generalizing s with
  | zero => exact ⟨rfl, rfl, rfl, List.prefix_rfl, rfl⟩
  | succ n ih =>
    have h1 := HasAcceptedMgmt.one h
    have hall := h1.trans (ih (h1.quiet h))
    rw [Nat.add_comm 1 n] at hall
    exact hall

theorem ringManagement_ok {s : State} {t : Nat} (hb : bootStage s ≠ 0)
    (hd : doorbellOk t (s.cp.mtail % 2 ^ 32) (s.cp.mhead % 2 ^ 32) s.page.msize.toNat = true) :
    ringManagement s t = acceptMgmts ((t + 2 ^ 32 - s.cp.mhead % 2 ^ 32) % 2 ^ 32) { s with cp := { s.cp with mtail := t } } := by
  have hc : (decide (bootStage s ≠ 0) && doorbellOk t (s.cp.mtail % 2 ^ 32) (s.cp.mhead % 2 ^ 32) s.page.msize.toNat) = true := by
    rw [hd, decide_eq_true hb]
    rfl
  unfold ringManagement
  rw [if_pos hc]

theorem managementDoorbell_ok {s : State} {t : BitVec 32} (hb : bootStage s ≠ 0)
    (hd : doorbellOk t.toNat (s.cp.mtail % 2 ^ 32) (s.cp.mhead % 2 ^ 32) s.page.msize.toNat = true) :
    exec (.managementDoorbell t) s =
      .next (acceptMgmts ((t.toNat + 2 ^ 32 - s.cp.mhead % 2 ^ 32) % 2 ^ 32) { s with cp := { s.cp with mtail := t.toNat } }) := by
  have hexec : exec (.managementDoorbell t) s = .next (ringManagement s t.toNat) := rfl
  rw [hexec, ringManagement_ok hb hd]

/-- What the doorbell leaves when `n` commands take HEAD to TAIL. -/
theorem acceptMgmts_to_tail {s : State} {t n : Nat} (hreach : (s.cp.mhead + n) % 2 ^ 32 = t) (h : quietJournal s) :
    let u := acceptMgmts n { s with cp := { s.cp with mtail := t } }
    u = { s with cp := u.cp, page := u.page } ∧ u.cp.mtail = t ∧ u.cp.mhead % 2 ^ 32 = t ∧ s.cp.mcmds <+: u.cp.mcmds ∧
      u.cp.mcmds.length = s.cp.mcmds.length + n ∧ u.page = { s.page with jnext := s.page.jnext + n } := by
  have hall := acceptMgmts_accepts (s := { s with cp := { s.cp with mtail := t } }) h n
  refine ⟨?_, hall.tail, hall.head.trans hreach, hall.older, hall.length, ?_⟩
  · rw [hall.only]
  · rw [hall.only]

theorem managementDoorbell_accepts {s : State} {t : BitVec 32} (hb : bootStage s ≠ 0)
    (hd : doorbellOk t.toNat (s.cp.mtail % 2 ^ 32) (s.cp.mhead % 2 ^ 32) s.page.msize.toNat = true) (h : quietJournal s) :
    ∃ u, exec (.managementDoorbell t) s = .next u ∧ u = { s with cp := u.cp, page := u.page } ∧ u.cp.mtail = t.toNat ∧
      u.cp.mhead % 2 ^ 32 = t.toNat ∧ s.cp.mcmds <+: u.cp.mcmds ∧
      u.cp.mcmds.length = s.cp.mcmds.length + (t.toNat + 2 ^ 32 - s.cp.mhead % 2 ^ 32) % 2 ^ 32 ∧
      u.page = { s.page with jnext := s.page.jnext + (t.toNat + 2 ^ 32 - s.cp.mhead % 2 ^ 32) % 2 ^ 32 } :=
  ⟨_, managementDoorbell_ok hb hd, acceptMgmts_to_tail (reduced_head_reaches_tail t.isLt) h⟩

theorem managementDoorbell_bad {s : State} {t : BitVec 32} (h : bootStage s = 0 ∨
    doorbellOk t.toNat (s.cp.mtail % 2 ^ 32) (s.cp.mhead % 2 ^ 32) s.page.msize.toNat = false) :
    exec (.managementDoorbell t) s = .next (secntPlus s 7) := by
  refine congrArg Host.Outcome.next ((if_neg ?_).trans (countErr_eq s 7))
  rcases h with h | h
  · simp [h]
  · simp only [h, Bool.and_false, Bool.false_eq_true, not_false_eq_true]

/-! ### A descriptor that is enabled (R394) -/

theorem leBytes_zero (n : Nat) : leBytes n 0 = List.replicate n 0 := by
  induction n with
  | zero => rfl
  | succ n ih => rw [leBytes, Nat.zero_div, ih, List.replicate_succ]; rfl

theorem leNat_zeros (n : Nat) : leNat (List.replicate n 0) = 0 := by
  induction n with
  | zero => rfl
  | succ n ih => rw [List.replicate_succ, leNat, ih]; rfl

theorem queueDescriptorEnable_zeroes {s : State} {q : Fin 64} (hwf : s.memWf) (h : qdEn s q = false) :
    ∃ u, exec (.queueDescriptorEnable q) s = .next u ∧ qdEn u q = true ∧ qdHead u q = 0 ∧ qdTail u q = 0 ∧
      qdLog u q = qdLog s q ∧ qdRing u q = qdRing s q ∧
      ∀ a, (a < qdAddr s q ∨ qdAddr s q + 24 ≤ a) → readByte u.hbm a = readByte s.hbm a := by
  have hexec : exec (.queueDescriptorEnable q) s =
      .next (zeroQueue (hbmWrite s (qdAddr s q) (leBytes 1 (readNat s.hbm (qdAddr s q) 1 + 1))) q) :=
    congrArg Host.Outcome.next (if_neg (by simp [h]))
  rw [zeroQueue, qdAddr_hbmWrite] at hexec
  have hfirst : readNat (hbmWrite s (qdAddr s q) (leBytes 1 (readNat s.hbm (qdAddr s q) 1 + 1))).hbm (qdAddr s q) 1 =
      readNat s.hbm (qdAddr s q) 1 + 1 := by
    have hlt := readNat_lt s.hbm (qdAddr s q) 1
    have heven : readNat s.hbm (qdAddr s q) 1 % 2 ≠ 1 := by simpa [qdEn] using h
    rw [readNat_hbmWrite_same hwf, pow_one]
    omega
  have hrest : ∀ x, (x < qdAddr s q ∨ qdAddr s q + 1 ≤ x) →
      readByte (hbmWrite s (qdAddr s q) (leBytes 1 (readNat s.hbm (qdAddr s q) 1 + 1))).hbm x = readByte s.hbm x :=
    fun x hx => readByte_hbmWrite_other s _ _ (by simpa using hx)
  have hwf' := memWf_hbmWrite hwf (qdAddr s q) (leBytes 1 (readNat s.hbm (qdAddr s q) 1 + 1))
  have haddr := qdAddr_hbmWrite s (qdAddr s q) (leBytes 1 (readNat s.hbm (qdAddr s q) 1 + 1)) q
  generalize hbmWrite s (qdAddr s q) (leBytes 1 (readNat s.hbm (qdAddr s q) 1 + 1)) = v at *
  have hzero : ∀ x, (x < qdAddr s q + 16 ∨ qdAddr s q + 24 ≤ x) → readByte (hbmWrite v (qdAddr s q + 16) (leBytes 8 0)).hbm x = readByte v.hbm x :=
    fun x hx => readByte_hbmWrite_other v _ _ (by simpa using hx)
  have hlow : readNat (hbmWrite v (qdAddr s q + 16) (leBytes 8 0)).hbm (qdAddr s q) 1 = readNat s.hbm (qdAddr s q) 1 + 1 :=
    (readNat_congr fun x _ _ => hzero x (by omega)).trans hfirst
  have hbytes : ∀ k, k + 4 ≤ 8 → readNat (hbmWrite v (qdAddr s q + 16) (leBytes 8 0)).hbm (qdAddr s q + 16 + k) 4 = 0 := by
    intro k hk
    rw [readNat, hbmWrite_hbm, readBytes_writeBytes_part hwf'.1 _ _ k 4 (by simpa using hk), leBytes_zero,
      List.drop_replicate, List.take_replicate, leNat_zeros]
  have heven : readNat s.hbm (qdAddr s q) 1 % 2 ≠ 1 := by simpa [qdEn] using h
  refine ⟨_, hexec, ?_, ?_, ?_, ?_, ?_, fun a ha => ?_⟩
  · rw [qdEn, qdAddr_hbmWrite, haddr, hlow, beq_iff_eq]
    omega
  · rw [qdHead, qdAddr_hbmWrite, haddr]
    exact hbytes 4 (by decide)
  · rw [qdTail, qdAddr_hbmWrite, haddr]
    exact hbytes 0 (by decide)
  · rw [qdLog, qdAddr_hbmWrite, haddr, hlow, qdLog]
    omega
  · rw [qdRing, qdAddr_hbmWrite, haddr, qdRing]
    exact readNat_congr fun x _ _ => (hzero x (by omega)).trans (hrest x (by omega))
  · exact (hzero a (by omega)).trans (hrest a (by omega))

/-! ### The control page (R393) -/

/-- A write of a field at a time when it may be written. -/
theorem pageWrite_field {s : State} {o : Nat} (hb : bootStage s ≠ 0) (h1 : ¬(0x100 ≤ o ∧ o < 0x300 ∧ o % 8 = 0)) (h2 : o ≠ 0x300)
    (hw : pageWritable s o = true) (v : Word) : exec (.hostControlPageWrite o v) s = .next { s with page := pageField s.page o v } :=
  congrArg Host.Outcome.next ((if_neg h1).trans ((if_neg h2).trans (if_pos (by simp [hb, hw]))))

theorem pageWrite_counted {s : State} {o : Nat} (h1 : ¬(0x100 ≤ o ∧ o < 0x300 ∧ o % 8 = 0)) (h2 : o ≠ 0x300)
    (hw : pageWritable s o = false) (v : Word) : exec (.hostControlPageWrite o v) s = .next (secntPlus s 7) :=
  congrArg Host.Outcome.next ((if_neg h1).trans ((if_neg h2).trans ((if_neg (by simp [hw])).trans (countErr_eq s 7))))

theorem noContext_iff (s : State) : noContext s = true ↔ ∀ e ∈ s.ctxs, e.2 = none := by simp [noContext]

theorem pageWritable_bases (s : State) : pageWritable s 0x000 = noContext s ∧ pageWritable s 0x308 = noContext s := ⟨rfl, rfl⟩

/-! ### Boot (R407) -/

theorem length_catEntry (s : State) (g r : Nat) : (catEntry s g r).length = 32 := by simp [catEntry]

theorem length_catalogue (s : State) : (writeCatalogue s).shape.catalogue.length = 256 := by
  simp [writeCatalogue, length_catEntry]

/-- What the retirement store may change: the die's shape, the fabric port and the page. -/
def OnlyDie (s t : State) : Prop := t = { s with shape := t.shape, port := t.port, page := t.page }

theorem OnlyDie.trans {s t u : State} (h1 : OnlyDie s t) (h2 : OnlyDie t u) : OnlyDie s u := by
  have h : u = { { s with shape := t.shape, port := t.port, page := t.page } with shape := u.shape, port := u.port, page := u.page } := h1 ▸ h2
  exact h

theorem OnlyDie.keeps {s t : State} (h : OnlyDie s t) :
    t.hbm = s.hbm ∧ t.sram = s.sram ∧ t.ctxs = s.ctxs ∧ t.cores = s.cores ∧ t.fcp = s.fcp ∧ t.time = s.time := by
  rw [h]
  exact ⟨rfl, rfl, rfl, rfl, rfl, rfl⟩

theorem applyRecord_onlyDie (s : State) (body : List Nat) : OnlyDie s (applyRecord s body) := by
  unfold applyRecord
  split
  all_goals rfl

theorem applyStore_onlyDie (rs : List (Nat × List Nat)) (s : State) : OnlyDie s (applyStore rs s).1 := by
  induction rs generalizing s with
  | nil => rfl
  | cons e r ih =>
    unfold applyStore
    split
    · exact OnlyDie.trans (OnlyDie.trans (t := { s with shape := { s.shape with stored := e.1, applied := e.1 } }) rfl (applyRecord_onlyDie ..)) (ih _)
    · rfl

theorem mget_map_range {α : Type} (d : α) (f : Nat → α) {n p : Nat} (h : p < n) : mget d ((List.range n).map fun i => (i, f i)) p = f p := by
  have hlist : ∀ l : List Nat, p ∈ l → mget d (l.map fun i => (i, f i)) p = f p := by
    intro l
    induction l with
    | nil => exact fun h => absurd h List.not_mem_nil
    | cons i r ih =>
      intro hp
      by_cases hi : p = i
      · subst hi
        exact if_pos rfl
      · exact (if_neg hi).trans (ih (List.mem_of_ne_of_mem hi hp))
  exact hlist _ (List.mem_range.mpr h)

/-- The catalogue and the default tables are the die's shape and its port. -/
theorem catalogued_keeps (s : State) : (writeCatalogue (defaultTables s)).hbm = s.hbm ∧ (writeCatalogue (defaultTables s)).sram = s.sram ∧
    (writeCatalogue (defaultTables s)).ctxs = s.ctxs ∧ (writeCatalogue (defaultTables s)).cores = s.cores ∧
    (writeCatalogue (defaultTables s)).fcp = s.fcp ∧ (writeCatalogue (defaultTables s)).time = s.time := by
  simp only [writeCatalogue, defaultTables, and_self]

/-- BOOTST after the CP's start: what failed, or stage 3. -/
theorem bootCp_bootst (s : State) :
    (bootCp s).page.bootst = if (applyStore s.shape.records { s with shape := { s.shape with stored := 0, applied := 0 } }).2 = false then 0x301
      else if Config.bootFail = 0 then 3 else BitVec.ofNat 64 (1 + Config.bootFail * 256) := by
  unfold bootCp
  generalize applyStore s.shape.records { s with shape := { s.shape with stored := 0, applied := 0 } } = r
  obtain ⟨v, kept⟩ := r
  cases kept
  · simp [bootWord]
  · simp [bootWord]

/-- The CP's start leaves memory, contexts, cores and queues; each bus has its first retrain, and the catalogue is written. -/
theorem bootCp_leaves (s : State) : (bootCp s).hbm = s.hbm ∧ (bootCp s).sram = s.sram ∧ (bootCp s).ctxs = s.ctxs ∧ (bootCp s).cores = s.cores ∧
    (bootCp s).fcp = s.fcp ∧ (∀ p < 256, vbusAt (bootCp s) p = { due := s.time + p * 125000, ends := none }) ∧
    (bootCp s).shape.catalogue.length = 256 := by
  have honly := OnlyDie.trans (t := { s with shape := { s.shape with stored := 0, applied := 0 } }) (s := s) rfl
    (applyStore_onlyDie s.shape.records _)
  unfold bootCp
  generalize applyStore s.shape.records { s with shape := { s.shape with stored := 0, applied := 0 } } = r at honly
  obtain ⟨v, kept⟩ := r
  obtain ⟨hhbm, hsram, hctxs, hcores, hfcp, htime⟩ := OnlyDie.keeps honly
  obtain ⟨h1, h2, h3, h4, h5, h6⟩ := catalogued_keeps v
  have hlen := length_catalogue (defaultTables v)
  dsimp only
  generalize writeCatalogue (defaultTables v) = u at *
  refine ⟨h1.trans hhbm, h2.trans hsram, h3.trans hctxs, h4.trans hcores, h5.trans hfcp, fun p hp => ?_, hlen⟩
  rw [← htime, ← h6]
  exact mget_map_range _ (fun p => ({ due := u.time + p * 125000, ends := none } : Vbus)) hp

/-- R393 to R396, R407: the host's writes and boot. -/
theorem hostInterface : Stmt.HostInterface := by
  refine ⟨fun s q t hwf hquiet => ⟨fun hb he hd => doorbell_accepts hwf hquiet hb he hd, fun h => ?_, fun v hv => ?_⟩,
    fun s t => ⟨fun hb hd h => managementDoorbell_accepts hb hd h, fun h => managementDoorbell_bad h⟩, fun s q hwf => ⟨fun h => ?_, queueDescriptorEnable_zeroes hwf⟩,
    fun s v hb => ⟨?_, ?_, fun hno => ⟨?_, ?_⟩, fun hsome => ?_, ?_⟩, fun s => ⟨fun h => ?_, fun h h0 => ?_, fun h h0 h1 => ?_, fun h h0 h1 => ?_⟩⟩
  · exact congrArg Host.Outcome.next (ringDoorbell_bad h)
  · exact congrArg Host.Outcome.next ((pageWrite_doorbell s q v).trans (congrArg (ringDoorbell s q) hv))
  · exact congrArg Host.Outcome.next (if_pos h)
  · exact pageWrite_field hb (by decide) (by decide) rfl v
  · exact pageWrite_field hb (by decide) (by decide) rfl v
  · exact pageWrite_field hb (by decide) (by decide) ((pageWritable_bases s).1.trans ((noContext_iff s).mpr hno)) v
  · exact pageWrite_field hb (by decide) (by decide) ((pageWritable_bases s).2.trans ((noContext_iff s).mpr hno)) v
  · obtain ⟨e, he, hx⟩ := hsome
    have hno : noContext s = false := Bool.eq_false_iff.mpr fun h => by rw [(noContext_iff s).mp h e he] at hx; cases hx
    exact pageWrite_counted (by decide) (by decide) ((pageWritable_bases s).1.trans hno) v
  · exact pageWrite_counted (by decide) (by decide) rfl v
  · exact if_pos h
  · show execBoot s = _
    rw [execBoot, if_neg (not_not.mpr h), if_pos (by simp [h0])]
    rfl
  · show execBoot s = _
    rw [execBoot, if_neg (not_not.mpr h), if_neg (by simp [h0]), if_pos (by simp [h1])]
    rfl
  · have hexec : exec .boot s = .next (bootCp s) := by
      show execBoot s = _
      rw [execBoot, if_neg (not_not.mpr h), if_neg (by simp [h0]), if_neg (by simp [h1])]
    exact ⟨_, hexec, bootCp_bootst s, bootCp_leaves s⟩

end Sys2Proof.Machine
end

section
/-! PROOFS. The grants of NOP, WAIT and LAUNCH (R30, R31, R349 to R353). -/

namespace Sys2Proof.Machine

open Sys2Proof.Stmt

/-! ### A command completes -/

/-- Without a configured ring a completion writes the status word, and nothing else of memory. -/
theorem completeCmd_form {s : State} {q : Nat} {c : Cmd} {r : List Cmd} (h : quietJournal s) (hq : queueCmds s q = c :: r) (n : Nat) (ovf : Bool)
    (f : Nat) : ∃ m, completeCmd s q n ovf f = startLater (dtComplete (setCmds
      { hbmWrite s (c.addr + 8) (leBytes 8 (n + ovf.toNat * 256 + f * 2 ^ 32)) with cp := { s.cp with mirror := m } } q r) q c.num (s.time + 1)) q := by
  have hmem := hbmWrite_onlyMemory s (c.addr + 8) (leBytes 8 (n + ovf.toNat * 256 + f * 2 ^ 32))
  unfold completeCmd
  rw [hq]
  dsimp only
  generalize leBytes 8 (n + ovf.toNat * 256 + f * 2 ^ 32) = bs at hmem ⊢
  have hquiet : quietJournal (hbmWrite s (c.addr + 8) bs) := by
    rw [quietJournal, hbmWrite_page]
    exact h
  have htime : (hbmWrite s (c.addr + 8) bs).time = s.time := by rw [hmem]
  have hcp := hbmWrite_cp s (c.addr + 8) bs
  generalize hbmWrite s (c.addr + 8) bs = u at *
  obtain ⟨m, hm⟩ := journalMark_quiet hquiet q c (if n = 0 then 3 else 4) n c.num
  rw [hm, hcp]
  exact ⟨m, by rw [← htime]⟩

/-- The queue's own bookkeeping at a completion leaves memory and launches. -/
theorem completed_keeps (s : State) (q n m : Nat) (r : List Cmd) :
    (startLater (dtComplete (setCmds s q r) q n m) q).hbm = s.hbm ∧
      (startLater (dtComplete (setCmds s q r) q n m) q).fcp.launches = s.fcp.launches := ⟨rfl, rfl⟩

/-- What a completion leaves in memory and of the launches. -/
theorem completeCmd_hbm {s : State} {q : Nat} {c : Cmd} {r : List Cmd} (h : quietJournal s) (hq : queueCmds s q = c :: r) (n : Nat) (ovf : Bool)
    (f : Nat) : (completeCmd s q n ovf f).hbm = (hbmWrite s (c.addr + 8) (leBytes 8 (n + ovf.toNat * 256 + f * 2 ^ 32))).hbm ∧
      (completeCmd s q n ovf f).fcp.launches = s.fcp.launches := by
  obtain ⟨m, hm⟩ := completeCmd_form h hq n ovf f
  rw [hm]
  generalize leBytes 8 (n + ovf.toNat * 256 + f * 2 ^ 32) = bs
  have hfcp := (hbmWrite_onlyMemory s (c.addr + 8) bs).fcp
  generalize hbmWrite s (c.addr + 8) bs = u at hfcp ⊢
  obtain ⟨hhbm, hlaunches⟩ := completed_keeps { u with cp := { s.cp with mirror := m } } q c.num (s.time + 1) r
  exact ⟨hhbm, hlaunches.trans (congrArg Fcp.launches hfcp)⟩

/-- The head command of a queue completes (R353). -/
theorem completeCmd_completed {s : State} {q : Nat} {c : Cmd} {r : List Cmd} (hwf : s.memWf) (h : quietJournal s) (hq : queueCmds s q = c :: r)
    (n : Nat) (ovf : Bool) (f : Nat) : Completed s (completeCmd s q n ovf f) q c r (n + ovf.toNat * 256 + f * 2 ^ 32) := by
  obtain ⟨hhbm, hlaunches⟩ := completeCmd_hbm h hq n ovf f
  obtain ⟨hcmds, hcores, hctxs⟩ := completeCmd_leaves hq n ovf f
  refine ⟨hcmds, ?_, hcores, hctxs, hlaunches⟩
  rw [hhbm]
  exact readNat_hbmWrite_same hwf (c.addr + 8) 8 _

/-- A completion leaves every byte outside the status word. -/
theorem completeCmd_bytes {s : State} {q : Nat} {c : Cmd} {r : List Cmd} (h : quietJournal s) (hq : queueCmds s q = c :: r) (n : Nat) (ovf : Bool)
    (f : Nat) {x : Nat} (hx : x < c.addr + 8 ∨ c.addr + 16 ≤ x) : readByte (completeCmd s q n ovf f).hbm x = readByte s.hbm x := by
  rw [(completeCmd_hbm h hq n ovf f).1]
  exact readByte_hbmWrite_other s _ _ (by rw [length_leBytes]; omega)

/-- With nothing completed out of its turn, the timeline reaches the next command. -/
theorem dtReach_next (t : Nat) : dtReach 1 t [t + 1] = t + 1 := by simp [dtReach]

theorem dtComplete_next {s : State} {q : Nat} (hd : mget [] s.fcp.dtDone q = []) (hlt : (mget 0 s.fcp.dt q).toNat + 1 < 2 ^ 64) (m : Nat) :
    (mget 0 (dtComplete s q ((mget 0 s.fcp.dt q).toNat + 1) m).fcp.dt q).toNat = (mget 0 s.fcp.dt q).toNat + 1 := by
  unfold dtComplete
  dsimp only
  rw [hd, mget_mset_same, List.length_singleton, dtReach_next, BitVec.toNat_ofNat, Nat.mod_eq_of_lt hlt]

/-- The queue's timeline reaches a command that completes in its turn (R354). -/
theorem completeCmd_dt {s : State} {q : Nat} {c : Cmd} {r : List Cmd} (h : quietJournal s) (hq : queueCmds s q = c :: r) (n : Nat) (ovf : Bool)
    (f : Nat) (hd : mget [] s.fcp.dtDone q = []) (hn : c.num = (mget 0 s.fcp.dt q).toNat + 1) (hlt : c.num < 2 ^ 64) :
    (mget 0 (completeCmd s q n ovf f).fcp.dt q).toNat = c.num := by
  obtain ⟨m, hm⟩ := completeCmd_form h hq n ovf f
  rw [hm]
  generalize leBytes 8 (n + ovf.toNat * 256 + f * 2 ^ 32) = bs
  have hfcp := (hbmWrite_onlyMemory s (c.addr + 8) bs).fcp
  generalize hbmWrite s (c.addr + 8) bs = u at hfcp ⊢
  rw [hn] at hlt ⊢
  rw [← hfcp] at hd hlt ⊢
  exact dtComplete_next (s := setCmds { u with cp := { s.cp with mirror := m } } q r) hd hlt (s.time + 1)

/-! ### A command starts -/

theorem setHead_cmds (s : State) (q : Nat) (c : Cmd) : queueCmds (setHead s q c) q = c :: (queueCmds s q).tail := queueCmds_setCmds ..

/-- Without a configured ring a start marks the command, and the mirror's entry. -/
theorem startCmd_form {s : State} (h : quietJournal s) (q : Nat) (c : Cmd) :
    ∃ m, startCmd s q c = { setHead s q { c with started := true } with cp := { s.cp with mirror := m } } :=
  journalMark_quiet (s := setHead s q { c with started := true }) h q c 2 0 0

/-! ### Arbitration -/

theorem fcpGrant_none {s : State} (h : nextQueue s = none) : exec .fcpGrant s = .next s := by
  show execFcpGrant s = _
  rw [execFcpGrant, h]

/-- What a grant does with the head command of its queue (R350, R353). -/
def grantHead (s : State) (q : Nat) (c : Cmd) : Host.Outcome State Fault Refusal :=
  if !c.started && cmdBad s c.words then .next (completeCmd s q 6 false 0)
  else
    match cmdKind c.words with
    | 1 => .next (grantLaunch s q c)
    | 2 =>
      match c.inst with
      | some i => .next (grantColl s q c i)
      | none =>
        match collCheck s c.words with
        | .error (e, step) => .next (if e.aired then starve s (cmdCtx c.words) else completeCmd (logFcp s s.time e) q e.status false step)
        | .ok (s, prog) => .next (startColl s q c prog)
    | _ => .next (completeCmd (startCmd s q c) q 0 false 0)

theorem fcpGrant_head {s : State} {q : Nat} {c : Cmd} {r : List Cmd} (hn : nextQueue s = some q) (hq : queueCmds s q = c :: r) :
    exec .fcpGrant s = grantHead (granted s q) q c := by
  have hq' : queueCmds (granted s q) q = c :: r := hq
  show execFcpGrant s = _
  rw [execFcpGrant, hn]
  dsimp only
  split
  next hnil => exact absurd (hq'.symm.trans hnil) (List.cons_ne_nil c r)
  next c' r' hcons =>
    obtain ⟨rfl, rfl⟩ := List.cons.inj (hq'.symm.trans hcons)
    rfl

theorem grantHead_malformed {s : State} {q : Nat} {c : Cmd} (hs : c.started = false) (hb : cmdBad s c.words = true) :
    grantHead s q c = .next (completeCmd s q 6 false 0) := if_pos (by rw [hs, hb]; rfl)

section
variable {s : State} {q : Nat} {c : Cmd} (hb : cmdBad s c.words = false)
include hb

theorem grantHead_plain (hk : cmdKind c.words = 0 ∨ cmdKind c.words = 3) :
    grantHead s q c = .next (completeCmd (startCmd s q c) q 0 false 0) := by
  rw [grantHead, if_neg (by simp [hb])]
  rcases hk with hk | hk
  · rw [hk]
    rfl
  · rw [hk]
    rfl

theorem grantHead_launch (hk : cmdKind c.words = 1) : grantHead s q c = .next (grantLaunch s q c) := by
  rw [grantHead, if_neg (by simp [hb]), hk]
  rfl

theorem grantHead_instance (hk : cmdKind c.words = 2) {i : Instance_} (hi : c.inst = some i) :
    grantHead s q c = .next (grantColl s q c i) := by
  rw [grantHead, if_neg (by simp [hb]), hk, hi]
  rfl

theorem grantHead_refused (hk : cmdKind c.words = 2) (hi : c.inst = none) {e : FcpErr} {n : Nat} (hc : collCheck s c.words = .error (e, n))
    (ha : e.aired = false) : grantHead s q c = .next (completeCmd (logFcp s s.time e) q e.status false n) := by
  rw [grantHead, if_neg (by simp [hb]), hk, hi, hc]
  exact congrArg Host.Outcome.next (if_neg (by simp [ha]))

theorem grantHead_starts (hk : cmdKind c.words = 2) (hi : c.inst = none) {v : State} {prog : List Word} (hc : collCheck s c.words = .ok (v, prog)) :
    grantHead s q c = .next (startColl v q c prog) := by
  rw [grantHead, if_neg (by simp [hb]), hk, hi, hc]
  rfl

end

/-! ### NOP and WAIT -/

theorem granted_wf {s : State} (h : s.memWf) (q : Nat) : (granted s q).memWf := h
theorem granted_quiet {s : State} (h : quietJournal s) (q : Nat) : quietJournal (granted s q) := h

theorem startCmd_keeps {s : State} (h : quietJournal s) (q : Nat) (c : Cmd) : (startCmd s q c).hbm = s.hbm ∧ (startCmd s q c).sram = s.sram ∧
    (startCmd s q c).page = s.page ∧ (startCmd s q c).time = s.time ∧ (startCmd s q c).cores = s.cores ∧ (startCmd s q c).ctxs = s.ctxs ∧
    (startCmd s q c).fcp = (setHead s q { c with started := true }).fcp := by
  obtain ⟨m, hm⟩ := startCmd_form h q c
  rw [hm]
  exact ⟨rfl, rfl, rfl, rfl, rfl, rfl, rfl⟩

theorem startCmd_cmds {s : State} {q : Nat} {c : Cmd} {r : List Cmd} (h : quietJournal s) (hq : queueCmds s q = c :: r) :
    queueCmds (startCmd s q c) q = { c with started := true } :: r := by
  obtain ⟨-, -, -, -, -, -, hfcp⟩ := startCmd_keeps h q c
  rw [queueCmds, hfcp]
  exact (setHead_cmds ..).trans (by rw [hq]; rfl)

/-- R349 to R353: the grants of no queue, of a malformed command, of NOP and of WAIT. -/
theorem commandGrants : Stmt.CommandGrants := by
  refine ⟨fun s h => fcpGrant_none h, fun s q c r hwf h hn hq => ⟨fun hs hb => ?_, fun hb hk => ?_⟩⟩
  · have hc := completeCmd_completed (granted_wf hwf q) (granted_quiet h q) (r := r) hq 6 false 0
    obtain ⟨hcmds, hstatus, hcores, hctxs, hlaunches⟩ := hc
    exact ⟨_, (fcpGrant_head hn hq).trans (grantHead_malformed hs hb), hcmds, hstatus, hcores, hctxs, hlaunches⟩
  · obtain ⟨hhbm, hsram, hpage, -, hcores0, hctxs0, hfcp⟩ := startCmd_keeps (granted_quiet h q) q c
    have hquiet : quietJournal (startCmd (granted s q) q c) := by
      rw [quietJournal, hpage]
      exact h
    have hq' := startCmd_cmds (granted_quiet h q) (r := r) hq
    obtain ⟨hcmds, hstatus, hcores, hctxs, hlaunches⟩ := completeCmd_completed (memWf_of_eq hwf hhbm hsram) hquiet hq' 0 false 0
    refine ⟨_, (fcpGrant_head hn hq).trans (grantHead_plain hb hk), hcmds, hstatus, hcores.trans hcores0, hctxs.trans hctxs0, ?_, fun hd hnum hlt => ?_⟩
    · rw [hlaunches, hfcp]
      rfl
    · exact completeCmd_dt hquiet hq' 0 false 0 (by rw [hfcp]; exact hd) (by rw [hfcp]; exact hnum) hlt

/-! ### LAUNCH (R30, R31) -/

theorem any_range_iff {n : Nat} {p : Nat → Bool} : (List.range n).any p = true ↔ ∃ j < n, p j = true := by simp

/-- The model's checks of a launch record are those of R30. -/
theorem launchStatus_eq (s : State) (x : Nat) (r : BitVec 512) : launchStatus s x r = launchError s x r := by
  unfold launchStatus launchError
  dsimp only
  refine if_congr Iff.rfl rfl (if_congr (by simp [rbits]) rfl (if_congr ?_ rfl (if_congr (and_congr_left' beq_iff_eq) rfl (if_congr Iff.rfl rfl rfl))))
  refine or_congr Iff.rfl (or_congr Iff.rfl (or_congr ?_ (or_congr ?_ (or_congr ?_ Iff.rfl))))
  · rw [any_range_iff]
    refine exists_congr fun j => and_congr_right fun _ => ?_
    rw [Bool.not_eq_true', ← Bool.not_eq_true, List.contains_iff_mem]
    rfl
  · simp [lrOrder, lrLevels, rbits]
  · rw [any_range_iff]
    refine exists_congr fun j => and_congr_right fun _ => ?_
    rw [beq_iff_eq, Bool.eq_iff_iff, beq_iff_eq, decide_eq_true_iff]
    rfl

theorem logFcp_keeps (s : State) (n : Nat) (e : FcpErr) : ∃ l, logFcp s n e = { s with cp := { s.cp with log := l } } := by
  unfold logFcp logRace
  split
  · split
    · exact ⟨_, rfl⟩
    · exact ⟨s.cp.log, rfl⟩
  · exact ⟨s.cp.log, rfl⟩

/-- A command that is refused completes with its status. -/
theorem refused_completes {s : State} {q : Nat} {c : Cmd} {r : List Cmd} (hwf : s.memWf) (h : quietJournal s) (hq : queueCmds s q = c :: r)
    (t : Nat) (e : FcpErr) (n : Nat) : Completed s (completeCmd (logFcp s t e) q e.status false n) q c r (e.status + n * 2 ^ 32) := by
  obtain ⟨l, hl⟩ := logFcp_keeps s t e
  rw [hl]
  exact completeCmd_completed (s := { s with cp := { s.cp with log := l } }) hwf h hq e.status false n

theorem grantLaunch_unread {s : State} {q : Nat} {c : Cmd} {e : FcpErr}
    (hread : fcpAccess s (cmdCtx c.words) s.time false (cmdAddr c.words) (.load 64 false) = .error e) (ha : e.aired = false) :
    grantLaunch s q c = completeCmd (logFcp s s.time e) q e.status false 0 := by
  simp only [grantLaunch, hread, ha, Bool.false_eq_true, if_false]

theorem grantLaunch_refused {s v : State} {q : Nat} {c : Cmd} {bs : List Byte}
    (hread : fcpAccess s (cmdCtx c.words) s.time false (cmdAddr c.words) (.load 64 false) = .ok (v, bs))
    (hst : launchStatus v (cmdCtx c.words) (BitVec.ofNat 512 (leNat bs)) ≠ 0) :
    grantLaunch s q c = completeCmd v q (launchStatus v (cmdCtx c.words) (BitVec.ofNat 512 (leNat bs))) false 0 := by
  simp only [grantLaunch, hread, if_pos hst]

theorem grantLaunch_starts {s v : State} {q : Nat} {c : Cmd} {bs : List Byte}
    (hread : fcpAccess s (cmdCtx c.words) s.time false (cmdAddr c.words) (.load 64 false) = .ok (v, bs))
    (hst : launchStatus v (cmdCtx c.words) (BitVec.ofNat 512 (leNat bs)) = 0) :
    grantLaunch s q c = startLaunch (startCmd v q c) q (cmdCtx c.words) (cmdAddr c.words) (BitVec.ofNat 512 (leNat bs)) := by
  simp only [grantLaunch, hread, hst, ne_eq, not_true_eq_false, if_false]

/-- A launch that starts has the next sequence number and holds nothing yet (R31). -/
theorem startLaunch_leaves (s : State) (q x : Nat) (a : Word) (r : BitVec 512) : ∃ l : Launch,
    (startLaunch s q x a r).fcp = { s.fcp with seq := s.fcp.seq + 1, launches := s.fcp.launches ++ [l] } ∧ (startLaunch s q x a r).cores = s.cores ∧
      l.seq = s.fcp.seq + 1 ∧ l.ctx = x ∧ l.record = r ∧ l.phase = .reserving ∧ l.held = [] ∧ l.k = 0 ∧ l.step = 0 ∧ l.ord = 0 ∧
      l.running = 0 ∧ l.start = s.time ∧ l.queue = some q := by
  unfold startLaunch
  dsimp only
  split
  · exact ⟨_, rfl, rfl, rfl, rfl, rfl, rfl, rfl, rfl, rfl, rfl, rfl, rfl, rfl⟩
  · exact ⟨_, rfl, rfl, rfl, rfl, rfl, rfl, rfl, rfl, rfl, rfl, rfl, rfl, rfl⟩

/-- R30, R31, R353: the grants of a LAUNCH. -/
theorem launchGrants : Stmt.LaunchGrants := by
  intro s q c r hwf h hn hq hb hk x read
  have hgrant := (fcpGrant_head hn hq).trans (grantHead_launch (s := granted s q) hb hk)
  refine ⟨fun e he ha => ?_, fun v bs hread hvwf hv hvq => ⟨launchStatus_eq .., fun hst => ?_, fun hst => ?_⟩⟩
  · have hdone := refused_completes (granted_wf hwf q) (granted_quiet h q) (r := r) hq (granted s q).time e 0
    exact ⟨_, hgrant.trans (congrArg _ (grantLaunch_unread he ha)), hdone⟩
  · rw [← launchStatus_eq] at hst ⊢
    exact ⟨_, hgrant.trans (congrArg _ (grantLaunch_refused hread hst)), completeCmd_completed hvwf hv hvq _ false 0⟩
  · rw [← launchStatus_eq] at hst
    obtain ⟨-, -, -, htime, hcores, -, hfcp⟩ := startCmd_keeps hv q c
    have hcmds := startCmd_cmds hv hvq
    have hlaunches : (startCmd v q c).fcp.launches = v.fcp.launches := by rw [hfcp]; rfl
    have hseq : (startCmd v q c).fcp.seq = v.fcp.seq := by rw [hfcp]; rfl
    obtain ⟨l, hl, hlcores, hlseq, hctx, hrec, hphase, hheld, hk0, hstep, hord, hrun, hstart, hlq⟩ :=
      startLaunch_leaves (startCmd v q c) q x (cmdAddr c.words) (BitVec.ofNat 512 (leNat bs))
    refine ⟨_, l, hgrant.trans (congrArg _ (grantLaunch_starts hread hst)), ?_, ?_, hlcores.trans hcores, ?_, ?_, hctx, hrec, hphase, hheld,
      hk0, hstep, hord, hrun, hstart.trans htime, hlq⟩
    · rw [hl, hlaunches]
    · rw [queueCmds, hl]
      exact hcmds
    · rw [hlseq, hseq]
    · rw [hl, hlseq]

end Sys2Proof.Machine
end

section
/-! PROOFS. The grants of a COLL (R350, R353, R358 to R361, R364, R365, R370). -/

namespace Sys2Proof.Machine

open Sys2Proof.Stmt

/-! ### Checks and start -/

/-- The command fails the checks that R353 puts first. -/
theorem collCheck_badCmd {s : State} {w : BitVec 512}
    (h : cmdType w = 3 ∨ cmdOp w = 3 ∨ cmdBlk w % 256 ≠ 0 ∨ cmdBlk w < 256 ∨ 2 ^ 30 < cmdBlk w ∨ (cmdAddr w).toNat % 8 ≠ 0) :
    collCheck s w = .error (.of 6, 0) := if_pos h

theorem collCheck_badGroup {s : State} {w : BitVec 512}
    (h : ¬(cmdType w = 3 ∨ cmdOp w = 3 ∨ cmdBlk w % 256 ≠ 0 ∨ cmdBlk w < 256 ∨ 2 ^ 30 < cmdBlk w ∨ (cmdAddr w).toNat % 8 ≠ 0))
    (hg : groupUsable s (cmdCtx w) (groupEntry s (cmdCtx w) (cmdGrp w)) = false) :
    collCheck s w = .error (.of 4, 0) := (if_neg h).trans (if_pos hg)

/-- An address that is canonical and of this die. -/
theorem not_own_iff (s : State) (a : Word) : (!canonical a || ownerOf a != s.port.rank) = true ↔
    a.toNat / 2 ^ 57 ≠ 0 ∨ a.toNat / 2 ^ 47 % 1024 ≠ s.port.rank := by
  have ha := a.isLt
  have hcanon : (!canonical a) = true ↔ a.toNat / 2 ^ 57 ≠ 0 := by
    rw [Bool.not_eq_true', canonical, beq_eq_false_iff_ne, bits]
    omega
  rw [Bool.or_eq_true, hcanon, bne_iff_ne]
  rfl

theorem collCheck_viol {s : State} {w : BitVec 512}
    (h : ¬(cmdType w = 3 ∨ cmdOp w = 3 ∨ cmdBlk w % 256 ≠ 0 ∨ cmdBlk w < 256 ∨ 2 ^ 30 < cmdBlk w ∨ (cmdAddr w).toNat % 8 ≠ 0))
    (hg : ¬groupUsable s (cmdCtx w) (groupEntry s (cmdCtx w) (cmdGrp w)) = false)
    (hv : ∃ i < 3, (cmdBuf w i).toNat / 2 ^ 57 ≠ 0 ∨ (cmdBuf w i).toNat / 2 ^ 47 % 1024 ≠ s.port.rank) :
    collCheck s w = .error (.of 0x0A, 0) := by
  have hany : ((List.range 3).any fun i => !canonical (cmdBuf w i) || ownerOf (cmdBuf w i) != s.port.rank) = true := by
    obtain ⟨i, hi, hv⟩ := hv
    exact any_range_iff.mpr ⟨i, hi, (not_own_iff s _).mpr hv⟩
  exact (if_neg h).trans ((if_neg hg).trans (if_pos hany))

/-- A COLL that is refused completes with its status and step (R353). -/
theorem coll_refused {s : State} {q : Nat} {c : Cmd} {r : List Cmd} (hwf : s.memWf) (h : quietJournal s) (hn : nextQueue s = some q)
    (hq : queueCmds s q = c :: r) (hb : cmdBad s c.words = false) (hk : cmdKind c.words = 2) (hi : c.inst = none) {e : FcpErr} {n : Nat}
    (hc : collCheck (granted s q) c.words = .error (e, n)) (ha : e.aired = false) :
    ∃ t, exec .fcpGrant s = .next t ∧ Completed s t q c r (e.status + n * 2 ^ 32) :=
  ⟨_, (fcpGrant_head hn hq).trans (grantHead_refused (s := granted s q) hb hk hi hc ha),
    refused_completes (granted_wf hwf q) (granted_quiet h q) (r := r) hq (granted s q).time e n⟩

/-- Where the SEQ of a command's group entry lies (R355). -/
def seqAddr (s : State) (w : BitVec 512) : Nat := (ctxAt s (cmdCtx w)).grptab + 256 * cmdGrp w + 132

/-- What a program starts as (R358). -/
def freshInstance (prog : List Word) (seq start : Nat) : Instance_ :=
  { prog := prog, seq := seq, step := 0, loops := [], out := 0, inn := 0, blocks := 0, data := [], head := [], ovf := false
    start := start, bad := 0, adds := [] }

/-- The next SEQ of a command's group. -/
def nextSeq (s : State) (w : BitVec 512) : Nat := (readNat s.hbm (seqAddr s w) 4 + 1) % 2 ^ 32

/-- A command has started, its group's SEQ counted. -/
def seqCounted (s : State) (q : Nat) (c : Cmd) : State := hbmWrite (startCmd s q c) (seqAddr s c.words) (leBytes 4 (nextSeq s c.words))

theorem startColl_eq (s : State) (q : Nat) (c : Cmd) (prog : List Word) : startColl s q c prog =
    grantColl (setHead (seqCounted s q c) q { c with started := true, inst := some (freshInstance prog (nextSeq s c.words) (seqCounted s q c).time) })
      q c (freshInstance prog (nextSeq s c.words) (seqCounted s q c).time) := rfl

theorem setHead_keeps (s : State) (q : Nat) (c : Cmd) :
    (setHead s q c).hbm = s.hbm ∧ (setHead s q c).cores = s.cores ∧ (setHead s q c).ctxs = s.ctxs := ⟨rfl, rfl, rfl⟩

/-- What the start of a COLL changes of memory, and that it leaves cores, contexts and the time. -/
theorem seqCounted_leaves {s : State} (hwf : s.memWf) (h : quietJournal s) (q : Nat) (c : Cmd) :
    readNat (seqCounted s q c).hbm (seqAddr s c.words) 4 = nextSeq s c.words ∧
      (∀ x, (x < seqAddr s c.words ∨ seqAddr s c.words + 4 ≤ x) → readByte (seqCounted s q c).hbm x = readByte s.hbm x) ∧
      (seqCounted s q c).cores = s.cores ∧ (seqCounted s q c).ctxs = s.ctxs ∧ (seqCounted s q c).time = s.time := by
  obtain ⟨hhbm, hsram, -, htime, hcores, hctxs, -⟩ := startCmd_keeps h q c
  have hmem := hbmWrite_onlyMemory (startCmd s q c) (seqAddr s c.words) (leBytes 4 (nextSeq s c.words))
  refine ⟨?_, fun x hx => ?_, hmem.cores.trans hcores, hmem.ctxs.trans hctxs, ?_⟩
  · rw [seqCounted, readNat_hbmWrite_same (memWf_of_eq hwf hhbm hsram), nextSeq]
    exact Nat.mod_mod _ _
  · rw [seqCounted, readByte_hbmWrite_other _ _ _ (by rwa [length_leBytes]), hhbm]
  · rw [seqCounted, hmem]
    exact htime

/-- A COLL that passes its checks starts under the next SEQ of its group, and has its first grant (R358). -/
theorem coll_starts {s v : State} {q : Nat} {c : Cmd} {r : List Cmd} {prog : List Word} (hn : nextQueue s = some q) (hq : queueCmds s q = c :: r)
    (hb : cmdBad s c.words = false) (hk : cmdKind c.words = 2) (hi : c.inst = none)
    (hc : collCheck (granted s q) c.words = .ok (v, prog)) (hwf : v.memWf) (h : quietJournal v) :
    ∃ (z : State) (i : Instance_), exec .fcpGrant s = .next (grantColl z q c i) ∧ i.prog = prog ∧ i.seq = (readNat v.hbm (seqAddr v c.words) 4 + 1) % 2 ^ 32 ∧
      readNat z.hbm (seqAddr v c.words) 4 = i.seq ∧
      (∀ x, (x < seqAddr v c.words ∨ seqAddr v c.words + 4 ≤ x) → readByte z.hbm x = readByte v.hbm x) ∧ i.step = 0 ∧ i.loops = [] ∧
      i.out = 0 ∧ i.inn = 0 ∧ i.ovf = false ∧ i.start = v.time ∧ i.adds = [] ∧ z.cores = v.cores ∧ z.ctxs = v.ctxs := by
  obtain ⟨hseq, hbytes, hcores, hctxs, htime⟩ := seqCounted_leaves hwf h q c
  have hgrant := (fcpGrant_head hn hq).trans (grantHead_starts (s := granted s q) hb hk hi hc)
  rw [startColl_eq, htime] at hgrant
  obtain ⟨hzhbm, hzcores, hzctxs⟩ := setHead_keeps (seqCounted v q c) q
    { c with started := true, inst := some (freshInstance prog (nextSeq v c.words) v.time) }
  refine ⟨_, _, hgrant, rfl, rfl, ?_, fun x hx => ?_, rfl, rfl, rfl, rfl, rfl, rfl, rfl, hzcores.trans hcores, hzctxs.trans hctxs⟩
  · rw [hzhbm]
    exact hseq
  · rw [hzhbm]
    exact hbytes x hx

/-! ### The end of a grant -/

/-- Steps of a grant use up as much of its bound. -/
theorem runGrant_runs {q chunk : Nat} {w : BitVec 512} {n : Nat} {a b : Grant} (h : Runs q chunk w n a b) (m : Nat) :
    runGrant q chunk w (n + m) a = runGrant q chunk w m b := by
  induction h with
  | refl a => rw [Nat.zero_add]
  | @step n a b c hmoved hstep _ ih =>
    rw [Nat.add_right_comm, runGrant, if_neg hmoved.not_ge, hstep]
    exact ih

/-- A run of fewer steps than the bound ends as the step after it says. -/
theorem runGrant_ends {q chunk : Nat} {w : BitVec 512} {n k : Nat} {a b : Grant} (h : Runs q chunk w n a b) (hn : n < k) :
    ∃ m, runGrant q chunk w k a = runGrant q chunk w (m + 1) b := by
  obtain ⟨m, rfl⟩ := Nat.exists_eq_add_of_lt hn
  exact ⟨m, runGrant_runs h (m + 1)⟩

theorem runGrant_moved {q chunk : Nat} {w : BitVec 512} {m : Nat} {b : Grant} (h : chunk ≤ b.moved) :
    runGrant q chunk w (m + 1) b = (b, .more) := if_pos h

theorem runGrant_waits {q chunk : Nat} {w : BitVec 512} {m : Nat} {b : Grant} (h : b.moved < chunk) (hs : microStep q w b = .wait) :
    runGrant q chunk w (m + 1) b = (b, .more) := by rw [runGrant, if_neg h.not_ge, hs]

theorem runGrant_done {q chunk : Nat} {w : BitVec 512} {m : Nat} {b d : Grant} (h : b.moved < chunk) (hs : microStep q w b = .done d) :
    runGrant q chunk w (m + 1) b = (d, .done) := by rw [runGrant, if_neg h.not_ge, hs]

theorem runGrant_fails {q chunk : Nat} {w : BitVec 512} {m : Nat} {b d : Grant} {e : FcpErr} (h : b.moved < chunk)
    (hs : microStep q w b = .fail d e) : runGrant q chunk w (m + 1) b = (d, .fail e) := by rw [runGrant, if_neg h.not_ge, hs]

/-- The grant of a running COLL that owes no add, by how its run ends. -/
theorem grantColl_of_run {s : State} {q : Nat} {c : Cmd} {i : Instance_} (ha : i.adds = []) {g : Grant} {e : Ended}
    (h : runGrant q (chunkBytes s) c.words (2 ^ 100) { s := s, i := i, moved := 0, wr := [], rd := [] } = (g, e)) :
    (e = .more → grantColl s q c i = endGrant g.s q c g.i (grantAdds g) false) ∧
    (e = .done → grantColl s q c i = endGrant g.s q c g.i (grantAdds g) true) ∧
    (∀ x, e = .fail x → x.aired = false → grantColl s q c i = failColl (dropAdds c.words (grantAdds g) g.s) q c.words g.i x) := by
  unfold grantColl
  dsimp only
  rw [if_neg (by simp [ha]), h]
  refine ⟨fun he => by rw [he], fun he => by rw [he], fun x he hx => ?_⟩
  rw [he]
  exact if_neg (by simp [hx])

/-- R350: a grant's steps and its end. -/
theorem grantColl_runs {s : State} {q n : Nat} {c : Cmd} {i : Instance_} {b : Grant} (ha : i.adds = []) (hn : n < 2 ^ 100)
    (hr : Runs q (chunkBytes s) c.words n { s := s, i := i, moved := 0, wr := [], rd := [] } b) :
    (chunkBytes s ≤ b.moved ∨ (b.moved < chunkBytes s ∧ microStep q c.words b = .wait) →
      grantColl s q c i = endGrant b.s q c b.i (grantAdds b) false) ∧
    (b.moved < chunkBytes s → ∀ d,
      (microStep q c.words b = .done d → grantColl s q c i = endGrant d.s q c d.i (grantAdds d) true) ∧
      (∀ e, microStep q c.words b = .fail d e → e.aired = false →
        grantColl s q c i = failColl (dropAdds c.words (grantAdds d) d.s) q c.words d.i e)) := by
  obtain ⟨m, hm⟩ := runGrant_ends hr hn
  refine ⟨fun h => ?_, fun h d => ⟨fun hs => ?_, fun e hs hx => ?_⟩⟩
  · have hend : runGrant q (chunkBytes s) c.words (m + 1) b = (b, .more) := by
      rcases h with h | ⟨h, hs⟩
      · exact runGrant_moved h
      · exact runGrant_waits h hs
    exact (grantColl_of_run ha (hm.trans hend)).1 rfl
  · exact (grantColl_of_run ha (hm.trans (runGrant_done h hs))).2.1 rfl
  · exact (grantColl_of_run ha (hm.trans (runGrant_fails h hs))).2.2 e rfl hx

/-- The end of a grant without adds: the COLL is kept, or the command completes. -/
theorem endGrant_kept (s : State) (q : Nat) (c : Cmd) (i : Instance_) :
    endGrant s q c i [] false = setHead s q { c with started := true, inst := some { i with adds := [] } } := rfl

theorem endGrant_done (s : State) (q : Nat) (c : Cmd) (i : Instance_) : endGrant s q c i [] true = completeCmd s q 0 i.ovf 0 := rfl

/-- A COLL that fails clears V of its group entry, which lies in bit 7 of a byte (R370). -/
def validAddr (s : State) (w : BitVec 512) : Nat := (ctxAt s (cmdCtx w)).grptab + 256 * cmdGrp w + 131

theorem spoilGroup_byte {s : State} (hwf : s.memWf) (w : BitVec 512) :
    (readByte (spoilGroup s (cmdCtx w) (cmdGrp w)).hbm (validAddr s w)).toNat < 128 := by
  have hbyte : readByte (spoilGroup s (cmdCtx w) (cmdGrp w)).hbm (validAddr s w) = BitVec.ofNat 8 (readNat s.hbm (validAddr s w) 1 % 128) :=
    readByte_writeByte_same hwf.1 _ _
  rw [hbyte, BitVec.toNat_ofNat]
  omega

theorem failColl_leaves {s : State} {q : Nat} {c : Cmd} {r : List Cmd} (hwf : s.memWf) (h : quietJournal s) (hq : queueCmds s q = c :: r)
    (i : Instance_) (e : FcpErr) (hv : c.addr + 16 ≤ validAddr s c.words ∨ validAddr s c.words < c.addr + 8) :
    Completed s (failColl s q c.words i e) q c r (e.status + i.ovf.toNat * 256 + i.step * 2 ^ 32) ∧
      (readByte (failColl s q c.words i e).hbm (validAddr s c.words)).toNat < 128 := by
  have hmem := spoilGroup_onlyMemory s (cmdCtx c.words) (cmdGrp c.words)
  have hbyte := spoilGroup_byte hwf c.words
  have hwf' : (spoilGroup s (cmdCtx c.words) (cmdGrp c.words)).memWf := memWf_hbmWrite hwf _ _
  have hquiet : quietJournal (spoilGroup s (cmdCtx c.words) (cmdGrp c.words)) := by
    rw [quietJournal, hmem]
    exact h
  have hq' : queueCmds (spoilGroup s (cmdCtx c.words) (cmdGrp c.words)) q = c :: r := by
    rw [queueCmds, hmem.fcp]
    exact hq
  unfold failColl
  generalize spoilGroup s (cmdCtx c.words) (cmdGrp c.words) = u at *
  obtain ⟨l, hl⟩ := logFcp_keeps u i.start e
  rw [hl]
  obtain ⟨hcmds, hstatus, hcores, hctxs, hlaunches⟩ := completeCmd_completed (s := { u with cp := { u.cp with log := l } }) hwf' hquiet hq' e.status i.ovf i.step
  refine ⟨⟨hcmds, hstatus, hcores.trans hmem.cores, hctxs.trans hmem.ctxs, hlaunches.trans (congrArg Fcp.launches hmem.fcp)⟩, ?_⟩
  rw [completeCmd_bytes (s := { u with cp := { u.cp with log := l } }) hquiet hq' _ _ _ (by omega)]
  exact hbyte

end Sys2Proof.Machine
end

section
/-! PROOFS. The small steps of a running COLL (R359, R361, R364, R365), and the host and the command processor together. -/

namespace Sys2Proof.Machine

open Sys2Proof.Stmt

/-! ### Step words -/

theorem bits_one_beq (w : Word) (i : Nat) : (bits w i 1 == 1) = w.getLsbD i := by
  rw [bits, BitVec.getLsbD, Nat.testBit_eq_decide_div_mod_eq, pow_one, beq_eq_decide]

theorem swOp_eq (w : Word) : swOp w = w.toNat / 2 ^ 60 := by
  have := w.isLt
  rw [swOp, bits]
  omega

theorem swPsh_eq (w : Word) : swPsh w = w.getLsbD 58 := bits_one_beq w 58
theorem swPm_eq (w : Word) : swPm w = w.getLsbD 59 := bits_one_beq w 59
theorem swZ_eq (w : Word) : swZ w = w.getLsbD 23 := bits_one_beq w 23

/-- The count of a LOOP: given, or the members but for some, or its steps when the members are halved (R359). -/
theorem loopCount_eq (n : Nat) (w : Word) :
    loopCount n w = match w.toNat / 2 ^ 58 % 4 with | 0 => w.toNat % 65536 | 1 => n - w.toNat % 65536 | _ => Nat.clog 2 n := by
  have hlow : bits w 0 16 = w.toNat % 65536 := congrArg (· % 2 ^ 16) (Nat.div_one _)
  have hkind : bits w 58 2 = w.toNat / 2 ^ 58 % 4 := rfl
  rewrite [loopCount, hlow, hkind]
  generalize w.toNat / 2 ^ 58 % 4 = m
  match m with
  | 0 => rfl
  | 1 => rfl
  | _ + 2 => rfl

/-- The COLL has gone on to step `ix` with loops `l`, its position within a step cleared. -/
def goneOn (b : Grant) (l : List LoopLevel) (ix : Nat) : Micro :=
  .go { b with i := { b.i with step := ix, loops := l, out := 0, inn := 0, blocks := 0, data := [], head := [] } }

/-- No slot of the peer is free. (The equation of `sendSlot` is used unapplied: applied, the kernel would evaluate the counters.) -/
theorem sendSlot_full {gr : Grant} {q x : Nat} {w : BitVec 512} {g : Grp} {p cmp : Nat} {z : Bool} {src : Word} {snt fre : Nat}
    (hs : grpCount gr.s x g p 8 = .ok snt) (hf : grpCount gr.s x g p 4 = .ok fre) (h : g.psub ≤ (snt + 2 ^ 32 - fre) % 2 ^ 32) :
    sendSlot gr q x w g p cmp z src = .wait := by
  obtain ⟨f, hdef⟩ : ∃ f, f = sendSlot := ⟨_, rfl⟩
  rw [← hdef]
  delta sendSlot at hdef
  rw [hdef]
  beta_reduce
  rw [hs, hf]
  exact if_pos h

/-- No slot of the peer has come. -/
theorem takeSlot_none {gr : Grant} {x : Nat} {w : BitVec 512} {g : Grp} {p : Nat} {z recv : Bool} {src dst : Word} {arr con : Nat}
    (ha : grpCount gr.s x g p 0 = .ok arr) (hc : grpCount gr.s x g p 12 = .ok con) (h : (arr + 2 ^ 32 - con) % 2 ^ 32 = 0) :
    takeSlot gr x w g p z recv src dst = .wait := by
  obtain ⟨f, hdef⟩ : ∃ f, f = takeSlot := ⟨_, rfl⟩
  rw [← hdef]
  delta takeSlot at hdef
  rw [hdef]
  beta_reduce
  rw [ha, hc]
  exact if_pos h

section
variable {q : Nat} {w : BitVec 512} {b : Grant} {sw : Word} {g : Grp} (hbad : b.i.bad = 0) (hsw : b.i.prog.getD b.i.step 0 = sw)
  (hg : grpOf (groupEntry b.s (cmdCtx w) (cmdGrp w)) = g)
include hbad hsw hg

/-- END waits until every slot sent has been consumed. -/
theorem microStep_end (hop : swOp sw = 0) {y : Bool} (hd : drained b.s (cmdCtx w) g = .ok y) :
    microStep q w b = if y then .done b else .wait := by
  unfold microStep
  simp only [hsw, hg, hbad, hop, hd, ne_eq, not_true_eq_false, if_false]
  cases y
  · rfl
  · rfl

/-- A WAIT with D waits the same way. -/
theorem microStep_drain (hop : swOp sw = 6) (hD : bits sw 0 1 = 1) {y : Bool} (hd : drained b.s (cmdCtx w) g = .ok y) :
    microStep q w b = if y then goneOn b b.i.loops (b.i.step + 1) else .wait := by
  unfold microStep
  simp only [hsw, hg, hbad, hop, hD, hd, ne_eq, not_true_eq_false, if_false, if_true]
  cases y
  · rfl
  · rfl

theorem microStep_wait (hop : swOp sw = 6) (hD : bits sw 0 1 ≠ 1) : microStep q w b = goneOn b b.i.loops (b.i.step + 1) := by
  unfold microStep
  simp only [hsw, hg, hbad, hop, hD, ne_eq, not_true_eq_false, if_false]
  rfl

/-- LOOP opens a level, or goes past its ENDL. -/
theorem microStep_loop (hop : swOp sw = 7) : microStep q w b =
    if loopCount g.ranks.length sw = 0 then goneOn b b.i.loops (matchEndl b.i.prog 1024 (b.i.step + 1) 0 + 1)
    else goneOn b (b.i.loops ++ [{ first := b.i.step + 1, count := loopCount g.ranks.length sw, c := 0 }]) (b.i.step + 1) := by
  unfold microStep
  simp only [hsw, hg, hbad, hop, ne_eq, not_true_eq_false, if_false]
  rfl

omit hg in
/-- ENDL goes round, or closes its level. -/
theorem microStep_endl (hop : swOp sw = 8) {l : LoopLevel} {ls : List LoopLevel} (hl : b.i.loops = ls ++ [l]) : microStep q w b =
    if l.c + 1 < l.count then goneOn b (ls ++ [{ l with c := l.c + 1 }]) l.first else goneOn b ls (b.i.step + 1) := by
  unfold microStep
  simp only [hsw, hbad, hop, hl, ne_eq, not_true_eq_false, if_false, List.getLast?_append, List.getLast?_singleton, Option.some_or,
    List.dropLast_concat]
  rfl

/-- A data step of a command whose peer is left out only goes on (R361). -/
theorem microStep_skip (h1 : 1 ≤ swOp sw) (h4 : swOp sw ≤ 4) (hskip : (stepPeers g b.i sw).2.2.1 = true) :
    microStep q w b = goneOn b b.i.loops (b.i.step + 1) := by
  obtain ⟨⟨fwd, inv, skip, blk⟩, hp⟩ : ∃ p, stepPeers g b.i sw = p := ⟨_, rfl⟩
  rw [hp] at hskip
  have hskip' : skip = true := hskip
  unfold microStep
  have hop : swOp sw = 1 ∨ swOp sw = 2 ∨ swOp sw = 3 ∨ swOp sw = 4 := by omega
  rcases hop with hop | hop | hop | hop
  all_goals
    simp only [hsw, hg, hbad, hp, hop, hskip', ne_eq, not_true_eq_false, if_false, true_or, if_true]
    rfl

/-- A SEND whose slots are all out goes on. -/
theorem microStep_sent (hop : swOp sw = 1) (hout : slotCount w (swCmp sw) (swZ sw) ≤ b.i.out) :
    microStep q w b = goneOn b b.i.loops (b.i.step + 1) := by
  obtain ⟨⟨fwd, inv, skip, blk⟩, hp⟩ : ∃ p, stepPeers g b.i sw = p := ⟨_, rfl⟩
  unfold microStep
  simp only [hsw, hg, hbad, hp, hop, hout, ne_eq, not_true_eq_false, if_false, or_true, if_true]
  rfl

/-- A SEND waits while its peer has as many slots as there are. -/
theorem microStep_full (hop : swOp sw = 1) (hskip : (stepPeers g b.i sw).2.2.1 = false) (hout : b.i.out < slotCount w (swCmp sw) (swZ sw))
    {snt fre : Nat} (hs : grpCount b.s (cmdCtx w) g (stepPeers g b.i sw).1 8 = .ok snt) (hf : grpCount b.s (cmdCtx w) g (stepPeers g b.i sw).1 4 = .ok fre)
    (hfull : g.psub ≤ (snt + 2 ^ 32 - fre) % 2 ^ 32) : microStep q w b = .wait := by
  obtain ⟨⟨fwd, inv, skip, blk⟩, hp⟩ : ∃ p, stepPeers g b.i sw = p := ⟨_, rfl⟩
  rw [hp] at hskip hs hf
  dsimp only at hskip hs hf
  unfold microStep
  simp only [hsw, hg, hbad, hp, hop, hskip, hout.not_ge, ne_eq, not_true_eq_false, if_false, or_self, Bool.false_eq_true]
  exact sendSlot_full hs hf hfull

/-- A RECV waits while no slot has come. -/
theorem microStep_empty (hop : swOp sw = 2) (hskip : (stepPeers g b.i sw).2.2.1 = false) (hinn : b.i.inn = 0)
    {arr con : Nat} (ha : grpCount b.s (cmdCtx w) g (stepPeers g b.i sw).2.1 0 = .ok arr) (hc : grpCount b.s (cmdCtx w) g (stepPeers g b.i sw).2.1 12 = .ok con)
    (hnone : (arr + 2 ^ 32 - con) % 2 ^ 32 = 0) : microStep q w b = .wait := by
  obtain ⟨⟨fwd, inv, skip, blk⟩, hp⟩ : ∃ p, stepPeers g b.i sw = p := ⟨_, rfl⟩
  rw [hp] at hskip ha hc
  dsimp only at hskip ha hc
  unfold microStep
  simp only [hsw, hg, hbad, hp, hop, hskip, hinn, ne_eq, not_true_eq_false, if_false, lt_self_iff_false, false_and, or_self, Bool.false_eq_true]
  exact takeSlot_none ha hc hnone

end

/-! ### Peers -/

/-- The peer value of a data step (R361). -/
def peerValue (i : Instance_) (w : Word) : Nat :=
  (if w.getLsbD 58 then w.toNat / 2 ^ 46 % 1024 * 2 ^ loopC i (w.toNat / 2 ^ 56 % 4) else w.toNat / 2 ^ 46 % 1024) % 2 ^ 32

theorem stepPeers_relative {g : Grp} {i : Instance_} {w : Word} (h : w.getLsbD 59 = true) :
    (stepPeers g i w).1 = (g.me + peerValue i w) % max 1 g.ranks.length ∧ (stepPeers g i w).2.2.1 = false := by
  simp only [stepPeers, swPsh_eq, swPm_eq, h, if_true]
  exact ⟨rfl, trivial⟩

theorem stepPeers_exclusive {g : Grp} {i : Instance_} {w : Word} (h : w.getLsbD 59 = false) :
    (stepPeers g i w).1 = g.me ^^^ peerValue i w ∧ (stepPeers g i w).2.1 = g.me ^^^ peerValue i w ∧
      (stepPeers g i w).2.2.1 = decide (max 1 g.ranks.length ≤ g.me ^^^ peerValue i w) := by
  simp only [stepPeers, swPsh_eq, swPm_eq, h, Bool.false_eq_true, if_false]
  exact ⟨rfl, rfl, rfl⟩

/-- The peer that a data step sends to. -/
def forwardPeer (g : Grp) (i : Instance_) (w : Word) : Nat :=
  if w.getLsbD 59 then (g.me + peerValue i w) % max 1 g.ranks.length else g.me ^^^ peerValue i w

theorem forwardPeer_exclusive {g : Grp} {i : Instance_} {w : Word} (h : w.getLsbD 59 = false) : forwardPeer g i w = g.me ^^^ peerValue i w := by
  rw [forwardPeer, h, if_neg Bool.false_ne_true]

theorem forwardPeer_eq (g : Grp) (i : Instance_) (w : Word) : (stepPeers g i w).1 = forwardPeer g i w := by
  rw [forwardPeer]
  cases h : w.getLsbD 59
  · exact (stepPeers_exclusive h).1
  · exact (stepPeers_relative h).1

/-- A step that does not leave its peer out. -/
theorem stepPeers_kept {g : Grp} {i : Instance_} {w : Word} (h : w.getLsbD 59 = true ∨ forwardPeer g i w < max 1 g.ranks.length) :
    (stepPeers g i w).2.2.1 = false := by
  cases hpm : w.getLsbD 59
  · rw [(stepPeers_exclusive hpm).2.2, decide_eq_false_iff_not, Nat.not_le, ← forwardPeer_exclusive hpm]
    exact h.resolve_left (hpm ▸ Bool.false_ne_true)
  · exact (stepPeers_relative hpm).2

theorem stepPeers_skip {g : Grp} {i : Instance_} {w : Word} (hpm : w.getLsbD 59 = false) (h : max 1 g.ranks.length ≤ forwardPeer g i w) :
    (stepPeers g i w).2.2.1 = true := by
  rw [(stepPeers_exclusive hpm).2.2, decide_eq_true_iff, ← forwardPeer_exclusive hpm]
  exact h

/-- Without PM a step receives from the peer it sends to. -/
theorem stepPeers_inverse {g : Grp} {i : Instance_} {w : Word} (hpm : w.getLsbD 59 = false) : (stepPeers g i w).2.1 = forwardPeer g i w := by
  rw [(stepPeers_exclusive hpm).2.1, forwardPeer_exclusive hpm]

theorem bit_of_getLsbD {w : Word} {i : Nat} {y : Bool} (h : w.getLsbD i = y) : (bits w i 1 == 1) = y := (bits_one_beq w i).trans h

/-- R350 to R370: the grants of a COLL. -/
theorem collectiveGrants : Stmt.CollectiveGrants := by
  refine ⟨fun s q c r hwf h hn hq hb hk => ⟨fun i hi => (fcpGrant_head hn hq).trans (grantHead_instance (s := granted s q) hb hk hi), fun hi => ?_⟩,
    fun s q n c r i b _ _ _ ha hlt hr => grantColl_runs ha hlt hr,
    fun s q c r i hwf h hq => ⟨endGrant_kept s q c i, ?_, fun e hv => failColl_leaves hwf h hq i e hv⟩, fun q w b hbad => ?_⟩
  · refine ⟨fun h6 => ?_, fun h6 h4 => ?_, fun h6 h4 hv => ?_, fun e n hc ha => coll_refused hwf h hn hq hb hk hi hc ha,
      fun v prog hc hvwf hvq _ => coll_starts hn hq hb hk hi hc hvwf hvq⟩
    · exact coll_refused hwf h hn hq hb hk hi (collCheck_badCmd h6) rfl
    · exact coll_refused hwf h hn hq hb hk hi (collCheck_badGroup (s := granted s q) h6 h4) rfl
    · exact coll_refused hwf h hn hq hb hk hi (collCheck_viol (s := granted s q) h6 h4 hv) rfl
  · rw [endGrant_done]
    have hdone := completeCmd_completed hwf h hq 0 i.ovf 0
    rwa [Nat.zero_add, Nat.zero_mul, Nat.add_zero] at hdone
  · intro sw g n op lv v fwd onto counted
    have hop : swOp sw = op := swOp_eq sw
    have hfwd : (stepPeers g b.i sw).1 = fwd := forwardPeer_eq g b.i sw
    have hcount : loopCount n sw = match sw.toNat / 2 ^ 58 % 4 with | 0 => sw.toNat % 65536 | 1 => n - sw.toNat % 65536 | _ => Nat.clog 2 n :=
      loopCount_eq n sw
    refine ⟨fun y hy => ⟨fun h => ?_, fun h hD => ?_⟩, fun h hD => ?_, fun h => ⟨fun hk => ?_, fun hk => ?_⟩, fun h l ls hl => ?_,
      fun h1 h4 hpm hle => ?_, fun h hkept => ⟨fun hout => ?_, fun hout snt fre hs hf hfull => ?_⟩, fun h hpm hlt hinn arr con ha hc hnone => ?_⟩
    · exact microStep_end hbad rfl rfl (hop.trans h) hy
    · exact microStep_drain hbad rfl rfl (hop.trans h) (beq_iff_eq.mp (bit_of_getLsbD hD)) hy
    · exact microStep_wait hbad rfl rfl (hop.trans h) (beq_eq_false_iff_ne.mp (bit_of_getLsbD hD))
    · exact (microStep_loop hbad rfl rfl (hop.trans h)).trans (if_pos (hcount.trans hk))
    · refine (microStep_loop hbad rfl rfl (hop.trans h)).trans ((if_neg (hcount.trans_ne hk)).trans ?_)
      rw [hcount]
      rfl
    · exact microStep_endl hbad rfl (hop.trans h) hl
    · exact microStep_skip hbad rfl rfl (h1.trans_eq hop.symm) (hop.trans_le h4) (stepPeers_skip hpm hle)
    · refine microStep_sent hbad rfl rfl (hop.trans h) ?_
      rw [swZ_eq]
      exact hout
    · refine microStep_full hbad rfl rfl (hop.trans h) (stepPeers_kept hkept) ?_ (hfwd ▸ hs) (hfwd ▸ hf) hfull
      rw [swZ_eq]
      exact hout
    · have hinv : (stepPeers g b.i sw).2.1 = fwd := stepPeers_inverse hpm
      exact microStep_empty hbad rfl rfl (hop.trans h) (stepPeers_kept (.inr hlt)) hinn (hinv ▸ ha) (hinv ▸ hc) hnone

/-- Settles O45: the host's writes and boot, and the grants of NOP, WAIT, LAUNCH and COLL, each from the equation of its grant. -/
theorem hostAndGrants : Obligations.HostAndGrants := ⟨hostInterface, commandGrants, launchGrants, collectiveGrants⟩

end Sys2Proof.Machine
end

section
/-! PROOFS. Frames delivered (R304 to R306): a window's slot that its table lists twice is not free when the window completes. -/

namespace Sys2Proof.Machine

open Sys2Proof.Stmt

/-- A window of one frame whose only contributor, rank 5, has merged. -/
def fullWindow : Window where
  desc := 1
  members := [5]
  status := 0
  active := true
  waiting := []
  parts := [(0, [])]
  merged := [(0, [5])]
  late := 0
  ovf := false
  ctx := 0
  core := 0
  opNum := 0
  aborter := none

/-- A port whose window table lists slot 0 twice, while a job holds the lane of core 0's windows. -/
def twiceListed : State :=
  { State.reset with
    port := { Port.reset with windows := [(0, some fullWindow), (0, some fullWindow)] }
    cp := { State.reset.cp with jobs := [{ lane := 1, ctx := 0, unit := 4, q := 0, op := .complete 0 1 }] } }

theorem fullWindow_full : windowFull fullWindow = true := by decide

theorem twiceListed_busy : (twiceListed.cp.jobs.any fun x => x.lane == 2 * fullWindow.core + 1) = true := by decide

/-- In a canonical table the slot is free, which is what the clause says; the table of a state may be any list. -/
theorem windowAt_endSlot_of_rising {s : State} (h : risesFrom none s.port.windows) (i : Nat) (w : Window) :
    windowAt (endSlot s i w) i = none := mget_mput_same none i none h

theorem twiceListed_stays : windowAt (completeWindow twiceListed 0 fullWindow) 0 = some fullWindow := by decide

/-- Refutes O49: nothing in the statement keeps the window table in its canonical form. Where it lists a slot twice, the completed window's
entry goes and the other is then the slot's: the slot is not free. -/
theorem not_framesDelivered : ¬Obligations.FramesDelivered := by
  rintro ⟨-, -, -, hcomplete, -⟩
  obtain ⟨v, -, hv, -, hfree, -⟩ := hcomplete twiceListed 0 fullWindow fullWindow_full twiceListed_busy
  rw [← hv, twiceListed_stays] at hfree
  exact Option.some_ne_none _ hfree

end Sys2Proof.Machine
end

section
/-! PROOFS. Vector arithmetic on fp32 and bf16 (R53, R54, R139, R143), and the elements of vector registers as numbers. -/

namespace Sys2Proof.Machine

open Sys2Proof.Stmt

/-! ### Elements as numbers (R50, R113) -/

theorem elem_lt (w : Nat) (x : VWord) (e : Nat) : elem w x e < 2 ^ w := Nat.mod_lt _ (Nat.two_pow_pos w)

@[simp] theorem elem_mod (w : Nat) (x : VWord) (e : Nat) : elem w x e % 2 ^ w = elem w x e := Nat.mod_mod _ _

/-- An image has zeros above the elements that it is built from. -/
theorem elem_fromElems_above {w : Nat} {xs : List Nat} {e : Nat} (hlen : xs.length ≤ e) (h : w * (e + 1) ≤ 2048) :
    elem w (fromElems w xs) e = 0 := by
  rw [elem_fromElems w xs e h, List.getD_eq_default _ _ hlen, Nat.zero_mod]

theorem bits_pos (t : ElTy) : 0 < t.bits := by cases t <;> decide

/-- The two readings of the low n bits in two's complement. -/
theorem sextNat_eq_bmod {n : Nat} (hn : 0 < n) (x : Nat) : sextNat n x = Int.bmod x (2 ^ n) := by
  obtain ⟨k, rfl⟩ := Nat.exists_eq_succ_of_ne_zero hn.ne'
  have hpow : 2 ^ (k + 1) = 2 * 2 ^ k := Nat.pow_succ'
  have hmod : ((x : Int) % ((2 ^ (k + 1) : Nat) : Int)) = ((x % 2 ^ (k + 1) : Nat) : Int) := by norm_cast
  simp only [sextNat, Nat.succ_eq_add_one, Nat.add_sub_cancel, Nat.succ_ne_zero, if_false, Int.bmod, hmod]
  norm_cast
  rw [hpow]
  by_cases hlow : x % (2 * 2 ^ k) < 2 ^ k
  · rw [if_pos hlow, if_pos (by omega)]
  · rw [if_neg hlow, if_neg (by omega)]

/-- A pattern of type t as an integer, in the model and in the statements. -/
theorem intElem_eq_numOf {t : ElTy} {x : Nat} (hx : x < 2 ^ t.bits) : intElem t x = numOf t x := by
  unfold intElem numOf
  split
  · exact sextNat_eq_bmod (bits_pos t) x
  · rw [Nat.mod_eq_of_lt hx]

theorem intElem_elem (c : Core) (t : ElTy) (v : Fin 32) (e : Nat) : intElem t (elem t.bits (readV c v) e) = num c t v e :=
  intElem_eq_numOf (elem_lt _ _ _)

theorem wrapT_eq_patOf (t : ElTy) (z : Int) : wrapT t z = Stmt.patOf t false z := rfl

theorem intRes_eq_patOf (t : ElTy) (sat : Bool) (z : Int) : intRes t sat z = (Stmt.patOf t sat z, 0) := by
  cases sat <;> rfl

/-! ### Lane-wise instructions -/

/-- A lane-wise instruction computes what its element function says, where the statement's is the same function. -/
theorem lanes_of_eq {i : Instr} {rg rv : List Nat} {d : Fin 32} {p l : Nat} (t : ElTy) {g : Core → Nat → Nat × BitVec 5}
    (f : Core → Nat → FRes) (he : ∀ s, exec i s = laneOp s i t d p l f) (hf : ∀ c e, f c e = g c e := by exact fun _ _ => rfl)
    (hg : (uses i).rg = rg := by rfl) (hw : (uses i).wg = [] := by rfl) (hv : (uses i).rv = rv := by rfl)
    (hk : (uses i).rk = [] := by rfl) : Lanes i rg rv d p l t.bits g :=
  lanes_of t f he hg hw hv hk fun c e _ => by rw [hf c e]; exact ⟨rfl, rfl⟩

/-! ### Floating-point elements -/

theorem negIf_false (x : FVal) : FVal.negIf false x = x := by cases x <;> simp [FVal.negIf]

section
variable (c : Core) {t : ElTy} (ht : t.isFp = true) (r : Rm) (sat : Bool) (x y : Nat)
include ht

theorem addElem_fp : addElem c t r sat false x y = fpOut c t ((fmtOf t).add (rounding c r) (fpIn c t x) (fpIn c t y)) := by
  rw [addElem, if_pos ht, negIf_false]
  rfl

theorem subElem_fp :
    addElem c t r sat true x y = fpOut c t ((fmtOf t).add (rounding c r) (fpIn c t x) (FVal.negIf true (fpIn c t y))) := if_pos ht

theorem mulElem_fp : mulElem c t r sat x y = fpOut c t ((fmtOf t).mul (rounding c r) (fpIn c t x) (fpIn c t y)) := if_pos ht

theorem minmaxElem_fp (mx : Bool) : minmaxElem c t mx x y = (fmtOf t).minmax mx (fpIn c t x) (fpIn c t y) := if_pos ht

/-- vabs clears the sign of a number and gives the canonical NaN for a NaN (R139). -/
theorem absElem_fp :
    (∀ sg, fpIn c t x = .nan sg → absElem c t sat x = ((fmtOf t).qnan, if sg then 16 else 0)) ∧
    (∀ n m k, fpIn c t x = .fin n m k → absElem c t sat x = ((fmtOf t).encode (.fin false m k), 0)) ∧
    (∀ n, fpIn c t x = .inf n → absElem c t sat x = ((fmtOf t).top, 0)) := by
  refine ⟨fun sg h => ?_, fun n m k h => ?_, fun n h => ?_⟩ <;>
    simp only [absElem, if_pos ht, show fin c t x = _ from h]
  · rfl
  · simp [Fmt.infRes]

end

theorem fmaElem_fp (c : Core) (t : ElTy) (r : Rm) (x y z : Nat) :
    fmaElem c t r false x y z = fpOut c t ((fmtOf t).fma (rounding c r) (fpIn c t x) (fpIn c t y) (fpIn c t z)) := by
  rw [fmaElem, negIf_false]
  rfl

/-- Settles O14: each instruction is `laneOp` of its element function, which on a floating-point type is one operation of the format. -/
theorem vectorFloatArithmetic : Obligations.VectorFloatArithmetic := by
  intro t d a b g p r sat ng ht
  exact ⟨
    lanes_of_eq t _ (fun _ => rfl) fun c _ => addElem_fp c ht r sat _ _, -- vadd
    lanes_of_eq t _ (fun _ => rfl) fun c _ => subElem_fp c ht r sat _ _, -- vsub
    lanes_of_eq t _ (fun _ => rfl) fun c _ => mulElem_fp c ht r sat _ _, -- vmul
    lanes_of_eq t _ fun _ => rfl, -- vfma
    lanes_of_eq t _ (fun _ => rfl) fun c _ => minmaxElem_fp c ht _ _ false, -- vmin
    lanes_of_eq t _ (fun _ => rfl) fun c _ => minmaxElem_fp c ht _ _ true, -- vmax
    ⟨_, lanes_of_eq t (fun c e => absElem c t sat (pat c t a e)) fun _ => rfl, fun c _ => absElem_fp c ht sat _⟩, -- vabs
    lanes_of_eq t _ (fun _ => rfl) fun c _ => addElem_fp c ht r false _ _, -- vadds
    lanes_of_eq t _ (fun _ => rfl) fun c _ => mulElem_fp c ht r false _ _, -- vmuls
    lanes_of_eq t _ (fun _ => rfl) fun c _ => fmaElem_fp c t r _ _ _, -- vfmas
    lanes_of_eq t _ fun _ => rfl, -- vdiv
    lanes_of_eq t _ fun _ => rfl, -- vsqrt
    lanes_of_eq .fp32 _ fun _ => rfl, -- vrcp
    lanes_of_eq .fp32 _ fun _ => rfl, -- vrsq
    lanes_of_eq .fp32 _ fun _ => rfl, -- vexp2
    lanes_of_eq .fp32 _ fun _ => rfl⟩ -- vlog2

end Sys2Proof.Machine
end

section
/-! PROOFS. Vector conversions and moves (R52, R144 to R148). -/

namespace Sys2Proof.Machine

open Sys2Proof.Stmt

/-! ### Conversions between element types (R144, R145) -/

/-- What vcvt gives destination element e: its source element converted, or what vd held. -/
def cvtElem (c : Core) (t u : ElTy) (d a : Fin 32) (r : Rm) (h : Bool) (e : Nat) : FRes :=
  match cvtSrc t u h e with
  | some x => convElem c t u r (pat c u a x)
  | none => (pat c t d e, 0)

section
variable (c : Core) {t u : ElTy} (d a : Fin 32) (r : Rm) (h : Bool) {e : Nat}

theorem cvtElem_of_eq (hn : t.count = u.count) : cvtElem c t u d a r h e = convElem c t u r (pat c u a e) := by
  rw [cvtElem, show cvtSrc t u h e = some e by simp [cvtSrc, hn]]

theorem cvtElem_of_lt (hn : t.count < u.count) : cvtElem c t u d a r h e = convElem c t u r (pat c u a (h.toNat * t.count + e)) := by
  rw [cvtElem, show cvtSrc t u h e = some (h.toNat * t.count + e) by simp [cvtSrc, hn, hn.le]]

theorem cvtElem_of_gt_inside (hn : u.count < t.count) (he : h.toNat * u.count ≤ e ∧ e < h.toNat * u.count + u.count) :
    cvtElem c t u d a r h e = convElem c t u r (pat c u a (e - h.toNat * u.count)) := by
  rw [cvtElem, show cvtSrc t u h e = some (e - h.toNat * u.count) by simp [cvtSrc, Nat.not_le.mpr hn, he]]

theorem cvtElem_of_gt_outside (hn : u.count < t.count) (he : ¬(h.toNat * u.count ≤ e ∧ e < h.toNat * u.count + u.count)) :
    cvtElem c t u d a r h e = (pat c t d e, 0) := by
  rw [cvtElem, show cvtSrc t u h e = none by rw [cvtSrc, if_neg (Nat.not_le.mpr hn), if_neg he]]

end

theorem toNat_eq_ite (h : Bool) : h.toNat = if h = true then 1 else 0 := by cases h <;> rfl

/-- What vcvt8 gives byte e when it writes quarter q. -/
def cvt8Byte (c : Core) (d a : Fin 32) (q : Fin 4) (r : Rm) (f5 : Bool) (e : Nat) : FRes :=
  if 64 * q.val ≤ e ∧ e < 64 * q.val + 64 then
    (if f5 then e5m2 else e4m3).conv (rounding c r) (fp8sat c) (fp32.decode (elem 32 (readV c a) (e - 64 * q)))
  else (elem 8 (readV c d) e, 0)

/-- What it gives fp32 element e when it reads quarter q. -/
def cvt8Word (c : Core) (a : Fin 32) (q : Fin 4) (f5 : Bool) (e : Nat) : FRes :=
  let v := (if f5 then e5m2 else e4m3).decode (elem 8 (readV c a) (64 * q + e))
  if v.isNan then fp32.nanRes v.sig else (fp32.encode v, 0)

/-! ### Imported blocks (R65, R146) -/

/-- An imported block has a mantissa for each element. -/
theorem length_importBlock_mant (xs : List Nat) : (importBlock xs).mant.length = xs.length := by
  simp only [importBlock]
  split
  · simp
  · split <;> simp

theorem length_bxiBlock_mant (c : Core) (a b : Nat) : (bxiBlock c a b).mant.length = 64 := by simp [bxiBlock, length_importBlock_mant]

/-- Mantissa j of block b stands at place 64 b + j of the two blocks' mantissas. -/
theorem getD_two_blocks (c : Core) (a : Nat) {b j : Nat} (hb : b < 2) (hj : j < 64) :
    (((bxiBlock c a 0).mant ++ (bxiBlock c a 1).mant).map (wrapT .i16)).getD (64 * b + j) 0 = wrapT .i16 ((bxiBlock c a b).mant.getD j 0) := by
  have hlen := length_bxiBlock_mant c a
  obtain rfl | rfl : b = 0 ∨ b = 1 := by omega
  · simp [List.getElem?_append, hlen, hj]
  · simp [List.getElem?_append, hlen, hj]

/-- Wrapping to 16 bits keeps the value in two's complement. -/
theorem bmod_wrapT_i16 (z : Int) : Int.bmod ((wrapT .i16 z % 2 ^ 16 : Nat) : Int) (2 ^ 16) = Int.bmod z (2 ^ 16) := by
  have hw : ((wrapT .i16 z % 2 ^ 16 : Nat) : Int) = z % (2 ^ 16 : Nat) := by
    simp only [wrapT, ElTy.bits]
    omega
  rw [hw, Int.emod_bmod]

/-- What vbxi writes: mantissa j of block b in 16-bit element 64 b + j. -/
theorem elem_bxi_mantissas (c : Core) (a : Nat) {b j : Nat} (hb : b < 2) (hj : j < 64) :
    Int.bmod (elem 16 (fromElems 16 (((bxiBlock c a 0).mant ++ (bxiBlock c a 1).mant).map (wrapT .i16))) (64 * b + j)) (2 ^ 16) =
      Int.bmod ((bxiBlock c a b).mant.getD j 0) (2 ^ 16) := by
  rw [elem_fromElems _ _ _ (by omega), getD_two_blocks c a hb hj]
  exact bmod_wrapT_i16 _

/-! ### Integer widths (R147) -/

/-- The half-width type of the same signedness is the one that `halfOf` names, as the table of types shows. -/
theorem eq_halfOf {t u : ElTy} (ht : t.isFp = false) (hw : u.bits * 2 = t.bits) (hs : u.isSigned = t.isSigned) (hu : u.isFp = false) :
    u = halfOf t := by
  cases t <;> cases u <;> simp [ElTy.isFp, ElTy.bits, ElTy.isSigned, halfOf] at *

/-- vpack reads the source elements of both operands in turn (R147). -/
theorem vpack_lanes (t : ElTy) (d a b : Fin 32) (p : Fin 8) (tr : Bool) :
    Lanes (.vpack t d a b p tr) [] (a.val :: b.val :: merged p d) d p 3 t.bits (fun c e =>
      (Stmt.patOf t (!tr) (if e < 2048 / (packSrc t).bits then num c (packSrc t) a e
        else num c (packSrc t) b (e - 2048 / (packSrc t).bits)), 0)) := by
  refine lanes_of_eq t _ (fun _ => rfl) fun c e => ?_
  rw [intRes_eq_patOf, count_eq, apply_ite (intElem _)]
  simp only [el, intElem_elem]

/-- vunpack widens the elements of one half of its operand (R147). -/
theorem vunpack_lanes (t : ElTy) (d a : Fin 32) (p : Fin 8) (h : Bool) :
    Lanes (.vunpack t d a p h) [] (a.val :: merged p d) d p 3 t.bits (fun c e =>
      (Stmt.patOf t false (num c (halfOf t) a ((if h then 1 else 0) * (2048 / t.bits) + e)), 0)) := by
  refine lanes_of_eq t _ (fun _ => rfl) fun c e => ?_
  rw [wrapT_eq_patOf, el, intElem_elem, count_eq, toNat_eq_ite]

/-- R144 to R147: the conversions, instruction by instruction. -/
theorem vectorConversions : Stmt.VectorConversions := by
  refine ⟨fun t u d a p r h => ?vcvt, fun d a q p r f5 => ⟨?vcvt8_write, ?vcvt8_read⟩, fun d a => ?vbxi,
    fun t d a b p tr _ _ => vpack_lanes t d a b p tr, fun t u d a p h _ ht hw hs hu => ?vunpack⟩
  case vcvt =>
    refine ⟨fun c e => cvtElem c t u d a r h e, lanes_of_eq t _ fun _ => rfl, fun c e => ?_⟩
    simp only [← count_eq, ← toNat_eq_ite]
    exact ⟨cvtElem_of_eq c d a r h, cvtElem_of_lt c d a r h,
      fun hn => ⟨cvtElem_of_gt_inside c d a r h hn, cvtElem_of_gt_outside c d a r h hn⟩⟩
  case vcvt8_write =>
    exact ⟨fun c e => cvt8Byte c d a q r f5 e, lanes_of_eq .n8 _ fun _ => rfl, fun _ _ => ⟨fun he => if_pos he, fun he => if_neg he⟩⟩
  case vcvt8_read =>
    refine ⟨fun c e => cvt8Word c a q f5 e, lanes_of_eq .fp32 _ fun _ => rfl,
      fun _ _ => ⟨fun hv => if_neg ?_, fun hv => congrArg Prod.fst (if_pos hv)⟩⟩
    exact Bool.eq_false_iff.mp hv
  case vbxi =>
    exact ⟨_, _, whole_of _ (fun _ => rfl) rfl rfl rfl rfl, whole_of _ (fun _ => rfl) rfl rfl rfl rfl, fun c => ⟨rfl, rfl,
      fun b hb j hj => elem_bxi_mantissas c a hb hj, elem_fromElems 8 _ 0 (by decide), elem_fromElems 8 _ 1 (by decide),
      fun e h2 h256 => elem_fromElems_above h2 (by omega)⟩⟩
  case vunpack =>
    obtain rfl := eq_halfOf ht hw hs hu
    exact vunpack_lanes t d a p h

/-! ### Moves (R148) -/

/-- An immediate as an element: on a floating-point type rounded to nearest, else wrapped. -/
theorem immElem_eq (t : ElTy) (i : BitVec 8) : immElem t i =
    if t.isFp then ((fmtOf t).round .rne (i.toInt < 0) i.toInt.natAbs 0).1 else Stmt.patOf t false i.toInt := rfl

/-- vext writes its element, extended, to a scalar register. -/
theorem vext_lands (t : ElTy) (g : Fin 64) (a x : Fin 32) (y : Fin 8) {s : State} (h : CanIssue (curCore s) [] [g.val] [a.val] [] 0) :
    ∃ t', exec (.vext t g a x y) s = .next t' ∧
      Lands s t' [] (destG (curCore s) g) (.s (BitVec.ofInt 64 (num (curCore s) t a (32 * y.val + x.val)))) 3 0 := by
  have he : exec (.vext t g a x y) s = scalarOp s slotVA (.vext t g a x y) g 3 fun c => extWord t (el c t a (32 * y + x)) := rfl
  refine ⟨_, he.trans (issue_ok h slotVA _ noTests _ rfl rfl rfl rfl rfl rfl rfl rfl (Nat.le_refl 0)), ?_⟩
  rw [← intElem_elem]
  exact lands_of_push s _ [] rfl _ _ _ _ _ rfl

theorem vectorMoves : Stmt.VectorMoves := by
  intro t d a b g p n
  simp only [← count_eq]
  exact ⟨
    lanes_of_eq t _ fun _ => rfl, -- vperm
    lanes_of_eq t _ fun _ => rfl, -- vrot
    lanes_of_eq t _ fun _ => rfl, -- vrot with zeros shifted in
    lanes_of_eq t _ fun _ => rfl, -- vbcast
    lanes_of_eq t _ (fun _ => rfl) fun _ _ => by rw [immElem_eq], -- vmovi
    fun x y _ h => vext_lands t g a x y h⟩

/-- Settles O15: conversions by the element that each destination element comes from, moves by their element functions. -/
theorem vectorConversionsAndMoves : Obligations.VectorConversionsAndMoves := ⟨vectorConversions, vectorMoves⟩

end Sys2Proof.Machine
end

section
/-! PROOFS. Vector comparisons, reductions and scans (R62, R63, R140, R149, R150). -/

namespace Sys2Proof.Machine

open Sys2Proof.Stmt

/-! ### vcmp (R140) -/

/-- One lane's step of vcmp: where the predicate governs, the lane's bit is put in and its flags are added. -/
def putLane (f : Nat → Bool × BitVec 5) (pr : Word) (acc : Word × BitVec 5) (i : Nat) : Word × BitVec 5 :=
  if pr.getLsbD i then
    (if (f i).1 then acc.1 ||| ((1 : Word) <<< i) else acc.1 &&& ~~~((1 : Word) <<< i), acc.2 ||| (f i).2)
  else acc

theorem cmpImage_eq_foldl (c : Core) (t : ElTy) (k : Cond) (x y : VWord) (pr old : Word) :
    cmpImage c t k x y pr old = (List.range 64).foldl (putLane (cmpLane c t k x y) pr) (old, 0) := rfl

theorem getLsbD_one_shiftLeft (i j : Nat) (hj : j < 64) : ((1 : Word) <<< i).getLsbD j = decide (i = j) := by
  show ((1#64) <<< i).getLsbD j = _
  rw [BitVec.getLsbD_shiftLeft, BitVec.getLsbD_one, Bool.eq_iff_iff]
  simp only [Bool.and_eq_true, Bool.not_eq_true', decide_eq_true_iff, decide_eq_false_iff_not]
  omega

/-- A lane's step changes the bit of that lane alone. -/
theorem getLsbD_putLane (f : Nat → Bool × BitVec 5) (pr : Word) (acc : Word × BitVec 5) (i j : Nat) (hj : j < 64) :
    (putLane f pr acc i).1.getLsbD j = if i = j ∧ pr.getLsbD i then (f i).1 else acc.1.getLsbD j := by
  unfold putLane
  by_cases hp : pr.getLsbD i = true
  · have hput : (if (f i).1 then acc.1 ||| ((1 : Word) <<< i) else acc.1 &&& ~~~((1 : Word) <<< i)).getLsbD j =
        if i = j then (f i).1 else acc.1.getLsbD j := by
      cases (f i).1
      · rw [if_neg (by decide), BitVec.getLsbD_and, BitVec.getLsbD_not, getLsbD_one_shiftLeft i j hj]
        by_cases hij : i = j <;>
          simp only [hij, hj, decide_true, decide_false, Bool.not_true, Bool.not_false, Bool.and_true, Bool.and_false, if_true, if_false]
      · rw [if_pos rfl, BitVec.getLsbD_or, getLsbD_one_shiftLeft i j hj]
        by_cases hij : i = j <;> simp only [hij, decide_true, decide_false, Bool.or_true, Bool.or_false, if_true, if_false]
    simp only [hp, if_true, and_true, hput]
  · rw [if_neg hp, if_neg (fun h => hp h.2)]

/-- After the first n lanes, their governed bits are those of the lanes and the others are the old ones. -/
theorem getLsbD_foldl_putLane (f : Nat → Bool × BitVec 5) (pr old : Word) (n j : Nat) (hj : j < 64) :
    ((List.range n).foldl (putLane f pr) (old, 0)).1.getLsbD j = if j < n ∧ pr.getLsbD j then (f j).1 else old.getLsbD j := by
  induction n with
  | zero => simp
  | succ n ih =>
    rw [List.range_succ, List.foldl_append, List.foldl_cons, List.foldl_nil, getLsbD_putLane _ _ _ _ _ hj, ih]
    by_cases hnj : n = j
    · subst hnj
      by_cases hp : pr.getLsbD n = true <;> simp [hp]
    · have hlt : j < n + 1 ↔ j < n := by omega
      simp only [hnj, false_and, if_false, hlt]

/-- Lanes without flags leave the flags as they were. -/
theorem foldl_putLane_flags {f : Nat → Bool × BitVec 5} (hf : ∀ i, (f i).2 = 0) (pr : Word) (l : List Nat) (acc : Word × BitVec 5) :
    (l.foldl (putLane f pr) acc).2 = acc.2 := by
  induction l generalizing acc with
  | nil => rfl
  | cons i l ih =>
    rw [List.foldl_cons, ih, putLane]
    split
    · simp [hf i]
    · rfl

/-- The AND and the OR of a list of outcomes. -/
theorem foldl_and_or (g : Nat → Bool × BitVec 5) (l : List Nat) (b : Bool) (fl : BitVec 5) :
    (l.foldl (fun acc j => (acc.1 && (g j).1, acc.2 ||| (g j).2)) (b, fl)).1 = (b && l.all fun j => (g j).1) ∧
      ((∀ j, (g j).2 = 0) → (l.foldl (fun acc j => (acc.1 && (g j).1, acc.2 ||| (g j).2)) (b, fl)).2 = fl) := by
  induction l generalizing b fl with
  | nil => simp
  | cons j l ih =>
    rw [List.foldl_cons, List.all_cons, ← Bool.and_assoc]
    refine ⟨(ih _ _).1, fun h => ?_⟩
    rw [(ih _ _).2 h, h j]
    simp

/-- A lane's bit is the AND of the comparison over its elements. -/
theorem cmpLane_fst (c : Core) (t : ElTy) (k : Cond) (x y : VWord) (i : Nat) : (cmpLane c t k x y i).1 =
    (List.range (t.count / 64)).all fun j => (cmpElem c t k (elem t.bits x (i + 64 * j)) (elem t.bits y (i + 64 * j))).1 :=
  (foldl_and_or _ _ true 0).1.trans (Bool.true_and _)

/-- A comparison of integers raises no flag (R140). -/
theorem cmpElem_int_flags (c : Core) {t : ElTy} (ht : t.isFp = false) (k : Cond) (x y : Nat) : (cmpElem c t k x y).2 = 0 := by
  simp only [cmpElem, ht, Bool.false_eq_true, if_false]
  cases k <;> rfl

theorem cmpImage_int_flags (c : Core) {t : ElTy} (ht : t.isFp = false) (k : Cond) (x y : VWord) (pr old : Word) :
    (cmpImage c t k x y pr old).2 = 0 :=
  foldl_putLane_flags (fun _ => (foldl_and_or _ _ true 0).2 fun _ => cmpElem_int_flags c ht k _ _) pr _ _

/-- vcmp leaves its predicate and flags in flight. -/
theorem vcmp_lands (k : Cond) (t : ElTy) (d p : Fin 8) (a b : Fin 32) {s : State} (h : CanIssue (curCore s) [] [] [a.val, b.val] [] 0) :
    let r := cmpImage (curCore s) t k (readV (curCore s) a) (readV (curCore s) b) (readP (curCore s) p) (readP (curCore s) d)
    ∃ t', exec (.vcmp k t d a b p) s = .next t' ∧ Lands s t' [] (destP d) (.s r.1) 2 r.2 := by
  intro r
  have he : exec (.vcmp k t d a b p) s = execVcmp k t d a b p s := rfl
  exact ⟨_, he.trans (issue_ok h slotVA _ noTests _ rfl rfl rfl rfl rfl rfl rfl rfl (Nat.le_refl 0)), lands_of_push s _ [] rfl _ _ _ _ _ rfl⟩

theorem vectorComparisons : Stmt.VectorComparisons := by
  intro k t d p a b s h c
  obtain ⟨t', hexec, hlands⟩ := vcmp_lands k t d p a b h
  refine ⟨t', _, _, hexec, hlands, fun i hi => ?_, fun ht => ⟨cmpImage_int_flags _ ht .., fun x y hx hy => ?_⟩⟩
  · rw [cmpImage_eq_foldl, getLsbD_foldl_putLane _ _ _ _ _ hi, cmpLane_fst, count_eq]
    simp only [hi, true_and]
    rfl
  · simp only [cmpElem, ht, Bool.false_eq_true, if_false, ← intElem_eq_numOf hx, ← intElem_eq_numOf hy]
    cases k <;> simp

/-! ### vred and vscan (R62, R63, R149) -/

/-- The sum of the lanes below n that a predicate switches on. -/
def laneSum (pr : Word) (f : Nat → Nat) (n : Nat) : Nat := ∑ i ∈ Finset.range n, if pr.getLsbD i then f i else 0

theorem laneSum_eq_foldl (pr : Word) (f : Nat → Nat) (n : Nat) :
    ((List.range n).filter fun i => pr.getLsbD i).foldl (fun a i => a + f i) 0 = laneSum pr f n := by
  induction n with
  | zero => rfl
  | succ n ih =>
    rw [List.range_succ, List.filter_append, List.foldl_append, ih, laneSum, laneSum, Finset.sum_range_succ]
    by_cases h : pr.getLsbD n = true <;> simp [h]

/-- A sum of two unsigned 32-bit patterns is their sum modulo 2^32. -/
theorem redOp_add_n32 (c : Core) (r : Rm) (x y : Nat) : redOp c .n32 .add r false x y = ((x + y) % 2 ^ 32, 0) := by
  show intRes .n32 false (intElem .n32 x + intElem .n32 y) = _
  have hsum : wrapT .n32 (intElem .n32 x + intElem .n32 y) = (x + y) % 2 ^ 32 := by
    simp only [wrapT, intElem, ElTy.isSigned, ElTy.bits, Bool.false_eq_true, if_false]
    omega
  rw [← hsum]
  rfl

/-- Entry i of a list that a function fills. -/
theorem getD_map_range (g : Nat → FRes) {n i : Nat} (hi : i < n) : (((List.range n).map g).map Prod.fst).getD i 0 = (g i).1 := by
  simp [List.getD, hi]

/-- A lane that enters a sum of unsigned 32-bit elements: its element, or 0 where it is off. -/
def sumLane (pr : Word) (x : VWord) (i : Nat) : Nat := if pr.getLsbD i then elem 32 x i else 0

theorem laneSum_eq_sum (pr : Word) (x : VWord) (n : Nat) : laneSum pr (elem 32 x) n = ∑ i ∈ Finset.range n, sumLane pr x i := rfl

/-! #### The tree -/

section
variable (c : Core) (r : Rm) (pr : Word) (x : VWord)

theorem redLanes_add_n32 {i : Nat} (hi : i < 64) : (redLanes c .n32 .add r pr x).1.getD i 0 = sumLane pr x i := by
  rw [redLanes, getD_map_range _ hi]
  unfold sumLane
  split
  · show wrapT .n32 (intElem .n32 (elem 32 x i)) = _
    have := elem_lt 32 x i
    simp only [wrapT, intElem, ElTy.isSigned, ElTy.bits, Bool.false_eq_true, if_false]
    omega
  · rfl

/-- A halving step keeps the sum of the lanes modulo 2^32. -/
theorem treeStep_add_n32_sum (xs : List Nat × BitVec 5) (k : Nat) :
    (∑ i ∈ Finset.range k, (treeStep c .n32 .add r false xs k).1.getD i 0) ≡ ∑ i ∈ Finset.range (k + k), xs.1.getD i 0 [MOD 2 ^ 32] := by
  have hstep : ∀ i ∈ Finset.range k, (treeStep c .n32 .add r false xs k).1.getD i 0 = (xs.1.getD i 0 + xs.1.getD (k + i) 0) % 2 ^ 32 :=
    fun i hi => by rw [treeStep, getD_map_range _ (Finset.mem_range.mp hi), redOp_add_n32, Nat.add_comm i k]
  rw [Finset.sum_congr rfl hstep, Finset.sum_range_add, ← Finset.sum_add_distrib]
  exact (Finset.sum_nat_mod _ _ _).symm

/-- The tree's sum of unsigned 32-bit elements is that of the participating lanes modulo 2^32. -/
theorem redValue_add_n32 : (redValue c .n32 .add r false pr x).1 ≡ laneSum pr (elem 32 x) 64 [MOD 2 ^ 32] := by
  have hlanes : ∑ i ∈ Finset.range 64, (redLanes c .n32 .add r pr x).1.getD i 0 = laneSum pr (elem 32 x) 64 :=
    Finset.sum_congr rfl fun i hi => redLanes_add_n32 c r pr x (Finset.mem_range.mp hi)
  have hroot : (redValue c .n32 .add r false pr x).1 =
      ∑ i ∈ Finset.range 1, ([32, 16, 8, 4, 2, 1].foldl (treeStep c .n32 .add r false) (redLanes c .n32 .add r pr x)).1.getD i 0 :=
    by rw [Finset.sum_range_one]; rfl
  rw [hroot, ← hlanes]
  exact (treeStep_add_n32_sum c r _ 1).trans <| (treeStep_add_n32_sum c r _ 2).trans <| (treeStep_add_n32_sum c r _ 4).trans <|
    (treeStep_add_n32_sum c r _ 8).trans <| (treeStep_add_n32_sum c r _ 16).trans (treeStep_add_n32_sum c r _ 32)

/-! #### The scan -/

/-- After steps at the distances below d, lane i holds the sum of the last d lanes up to it, modulo 2^32. -/
def ScannedBy (d : Nat) (xs : List Nat × BitVec 5) : Prop :=
  ∀ i < 64, xs.1.getD i 0 + laneSum pr (elem 32 x) (i + 1 - d) ≡ laneSum pr (elem 32 x) (i + 1) [MOD 2 ^ 32]

theorem ScannedBy.step {pr : Word} {x : VWord} {d : Nat} {xs : List Nat × BitVec 5} (h : ScannedBy pr x d xs) :
    ScannedBy pr x (d + d) (scanStep c .n32 .add r false pr xs d) := by
  intro i hi
  rw [scanStep, getD_map_range _ hi]
  by_cases hd : d ≤ i
  · have hlow := h (i - d) (by omega)
    have hhigh := h i hi
    have h1 : i - d + 1 = i + 1 - d := by omega
    have h2 : i + 1 - d - d = i + 1 - (d + d) := by omega
    rw [h1, h2] at hlow
    rw [if_pos hd, redOp_add_n32]
    show (xs.1.getD (i - d) 0 + xs.1.getD i 0) % 2 ^ 32 + laneSum pr (elem 32 x) (i + 1 - (d + d)) ≡ laneSum pr (elem 32 x) (i + 1) [MOD 2 ^ 32]
    unfold Nat.ModEq at *
    omega
  · have hsame := h i hi
    rw [show i + 1 - d = 0 by omega] at hsame
    rw [if_neg hd, show i + 1 - (d + d) = 0 by omega]
    exact hsame

/-- A lane of unsigned elements as it enters a sum: its element, or the identity where it is off. -/
def scanLane (i : Nat) : FRes := if pr.getLsbD i then scanIn c .n32 (elem 32 x i) else (redId .n32 .add, 0)

/-- The lanes as they enter the scan, with their flags. -/
def scanStart : List Nat × BitVec 5 :=
  (((List.range 64).map (scanLane c pr x)).map Prod.fst, ((List.range 64).map (scanLane c pr x)).foldl (fun a q => a ||| q.2) 0)

theorem scanValue_eq_foldl :
    scanValue c .n32 .add r false pr x = [1, 2, 4, 8, 16, 32].foldl (scanStep c .n32 .add r false pr) (scanStart c pr x) := rfl

theorem scanLane_fst (i : Nat) : (scanLane c pr x i).1 = sumLane pr x i := by
  unfold scanLane sumLane
  split <;> rfl

theorem scannedBy_scanStart : ScannedBy pr x 1 (scanStart c pr x) := fun i hi => by
  rw [scanStart, getD_map_range _ hi, scanLane_fst, Nat.add_sub_cancel, laneSum_eq_sum, laneSum_eq_sum, Finset.sum_range_succ, Nat.add_comm]

/-- The scan's lane i holds the sum of the participating lanes up to it, modulo 2^32. -/
theorem scanValue_add_n32 {i : Nat} (hi : i < 64) :
    (scanValue c .n32 .add r false pr x).1.getD i 0 ≡ laneSum pr (elem 32 x) (i + 1) [MOD 2 ^ 32] := by
  have hend : ScannedBy pr x 64 (scanValue c .n32 .add r false pr x) :=
    scanValue_eq_foldl c r pr x ▸ ((((((scannedBy_scanStart c pr x).step c r).step c r).step c r).step c r).step c r).step c r
  have hlane := hend i hi
  rwa [show i + 1 - 64 = 0 by omega] at hlane

end

/-! ### The statements -/

/-- The participating lanes of vscan are the governed ones (R63, R138). -/
theorem active_iff_lane (c : Core) (p e : Nat) : active c p e ↔ lane (readP c p) e = true := by simp [active, lane, BitVec.testBit_toNat]

/-- The image that vscan writes. -/
def scanImage (c : Core) (t : ElTy) (o : RedOp) (d a : Fin 32) (p : Fin 8) (r : Rm) (sat : Bool) : VWord × BitVec 5 :=
  (fromElems 32 ((List.range 64).map fun i =>
    if lane (readP c p) i then (scanValue c t o r sat (readP c p) (readV c a)).1.getD i 0 else el c .i32 d i),
    (scanValue c t o r sat (readP c p) (readV c a)).2)

theorem elem_scanImage (c : Core) (t : ElTy) (o : RedOp) (d a : Fin 32) (p : Fin 8) (r : Rm) (sat : Bool) {e : Nat} (he : e < 64) :
    elem 32 (scanImage c t o d a p r sat).1 e =
      (if lane (readP c p) e then (scanValue c t o r sat (readP c p) (readV c a)).1.getD e 0 else elem 32 (readV c d) e) % 2 ^ 32 := by
  rw [scanImage, elem_fromElems _ _ _ (by omega)]
  simp [List.getD, he, el, ElTy.bits]

/-- A lane of vdot4 is the exact sum of its lane of vd and four products, wrapped or saturated (R150). -/
theorem dotElem_eq (c : Core) {t u : ElTy} (hu : u = if t.isSigned then .i32 else .n32) (ht : t.bits = 8) (sat : Bool) (a b d : Fin 32) (e : Nat) :
    dotElem t sat (readV c a) (readV c b) (pat c u d e) e =
      (Stmt.patOf u sat (num c u d e + num c t a e * num c t b e + num c t a (e + 64) * num c t b (e + 64) +
        num c t a (e + 128) * num c t b (e + 128) + num c t a (e + 192) * num c t b (e + 192)), 0) := by
  have hsum : (List.range 4).foldl (fun z k => z + intElem t (elem 8 (readV c a) (e + 64 * k)) * intElem t (elem 8 (readV c b) (e + 64 * k))) 0 =
      0 + num c t a e * num c t b e + num c t a (e + 64) * num c t b (e + 64) + num c t a (e + 128) * num c t b (e + 128) +
        num c t a (e + 192) * num c t b (e + 192) := by
    rw [← ht]
    simp only [intElem_elem]
    rfl
  rw [dotElem, hsum, ← hu, intRes_eq_patOf, pat, intElem_elem]
  congr 2
  ring

/-- R149, R150: the reductions, the scans and the dot products. -/
theorem vectorReductions : Stmt.VectorReductions := by
  refine ⟨fun t o d a p r sat => ⟨_, whole_of _ (fun _ => rfl) rfl rfl rfl rfl, fun c => ⟨?above, ?value, ?sum⟩⟩,
    fun t o d a p r sat => ⟨fun c => scanImage c t o d a p r sat, whole_of _ (fun _ => rfl) rfl rfl rfl rfl,
      fun c e he => ⟨?kept, ?scanned, ?scan_sum⟩⟩,
    fun t d a b p sat ht => ?vdot4⟩
  case above => exact fun e h1 h64 => elem_fromElems_above h1 (by omega)
  case value => exact elem_fromElems 32 _ 0 (by decide)
  case sum =>
    rintro rfl rfl rfl
    rw [laneSum_eq_foldl]
    exact (elem_fromElems 32 _ 0 (by decide)).trans (redValue_add_n32 c r _ _)
  case kept =>
    intro h
    rw [elem_scanImage c t o d a p r sat he, if_neg fun hl => h ((active_iff_lane c p e).mpr hl), elem_mod]
  case scanned =>
    intro h
    rw [elem_scanImage c t o d a p r sat he, if_pos ((active_iff_lane c p e).mp h)]
  case scan_sum =>
    rintro h rfl rfl rfl
    rw [laneSum_eq_foldl, elem_scanImage c _ _ d a p r _ he, if_pos ((active_iff_lane c p e).mp h)]
    exact scanValue_add_n32 c r _ _ he
  case vdot4 =>
    rcases ht with rfl | rfl <;> exact lanes_of_eq .i32 _ (fun _ => rfl) fun c e => dotElem_eq c rfl rfl sat a b d e

/-- Settles O16: vcmp puts in one bit for each governed lane; the tree and the scan keep the sums of the lanes modulo 2^32. -/
theorem vectorComparisonsAndReductions : Obligations.VectorComparisonsAndReductions := ⟨vectorComparisons, vectorReductions⟩

end Sys2Proof.Machine
end

section
/-! PROOFS. Rounding (R52, R53): what one rounding of an exact value to a multiple of a power of two gives in each mode, and that the
pattern of fp32 and bf16 stands for it. -/

namespace Sys2Proof.Machine

/-! ### Rounding to a multiple of 2^k -/

/-- q × 2^k is what the mode makes of the exact magnitude x of a number of sign `neg`: the nearest multiple of 2^k with ties to even, or
the next one on the side that the mode names. -/
def RoundsTo (r : Rm) (neg : Bool) (x : ℚ) (q : Nat) (k : Int) : Prop :=
  (r = .rne → |(q : ℚ) * (2 : ℚ) ^ k - x| ≤ (2 : ℚ) ^ k / 2 ∧ (|(q : ℚ) * (2 : ℚ) ^ k - x| = (2 : ℚ) ^ k / 2 → q % 2 = 0)) ∧
  (r = .rtz ∨ (r = .rup ∧ neg = true) ∨ (r = .rdn ∧ neg = false) →
    (q : ℚ) * (2 : ℚ) ^ k ≤ x ∧ x < ((q : ℚ) + 1) * (2 : ℚ) ^ k) ∧
  ((r = .rup ∧ neg = false) ∨ (r = .rdn ∧ neg = true) → ((q : ℚ) - 1) * (2 : ℚ) ^ k < x ∧ x ≤ (q : ℚ) * (2 : ℚ) ^ k)

theorem two_zpow_pos (k : Int) : (0 : ℚ) < 2 ^ k := zpow_pos (by norm_num) k

/-- An exact value needs no rounding. -/
theorem RoundsTo.of_exact (r : Rm) (neg : Bool) {x : ℚ} {q : Nat} {k : Int} (h : (q : ℚ) * (2 : ℚ) ^ k = x) : RoundsTo r neg x q k := by
  have hpos := two_zpow_pos k
  refine ⟨fun _ => ?_, fun _ => ?_, fun _ => ?_⟩
  · rw [h, sub_self, abs_zero]
    exact ⟨by linarith, fun h0 => absurd h0 (by linarith)⟩
  · exact ⟨h.le, by linarith⟩
  · exact ⟨by linarith, h.ge⟩

/-- A rounding up to an even multiple of 2^k is one to a multiple of 2^(k + 1) as well. -/
theorem RoundsTo.double {r : Rm} {neg : Bool} {x : ℚ} {q : Nat} {k : Int} (h : RoundsTo r neg x (2 * q) k)
    (hx : x < ((2 * q : Nat) : ℚ) * (2 : ℚ) ^ k) : RoundsTo r neg x q (k + 1) := by
  have hpos := two_zpow_pos k
  have hnext : (2 : ℚ) ^ (k + 1) = 2 * 2 ^ k := by rw [zpow_add_one₀ (by norm_num)]; ring
  have hsame : (q : ℚ) * (2 : ℚ) ^ (k + 1) = ((2 * q : Nat) : ℚ) * (2 : ℚ) ^ k := by rw [hnext]; push_cast; ring
  obtain ⟨hnear, hdown, hup⟩ := h
  refine ⟨fun hr => ?_, fun hr => absurd (hdown hr).1 (not_le.mpr hx), fun hr => ?_⟩
  · have hle := (hnear hr).1
    rw [hsame, hnext]
    exact ⟨by linarith, fun heq => absurd heq (by linarith)⟩
  · obtain ⟨hlow, hhigh⟩ := hup hr
    refine ⟨?_, hsame ▸ hhigh⟩
    rw [sub_mul, hsame, hnext]
    rw [sub_mul] at hlow
    linarith

/-- Nothing is rounded up when there is no remainder. -/
theorem roundUp_no_remainder (r : Rm) (neg : Bool) (n : Nat) {d : Nat} (hd : 0 < d) : roundUp r neg n 0 d = false := by
  cases r <;> simp [roundUp, hd.ne]

/-- Rounding to nearest looks at twice the remainder, and at the last place in a tie. -/
theorem roundUp_rne_iff (neg : Bool) (n j d : Nat) : roundUp .rne neg n (j * 2) d = true ↔ d < j * 2 ∨ (j * 2 = d ∧ n % 2 = 1) := by
  simp [roundUp]

/-- The distances of (d × n + j) × v from the multiples of 2^k = d × v around it. -/
theorem distances_to_multiples {n j d : Nat} {v : ℚ} {k : Int} (hk : (2 : ℚ) ^ k = d * v) :
    (n : ℚ) * (2 : ℚ) ^ k - (d * n + j : Nat) * v = -(j * v) ∧
      ((n + 1 : Nat) : ℚ) * (2 : ℚ) ^ k - (d * n + j : Nat) * v = d * v - j * v := by
  constructor <;> rw [hk] <;> push_cast <;> ring

/-- Rounding m / d, with m = d × n + j, to n or n + 1 by `roundUp`, in units of v = 2^k / d. -/
theorem roundUp_roundsTo (r : Rm) (neg : Bool) {n j d : Nat} {v : ℚ} {k : Int} (hv : 0 < v) (hj : j < d) (hk : (2 : ℚ) ^ k = d * v) :
    RoundsTo r neg ((d * n + j : Nat) * v) (if roundUp r neg n (j * 2) d then n + 1 else n) k := by
  obtain rfl | hj0 := Nat.eq_zero_or_pos j
  · rw [Nat.zero_mul, roundUp_no_remainder r neg n hj]
    exact .of_exact r neg (by rw [hk]; push_cast; ring)
  have hjd : (j : ℚ) * v < d * v := mul_lt_mul_of_pos_right (by exact_mod_cast hj) hv
  have hpos : 0 < (j : ℚ) * v := mul_pos (by exact_mod_cast hj0) hv
  obtain ⟨below, above⟩ := distances_to_multiples (n := n) (j := j) hk
  have stays : (n : ℚ) * (2 : ℚ) ^ k ≤ (d * n + j : Nat) * v ∧ (d * n + j : Nat) * v < ((n : ℚ) + 1) * (2 : ℚ) ^ k := by
    push_cast at above below ⊢
    exact ⟨by linarith, by linarith⟩
  have rises : (((n + 1 : Nat) : ℚ) - 1) * (2 : ℚ) ^ k < (d * n + j : Nat) * v ∧
      (d * n + j : Nat) * v ≤ ((n + 1 : Nat) : ℚ) * (2 : ℚ) ^ k := by
    push_cast at above below ⊢
    exact ⟨by linarith, by linarith⟩
  cases r with
  | rne =>
    have half : ∀ a b : Nat, a ≤ b → (a : ℚ) * v ≤ b * v := fun a b h => mul_le_mul_of_nonneg_right (by exact_mod_cast h) hv.le
    refine ⟨fun _ => ?_, by simp, by simp⟩
    by_cases hup : roundUp .rne neg n (j * 2) d = true
    · rw [if_pos hup, above, hk, abs_of_pos (by linarith)]
      rw [roundUp_rne_iff] at hup
      have hdj := half d (j * 2) (by omega)
      push_cast at hdj
      refine ⟨by linarith, fun heq => ?_⟩
      have htie : ((j * 2 : Nat) : ℚ) * v = d * v := by push_cast; linarith
      have := Nat.cast_inj.mp (mul_right_cancel₀ hv.ne' htie)
      omega
    · rw [if_neg hup, below, hk, abs_neg, abs_of_pos hpos]
      rw [roundUp_rne_iff] at hup
      have hdj := half (j * 2) d (by omega)
      push_cast at hdj
      refine ⟨by linarith, fun heq => ?_⟩
      have htie : ((j * 2 : Nat) : ℚ) * v = d * v := by push_cast; linarith
      have := Nat.cast_inj.mp (mul_right_cancel₀ hv.ne' htie)
      omega
  | rtz => exact ⟨by simp, fun _ => stays, by simp⟩
  | rup =>
    cases neg with
    | true => exact ⟨by simp, fun _ => stays, by simp⟩
    | false => exact ⟨by simp, by simp, fun _ => by simpa [roundUp, hj0.ne'] using rises⟩
  | rdn =>
    cases neg with
    | true => exact ⟨by simp, by simp, fun _ => by simpa [roundUp, hj0.ne'] using rises⟩
    | false => exact ⟨by simp, fun _ => stays, by simp⟩
  | dyn => exact ⟨by simp, by simp, by simp⟩

/-- A rounded multiple lies less than one unit away, and is exact only without a remainder. -/
theorem roundUp_distance (r : Rm) (neg : Bool) {n j d : Nat} {v : ℚ} {k : Int} (hv : 0 < v) (hj : j < d) (hk : (2 : ℚ) ^ k = d * v) :
    |((if roundUp r neg n (j * 2) d then n + 1 else n : Nat) : ℚ) * (2 : ℚ) ^ k - (d * n + j : Nat) * v| < (2 : ℚ) ^ k ∧
      (((if roundUp r neg n (j * 2) d then n + 1 else n : Nat) : ℚ) * (2 : ℚ) ^ k = (d * n + j : Nat) * v ↔ j = 0) := by
  obtain ⟨below, above⟩ := distances_to_multiples (n := n) (j := j) hk
  have hjd : (j : ℚ) * v < d * v := mul_lt_mul_of_pos_right (by exact_mod_cast hj) hv
  have hj0 : 0 ≤ (j : ℚ) * v := by positivity
  rw [← sub_eq_zero (b := ((d * n + j : Nat) : ℚ) * v)]
  by_cases hup : roundUp r neg n (j * 2) d = true
  · have hne : j ≠ 0 := by
      rintro rfl
      simp [roundUp_no_remainder r neg n hj] at hup
    have hpos : 0 < (j : ℚ) * v := mul_pos (by exact_mod_cast Nat.pos_of_ne_zero hne) hv
    rw [if_pos hup, above, hk, abs_of_pos (by linarith)]
    exact ⟨by linarith, fun h => by linarith, fun h => absurd h hne⟩
  · rw [if_neg hup, below, hk, abs_neg, abs_of_nonneg hj0, neg_eq_zero, mul_eq_zero, or_iff_left hv.ne', Nat.cast_eq_zero]
    exact ⟨hjd, Iff.rfl⟩

/-! ### `shiftRound` -/

/-- What `shiftRound` makes of m × 2^e as a multiple of 2^k: exact, or m / 2^(k - e) rounded up or down by its remainder. -/
theorem shiftRound_eq_of_le (r : Rm) (neg : Bool) (m : Nat) {e k : Int} (h : k ≤ e) :
    shiftRound r neg m (k - e) = (m * 2 ^ (e - k).toNat, false) := by
  rw [shiftRound, if_pos (by omega), show (k - e).natAbs = (e - k).toNat by omega]

theorem shiftRound_eq_of_lt (r : Rm) (neg : Bool) (m : Nat) {e k : Int} (h : e < k) :
    shiftRound r neg m (k - e) = (if roundUp r neg (m / 2 ^ (k - e).toNat) (m % 2 ^ (k - e).toNat * 2) (2 ^ (k - e).toNat)
      then m / 2 ^ (k - e).toNat + 1 else m / 2 ^ (k - e).toNat, m % 2 ^ (k - e).toNat * 2 != 0) := by
  rw [shiftRound, if_neg (by omega)]

/-- 2^b as a natural multiple of 2^a. -/
theorem two_zpow_of_le {a b : Int} (h : a ≤ b) : (2 : ℚ) ^ b = ((2 ^ (b - a).toNat : Nat) : ℚ) * (2 : ℚ) ^ a := by
  obtain ⟨n, rfl⟩ := Int.le.dest h
  rw [show (a + (n : Int) - a).toNat = n by omega, zpow_add₀ (by norm_num), zpow_natCast]
  push_cast
  ring

theorem shiftRound_exact_of_le (r : Rm) (neg : Bool) (m : Nat) {e k : Int} (h : k ≤ e) :
    ((shiftRound r neg m (k - e)).1 : ℚ) * (2 : ℚ) ^ k = m * (2 : ℚ) ^ e := by
  rw [shiftRound_eq_of_le r neg m h, two_zpow_of_le h]
  push_cast
  ring

theorem shiftRound_roundsTo (r : Rm) (neg : Bool) (m : Nat) (e k : Int) :
    RoundsTo r neg (m * (2 : ℚ) ^ e) (shiftRound r neg m (k - e)).1 k := by
  rcases le_or_gt k e with h | h
  · exact .of_exact r neg (shiftRound_exact_of_le r neg m h)
  · have hround := roundUp_roundsTo r neg (n := m / 2 ^ (k - e).toNat) (two_zpow_pos e)
      (Nat.mod_lt m (Nat.two_pow_pos (k - e).toNat)) (two_zpow_of_le h.le)
    rw [Nat.div_add_mod] at hround
    rw [shiftRound_eq_of_lt r neg m h]
    exact hround

/-- The rounded multiple lies less than one unit from the value, and `shiftRound` says whether it is another number. -/
theorem shiftRound_distance (r : Rm) (neg : Bool) (m : Nat) (e k : Int) :
    |((shiftRound r neg m (k - e)).1 : ℚ) * (2 : ℚ) ^ k - m * (2 : ℚ) ^ e| < (2 : ℚ) ^ k ∧
      (((shiftRound r neg m (k - e)).1 : ℚ) * (2 : ℚ) ^ k = m * (2 : ℚ) ^ e ↔ (shiftRound r neg m (k - e)).2 = false) := by
  rcases le_or_gt k e with h | h
  · rw [shiftRound_exact_of_le r neg m h, sub_self, abs_zero, shiftRound_eq_of_le r neg m h]
    exact ⟨two_zpow_pos k, by simp⟩
  · obtain ⟨hdist, hexact⟩ := roundUp_distance r neg (n := m / 2 ^ (k - e).toNat) (two_zpow_pos e)
      (Nat.mod_lt m (Nat.two_pow_pos (k - e).toNat)) (two_zpow_of_le h.le)
    rw [Nat.div_add_mod] at hdist hexact
    rw [shiftRound_eq_of_lt r neg m h]
    exact ⟨hdist, hexact.trans (by simp)⟩

/-- A value below B × 2^k rounds to at most B, and one of at least B × 2^k to at least B. -/
theorem shiftRound_le (r : Rm) (neg : Bool) {m B : Nat} {e k : Int} (h : (m : ℚ) * (2 : ℚ) ^ e < B * (2 : ℚ) ^ k) :
    (shiftRound r neg m (k - e)).1 ≤ B := by
  have hpos := two_zpow_pos k
  have hlt := (abs_lt.mp (shiftRound_distance r neg m e k).1).2
  have hq : ((shiftRound r neg m (k - e)).1 : ℚ) * (2 : ℚ) ^ k < ((B + 1 : Nat) : ℚ) * (2 : ℚ) ^ k := by push_cast; linarith
  exact Nat.lt_succ_iff.mp (Nat.cast_lt.mp (lt_of_mul_lt_mul_right hq hpos.le))

theorem le_shiftRound (r : Rm) (neg : Bool) {m B : Nat} {e k : Int} (h : (B : ℚ) * (2 : ℚ) ^ k ≤ m * (2 : ℚ) ^ e) :
    B ≤ (shiftRound r neg m (k - e)).1 := by
  have hpos := two_zpow_pos k
  have hlt := (abs_lt.mp (shiftRound_distance r neg m e k).1).1
  have hq : (B : ℚ) * (2 : ℚ) ^ k < (((shiftRound r neg m (k - e)).1 + 1 : Nat) : ℚ) * (2 : ℚ) ^ k := by push_cast; linarith
  exact Nat.lt_succ_iff.mp (Nat.cast_lt.mp (lt_of_mul_lt_mul_right hq hpos.le))

/-! ### Patterns of fp32 and bf16 -/

/-- The sign and the magnitude of a pattern. -/
theorem sign_and_magnitude (neg : Bool) {w n : Nat} (h : n < w) :
    ((if neg then w else 0) + n) % w = n ∧ (((if neg then w else 0) + n) / w % 2 == 1) = neg := by
  have hw : 0 < w := Nat.lt_of_le_of_lt (Nat.zero_le _) h
  cases neg
  · simp [Nat.mod_eq_of_lt h, Nat.div_eq_of_lt h]
  · simp [Nat.mod_eq_of_lt h, Nat.add_div_left, Nat.div_eq_of_lt h, hw]

/-- The datum of the pattern with sign `neg`, exponent code x and fraction y. -/
theorem decode_fields {f : Fmt} (hf : f = fp32 ∨ f = bf16) (neg : Bool) {x y : Nat} (hx : x < 2 ^ f.exp - 1) (hy : y < 2 ^ f.frac) :
    f.decode ((if neg then f.signW else 0) + (y + x * 2 ^ f.frac)) =
      if x = 0 then .fin neg y (1 - (f.bias : Int) - f.frac) else .fin neg (2 ^ f.frac + y) ((x : Int) - f.bias - f.frac) := by
  have hne : f ≠ e4m3 := by rcases hf with rfl | rfl <;> decide
  have hw : y + x * 2 ^ f.frac < f.signW := by rcases hf with rfl | rfl <;> simp only [Fmt.signW, fp32, bf16] at * <;> omega
  obtain ⟨hmag, hsign⟩ := sign_and_magnitude neg hw
  have hpos := Nat.two_pow_pos f.frac
  have hex : (y + x * 2 ^ f.frac) / 2 ^ f.frac = x := by rw [Nat.add_mul_div_right _ _ hpos, Nat.div_eq_of_lt hy, Nat.zero_add]
  have hfr : (y + x * 2 ^ f.frac) % 2 ^ f.frac = y := by rw [Nat.add_mul_mod_self_right, Nat.mod_eq_of_lt hy]
  simp only [Fmt.decode, if_neg hne, hmag, hsign, hex, hfr, if_neg hx.ne]

/-- The datum of the pattern that `round` makes of the multiple q × 2^(n + emin - frac), which may carry into the next exponent. -/
theorem decode_code {f : Fmt} (hf : f = fp32 ∨ f = bf16) (neg : Bool) {q n : Nat} (hq : q ≤ 2 * 2 ^ f.frac) (hn : n = 0 ∨ 2 ^ f.frac ≤ q)
    (htop : q + n * 2 ^ f.frac < f.top) :
    f.decode ((if neg then f.signW else 0) + (q + n * 2 ^ f.frac)) =
      if q = 2 * 2 ^ f.frac then .fin neg (2 ^ f.frac) (n + (1 - (f.bias : Int)) - f.frac + 1)
      else .fin neg q (n + (1 - (f.bias : Int)) - f.frac) := by
  have hpos := Nat.two_pow_pos f.frac
  have hlim : f.top = (2 ^ f.exp - 1) * 2 ^ f.frac := by rcases hf with rfl | rfl <;> rfl
  have hcode : ∀ x y, y + x * 2 ^ f.frac = q + n * 2 ^ f.frac → x < 2 ^ f.exp - 1 := fun x y h =>
    lt_of_mul_lt_mul_right (a := 2 ^ f.frac) (by omega) (Nat.zero_le _)
  by_cases hcarry : q = 2 * 2 ^ f.frac
  · have hsplit : 0 + (n + 2) * 2 ^ f.frac = q + n * 2 ^ f.frac := by rw [hcarry]; ring
    rw [if_pos hcarry, ← hsplit, decode_fields hf neg (hcode _ _ hsplit) hpos, if_neg (by omega)]
    congr 1
    push_cast; ring
  rw [if_neg hcarry]
  by_cases hsub : q < 2 ^ f.frac
  · obtain rfl : n = 0 := hn.resolve_right (by omega)
    rw [decode_fields hf neg (hcode _ _ rfl) hsub, if_pos rfl]
    congr 1
    push_cast; ring
  · have hsplit : (q - 2 ^ f.frac) + (n + 1) * 2 ^ f.frac = q + n * 2 ^ f.frac := by rw [Nat.add_mul, Nat.one_mul]; omega
    rw [← hsplit, decode_fields hf neg (hcode _ _ hsplit) (by omega), if_neg (by omega), Nat.add_sub_cancel' (by omega)]
    congr 1
    push_cast; ring

/-! ### `Fmt.round` -/

/-- The exponent of the leading place that `round` keeps for m × 2^e: that of the value, or the format's least. -/
def Fmt.leadExp (f : Fmt) (m : Nat) (e : Int) : Int := max ((Nat.log2 m : Int) + e) (1 - (f.bias : Int))

/-- The flags of a result that does not overflow hold IX exactly when it is inexact. -/
theorem ix_flag_iff (ix tiny : Bool) : (((if ix then fIX else 0) ||| (if tiny && ix then fUF else 0)) &&& fIX = 0) ↔ ix = false := by
  revert ix tiny
  decide

/-- A rounded value that does not overflow: its pattern, and when IX is raised. -/
theorem round_of_not_overflow {f : Fmt} {r : Rm} {neg : Bool} {m : Nat} {e : Int} (hm : 0 < m) (h : (f.round r neg m e).2 &&& fOF = 0)
    {q n : Nat} {ix : Bool} (hs : shiftRound r neg m (f.leadExp m e - f.frac - e) = (q, ix))
    (hn : (f.leadExp m e - (1 - (f.bias : Int))).toNat = n) :
    q + n * 2 ^ f.frac < f.top ∧ (f.round r neg m e).1 = (if neg then f.signW else 0) + (q + n * 2 ^ f.frac) ∧
      ((f.round r neg m e).2 &&& fIX = 0 ↔ ix = false) := by
  simp only [Fmt.leadExp] at hs hn
  simp only [Fmt.round, if_neg hm.ne', hs, hn] at h ⊢
  by_cases htop : f.top ≤ q + n * 2 ^ f.frac
  · rw [if_pos htop] at h
    exact absurd h (show ¬(fOF ||| fIX) &&& fOF = 0 by decide)
  · rw [if_neg htop]
    exact ⟨Nat.lt_of_not_le htop, rfl, ix_flag_iff ix _⟩

/-- The kept significand: at most 2^(frac + 1), and normal above the least exponent. -/
theorem significand_bounds (f : Fmt) (r : Rm) (neg : Bool) {m : Nat} (e : Int) (hm : 0 < m) :
    (m : ℚ) * (2 : ℚ) ^ e < ((2 * 2 ^ f.frac : Nat) : ℚ) * (2 : ℚ) ^ (f.leadExp m e - f.frac) ∧
      (shiftRound r neg m (f.leadExp m e - f.frac - e)).1 ≤ 2 * 2 ^ f.frac ∧
      ((f.leadExp m e - (1 - (f.bias : Int))).toNat = 0 ∨ 2 ^ f.frac ≤ (shiftRound r neg m (f.leadExp m e - f.frac - e)).1) := by
  have hlow : ((2 ^ Nat.log2 m : Nat) : ℚ) ≤ m := by exact_mod_cast Nat.log2_self_le hm.ne'
  have hhigh : (m : ℚ) < ((2 ^ (Nat.log2 m + 1) : Nat) : ℚ) := by exact_mod_cast Nat.lt_log2_self
  have hpow : ∀ a : Nat, ∀ b : Int, ((2 ^ a : Nat) : ℚ) * (2 : ℚ) ^ b = (2 : ℚ) ^ (a + b) := fun a b => by
    rw [zpow_add₀ (by norm_num), zpow_natCast]; push_cast; ring
  have hlead : (Nat.log2 m : Int) + e ≤ f.leadExp m e := le_max_left _ _
  have hbelow : (m : ℚ) * (2 : ℚ) ^ e < ((2 * 2 ^ f.frac : Nat) : ℚ) * (2 : ℚ) ^ (f.leadExp m e - f.frac) := by
    calc (m : ℚ) * (2 : ℚ) ^ e < ((2 ^ (Nat.log2 m + 1) : Nat) : ℚ) * (2 : ℚ) ^ e := mul_lt_mul_of_pos_right hhigh (two_zpow_pos e)
      _ = (2 : ℚ) ^ (((Nat.log2 m + 1 : Nat) : Int) + e) := hpow _ _
      _ ≤ (2 : ℚ) ^ (((f.frac + 1 : Nat) : Int) + (f.leadExp m e - f.frac)) := zpow_le_zpow_right₀ (by norm_num) (by push_cast; omega)
      _ = ((2 * 2 ^ f.frac : Nat) : ℚ) * (2 : ℚ) ^ (f.leadExp m e - f.frac) := by rw [← hpow, Nat.pow_succ']
  refine ⟨hbelow, shiftRound_le r neg hbelow, ?_⟩
  by_cases hsub : (f.leadExp m e - (1 - (f.bias : Int))).toNat = 0
  · exact .inl hsub
  · have hnormal : f.leadExp m e = (Nat.log2 m : Int) + e := by unfold Fmt.leadExp at *; omega
    refine .inr (le_shiftRound r neg ?_)
    calc ((2 ^ f.frac : Nat) : ℚ) * (2 : ℚ) ^ (f.leadExp m e - f.frac) = ((2 ^ Nat.log2 m : Nat) : ℚ) * (2 : ℚ) ^ e := by
          rw [hpow, hpow, hnormal]; congr 1; ring
      _ ≤ (m : ℚ) * (2 : ℚ) ^ e := mul_le_mul_of_nonneg_right hlow (two_zpow_pos e).le

/-- Settles O17: the pattern stands for the multiple that `shiftRound` gives, which a carry into the next exponent leaves the same number. -/
theorem roundingIsCorrect : Obligations.RoundingIsCorrect := by
  intro f r neg m e hf hm x exact hof
  obtain ⟨hbelow, hq, hn⟩ := significand_bounds f r neg e hm
  have hround := shiftRound_roundsTo r neg m e (f.leadExp m e - f.frac)
  have hexact := (shiftRound_distance r neg m e (f.leadExp m e - f.frac)).2
  have hlead : 1 - (f.bias : Int) ≤ f.leadExp m e := le_max_right _ _
  generalize hs : shiftRound r neg m (f.leadExp m e - f.frac - e) = y at hq hn hround hexact
  obtain ⟨q, ix⟩ := y
  obtain ⟨htop, hpat, hix⟩ := round_of_not_overflow hm hof hs rfl
  have hdec := decode_code hf neg hq hn htop
  have hk : ((f.leadExp m e - (1 - (f.bias : Int))).toNat : Int) + (1 - (f.bias : Int)) - f.frac = f.leadExp m e - f.frac := by omega
  rw [← hpat, hk] at hdec
  by_cases hcarry : q = 2 * 2 ^ f.frac
  · subst hcarry
    rw [if_pos rfl] at hdec
    refine ⟨_, _, hdec, by omega, by rw [Nat.pow_succ']; have := Nat.two_pow_pos f.frac; omega, ?_, hround.double hbelow⟩
    rw [hix, ← hexact, zpow_add_one₀ (by norm_num)]
    push_cast
    rw [show (2 : ℚ) ^ f.frac * ((2 : ℚ) ^ (f.leadExp m e - f.frac) * 2) = 2 * 2 ^ f.frac * (2 : ℚ) ^ (f.leadExp m e - f.frac) by ring]
  · rw [if_neg hcarry] at hdec
    exact ⟨q, _, hdec, by omega, by rw [Nat.pow_succ']; omega, hix.trans hexact.symm, hround⟩

end Sys2Proof.Machine
end

section
/-! PROOFS. Results that land (R56, R91, R93, R165): the writeback of a fixed-latency result, an interlocked return, and a noted report. -/

namespace Sys2Proof.Machine

/-! ### Writing a place, and superseding what is still to come for it -/

/-- Writing a place leaves the results in flight, the queue, the returns, the control registers and the issue count. -/
theorem writeDest_keeps (c : Core) (d : Dest) (v : Val) :
    (writeDest c d v).results = c.results ∧ (writeDest c d v).accs = c.accs ∧ (writeDest c d v).rets = c.rets ∧
      (writeDest c d v).csr = c.csr ∧ (writeDest c d v).icycle = c.icycle := by
  cases d <;> exact ⟨rfl, rfl, rfl, rfl, rfl⟩

/-- What is written does not depend on the results in flight, nor on the returns. -/
theorem writeDest_results (c : Core) (l : List Exposed) (d : Dest) (v : Val) :
    writeDest { c with results := l } d v = { writeDest c d v with results := l } := by
  cases d <;> rfl

theorem writeDest_rets (c : Core) (l : List Return) (d : Dest) (v : Val) :
    writeDest { c with rets := l } d v = { writeDest c d v with rets := l } := by
  cases d <;> rfl

/-- Superseding changes the queue, the returns and the engine queues alone. -/
theorem supersede_eq (c : Core) (d : Dest) :
    supersede c d = { c with accs := (supersede c d).accs, rets := (supersede c d).rets, engs := (supersede c d).engs } := by
  unfold supersede
  split <;> rfl

/-- A superseded place is written neither by a load that is interlocked nor by a return. -/
theorem supersede_dead {c : Core} {d : Dest} (h : d.keeps = false) :
    (∀ a ∈ (supersede c d).accs, a.dest = d → interlocked c a = true → a.dead = true) ∧
      ∀ a ∈ (supersede c d).rets, a.dest = d → a.dead = true := by
  simp only [supersede, h, Bool.false_eq_true, if_false, List.mem_map]
  constructor
  · rintro _ ⟨a, -, rfl⟩
    by_cases hi : a.dest = d ∧ interlocked c a = true
    · rw [if_pos hi]
      exact fun _ _ => rfl
    · rw [if_neg hi]
      exact fun hd ha => absurd ⟨hd, ha⟩ hi
  · rintro _ ⟨a, -, rfl⟩
    by_cases hd : a.dest = d
    · rw [if_pos hd]
      exact fun _ => rfl
    · rw [if_neg hd]
      exact fun ha => absurd ha hd

theorem interlocked_iff (c : Core) (a : Access) : interlocked c a = true ↔ a.land = 0 ∨ a.land ≤ c.icycle := by simp [interlocked]

/-! ### The events -/

/-- The only result in flight is the one that lands, once its count has been reached. -/
theorem dueResult_single {c : Core} {r : Exposed} (hr : c.results = [r]) (hland : r.land ≤ c.icycle) : dueResult c = some r := by
  simp [dueResult, hr, hland]

/-- The core once its only result has landed. -/
theorem landResult_single {c : Core} {r : Exposed} (hr : c.results = [r]) :
    landResult c r =
      { writeDest c r.dest r.val with
        results := []
        accs := (landResult c r).accs
        rets := (landResult c r).rets
        engs := (landResult c r).engs
        csr := { c.csr with fpcsr := c.csr.fpcsr ||| r.flags.zeroExtend 64 } } := by
  obtain ⟨-, -, -, hcsr, -⟩ := writeDest_keeps c r.dest r.val
  have hnone : c.results.erase r = [] := by simp [hr]
  rw [landResult, hnone, writeDest_results, supersede_eq, ← hcsr]

/-- What it makes of the loads that are still to come for its place. -/
theorem landResult_dead {c : Core} {r : Exposed} (h : r.dest.keeps = false) :
    (∀ a ∈ (landResult c r).accs, a.dest = r.dest → a.land = 0 ∨ a.land ≤ c.icycle → a.dead = true) ∧
      ∀ a ∈ (landResult c r).rets, a.dest = r.dest → a.dead = true := by
  obtain ⟨hacc, hret⟩ := supersede_dead (c := writeDest { c with results := c.results.erase r } r.dest r.val) h
  refine ⟨fun a ha hd hl => hacc a ha hd ?_, hret⟩
  rw [interlocked_iff, writeDest_results]
  exact (writeDest_keeps c r.dest r.val).2.2.2.2 ▸ hl

/-- Of a register, a place takes the last word alone. -/
theorem keeps_false_of_register {d : Dest} (h : ∃ i, d = .g i ∨ d = .hb i ∨ d = .v i ∨ d = .p i ∨ d = .k i) : d.keeps = false := by
  obtain ⟨i, rfl | rfl | rfl | rfl | rfl⟩ := h <;> rfl

/-- RESULT_WRITEBACK lands the only result in flight, once its count has been reached. -/
theorem resultWriteback_single {s : State} {k : Nat} {r : Exposed} (hr : (coreAt s k).results = [r]) (hland : r.land ≤ (coreAt s k).icycle) :
    exec (.resultWriteback k) s = .next (setCore s k (landResult (coreAt s k) r)) := by
  show execResultWriteback k s = _
  simp only [execResultWriteback, onCore, dueResult_single hr hland]

/-- LOAD_RETURN ends the only return of a core, and writes it unless it is dead. -/
theorem loadReturn_single {s : State} {k : Nat} {r : Return} (hr : (coreAt s k).rets = [r]) :
    exec (.loadReturn k r.id) s =
      .next (setCore s k (if r.dead then { coreAt s k with rets := [] } else { writeDest (coreAt s k) r.dest r.val with rets := [] })) := by
  have hfind : ((coreAt s k).rets.find? fun x => x.id == r.id) = some r := by simp [hr]
  have hrest : ((coreAt s k).rets.filter fun x => x.id != r.id) = [] := by simp [hr]
  show execLoadReturn k r.id s = _
  simp only [execLoadReturn, onCore, hfind, hrest, landReturn, writeDest_rets]

/-- A report that is no translation fault is noted as it comes. -/
theorem addReport_of_ne {c : Core} {r : Report} (h : r.code ≠ 3) : addReport c r = { c with reports := c.reports ++ [r] } := if_neg h

/-- ACCESS_REPORT notes it. -/
theorem accessReport_noted (s : State) (k : Nat) {r : Report} (h : r.code ≠ 3) :
    exec (.accessReport k r) s = .next (setCore s k { coreAt s k with reports := (coreAt s k).reports ++ [r] }) := by
  show execAccessReport k r s = _
  rw [execAccessReport, takeReport, onCore, addReport_of_ne h]

/-- An event that replaces one core's record changes that record alone. -/
theorem setCore_only (s : State) (k : Nat) (x : Core) :
    setCore s k x = { s with cores := (setCore s k x).cores } ∧ ∀ j, j ≠ k → coreAt (setCore s k x) j = coreAt s j :=
  ⟨rfl, fun j hj => coreAt_setCore_other s k j x hj⟩

/-- Settles O23: each event puts one record in the place of its core's, with the result landed, the return ended or the report noted. -/
theorem resultsLand : Obligations.ResultsLand := by
  refine ⟨fun s k r hr hland => ?_, fun s k r hr => ?_, fun s k r hcode => ?_⟩
  · refine ⟨_, resultWriteback_single hr hland, (setCore_only s k _).1, (setCore_only s k _).2, ?_⟩
    rw [coreAt_setCore_same]
    have hdead := fun h => landResult_dead (c := coreAt s k) (r := r) (keeps_false_of_register h)
    rw [landResult_single hr] at hdead ⊢
    exact ⟨rfl, rfl, rfl, rfl, rfl, rfl, rfl, rfl, rfl, hdead⟩
  · exact ⟨_, loadReturn_single hr, (setCore_only s k _).1, (setCore_only s k _).2, coreAt_setCore_same s k _⟩
  · exact ⟨_, accessReport_noted s k hcode, (setCore_only s k _).1, (setCore_only s k _).2, coreAt_setCore_same s k _⟩

end Sys2Proof.Machine
end

section
/-! PROOFS. The decoder and the encoder (R76, R83 to R86, R95 to R100): an encoded syllable has 32 bits and decodes to itself, and what
decodes is well-formed. -/

namespace Sys2Proof.Laws

/-! ### Every syllable -/

/-- The fields of every format fill 32 bits at most. Grouped by the operands whose codes the bound needs. -/
theorem encode_lt (i : Instr) : encode i < 2 ^ 32 := by
  cases i with
  | capchk _ _ _ _ x =>
    have := AccKind_code_lt x
    simp only [encode]; omega
  | cmp k _ _ _ | cmpi k _ _ _ =>
    have := Cond_code_lt k
    simp only [encode]; omega
  | vmin t _ _ _ _ | vmax t _ _ _ _ | vshl t _ _ _ _ | vshr t _ _ _ _ | vsra t _ _ _ _ | vshli t _ _ _ _ | vshri t _ _ _ _
  | vsrai t _ _ _ _ | vperm t _ _ _ _ | vbcast t _ _ _ | vext t _ _ _ _ | vmovi t _ _ _ =>
    have := ElTy_code_lt t
    simp only [encode]; omega
  | fence _ f =>
    have := FenceKind_code_lt f
    simp only [encode]; omega
  | add _ _ _ b | sub _ _ _ b | mul _ _ _ b | shl _ _ _ b | shr _ _ _ b | sra _ _ _ b | bfx _ _ b _ _ | addr _ _ _ b _ | br _ b _
  | bp _ b _ | call _ b _ | vbxi _ _ b | tinv _ b | bkOpen _ b | cpGo _ _ b | cpGath _ _ b | cpFill _ _ b | cpTabrL _ _ b
  | mxWload _ b | mxDrain _ _ b | mxAcc _ _ b | mxHad _ b | vpFwd _ b | vpBwd _ b | vpRd _ _ b | eqUnite _ b _ | eqFind _ b _
  | eqCommit b _ | fsSend _ _ b | fsPost _ _ _ b | pegRd _ _ b | rst _ _ _ b _ | rwinAdd b _ _ | capld _ _ b | capst _ _ b
  | rmaPut _ _ _ b =>
    have := b.toNat_lt
    simp only [encode]; omega
  | ramo o _ b _ _ _ =>
    have := AmoOp_code_lt o; have := b.toNat_lt
    simp only [encode]; omega
  | vcmp k t _ _ _ _ =>
    have := Cond_code_lt k; have := ElTy_code_lt t
    simp only [encode]; omega
  | vadds t _ _ _ _ r | vmuls t _ _ _ _ r | vfmas t _ _ _ _ r | vdiv t _ _ _ _ r | vsqrt t _ _ _ r =>
    have := ElTy_code_lt t; have := Rm_code_lt r
    simp only [encode]; omega
  | vabs t _ _ _ b | vpack t _ _ _ _ b | vunpack t _ _ _ b | vrot t _ _ _ b _ | vdot4 t _ _ _ _ b =>
    have := ElTy_code_lt t; have := b.toNat_lt
    simp only [encode]; omega
  | eqRelab _ b o _ =>
    have := RelabOp_code_lt o; have := b.toNat_lt
    simp only [encode]; omega
  | st b _ b' _ _ _ | cpScat _ _ b b' | cpChk _ _ b b' | mxGo _ b b' | rld _ _ _ b b' _ | chase _ _ _ b b' =>
    have := b'.toNat_lt; have := b.toNat_lt
    simp only [encode]; omega
  | amo o _ b b' _ _ =>
    have := AmoOp_code_lt o; have := b'.toNat_lt; have := b.toNat_lt
    simp only [encode]; omega
  | vadd t _ _ _ _ r b | vsub t _ _ _ _ r b | vmul t _ _ _ _ r b | vfma t _ _ _ _ r b =>
    have := ElTy_code_lt t; have := Rm_code_lt r; have := b.toNat_lt
    simp only [encode]; omega
  | vld b e b' _ _ _ | vldS b e b' _ _ _ _ | vst b e b' _ _ _ | vgath b e b' _ _ _ _ | vscat b e b' _ _ _ _ =>
    have := El_code_lt e; have := b'.toNat_lt; have := b.toNat_lt
    simp only [encode]; omega
  | vcvt8 _ _ b _ _ r b' =>
    have := Rm_code_lt r; have := b'.toNat_lt; have := b.toNat_lt
    simp only [encode]; omega
  | ld b _ b' b'' _ _ _ =>
    have := b''.toNat_lt; have := b'.toNat_lt; have := b.toNat_lt
    simp only [encode]; omega
  | vcvt t t' _ _ _ r b =>
    have := ElTy_code_lt t; have := ElTy_code_lt t'; have := Rm_code_lt r; have := b.toNat_lt
    simp only [encode]; omega
  | vred t o _ _ _ r b | vscan t o _ _ _ r b =>
    have := ElTy_code_lt t; have := RedOp_code_lt o; have := Rm_code_lt r; have := b.toNat_lt
    simp only [encode]; omega
  | mop o y b b' _ _ =>
    have := MopOp_code_lt o; have := MopTy_code_lt y; have := b'.toNat_lt; have := b.toNat_lt
    simp only [encode]; omega
  | _ => simp only [encode]; omega

/-- Every constructor's round trip, an event's for want of a slot class. -/
theorem decode_encode (i : Instr) : RoundTrip.Statement i := by
  cases i with
  | bnkLock => exact RoundTrip.bnkLock _ _
  | loopm => exact RoundTrip.loopm _ _ _
  | nop => exact RoundTrip.nop
  | add => exact RoundTrip.add _ _ _ _
  | sub => exact RoundTrip.sub _ _ _ _
  | addi => exact RoundTrip.addi _ _ _
  | mul => exact RoundTrip.mul _ _ _ _
  | mulh => exact RoundTrip.mulh _ _ _
  | mulhu => exact RoundTrip.mulhu _ _ _
  | mad => exact RoundTrip.mad _ _ _
  | div => exact RoundTrip.div _ _ _
  | divu => exact RoundTrip.divu _ _ _
  | rem => exact RoundTrip.rem _ _ _
  | remu => exact RoundTrip.remu _ _ _
  | and => exact RoundTrip.and _ _ _
  | or => exact RoundTrip.or _ _ _
  | xor => exact RoundTrip.xor _ _ _
  | andn => exact RoundTrip.andn _ _ _
  | shl => exact RoundTrip.shl _ _ _ _
  | shr => exact RoundTrip.shr _ _ _ _
  | sra => exact RoundTrip.sra _ _ _ _
  | shli => exact RoundTrip.shli _ _ _
  | shri => exact RoundTrip.shri _ _ _
  | srai => exact RoundTrip.srai _ _ _
  | min => exact RoundTrip.min _ _ _
  | max => exact RoundTrip.max _ _ _
  | minu => exact RoundTrip.minu _ _ _
  | maxu => exact RoundTrip.maxu _ _ _
  | cmp => exact RoundTrip.cmp _ _ _ _
  | cmpi => exact RoundTrip.cmpi _ _ _ _
  | sel => exact RoundTrip.sel _ _ _ _
  | movi => exact RoundTrip.movi _ _
  | movhi => exact RoundTrip.movhi _ _ _
  | clz => exact RoundTrip.clz _ _
  | popc => exact RoundTrip.popc _ _
  | bfx => exact RoundTrip.bfx _ _ _ _ _
  | bfi => exact RoundTrip.bfi _ _ _ _
  | addr => exact RoundTrip.addr _ _ _ _ _
  | pand => exact RoundTrip.pand _ _ _
  | por => exact RoundTrip.por _ _ _
  | pxor => exact RoundTrip.pxor _ _ _
  | pandn => exact RoundTrip.pandn _ _ _
  | pnot => exact RoundTrip.pnot _ _
  | shw => exact RoundTrip.shw _ _ _
  | br => exact RoundTrip.br _ _ _
  | bp => exact RoundTrip.bp _ _ _
  | call => exact RoundTrip.call _ _ _
  | ret => exact RoundTrip.ret
  | jr => exact RoundTrip.jr _ _
  | loopx => exact RoundTrip.loopx _
  | tend => exact RoundTrip.tend
  | trap => exact RoundTrip.trap _ _
  | eret => exact RoundTrip.eret
  | bkpt => exact RoundTrip.bkpt _
  | csrr => exact RoundTrip.csrr _ _
  | csrw => exact RoundTrip.csrw _ _
  | csrx => exact RoundTrip.csrx _ _ _
  | vpark => exact RoundTrip.vpark _
  | vunpark => exact RoundTrip.vunpark _
  | vadd => exact RoundTrip.vadd _ _ _ _ _ _ _
  | vsub => exact RoundTrip.vsub _ _ _ _ _ _ _
  | vmul => exact RoundTrip.vmul _ _ _ _ _ _ _
  | vfma => exact RoundTrip.vfma _ _ _ _ _ _ _
  | vmin => exact RoundTrip.vmin _ _ _ _ _
  | vmax => exact RoundTrip.vmax _ _ _ _ _
  | vabs => exact RoundTrip.vabs _ _ _ _ _
  | vadds => exact RoundTrip.vadds _ _ _ _ _ _
  | vmuls => exact RoundTrip.vmuls _ _ _ _ _ _
  | vfmas => exact RoundTrip.vfmas _ _ _ _ _ _
  | vdiv => exact RoundTrip.vdiv _ _ _ _ _ _
  | vsqrt => exact RoundTrip.vsqrt _ _ _ _ _
  | vcmp => exact RoundTrip.vcmp _ _ _ _ _ _
  | vsel => exact RoundTrip.vsel _ _ _ _
  | vand => exact RoundTrip.vand _ _ _ _
  | vor => exact RoundTrip.vor _ _ _ _
  | vxor => exact RoundTrip.vxor _ _ _ _
  | vandn => exact RoundTrip.vandn _ _ _ _
  | vshl => exact RoundTrip.vshl _ _ _ _ _
  | vshr => exact RoundTrip.vshr _ _ _ _ _
  | vsra => exact RoundTrip.vsra _ _ _ _ _
  | vshli => exact RoundTrip.vshli _ _ _ _ _
  | vshri => exact RoundTrip.vshri _ _ _ _ _
  | vsrai => exact RoundTrip.vsrai _ _ _ _ _
  | vrcp => exact RoundTrip.vrcp _ _ _
  | vrsq => exact RoundTrip.vrsq _ _ _
  | vexp2 => exact RoundTrip.vexp2 _ _ _
  | vlog2 => exact RoundTrip.vlog2 _ _ _
  | vcvt => exact RoundTrip.vcvt _ _ _ _ _ _ _
  | vbxi => exact RoundTrip.vbxi _ _ _
  | vcvt8 => exact RoundTrip.vcvt8 _ _ _ _ _ _ _
  | vpack => exact RoundTrip.vpack _ _ _ _ _ _
  | vunpack => exact RoundTrip.vunpack _ _ _ _ _
  | vperm => exact RoundTrip.vperm _ _ _ _ _
  | vrot => exact RoundTrip.vrot _ _ _ _ _ _
  | vbcast => exact RoundTrip.vbcast _ _ _ _
  | vext => exact RoundTrip.vext _ _ _ _ _
  | vred => exact RoundTrip.vred _ _ _ _ _ _ _
  | vscan => exact RoundTrip.vscan _ _ _ _ _ _ _
  | vdot4 => exact RoundTrip.vdot4 _ _ _ _ _ _
  | vmovi => exact RoundTrip.vmovi _ _ _ _
  | ld => exact RoundTrip.ld _ _ _ _ _ _ _
  | st => exact RoundTrip.st _ _ _ _ _ _
  | vld => exact RoundTrip.vld _ _ _ _ _ _
  | vldS => exact RoundTrip.vldS _ _ _ _ _ _ _
  | vst => exact RoundTrip.vst _ _ _ _ _ _
  | vgath => exact RoundTrip.vgath _ _ _ _ _ _ _
  | vscat => exact RoundTrip.vscat _ _ _ _ _ _ _
  | tlook => exact RoundTrip.tlook _ _
  | tset => exact RoundTrip.tset _ _
  | tinv => exact RoundTrip.tinv _ _
  | mop => exact RoundTrip.mop _ _ _ _ _ _
  | amo => exact RoundTrip.amo _ _ _ _ _ _
  | fence => exact RoundTrip.fence _ _
  | tfence => exact RoundTrip.tfence _
  | semSig => exact RoundTrip.semSig _ _
  | semSet => exact RoundTrip.semSet _ _
  | arrive => exact RoundTrip.arrive _
  | arriveRlx => exact RoundTrip.arriveRlx _
  | expect => exact RoundTrip.expect _ _
  | barInit => exact RoundTrip.barInit _ _
  | tlRd => exact RoundTrip.tlRd _ _
  | tlInc => exact RoundTrip.tlInc _ _
  | tlAcq => exact RoundTrip.tlAcq _ _ _
  | taskDec => exact RoundTrip.taskDec _
  | taskPost => exact RoundTrip.taskPost _ _
  | bkOpen => exact RoundTrip.bkOpen _ _
  | bkClose => exact RoundTrip.bkClose _
  | bkGive => exact RoundTrip.bkGive _ _
  | bkInit => exact RoundTrip.bkInit _ _
  | cpGo => exact RoundTrip.cpGo _ _ _
  | cpGath => exact RoundTrip.cpGath _ _ _
  | cpScat => exact RoundTrip.cpScat _ _ _ _
  | cpFill => exact RoundTrip.cpFill _ _ _
  | cpChk => exact RoundTrip.cpChk _ _ _ _
  | cpTabwL => exact RoundTrip.cpTabwL _ _
  | cpTabwR => exact RoundTrip.cpTabwR _ _
  | cpTabrL => exact RoundTrip.cpTabrL _ _ _
  | cpTabrR => exact RoundTrip.cpTabrR _ _
  | mxCfg => exact RoundTrip.mxCfg _ _
  | mxGo => exact RoundTrip.mxGo _ _ _
  | mxWload => exact RoundTrip.mxWload _ _
  | mxDrain => exact RoundTrip.mxDrain _ _ _
  | mxAcc => exact RoundTrip.mxAcc _ _ _
  | mxHad => exact RoundTrip.mxHad _ _
  | mxFmt => exact RoundTrip.mxFmt _ _
  | mxZero => exact RoundTrip.mxZero _
  | mxRd => exact RoundTrip.mxRd _ _
  | vpFwd => exact RoundTrip.vpFwd _ _
  | vpBwd => exact RoundTrip.vpBwd _ _
  | vpMerge => exact RoundTrip.vpMerge _ _
  | vpRd => exact RoundTrip.vpRd _ _ _
  | eqUnite => exact RoundTrip.eqUnite _ _ _
  | eqUniteNew => exact RoundTrip.eqUniteNew _ _
  | eqFind => exact RoundTrip.eqFind _ _ _
  | eqRelab => exact RoundTrip.eqRelab _ _ _ _
  | eqSnap => exact RoundTrip.eqSnap _
  | eqUndo => exact RoundTrip.eqUndo _
  | eqCommit => exact RoundTrip.eqCommit _ _
  | eqSize => exact RoundTrip.eqSize _ _ _
  | fsSend => exact RoundTrip.fsSend _ _ _
  | fsPost => exact RoundTrip.fsPost _ _ _ _
  | fqBind => exact RoundTrip.fqBind _ _
  | pegRd => exact RoundTrip.pegRd _ _ _
  | rld => exact RoundTrip.rld _ _ _ _ _ _
  | rst => exact RoundTrip.rst _ _ _ _ _
  | ramo => exact RoundTrip.ramo _ _ _ _ _ _
  | rwinReg => exact RoundTrip.rwinReg _ _
  | rwinAdd => exact RoundTrip.rwinAdd _ _ _
  | rwinPread => exact RoundTrip.rwinPread _ _
  | rwinAbort => exact RoundTrip.rwinAbort _
  | chase => exact RoundTrip.chase _ _ _ _ _
  | capld => exact RoundTrip.capld _ _ _
  | capst => exact RoundTrip.capst _ _ _
  | capmkNew => exact RoundTrip.capmkNew _ _
  | capmkDer => exact RoundTrip.capmkDer _ _ _
  | capmkRev => exact RoundTrip.capmkRev _
  | capchk => exact RoundTrip.capchk _ _ _ _ _
  | rmaPut => exact RoundTrip.rmaPut _ _ _ _
  | rmaGet => exact RoundTrip.rmaGet _ _ _
  | rmaFlag => exact RoundTrip.rmaFlag _ _ _
  | rmaFlush => exact RoundTrip.rmaFlush
  | rmaReg => exact RoundTrip.rmaReg _ _
  | rmaRev => exact RoundTrip.rmaRev _
  | _ => exact fun _ h => absurd h nofun

/-! ### What decodes -/

theorem keepWf_eq_some {o : Option Instr} {i : Instr} : keepWf o = some i ↔ o = some i ∧ wellFormed i = true := by
  cases o with
  | none => simp [keepWf]
  | some j =>
    by_cases hj : wellFormed j = true
    · simp only [keepWf, hj, if_true, Option.some.injEq]
      exact ⟨fun h => ⟨h, h ▸ hj⟩, And.left⟩
    · simp only [keepWf, hj, if_false, Option.some.injEq, reduceCtorEq, false_iff, not_and]
      rintro rfl
      exact hj

/-- The decoder of every slot class keeps well-formed syllables alone. -/
theorem wellFormed_of_decode {c : SlotClass} {w : Nat} {i : Instr} (h : decode c w = some i) : wellFormed i = true := by
  cases c <;> exact (keepWf_eq_some.mp h).2

/-- Settles O59, by the bound and the round trip of every constructor, and by the test with which every decoder ends. -/
theorem decodeOfEncode : Obligations.DecodeOfEncode :=
  ⟨fun i c hc hw => ⟨encode_lt i, decode_encode i c hc hw⟩, fun _ _ _ => wellFormed_of_decode⟩

/-- Settles O57, by running the decoder on each word. -/
theorem wordsDecode : Obligations.WordsDecode := by
  unfold Obligations.WordsDecode
  decide

end Sys2Proof.Laws
end

section
/-! PROOFS. Illegal bundles, headers that signal alone, and a signal of count zero (R78, R80, R208, R210). -/

namespace Sys2Proof.Machine

open Sys2Proof.Stmt

/-! ### Illegal bundles -/

/-- An illegal bundle traps at its first illegal part. The issue looks at nothing of its header or its syllables before. -/
theorem bundleIssue_illegal {s : State} {ws : List Bundle} {slot sg : Nat} (htend : (curCore s).after ≠ .tend)
    (heret : (curCore s).after ≠ .eret) (h : encodingFails (curCore s) ws = some (slot, sg)) :
    exec (.bundleIssue ws) s = .next (takeTrap s s.cur { Cause.precise 0x01 1 slot with stg := sg }) := by
  show execBundleIssue ws s = _
  rw [execBundleIssue, if_neg (not_or.mpr ⟨htend, heret⟩), h]
  exact congrArg Host.Outcome.next (trapHere_of_noViol rfl)

/-- A header that sets signal fields without SEN breaks R78. -/
theorem headerBad_of_signal {h : Nat} (hsen : h / 2 ^ 30 % 2 = 0) (hset : h / 2 ^ 16 % 4096 ≠ 0) : headerBad h = true := by
  have hs : hSen h = false := by rw [hSen_eq]; exact decide_eq_false (by omega)
  have hf : (fld h 16 12 != 0) = true := bne_iff_ne.mpr hset
  rw [headerBad, hs, hf, Bool.not_false, Bool.true_and, Bool.or_true, Bool.true_or]

/-- A header without PFX whose WEN and SEN stand wherever their fields do keeps R78. -/
theorem headerBad_eq_false {h : Nat} (hpfx : h < 2 ^ 31) (hwait : h / 2 ^ 28 % 2 = 0 → h / 2 ^ 29 % 2 = 0 ∧ h % 65536 = 0)
    (hsignal : h / 2 ^ 30 % 2 = 0 → h / 2 ^ 16 % 4096 = 0) : headerBad h = false := by
  simp only [headerBad, hPfx_eq, hSen_eq, hWtk_eq, hWen_eq, fld, Nat.pow_zero, Nat.div_one, Bool.or_eq_false_iff, Bool.and_eq_false_iff,
    Bool.not_eq_false', decide_eq_true_eq, decide_eq_false_iff_not, bne_eq_false_iff_eq]
  omega

/-- The header of a bundle on its own, without PFX, is judged by R78 alone. -/
theorem headerFails_alone (c : Core) {b : Bundle} (hpfx : bundlePart b 0 < 2 ^ 31) : headerFails c [b] 0 b = headerBad (bundlePart b 0) := by
  have hp : hPfx (bundlePart b 0) = false := by rw [hPfx_eq]; exact decide_eq_false (by omega)
  simp [headerFails, hp]

/-! ### A signal of count zero -/

/-- The header that signals with SINC = 0 to semaphore g. -/
def signalZero (g : Nat) : Nat := g * 2 ^ 16 + 2 ^ 30

/-- Its fields. -/
theorem signalZero_fields {g : Nat} (hg : g < 256) :
    let h := signalZero g
    h < 2 ^ 31 ∧ hPfx h = false ∧ hSen h = true ∧ hWen h = false ∧ hSdone h = false ∧ hSinc h = 0 ∧ hSsem h = g ∧
      (h / 2 ^ 29 % 2 = 0 ∧ h % 65536 = 0) := by
  simp only [hPfx_eq, hSen_eq, hWen_eq, hSdone_eq, hSinc, hSsem, fld, signalZero, decide_eq_false_iff_not, decide_eq_true_eq]
  omega

/-- A bundle of a header alone that waits for nothing and signals at once issues and notes the signal. -/
theorem bundleIssue_signal {s : State} {h : Nat} (hlt : h < 2 ^ 31) (hpfx : hPfx h = false) (hsen : hSen h = true) (hwen : hWen h = false)
    (hsdone : hSdone h = false) (hwait : h / 2 ^ 29 % 2 = 0 ∧ h % 65536 = 0) (hp : Plainly (curCore s)) :
    exec (.bundleIssue [BitVec.ofNat 256 h]) s =
      .next (coreSet s s.cur fun c => committed { c with semOps := c.semOps ++ [.inc (hSsem h) (hSinc h)] }) := by
  obtain ⟨hpart, hno⟩ := header_alone (hlt.trans (by decide))
  have hset : h / 2 ^ 30 % 2 = 1 := by rw [hSen_eq] at hsen; exact of_decide_eq_true hsen
  have hbad : headerBad h = false := headerBad_eq_false hlt (fun _ => hwait) (fun h0 => by omega)
  have hhold : headerHold (curCore s) [h] = none := by simp [headerHold, hwen, hsdone]
  rw [bundleIssue_empty hp.after hp.loop hno (by rw [hpart]; exact hbad) (by rw [hpart]; exact hpfx) (by rw [hpart]; exact hhold), hpart,
    commitBundle_acquiring hp (by rw [hsdone, Bool.and_false])]
  refine congrArg _ (onCur_eq_coreSet ?_)
  simp [headerActs_one, headerAcquires, hwen, hsen, hsdone]

theorem bundleIssue_signalZero {s : State} {g : Nat} (hg : g < 256) (hp : Plainly (curCore s)) :
    exec (.bundleIssue [BitVec.ofNat 256 (signalZero g)]) s =
      .next (coreSet s s.cur fun c => committed { c with semOps := c.semOps ++ [.inc g 0] }) := by
  obtain ⟨hlt, hpfx, hsen, hwen, hsdone, hsinc, hssem, hwait⟩ := signalZero_fields hg
  have h := bundleIssue_signal hlt hpfx hsen hwen hsdone hwait hp
  rwa [hsinc, hssem] at h

/-- With that signal alone a cycle puts the semaphore's own count back, cut at the limit. -/
theorem combineSems_signalZero {c : Core} {g : Nat} (h : c.semOps = [.inc g 0]) :
    (combineSems c).sems = mput 0 c.sems g (min 65535 (mget 0 c.sems g)) := by
  have hone : combineSems c = { combineSem c g with semOps := [] } := by rw [combineSems, h]; rfl
  simp only [hone, combineSem, h, List.foldl_cons, List.foldl_nil, ite_self, semAt, Nat.sub_zero, Nat.add_zero]
  split <;> rfl

/-- Putting an entry's own value back changes no entry. -/
theorem mget_mput_self {α : Type} [DecidableEq α] {d : α} {lo : Option Nat} {m : SMap α} (h : risesFrom lo m) (i j : Nat) :
    mget d (mput d m i (mget d m i)) j = mget d m j := by
  by_cases hj : j = i
  · rw [hj, mget_mput_same d i _ h]
  · exact mget_mput_other d m i j _ hj

/-- Settles O55: the encoding tests come first, R78 judges a header by its fields, and a signal of zero leaves every count. -/
theorem illegalBundlesTrap : Obligations.IllegalBundlesTrap := by
  refine ⟨fun s ws slot sg htend heret h => bundleIssue_illegal htend heret h, fun c b => ⟨?_, fun hpfx hwait hsignal => ?_⟩,
    fun s g hg hp => bundleIssue_signalZero hg hp, fun c g hrise hmax h i => ?_⟩
  · rintro (⟨hwen, hset⟩ | ⟨hsen, hset⟩)
    · exact encodingFails_header c (headerBad_of_wait hwen hset)
    · exact encodingFails_header c (headerBad_of_signal hsen hset)
  · rw [headerFails_alone c hpfx, headerBad_eq_false hpfx hwait hsignal]
  · have hrises : risesFrom none c.sems := ⟨hrise, fun _ _ _ e => nomatch e⟩
    rw [combineSems_signalZero h, Nat.min_eq_right (hmax g), mget_mput_self hrises]

end Sys2Proof.Machine
end

section
/-! PROOFS. Branches: when they are taken, where they go, their link, and the traps of a bad target (R82, R122, R123). -/

namespace Sys2Proof.Machine

open Sys2Proof.Stmt

/-! ### Targets and links (R82) -/

/-- The block of a bundle starts at a multiple of 64. -/
theorem toNat_blockOf (c : Core) : (blockOf c).toNat = fetchBlock c.pc := by
  have := c.pc.isLt
  simp only [blockOf, setBits, bits, fetchBlock, BitVec.toNat_ofNat]
  omega

theorem blockOf_eq (c : Core) : blockOf c = BitVec.ofNat 64 (fetchBlock c.pc) := by
  rw [← toNat_blockOf, BitVec.ofNat_toNat, BitVec.setWidth_eq]

theorem branchTarget_eq (c : Core) (o : BitVec 18) : branchTarget c o = blockTarget c.pc o := by
  have hoff : o.signExtend 64 = BitVec.ofInt 64 o.toInt := rfl
  rw [branchTarget, blockTarget, blockOf_eq, hoff, BitVec.ofInt_add, BitVec.ofInt_mul, BitVec.ofInt_natCast]
  rfl

/-- A link is one result in flight, with the entry of `fo` that it may need. -/
theorem pushResult_link (c : Core) (d : Nat) : pushResult c (destG c d) (.s (blockOf c + 64)) 1 0 = linked c d := by
  have hlink : blockOf c + 64 = BitVec.ofNat 64 (fetchBlock c.pc + 64) := by
    rw [blockOf_eq, BitVec.ofNat_add]
    rfl
  rw [hlink, linked, pushResult, reserve_fifos]

/-! ### Conditions (R122) -/

theorem getLsbD_zero_iff (x : Word) : x.getLsbD 0 = true ↔ x.toNat % 2 = 1 := by
  rw [BitVec.getLsbD, Nat.testBit_zero, decide_eq_true_iff]

theorem bitTaken_iff (c : Core) (p : Nat) (n : Bool) : bitTaken c p n = true ↔ ((readP c p).toNat % 2 = 1 ↔ n = false) := by
  rw [bitTaken, ← getLsbD_zero_iff]
  cases (readP c p).getLsbD 0 <;> cases n <;> decide

theorem anyTaken_iff (c : Core) (p : Nat) (n : Bool) : anyTaken c p n = true ↔ (readP c p ≠ 0 ↔ n = false) := by
  rw [anyTaken, ← bne_iff_ne]
  cases readP c p != 0 <;> cases n <;> decide

/-- A branch whose effect is that of `f`, and changes the record by `g`, where its condition `b` holds, and none elsewhere. -/
theorem leaves_branch {s : State} {wg : List Nat} {i : Instr} {b : State → Bool} {taken : Prop} {g : Core → Core} {f : State → State}
    {x : Core} (h : CanIssue (curCore s) [] wg [] [] 0) (he : exec i s = issue s slotBR i noTests fun s => if b s = true then f s else s)
    (hg : (uses i).rg = []) (hw : (uses i).wg = wg) (hv : (uses i).rv = []) (hk : (uses i).rk = []) (hb : b s = true ↔ taken)
    (hf : f s = onCur s g) (hx : g (curCore s) = x) : (taken → Leaves i s x) ∧ (¬taken → Leaves i s (curCore s)) := by
  refine ⟨fun ht => ?_, fun ht => ?_⟩
  · exact leaves_of h he hg hw hv hk rfl rfl rfl rfl (Nat.le_refl 0) g ((if_pos (hb.mpr ht)).trans hf) hx
  · exact leaves_none (he.trans ((issue_ok h slotBR i noTests _ hg hw hv hk rfl rfl rfl rfl (Nat.le_refl 0)).trans
      (congrArg _ (if_neg (mt hb.mp ht)))))

/-- A transfer with a link. -/
theorem setAfter_pushLink (s : State) (d : Nat) (t : After) :
    setAfter (pushLink s d) t = onCur s fun c => { pushResult c (destG c d) (.s (blockOf c + 64)) 1 0 with after := t } := onCur_onCur _ _ _

theorem br_leaves {s : State} (p : Fin 8) (n : Bool) (o : BitVec 18) (h : CanIssue (curCore s) [] [] [] [] 0) :
    let taken := (readP (curCore s) p).toNat % 2 = 1 ↔ n = false
    (taken → Leaves (.br p n o) s { curCore s with after := .branch (blockTarget (curCore s).pc o) }) ∧
      (¬taken → Leaves (.br p n o) s (curCore s)) :=
  leaves_branch h (b := fun s => bitTaken (curCore s) p n) (f := fun s => setAfter s (.branch (branchTarget (curCore s) o)))
    rfl rfl rfl rfl rfl (bitTaken_iff _ p n) rfl (by rw [branchTarget_eq])

theorem bp_leaves {s : State} (p : Fin 8) (n : Bool) (o : BitVec 18) (h : CanIssue (curCore s) [] [] [] [] 0) :
    let taken := readP (curCore s) p ≠ 0 ↔ n = false
    (taken → Leaves (.bp p n o) s { curCore s with after := .branch (blockTarget (curCore s).pc o) }) ∧
      (¬taken → Leaves (.bp p n o) s (curCore s)) :=
  leaves_branch h (b := fun s => anyTaken (curCore s) p n) (f := fun s => setAfter s (.branch (branchTarget (curCore s) o)))
    rfl rfl rfl rfl rfl (anyTaken_iff _ p n) rfl (by rw [branchTarget_eq])

theorem call_leaves {s : State} (p : Fin 8) (n : Bool) (o : BitVec 18) (h : CanIssue (curCore s) [] [55] [] [] 0) :
    let taken := (readP (curCore s) p).toNat % 2 = 1 ↔ n = false
    (taken → Leaves (.call p n o) s { linked (curCore s) 55 with after := .branch (blockTarget (curCore s).pc o) }) ∧
      (¬taken → Leaves (.call p n o) s (curCore s)) :=
  leaves_branch h (b := fun s => bitTaken (curCore s) p n) (f := fun s => setAfter (pushLink s 55) (.branch (branchTarget (curCore s) o)))
    rfl rfl rfl rfl rfl (bitTaken_iff _ p n) (setAfter_pushLink s 55 _) (by rw [pushResult_link, branchTarget_eq])

/-! ### Indirect branches (R123) -/

theorem canonical_iff (t : Word) : canonical t = true ↔ t.toNat / 2 ^ 57 = 0 := by
  have := t.isLt
  rw [canonical, beq_iff_eq, bits]
  omega

theorem ownerOf_eq (t : Word) : ownerOf t = t.toNat / 2 ^ 47 % 1024 := rfl

/-- A target that is no multiple of 64 fails with SUB 2. -/
theorem targetFail_misaligned {s : State} {t : Word} (h : t.toNat % 64 ≠ 0) :
    targetFail s t = some { Cause.precise 0x02 2 slotBR with tval := t } := if_pos (by rwa [bits_zero])

/-- One that is, is judged by its form and its owner, with SUB 3. -/
theorem targetFail_aligned {s : State} {t : Word} (h : t.toNat % 64 = 0) : targetFail s t =
    if t.toNat / 2 ^ 57 = 0 ∧ t.toNat / 2 ^ 47 % 1024 = s.port.rank then none else some { Cause.precise 0x02 3 slotBR with tval := t } := by
  have hfail : (!canonical t || ownerOf t != s.port.rank) = true ↔ ¬(t.toNat / 2 ^ 57 = 0 ∧ t.toNat / 2 ^ 47 % 1024 = s.port.rank) := by
    rw [← canonical_iff, ← ownerOf_eq, Bool.or_eq_true, Bool.not_eq_true', bne_iff_ne, not_and_or, Bool.not_eq_true]
  rw [targetFail, if_neg (by rw [bits_zero]; exact not_not.mpr h), failIf, if_congr hfail rfl rfl, ite_not]

theorem targetFail_good {s : State} {t : Word} (h : goodTarget s t) : targetFail s t = none := by
  obtain ⟨halign, hform, howner⟩ := h
  rw [targetFail_aligned halign, if_pos ⟨hform, howner⟩]

/-- The traps of an indirect branch to `t`, by the first condition that `t` fails. -/
theorem trap_target {s : State} {rg wg : List Nat} {i : Instr} {t : Word} {f : State → State} (h : CanIssue (curCore s) rg wg [] [] 0)
    (he : exec i s = issue s slotBR i { noTests with align := targetFail s t } f) (hg : (uses i).rg = rg) (hw : (uses i).wg = wg)
    (hv : (uses i).rv = []) (hk : (uses i).rk = []) (hp : (curCore s).phase = .alone) :
    (t.toNat % 64 ≠ 0 → exec i s = .next (takeTrap s s.cur { Cause.precise 0x02 2 2 with tval := t })) ∧
    (t.toNat % 64 = 0 → ¬(t.toNat / 2 ^ 57 = 0 ∧ t.toNat / 2 ^ 47 % 1024 = s.port.rank) →
      exec i s = .next (takeTrap s s.cur { Cause.precise 0x02 3 2 with tval := t })) :=
  ⟨fun halign => trap_align h he hg hw hv hk hp rfl (targetFail_misaligned halign) rfl,
    fun halign hbad => trap_align h he hg hw hv hk hp rfl ((targetFail_aligned halign).trans (if_neg hbad)) rfl⟩

theorem exec_jr (d a : Fin 64) (s : State) : exec (.jr d a) s =
    issue s slotBR (.jr d a) { noTests with align := targetFail s (readG (curCore s) a) } fun t =>
      popsOf (setAfter (if d.val = 0 then t else pushLink t d) (.branch (readG (curCore s) a))) (.jr d a) := rfl

theorem exec_ret (s : State) : exec .ret s =
    issue s slotBR .ret { noTests with align := targetFail s (readG (curCore s) 55) } fun t =>
      setAfter t (.branch (readG (curCore s) 55)) := rfl

/-- The effect of jr on the issuing core's record. -/
theorem jr_effect (s : State) (d a : Fin 64) (t : Word) :
    popsOf (setAfter (if d.val = 0 then s else pushLink s d) (.branch t)) (.jr d a) = onCur s fun c =>
      notePops { (if d.val = 0 then c else pushResult c (destG c d) (.s (blockOf c + 64)) 1 0) with after := .branch t } [a.val] := by
  split
  · exact onCur_onCur _ _ _
  · rw [setAfter_pushLink]
    exact onCur_onCur _ _ _

theorem jr_leaves {s : State} {d a : Fin 64} (h : CanIssue (curCore s) [a.val] [d.val] [] [] 0) (ht : goodTarget s (readG (curCore s) a)) :
    Leaves (.jr d a) s
      { (if d.val = 0 then curCore s else linked (curCore s) d) with
        after := .branch (readG (curCore s) a), pops := popped (curCore s) [a.val] } := by
  refine leaves_of h (exec_jr d a s) rfl rfl rfl rfl rfl (targetFail_good ht) rfl rfl (Nat.le_refl 0) _ (jr_effect s d a _) ?_
  rw [pushResult_link]
  split <;> rfl

theorem ret_leaves {s : State} (h : CanIssue (curCore s) [55] [] [] [] 0) (ht : goodTarget s (readG (curCore s) 55)) :
    Leaves .ret s { curCore s with after := .branch (readG (curCore s) 55) } :=
  leaves_of h (exec_ret s) rfl rfl rfl rfl rfl (targetFail_good ht) rfl rfl (Nat.le_refl 0)
    (fun c => { c with after := .branch (readG (curCore s) 55) }) rfl rfl

/-- Settles O5: a branch notes its transfer where its condition holds, and the align test of jr and ret is the rule's three conditions. -/
theorem branchTargets : Obligations.BranchTargets := by
  refine ⟨fun s p n o => ⟨fun h => ?_, call_leaves p n o⟩, fun s d a => jr_leaves, fun s => ret_leaves, fun s d a t h hp ht => ?_,
    fun s t h hp ht => ?_⟩
  · obtain ⟨hbr, hbrNot⟩ := br_leaves p n o h
    obtain ⟨hbp, hbpNot⟩ := bp_leaves p n o h
    exact ⟨hbr, hbrNot, hbp, hbpNot⟩
  · subst ht
    exact trap_target h (exec_jr d a s) rfl rfl rfl rfl hp
  · subst ht
    exact trap_target h (exec_ret s) rfl rfl rfl rfl hp

end Sys2Proof.Machine
end

section
/-! PROOFS. A shape write where a shadow copy lists one field twice (R246). -/

namespace Sys2Proof.Machine

/-- A core whose shadow copy lists field 0 of shape 0 twice, with value 1. -/
def twiceShadowed : Core := { Core.init with shadow := [(0, 1), (0, 1)] }

/-- A write of zero takes the first entry away, and the second shows. -/
theorem twiceShadowed_keeps : mget 0 (writeDest twiceShadowed (.shape 0 0) (.s 0)).shadow (16 * 0 + 0) = 1 := by decide

/-- Refutes O6: the last clause of shw speaks of every core record, those whose shadow copy lists a field twice among them; it
lacks the hypothesis that the keys rise. There a write of zero to the field leaves 1. -/
theorem not_prefixesNopAndShapeWrites : ¬Obligations.PrefixesNopAndShapeWrites := by
  rintro ⟨-, -, -, hshape⟩
  have hzero := (hshape twiceShadowed 0 0 0).2
  rw [twiceShadowed_keeps] at hzero
  exact absurd hzero (by decide)

end Sys2Proof.Machine
end

section
/-! PROOFS. What the names of registers and FIFO pairs read and write (R85 to R89, R127, R228). -/

namespace Sys2Proof.Machine

open Sys2Proof.Stmt

/-! ### Scalar names -/

section
variable (c : Core) (w : Word) {i : Nat}

theorem physG_rotating (hi : i < 16) : physG c (32 + i) = 32 + (i + c.seq.rho) % 16 := by
  rw [physG, if_pos (by omega), Nat.add_sub_cancel_left]

theorem physG_fixed (hi : i < 32 ∨ 48 ≤ i) : physG c i = i := if_neg (by omega)

/-- A name that is neither g0, nor of a FIFO pair, nor of the handler bank while that stands in, is one register. -/
theorem register_name {j : Nat} (h0 : i ≠ 0) (h56 : i < 56) (hbank : ¬(c.inH = true ∧ 48 ≤ i)) (hj : physG c i = j) :
    readG c i = c.g.getD j 0 ∧ writeDest c (destG c i) (.s w) = { c with g := c.g.set j w } := by
  subst hj
  constructor
  · rw [readG, if_neg h0, if_neg (by omega), if_neg hbank]
  · rw [destG, if_neg h0, if_neg (by omega), if_neg hbank]
    rfl

/-- In handler state g48 to g55 are the handler bank. -/
theorem readG_handler (hi : i < 8) (hh : c.inH = true) : readG c (48 + i) = c.hbank.getD i 0 := by
  rw [readG, if_neg (by omega), if_neg (by omega), if_pos ⟨hh, by omega⟩, Nat.add_sub_cancel_left]

theorem writeG_handler (hi : i < 8) (hh : c.inH = true) :
    writeDest c (destG c (48 + i)) (.s w) = { c with hbank := c.hbank.set i w } := by
  rw [destG, if_neg (by omega), if_neg (by omega), if_pos ⟨hh, by omega⟩, Nat.add_sub_cancel_left]
  rfl

/-! ### Predicate, vector and capability names -/

theorem readP_register (h0 : i ≠ 0) : readP c i = c.p.getD i 0 := if_neg h0

theorem writeP_register (h0 : i ≠ 0) : writeDest c (destP i) (.s w) = { c with p := c.p.set i w } := by
  rw [destP, if_neg h0]
  rfl

theorem physV_fixed (hi : i < 16) : physV c i = i := if_neg (by omega)

theorem physV_rotating (hi : i < 16) : physV c (16 + i) = 16 + (i + c.seq.rho) % 16 := by
  rw [physV, if_pos (by omega), Nat.add_sub_cancel_left]

theorem writeV_register (x : VWord) (n : Nat) : writeDest c (destV c n) (.v x) = { c with v := c.v.set (physV c n) x } := rfl

theorem readK_writeK (hk : i < c.k.length) (y : BitVec 128) (t : Bool) : readK (writeDest c (.k i) (.k y t)) i = (y, t) := by
  simp [readK, writeDest, listSet, Val.cap, List.getD_eq_getElem?_getD, hk]

end

theorem registerNames : Stmt.RegisterNames := by
  rintro c w x ⟨-, -, -, -, hk⟩
  refine ⟨⟨rfl, rfl, rfl, rfl⟩, fun i h1 h32 => ?_, fun i hi => ?_, fun i hi hh => ?_,
    fun i hi hh => ⟨readG_handler c hi hh, writeG_handler c w hi hh⟩,
    fun i h1 _ => ⟨readP_register c (by omega), writeP_register c w (by omega)⟩,
    fun i hi => ?_, fun i hi => ?_, fun i hi => readK_writeK c (hk ▸ hi)⟩
  · exact register_name c w (by omega) (by omega) (by omega) (physG_fixed c (.inl h32))
  · exact register_name c w (by omega) (by omega) (by omega) (physG_rotating c hi)
  · exact register_name c w (by omega) (by omega) (by simp [hh]) (physG_fixed c (.inr (by omega)))
  · rw [readV, writeV_register, physV_fixed c hi]
    exact ⟨rfl, rfl⟩
  · rw [readV, writeV_register, physV_rotating c hi]
    exact ⟨rfl, rfl⟩

/-! ### FIFO names -/

section
variable (c : Core) {i : Nat}

theorem fifoAt_setFifo_same (f : Fifo) : fifoAt (setFifo c i f) i = f := mget_mset_same ..

theorem fifoAt_setFifo_other {j : Nat} (f : Fifo) (h : j ≠ i) : fifoAt (setFifo c i f) j = fifoAt c j := mget_mset_other _ _ _ _ _ h

/-- g56 + i shows the next word of `fi`. -/
theorem readG_fifo {x : Word} {r : List Word} (hi : (fifoAt c i).fi = x :: r) : readG c (56 + i) = x := by
  rw [readG, if_neg (by omega), if_pos (by omega), Nat.add_sub_cancel_left, hi]
  rfl

/-- A word written to it goes to the end of `fo`. -/
theorem writeG_fifo (w : Word) : writeDest c (destG c (56 + i)) (.s w) =
    setFifo c i { fifoAt c i with fo := (fifoAt c i).fo ++ [w], resv := (fifoAt c i).resv - 1 } := by
  rw [destG, if_neg (by omega), if_pos (by omega), Nat.add_sub_cancel_left]
  rfl

/-- However often a bundle's syllables read a FIFO name, its commit takes one word. -/
theorem applyPops_one (h : c.pops = [i]) : applyPops c =
    { setFifo c i { fifoAt c i with fi := (fifoAt c i).fi.tail, owed := (fifoAt c i).owed + 1 } with pops := [] } := by
  rw [applyPops, h]
  rfl

end

theorem fifoAliases : Stmt.FifoAliases := by
  refine fun c i w _ => ⟨fun x r => readG_fifo c, ?_, fun h => ?_⟩
  · rw [writeG_fifo]
    exact ⟨by rw [fifoAt_setFifo_same], by rw [fifoAt_setFifo_same], fun j hj => fifoAt_setFifo_other c _ hj, rfl⟩
  · rw [applyPops_one c h]
    have hsame := fifoAt_setFifo_same c (i := i) { fifoAt c i with fi := (fifoAt c i).fi.tail, owed := (fifoAt c i).owed + 1 }
    exact ⟨congrArg Fifo.fi hsame, congrArg Fifo.owed hsame, fun j hj => fifoAt_setFifo_other c _ hj, rfl⟩

/-- Settles O22: each name is one place, and the pops of a bundle are a list without repetitions. -/
theorem registerAndFifoNames : Obligations.RegisterAndFifoNames := ⟨registerNames, fifoAliases⟩

end Sys2Proof.Machine
end

section
/-! PROOFS. Memory instructions at issue: effective addresses, the tests an access passes, and the access it queues (R196, R197, R199 to
R203, R240, R294). -/

namespace Sys2Proof.Machine

open Sys2Proof.Stmt

/-! ### Effective addresses (R196) -/

theorem locAddr_ofInt (a : Word) (d : Int) :
    locAddr a (BitVec.ofInt 64 d) = BitVec.ofInt 64 ((a.toNat / 2 ^ 47 * 2 ^ 47 : Nat) + ((a.toNat : Int) + d) % 2 ^ 47) := by
  have := a.isLt
  rw [locAddr, setBits, bits_zero, BitVec.toNat_ofInt]
  have hoff : (((a.toNat + (d % (2 ^ 64 : Nat)).toNat) % 2 ^ 47 : Nat) : Int) = ((a.toNat : Int) + d) % 2 ^ 47 := by omega
  rw [← hoff, ← Int.natCast_add, BitVec.ofInt_natCast]
  congr 1
  omega

theorem loc_ofInt (sp : Bool) (a : Word) (d : Int) : loc sp a (BitVec.ofInt 64 d) = place sp a d := by
  cases sp with
  | false => exact locAddr_ofInt a d
  | true => exact (by rw [BitVec.ofInt_add, BitVec.ofInt_natCast, BitVec.ofNat_toNat, BitVec.setWidth_eq] :
      a + BitVec.ofInt 64 d = BitVec.ofInt 64 (a.toNat + d))

theorem loc_ofNat (sp : Bool) (a : Word) (d : Nat) : loc sp a (BitVec.ofNat 64 d) = place sp a d := by
  rw [← loc_ofInt, BitVec.ofInt_natCast]

theorem elBytes_eq (e : El) : elBytes e = wide e := by cases e <;> rfl

/-! ### The tests of an access (R197, R240, R294) -/

theorem firstFail_none {l : List (Option Cause)} (h : ∀ x ∈ l, x = none) : firstFail l = none := by
  induction l with
  | nil => rfl
  | cons x r ih =>
    obtain rfl := h x List.mem_cons_self
    exact ih fun y hy => h y (List.mem_cons_of_mem _ hy)

theorem failIf_false {b : Bool} (h : b = false) (k : Cause) : failIf b k = none := if_neg (by simp [h])

section
variable {s : State} {sp : Bool} {w : Word}

theorem alignFail_none {n : Nat} (slot : Nat) (h : w.toNat % n = 0) : alignFail slot w n = none := failIf_false (by simp [h]) _

theorem domainFail_none (slot : Nat) (h : inReach s false w) : domainFail s slot w = none := by
  refine failIf_false ?_ _
  rcases h with h | h | h
  · cases h
  · have hc : canonical w = false := Bool.eq_false_iff.mpr (mt (canonical_iff w).mp h)
    rw [hc, Bool.false_and]
  · have hd : inDomain s w = true := List.contains_iff_mem.mpr h
    rw [hd, Bool.not_true, Bool.and_false]

theorem farAddr_iff : farAddr s sp w = true ↔ sp = false ∧ w.toNat / 2 ^ 57 = 0 ∧ w.toNat / 2 ^ 47 % 1024 ≠ s.port.rank := by
  rw [farAddr, Bool.and_eq_true, Bool.and_eq_true, Bool.not_eq_true', canonical_iff, bne_iff_ne, ownerOf_eq, and_assoc]

/-- A landing slot is free, in the words of the model. -/
theorem slotHold_eq (far : Bool) : slotHold s far =
    if far = true ∧ ¬(slotsHeld (curCore s) 13 + (slotsWanted s + 1) ≤ (curCore s).csr.resvcfg.toNat % 128 ∧
      landingUsed s + (slotsWanted s + 1) ≤ 8192) then some { sub := 4, obj := 0x104, tl := 15 } else none := by
  simp only [slotHold, bits_zero, Bool.and_eq_true, Bool.not_eq_true', decide_eq_false_iff_not, Nat.reducePow]

theorem slotHold_none {far : Bool} (h : far = true → reach s sp w ∧ farAddr s sp w = true) : slotHold s far = none := by
  rw [slotHold_eq, if_neg]
  rintro ⟨hf, hno⟩
  obtain ⟨⟨-, hreach⟩, hfar⟩ := h hf
  obtain ⟨hsp, hform, howner⟩ := farAddr_iff.mp hfar
  rcases hreach with h | h | h | h
  · rw [hsp] at h; cases h
  · exact h hform
  · exact howner h
  · exact hno h

theorem poisonFail_none {n : Nat} {k : Kind} (slot : Nat) (h : sound s sp w n k) : poisonFail s slot sp w n k = none := by
  obtain ⟨hhere, hfar⟩ := h
  refine failIf_false ?_ _
  split
  next hown =>
    have hclean := hhere (by simpa [ownerOf_eq] using hown)
    split
    next he => rw [hclean _ _ he, Bool.and_false]
    next => exact Bool.and_false _
  next hown =>
    have hother : sp = false ∧ w.toNat / 2 ^ 47 % 1024 ≠ s.port.rank := by simpa [ownerOf_eq] using hown
    rw [hfar hother.1 hother.2, Bool.and_false]

end

/-- Each address is aligned, in reach, with a landing slot free where it needs one. -/
def Passes (s : State) (sp : Bool) (as : List Word) (n : Nat) : Prop := ∀ w ∈ as, w.toNat % n = 0 ∧ reach s sp w

section
variable {s : State} {sp : Bool} {as : List Word} {n : Nat} (ents : Nat)

theorem memTests_pass (h : Passes s sp as n) :
    (memTests s sp as n ents).align = none ∧ (memTests s sp as n ents).dom = none ∧ (memTests s sp as n ents).hold = none := by
  refine ⟨firstFail_none ?_, ?_, ?_⟩
  · simp only [List.mem_map]
    rintro _ ⟨w, hw, rfl⟩
    exact alignFail_none _ (h w hw).1
  · show (if sp = true then none else firstFail (as.map fun a => domainFail s slotMM a)) = none
    split
    next => rfl
    next hsp =>
      refine firstFail_none ?_
      simp only [List.mem_map]
      rintro _ ⟨w, hw, rfl⟩
      exact domainFail_none _ (Bool.eq_false_iff.mpr hsp ▸ (h w hw).2.1)
  · show slotHold s (as.any (farAddr s sp)) = none
    by_cases hany : as.any (farAddr s sp) = true
    · obtain ⟨w, hw, hfar⟩ := List.any_eq_true.mp hany
      exact slotHold_none fun _ => ⟨(h w hw).2, hfar⟩
    · rw [slotHold_eq, if_neg fun hf => hany hf.1]

theorem loadTests_pass (h : Passes s sp as n) (hs : ∀ w ∈ as, sound s sp w n .load) :
    (loadTests s sp as n ents).align = none ∧ (loadTests s sp as n ents).dom = none ∧ (loadTests s sp as n ents).hold = none := by
  obtain ⟨halign, hdom, hhold⟩ := memTests_pass ents h
  refine ⟨halign, firstFail_none ?_, hhold⟩
  simp only [List.mem_cons, List.mem_map]
  rintro _ (rfl | ⟨w, hw, rfl⟩)
  · exact hdom
  · exact poisonFail_none _ (hs w hw)

end

/-! ### The access that is queued -/

/-- The access of the issuing task, numbered, is its request. -/
theorem numbered_eq_request (s : State) (op : AccOp) (d : Dest) (land ents : Nat) (img : VWord) (rx : Bool) :
    { newAccess s op d ents rx with land := land, img := img, id := (curCore s).issued + 1 } = request s op d land ents img rx := by
  simp [newAccess, request, taskWho, agentId, keyCore]

/-- A memory instruction whose tests pass queues its access. -/
theorem leaves_memory {s : State} {rg wg rv : List Nat} {n : Nat} {i : Instr} {t : Tests} {f : State → State} {els : List Elem} {fmt : LoadFmt}
    {d : Dest} {land : Nat} {img : VWord} {rx : Bool} (h : CanIssue (curCore s) rg wg rv [] n) (he : exec i s = issue s slotMM i t f)
    (hf : f s = popsOf (pushMem s els fmt 0 d land n img rx) i) (hu : uses i = ⟨rg, wg, rv, (uses i).wv, [], [], []⟩)
    (hopnd : t.opnd = none) (hents : t.ents = n) (ht : t.align = none ∧ t.dom = none ∧ t.hold = none) :
    Leaves i s (queued (curCore s) rg (request s (.mem els fmt 0) d land n img rx)) := by
  obtain ⟨halign, hdom, hhold⟩ := ht
  exact leaves_queued h he (by rw [hu]) (by rw [hu]) (by rw [hu]) (by rw [hu]) hopnd halign hdom hhold hents.le _ hf
    (congrArg _ (numbered_eq_request s _ _ _ _ _ _))

/-! ### Scalar loads and stores (R199) -/

section
variable {s : State} {sp : Bool} {z : Fin 4} {r x : Bool} {d a : Fin 64} {o : BitVec 7}

/-- The address of a scalar access. -/
def scalarPlace (s : State) (sp : Bool) (z : Fin 4) (a : Fin 64) (o : BitVec 7) : Word :=
  place sp (readG (curCore s) a) (o.toInt * (2 ^ z.val : Nat))

theorem exec_ld (s : State) (sp : Bool) (z : Fin 4) (r x : Bool) (d a : Fin 64) (o : BitVec 7) : exec (.ld sp z r x d a o) s =
    issue s slotMM (.ld sp z r x d a o) (loadTests s sp [scalarPlace s sp z a o] (2 ^ z.val) 1) fun t =>
      popsOf (pushMem t [{ sp := sp, addr := scalarPlace s sp z a o, ix := 0, op := .load (2 ^ z.val) false }] (.scalar (2 ^ z.val) x) 0
        (destG (curCore t) d) (loadLand (curCore t) sp) 1 0 r) (.ld sp z r x d a o) := by
  show execLd sp z r x d a o s = _
  rw [scalarPlace, ← loc_ofInt]
  rfl

theorem exec_st (s : State) (sp : Bool) (z : Fin 4) (r : Bool) (d a : Fin 64) (o : BitVec 7) : exec (.st sp z r d a o) s =
    issue s slotMM (.st sp z r d a o) (memTests s sp [scalarPlace s sp z a o] (2 ^ z.val) 1) fun t =>
      popsOf (pushMem t
        [{ sp := sp, addr := scalarPlace s sp z a o, ix := 0, op := .store (leBytes (2 ^ z.val) (readG (curCore t) d).toNat) false }]
        .none 0 .none 0 1 0 r) (.st sp z r d a o) := by
  show execSt sp z r d a o s = _
  rw [scalarPlace, ← loc_ofInt]
  rfl

theorem passes_singleton {w : Word} {n : Nat} (halign : w.toNat % n = 0) (hreach : reach s sp w) : Passes s sp [w] n := by
  intro v hv
  rw [List.mem_singleton.mp hv]
  exact ⟨halign, hreach⟩

theorem ld_queued (h : CanIssue (curCore s) [a.val] [d.val] [] [] 1) (hw : (scalarPlace s sp z a o).toNat % 2 ^ z.val = 0)
    (hreach : reach s sp (scalarPlace s sp z a o)) (hsound : sound s sp (scalarPlace s sp z a o) (2 ^ z.val) .load) :
    Leaves (.ld sp z r x d a o) s (queued (curCore s) [a.val] (request s
      (.mem [{ sp := sp, addr := scalarPlace s sp z a o, ix := 0, op := .load (2 ^ z.val) false }] (.scalar (2 ^ z.val) x) 0)
      (destG (curCore s) d) (landing (curCore s) sp) 1 0 r)) :=
  leaves_memory h (exec_ld s sp z r x d a o) rfl rfl rfl rfl
    (loadTests_pass 1 (passes_singleton hw hreach) fun _ hv => List.mem_singleton.mp hv ▸ hsound)

theorem st_queued (h : CanIssue (curCore s) [a.val, d.val] [] [] [] 1) (hw : (scalarPlace s sp z a o).toNat % 2 ^ z.val = 0)
    (hreach : reach s sp (scalarPlace s sp z a o)) :
    Leaves (.st sp z r d a o) s (queued (curCore s) [a.val, d.val] (request s
      (one sp (scalarPlace s sp z a o) (.store (leBytes (2 ^ z.val) (readG (curCore s) d).toNat) false)) .none 0 1 0 r)) :=
  leaves_memory h (exec_st s sp z r d a o) rfl rfl rfl rfl (memTests_pass 1 (passes_singleton hw hreach))

/-- An access in reach that has no landing slot is one to another die. -/
theorem far_of_not_reach {w : Word} (hin : inReach s sp w) (hno : ¬reach s sp w) :
    farAddr s sp w = true ∧ ¬slotFree s (w.toNat / 2 ^ 47 % 1024) := by
  have hslot : ¬(sp = true ∨ w.toNat / 2 ^ 57 ≠ 0 ∨ slotFree s (w.toNat / 2 ^ 47 % 1024)) := fun h => hno ⟨hin, h⟩
  obtain ⟨hsp, hform, hfree⟩ := not_or.mp hslot |>.imp id not_or.mp
  exact ⟨farAddr_iff.mpr ⟨Bool.eq_false_iff.mpr hsp, not_not.mp hform, fun h => hfree (.inl h)⟩, hfree⟩

theorem slotHold_some {w : Word} (hin : inReach s sp w) (hno : ¬reach s sp w) :
    slotHold s ([w].any (farAddr s sp)) = some { sub := 4, obj := 0x104, tl := 15 } := by
  obtain ⟨hfar, hfree⟩ := far_of_not_reach hin hno
  rw [slotHold_eq, if_pos ⟨by simp [hfar], fun h => hfree (.inr h)⟩]

theorem memTests_hold {w : Word} {n : Nat} (halign : w.toNat % n = 0) (hin : inReach s sp w) (hno : ¬reach s sp w) :
    (memTests s sp [w] n 1).align = none ∧ (memTests s sp [w] n 1).dom = none ∧
      (memTests s sp [w] n 1).hold = some { sub := 4, obj := 0x104, tl := 15 } := by
  obtain ⟨hsp, -, -⟩ := farAddr_iff.mp (far_of_not_reach hin hno).1
  refine ⟨firstFail_none ?_, ?_, slotHold_some hin hno⟩
  · simpa using alignFail_none slotMM halign
  · subst hsp
    exact firstFail_none (by simpa using domainFail_none slotMM hin)

theorem st_held (h : CanIssue (curCore s) [a.val, d.val] [] [] [] 1) (hp : (curCore s).phase = .alone)
    (hw : (scalarPlace s sp z a o).toNat % 2 ^ z.val = 0) (hin : inReach s sp (scalarPlace s sp z a o))
    (hno : ¬reach s sp (scalarPlace s sp z a o)) :
    exec (.st sp z r d a o) s = .next (noteHold s { sub := 4, obj := 0x104, tl := 15, slot := 5, stg := 0 }) := by
  obtain ⟨halign, hdom, hhold⟩ := memTests_hold hw hin hno
  exact hold_own h (exec_st s sp z r d a o) rfl rfl rfl rfl hp rfl halign hdom hhold

end

/-! ### Vector loads and stores (R200, R201) -/

theorem activeElems_eq (c : Core) (p n : Nat) : activeElems c p n = (List.range n).filter fun e => (readP c p).toNat.testBit (e % 64) := rfl

theorem mem_activeElems {c : Core} {p n k : Nat} : k ∈ activeElems c p n ↔ k < n ∧ active c p k := by
  rw [activeElems_eq, List.mem_filter, List.mem_range, active]

section
variable {s : State} {sp : Bool} {e : El} {r : Bool} {p : Fin 8} {d : Fin 32} {a g : Fin 64}

/-- The elements of a vector access, from the places of its active ones. -/
theorem elements_of_places (c : Core) (sp : Bool) (w p : Nat) (at_ : Nat → Word) (op : Nat → MemOp) :
    (((activeElems c p (256 / w)).map fun k => (k, at_ k)).map fun k : Nat × Word => { sp := sp, addr := k.2, ix := k.1, op := op k.1 : Elem }) =
      elements c sp w p at_ op := by
  rw [List.map_map]
  rfl

theorem addresses_of_places (l : List Nat) (at_ : Nat → Word) : (l.map fun k => (k, at_ k)).map Prod.snd = l.map at_ := by
  rw [List.map_map]
  rfl

/-- The places of a vector access with a stride. -/
def stridePlace (s : State) (sp : Bool) (a : Fin 64) (stride : Int) (k : Nat) : Word := place sp (readG (curCore s) a) (k * stride)

theorem passes_active {w : Nat} {at_ : Nat → Word} (h : ∀ k < 256 / w, active (curCore s) p k → (at_ k).toNat % w = 0 ∧ reach s sp (at_ k)) :
    Passes s sp ((activeElems (curCore s) p (256 / w)).map at_) w := by
  intro v hv
  obtain ⟨k, hk, rfl⟩ := List.mem_map.mp hv
  obtain ⟨hlt, hact⟩ := mem_activeElems.mp hk
  exact h k hlt hact

theorem vectorLoad_eq (s : State) (i : Instr) (sp : Bool) (e : El) (r : Bool) (p d : Nat) (a : Fin 64) (stride : Int) :
    vectorLoad s i sp e r p d a stride =
      issue s slotMM i (loadTests s sp ((activeElems (curCore s) p (256 / wide e)).map (stridePlace s sp a stride)) (wide e) 1) fun t =>
        popsOf (pushMem t (elements (curCore s) sp (wide e) p (stridePlace s sp a stride) fun _ => .load (wide e) false) (.vector (wide e)) 0
          (destV (curCore t) d) (loadLand (curCore t) sp) 1 (readV (curCore t) d) r) i := by
  have hplace : (fun k : Nat => (k, loc sp (readG (curCore s) a) (wordOfInt ((k : Int) * stride)))) = fun k => (k, stridePlace s sp a stride k) := by
    funext k
    rw [wordOfInt, loc_ofInt]
    rfl
  simp only [vectorLoad, elBytes_eq, hplace, addresses_of_places, ← elements_of_places]

theorem vectorLoad_queued {i : Instr} {rg : List Nat} {stride : Int} (h : CanIssue (curCore s) rg [] (merged p d) [] 1)
    (he : exec i s = vectorLoad s i sp e r p d a stride) (hu : uses i = ⟨rg, [], merged p d, (uses i).wv, [], [], []⟩)
    (hfits : ∀ k < 256 / wide e, active (curCore s) p k →
      (stridePlace s sp a stride k).toNat % wide e = 0 ∧ reach s sp (stridePlace s sp a stride k))
    (hclean : ∀ k < 256 / wide e, active (curCore s) p k → sound s sp (stridePlace s sp a stride k) (wide e) .load) :
    Leaves i s (queued (curCore s) rg (request s
      (.mem (elements (curCore s) sp (wide e) p (stridePlace s sp a stride) fun _ => .load (wide e) false) (.vector (wide e)) 0)
      (destV (curCore s) d) (landing (curCore s) sp) 1 (readV (curCore s) d) r)) := by
  refine leaves_memory h (he.trans (vectorLoad_eq s i sp e r p d a stride)) rfl hu rfl rfl (loadTests_pass 1 (passes_active hfits) ?_)
  intro v hv
  obtain ⟨k, hk, rfl⟩ := List.mem_map.mp hv
  obtain ⟨hlt, hact⟩ := mem_activeElems.mp hk
  exact hclean k hlt hact

theorem exec_vst (s : State) (sp : Bool) (e : El) (r : Bool) (p : Fin 8) (d : Fin 32) (a : Fin 64) : exec (.vst sp e r p d a) s =
    issue s slotMM (.vst sp e r p d a)
      (memTests s sp ((activeElems (curCore s) p (256 / wide e)).map (stridePlace s sp a (wide e))) (wide e) 1) fun t =>
      popsOf (pushMem t (elements (curCore s) sp (wide e) p (stridePlace s sp a (wide e)) fun k =>
        .store (leBytes (wide e) (elem (8 * wide e) (readV (curCore t) d) k)) false) .none 0 .none 0 1 0 r) (.vst sp e r p d a) := by
  have hplace : (fun k : Nat => (k, loc sp (readG (curCore s) a) (BitVec.ofNat 64 (k * wide e)))) =
      fun k => (k, stridePlace s sp a (wide e) k) := by
    funext k
    rw [loc_ofNat, stridePlace, Int.natCast_mul]
  show execVst sp e r p d a s = _
  simp only [execVst, elBytes_eq, hplace, addresses_of_places]
  congr 1
  funext t
  rw [← elements_of_places]

theorem vectorLoadsAndStoresIssue : Stmt.VectorLoadsAndStoresIssue := by
  intro s sp e r p d a g
  refine ⟨fun h => vectorLoad_queued h ?_ rfl, fun h => vectorLoad_queued h rfl rfl, fun h hfits => ?_⟩
  · show execVld sp e r p d a s = _
    rw [execVld, elBytes_eq]
  · exact leaves_memory h (exec_vst s sp e r p d a) rfl rfl rfl rfl (memTests_pass 1 (passes_active hfits))

end

/-! ### Gather and scatter (R202, R203) -/

theorem gxLimit_eq (c : Core) : gxLimit c = c.csr.gxcfg.toNat % 2 ^ 32 := bits_zero _ _

theorem lanesIn_eq (c : Core) (p b : Nat) :
    (gxLanes c p b).filter (fun l => decide (l.2 < gxLimit c)) = (lanesIn c p b).map fun i => (i, elem 32 (readV c b) i) := by
  rw [gxLanes, List.filter_map, activeElems_eq, List.filter_filter, lanesIn]
  refine congrArg _ (List.filter_congr fun i hi => ?_)
  rw [gxLimit_eq, Nat.mod_eq_of_lt (List.mem_range.mp hi)]
  exact Bool.and_comm _ _

theorem lanesOut_eq (c : Core) (p b : Nat) :
    (gxLanes c p b).filter (fun l => decide (gxLimit c ≤ l.2)) = (lanesOut c p b).map fun i => (i, elem 32 (readV c b) i) := by
  rw [gxLanes, List.filter_map, activeElems_eq, List.filter_filter, lanesOut]
  refine congrArg _ (List.filter_congr fun i hi => ?_)
  rw [gxLimit_eq, ← decide_not, decide_eq_decide.mpr Nat.not_lt, Nat.mod_eq_of_lt (List.mem_range.mp hi)]
  exact Bool.and_comm _ _

theorem countLanes_eq (c : Core) (p b : Nat) : countLanes c p b = counted c p b := by
  rw [countLanes, lanesOut_eq, List.length_map, counted]

section
variable {s : State} {sp : Bool} {e : El} {r : Bool} {p : Fin 8} {d : Fin 32} {a : Fin 64} {b : Fin 32}

/-- The place of a lane's element. -/
def lanePlace (s : State) (sp : Bool) (w : Nat) (a : Fin 64) (b : Fin 32) (i : Nat) : Word :=
  place sp (readG (curCore s) a) ((elem 32 (readV (curCore s) b) i * w : Nat) : Int)

theorem gxAddrs_eq (s : State) (sp : Bool) (w : Nat) (p : Fin 8) (a : Fin 64) (b : Fin 32) :
    gxAddrs (curCore s) sp w p a b = (lanesIn (curCore s) p b).map fun i => (i, lanePlace s sp w a b i) := by
  rw [gxAddrs, lanesIn_eq, List.map_map]
  congr 1
  funext i
  exact congrArg (i, ·) (loc_ofNat sp _ _)

/-- The elements of an access by lanes. -/
def laneElems (s : State) (sp : Bool) (w : Nat) (p : Fin 8) (a : Fin 64) (b : Fin 32) (op : Nat → MemOp) : List Elem :=
  (lanesIn (curCore s) p b).map fun i => { sp := sp, addr := lanePlace s sp w a b i, ix := i, op := op i }

theorem laneElems_eq (s : State) (sp : Bool) (w : Nat) (p : Fin 8) (a : Fin 64) (b : Fin 32) (op : Nat → MemOp) :
    (((lanesIn (curCore s) p b).map fun i => (i, lanePlace s sp w a b i)).map fun k : Nat × Word =>
      { sp := sp, addr := k.2, ix := k.1, op := op k.1 : Elem }) = laneElems s sp w p a b op := by
  rw [List.map_map]
  rfl

theorem passes_lanes {w : Nat}
    (h : ∀ i ∈ lanesIn (curCore s) p b, (lanePlace s sp w a b i).toNat % w = 0 ∧ reach s sp (lanePlace s sp w a b i)) :
    Passes s sp ((lanesIn (curCore s) p b).map (lanePlace s sp w a b)) w := by
  intro v hv
  obtain ⟨i, hi, rfl⟩ := List.mem_map.mp hv
  exact h i hi

theorem exec_vgath (s : State) (sp : Bool) (e : El) (r : Bool) (p : Fin 8) (d : Fin 32) (a : Fin 64) (b : Fin 32) :
    exec (.vgath sp e r p d a b) s = issue s slotMM (.vgath sp e r p d a b)
      (loadTests s sp ((lanesIn (curCore s) p b).map (lanePlace s sp (wide e) a b)) (wide e) 2) fun t =>
      popsOf (pushMem (onCur t fun c => counted c p b) (laneElems s sp (wide e) p a b fun _ => .load (wide e) false) (.vector (wide e)) 0
        (destV (curCore t) d) 0 2 (gathImage (curCore t) (wide e) d p b) r) (.vgath sp e r p d a b) := by
  show execVgath sp e r p d a b s = _
  simp only [execVgath, elBytes_eq, gxAddrs_eq, countLanes_eq, addresses_of_places, ← laneElems_eq]

theorem exec_vscat (s : State) (sp : Bool) (e : El) (r : Bool) (p : Fin 8) (d : Fin 32) (a : Fin 64) (b : Fin 32) :
    exec (.vscat sp e r p d a b) s = issue s slotMM (.vscat sp e r p d a b)
      (memTests s sp ((lanesIn (curCore s) p b).map (lanePlace s sp (wide e) a b)) (wide e) 2) fun t =>
      popsOf (pushMem (onCur t fun c => counted c p b) (laneElems s sp (wide e) p a b fun i =>
        .store (leBytes (wide e) (elem (8 * wide e) (readV (curCore t) d) i)) false) .none 0 .none 0 2 0 r) (.vscat sp e r p d a b) := by
  show execVscat sp e r p d a b s = _
  simp only [execVscat, elBytes_eq, gxAddrs_eq, countLanes_eq, addresses_of_places]
  congr 1
  funext t
  rw [← laneElems_eq]

/-- An access queued after the lanes out of range have been counted: what it carries is as before. -/
theorem pushMem_counted (s : State) (els : List Elem) (fmt : LoadFmt) (d' : Dest) (img : VWord) (rx : Bool) (i : Instr) :
    ∃ g, popsOf (pushMem (onCur s fun c => counted c p b) els fmt 0 d' 0 2 img rx) i = onCur s g ∧
      g (curCore s) = queued (counted (curCore s) p b) (uses i).rg (request s (.mem els fmt 0) d' 0 2 img rx) := by
  obtain ⟨f, hpush, hqueued⟩ := pushAccess_queued (onCur s fun c => counted c p b)
    { newAccess (onCur s fun c => counted c p b) (.mem els fmt 0) d' 2 rx with land := 0, img := img } i
  refine ⟨fun c => f (counted c p b), hpush.trans (onCur_onCur ..), ?_⟩
  rw [curCore_onCur] at hqueued
  refine hqueued.trans (congrArg _ ?_)
  rw [← numbered_eq_request, newAccess, newAccess, taskWho, taskWho, curCore_onCur]
  rfl

/-- A gather or scatter whose tests pass counts the lanes out of range and queues its access. -/
theorem leaves_lanes {rv : List Nat} {i : Instr} {t : Tests} {f : State → State} {els : List Elem} {fmt : LoadFmt} {d' : Dest} {img : VWord}
    (h : CanIssue (curCore s) [a.val] [] rv [] 2) (he : exec i s = issue s slotMM i t f)
    (hf : f s = popsOf (pushMem (onCur s fun c => counted c p b) els fmt 0 d' 0 2 img r) i)
    (hu : uses i = ⟨[a.val], [], rv, (uses i).wv, [], [], []⟩) (hopnd : t.opnd = none) (hents : t.ents = 2)
    (ht : t.align = none ∧ t.dom = none ∧ t.hold = none) :
    Leaves i s (queued (counted (curCore s) p b) [a.val] (request s (.mem els fmt 0) d' 0 2 img r)) := by
  obtain ⟨halign, hdom, hhold⟩ := ht
  obtain ⟨g, hg, hx⟩ := pushMem_counted (p := p) (b := b) s els fmt d' img r i
  rw [hu] at hx
  exact leaves_of h he (by rw [hu]) (by rw [hu]) (by rw [hu]) (by rw [hu]) hopnd halign hdom hhold hents.le g (hf.trans hg) hx

/-- The image a gather starts from: the lanes out of range are filled. -/
theorem elem_gathImage (c : Core) (e : El) (d p b k : Nat) (hk : k < 256 / wide e) : elem (8 * wide e) (gathImage c (wide e) d p b) k =
    if k ∈ lanesOut c p b then c.csr.gxcfg.toNat / 2 ^ 32 % 2 ^ (8 * wide e) else elem (8 * wide e) (readV c d) k := by
  have hfit : 8 * wide e * (k + 1) ≤ 2048 := by cases e <;> simp only [wide] at hk ⊢ <;> omega
  have hout : ((lanesOut c p b).map fun i => (i, elem 32 (readV c b) i)).map Prod.fst = lanesOut c p b := by
    rw [List.map_map]
    exact List.map_id _
  have hget : ∀ f : Nat → Nat, ((List.range (256 / wide e)).map f).getD k 0 = f k := fun f => by simp [List.getD_eq_getElem?_getD, hk]
  rw [gathImage, elem_fromElems _ _ _ hfit, lanesOut_eq, hout, hget, gxFill, bits_upper_half]
  by_cases hmem : k ∈ lanesOut c p b
  · rw [if_pos (List.contains_iff_mem.mpr hmem), if_pos hmem, Nat.mod_mod]
  · rw [if_neg (mt List.contains_iff_mem.mp hmem), if_neg hmem, Nat.mod_eq_of_lt (elem_lt _ _ _)]

theorem gatherAndScatterIssue : Stmt.GatherAndScatterIssue := by
  refine fun s sp e r p d a b => ⟨fun h hfits hclean => ⟨gathImage (curCore s) (wide e) d p b, ?_, elem_gathImage (curCore s) e d p b⟩,
    fun h hfits => ?_⟩
  · refine leaves_lanes h (exec_vgath s sp e r p d a b) rfl rfl rfl rfl (loadTests_pass 2 (passes_lanes hfits) ?_)
    intro v hv
    obtain ⟨i, hi, rfl⟩ := List.mem_map.mp hv
    exact hclean i hi
  · exact leaves_lanes h (exec_vscat s sp e r p d a b) rfl rfl rfl rfl (memTests_pass 2 (passes_lanes hfits))

end

end Sys2Proof.Machine
end

section
/-! PROOFS. O18 decides a free value. Whether a load without a landing slot is held rests on `Config.farPoison` (R240), which no proof can
learn: its clause on such loads has no hypothesis `sound`, and R240's test comes before the hold. -/

namespace Sys2Proof.Machine

open Sys2Proof.Stmt

section
variable {s : State} {sp : Bool} {z : Fin 4} {r x : Bool} {d a : Fin 64} {o : BitVec 7}

theorem poisonFail_far {w : Word} {n : Nat} {k : Kind} (slot : Nat) (hfar : farAddr s sp w = true) : poisonFail s slot sp w n k =
    if Config.farPoison s.time w.toNat = true then some { Cause.precise 0x08 2 slot with tval := w } else none := by
  obtain ⟨hsp, hform, howner⟩ := farAddr_iff.mp hfar
  have hown : (sp || ownerOf w == s.port.rank) = false := by simpa [hsp, ownerOf_eq] using howner
  rw [poisonFail, hown, if_neg (by decide), (canonical_iff w).mpr hform, Bool.true_and, failIf]

/-- A load to another die for which no landing slot is free: R240's test, before the hold. -/
theorem ld_without_slot (h : CanIssue (curCore s) [a.val] [d.val] [] [] 1) (hp : (curCore s).phase = .alone)
    (hw : (scalarPlace s sp z a o).toNat % 2 ^ z.val = 0) (hin : inReach s sp (scalarPlace s sp z a o))
    (hno : ¬reach s sp (scalarPlace s sp z a o)) : exec (.ld sp z r x d a o) s =
      .next (if Config.farPoison s.time (scalarPlace s sp z a o).toNat = true
        then takeTrap s s.cur { Cause.precise 0x08 2 slotMM with tval := scalarPlace s sp z a o }
        else noteHold s { sub := 4, obj := 0x104, tl := 15, slot := 5, stg := 0 }) := by
  obtain ⟨halign, hdom, hhold⟩ := memTests_hold hw hin hno
  have hpoison := poisonFail_far (n := 2 ^ z.val) (k := .load) slotMM (far_of_not_reach hin hno).1
  have hload : (loadTests s sp [scalarPlace s sp z a o] (2 ^ z.val) 1).dom =
      firstFail [none, poisonFail s slotMM sp (scalarPlace s sp z a o) (2 ^ z.val) .load] := by
    rw [← hdom]
    rfl
  rw [hpoison] at hload
  split
  next hbad =>
    rw [if_pos hbad] at hload
    exact trap_dom h (exec_ld s sp z r x d a o) rfl rfl rfl rfl hp rfl halign hload rfl
  next hgood =>
    rw [if_neg hgood] at hload
    exact hold_own h (exec_ld s sp z r x d a o) rfl rfl rfl rfl hp rfl halign hload hhold

end

/-- No byte of another die is ever poisoned for a load from here. -/
def NoFarPoison : Prop := ∀ t w : Nat, w < 2 ^ 57 → Config.farPoison t w = false

theorem scalarLoadsAndStoresIssue_of_noFarPoison (hclean : NoFarPoison) : Stmt.ScalarLoadsAndStoresIssue := by
  refine fun s sp z r x d a o hw => ⟨fun hreach => ⟨fun h => ld_queued h hw hreach, fun h => st_queued h hw hreach⟩,
    fun hin hno hp => ⟨fun h => (ld_without_slot h hp hw hin hno).trans ?_, fun h => st_held h hp hw hin hno⟩⟩
  obtain ⟨-, hform, -⟩ := farAddr_iff.mp (far_of_not_reach hin hno).1
  rw [if_neg (by rw [hclean _ _ (by unfold scalarPlace; omega)]; decide)]

/-! ### What the statement says of the free value -/

theorem freeze_hold (x : Core) : (freeze x).hold = none := by
  unfold freeze
  split <;> rfl

/-- A trap leaves its core without a held bundle. -/
theorem takeTrap_hold (s : State) (c : Nat) (k : Cause) : (coreAt (takeTrap s c k) c).hold = none := by
  rcases takeTrap_cases s c k with ⟨-, e⟩ | ⟨-, -, e⟩ | ⟨-, -, e⟩ <;> rw [e]
  · rw [(stopCore_cases ..).2.2, writeCause, freeze_hold]
  · rw [(enterHandler_cases ..).2.2, writeCause, freeze_hold]
  · rw [(stopCore_cases ..).2.2, writeCause, freeze_hold]

theorem takeTrap_ne_noteHold (s : State) (k : Cause) (h : Hold) : takeTrap s s.cur k ≠ noteHold s h := by
  intro e
  have hnone := takeTrap_hold s s.cur k
  rw [e, noteHold, onCur, coreAt_onCore_same] at hnone
  cases hnone

/-- The statement's clause on a load without a landing slot, at one state. -/
theorem farPoison_of_scalarLoadsAndStoresIssue (hall : Stmt.ScalarLoadsAndStoresIssue) {s : State} {a d : Fin 64} {w : Word}
    (hplace : scalarPlace s false 0 a 0 = w) (h : CanIssue (curCore s) [a.val] [d.val] [] [] 1) (hp : (curCore s).phase = .alone)
    (hin : inReach s false w) (hno : ¬reach s false w) : Config.farPoison s.time w.toNat = false := by
  subst hplace
  have hmod : (scalarPlace s false 0 a 0).toNat % 2 ^ (0 : Fin 4).val = 0 := by
    rw [Fin.val_zero, Nat.pow_zero, Nat.mod_one]
  have hheld := ((hall s false 0 false false d a 0 hmod).2 hin hno hp).1 h
  rw [ld_without_slot h hp hmod hin hno] at hheld
  split at hheld
  next => exact absurd (Host.Outcome.next.inj hheld) (takeTrap_ne_noteHold _ _ _)
  next hgood => exact Bool.eq_false_iff.mpr hgood

/-- A rank other than the owner of an address. -/
def otherRank (w : Word) : Nat := if w.toNat / 2 ^ 47 % 1024 = 0 then 1 else 0

/-- A core whose task holds the address w in g1 and has no landing slot. -/
def askingCore (w : Word) : Core := { Core.init with g := [0, w], csr := { Core.init.csr with resvcfg := 0 } }

/-- A die at time t whose core 0 is that core, in a context that may access the owner of w, another die. -/
def asking (t : Nat) (w : Word) : State :=
  { State.reset with
    time := t
    cores := [(0, askingCore w)]
    ctxs := [(0, some { Ctx.absent with members := [w.toNat / 2 ^ 47 % 1024] })]
    port := { State.reset.port with rank := otherRank w } }

theorem curCore_asking (t : Nat) (w : Word) : curCore (asking t w) = askingCore w := rfl

theorem askingCore_canIssue (w : Word) : CanIssue (askingCore w) [(1 : Fin 64).val] [(2 : Fin 64).val] [] [] 1 where
  phase := nofun
  reads := by
    simp only [List.mem_singleton, forall_eq]
    show pendingAt (askingCore w) (.g 1) = false
    rfl
  writes := by
    simp only [List.mem_singleton, forall_eq]
    exact fun h => absurd h (by decide)
  vecs := nofun
  caps := nofun
  room := (by decide : 0 + 1 ≤ 48)

theorem asking_place (t : Nat) (w : Word) : scalarPlace (asking t w) false 0 1 0 = w := by
  have hread : readG (curCore (asking t w)) (1 : Fin 64) = w := rfl
  have hoff : (0 : BitVec 7).toInt * (2 ^ (0 : Fin 4).val : Nat) = 0 := rfl
  have hsum : ((w.toNat / 2 ^ 47 * 2 ^ 47 : Nat) + ((w.toNat : Int) + 0) % 2 ^ 47 : Int) = (w.toNat : Int) := by omega
  rw [scalarPlace, hread, hoff, place, if_neg (by decide), hsum, BitVec.ofInt_natCast, BitVec.ofNat_toNat, BitVec.setWidth_eq]

theorem asking_inReach (t : Nat) (w : Word) : inReach (asking t w) false w := by
  have hmembers : (curCtx (asking t w)).members = [w.toNat / 2 ^ 47 % 1024] := by
    simp [curCtx, ctxAt, ctxAt?, asking, mget, keyCtx, State.reset]
  exact .inr (.inr (by rw [hmembers]; exact List.mem_singleton_self _))

theorem asking_no_slot (t : Nat) {w : Word} (h : w.toNat < 2 ^ 57) : ¬reach (asking t w) false w := by
  have hrank : (asking t w).port.rank = otherRank w := rfl
  have hzero : (askingCore w).csr.resvcfg = 0 := rfl
  rw [reach, slotFree, hrank, curCore_asking, hzero]
  rintro ⟨-, hsp | hform | hother | ⟨hfree, -⟩⟩
  · cases hsp
  · omega
  · unfold otherRank at hother
    split at hother <;> omega
  · exact absurd hfree (by simp)

/-- O18 holds exactly where no load from here ever meets a poisoned byte of another die, which is a free value: the model neither proves nor
refutes it. -/
theorem loadsAndStoresIssue_iff_noFarPoison : Obligations.LoadsAndStoresIssue ↔ NoFarPoison := by
  refine ⟨fun ⟨hscalar, _, _⟩ t n hn => ?_,
    fun hclean => ⟨scalarLoadsAndStoresIssue_of_noFarPoison hclean, vectorLoadsAndStoresIssue, gatherAndScatterIssue⟩⟩
  have hw : (BitVec.ofNat 64 n).toNat = n := by rw [BitVec.toNat_ofNat]; omega
  generalize BitVec.ofNat 64 n = w at hw
  subst hw
  exact farPoison_of_scalarLoadsAndStoresIssue hscalar (asking_place t w) (askingCore_canIssue w) rfl (asking_inReach t w) (asking_no_slot t hn)

end Sys2Proof.Machine
end

section
/-! PROOFS. Scalar arithmetic, logic, moves, counts, addresses and shifts (R113 to R115, R117): exact integers, reduced once to the form's
width. -/

namespace Sys2Proof.Machine

open Sys2Proof.Stmt

/-! ### Scalar and predicate operations -/

/-- A scalar operation computes what its value function says, where the statement's is the same function. -/
theorem computes_of_eq {i : Instr} {rg : List Nat} {d l : Nat} {v : Core → Word} (f : Core → Word)
    (he : ∀ s, exec i s = scalarOp s slotX0 i d l f) (hf : ∀ c, f c = v c := by exact fun _ => rfl) (hg : (uses i).rg = rg := by rfl)
    (hw : (uses i).wg = [d] := by rfl) (hv : (uses i).rv = [] := by rfl) (hk : (uses i).rk = [] := by rfl) : Computes i rg d l v :=
  computes_of slotX0 f he hg hw hv hk hf

/-- The same for a predicate operation. -/
theorem decides_of_eq {i : Instr} {rg : List Nat} {d : Nat} {v : Core → Word} (f : Core → Word)
    (he : ∀ s, exec i s = predOp s i d f) (hf : ∀ c, f c = v c := by exact fun _ => rfl) (hg : (uses i).rg = rg := by rfl)
    (hw : (uses i).wg = [] := by rfl) (hv : (uses i).rv = [] := by rfl) (hk : (uses i).rk = [] := by rfl) : Decides i rg d v :=
  decides_of f he hg hw hv hk hf

/-! ### Results of the form's width (R113, R114) -/

/-- The two readings of the low 32 bits of a word. -/
theorem sext32_eq (x : Word) : sext32 x = BitVec.ofInt 64 (Int.bmod x.toNat (2 ^ 32)) := by
  rw [sext32, BitVec.signExtend, BitVec.toInt_setWidth]

/-- Integers that agree modulo 2^32 are one result of a .w form. -/
theorem sized_congr {x y : Int} (h : x % 2 ^ 32 = y % 2 ^ 32) : sized true x = sized true y := by
  have hmod : x % ((2 ^ 32 : Nat) : Int) = y % ((2 ^ 32 : Nat) : Int) := h
  rw [sized, if_pos rfl, ← Int.emod_bmod (n := 2 ^ 32), hmod, Int.emod_bmod]
  rfl

/-- An exact result, as a word and then narrowed to the form's width. -/
theorem narrow_ofInt (w : Bool) (x : Int) : narrow w (BitVec.ofInt 64 x) = sized w x := by
  cases w
  · rfl
  · have h64 : ((BitVec.ofInt 64 x).toNat : Int) = x % 2 ^ 64 := by rw [BitVec.toNat_ofInt]; omega
    rw [narrow, if_pos rfl, sext32_eq, h64]
    exact sized_congr (by omega)

/-! ### Arithmetic (R115) -/

theorem add_eq_ofInt (x y : Word) : x + y = BitVec.ofInt 64 (x.toInt + y.toInt) := by
  rw [BitVec.ofInt_add, BitVec.ofInt_toInt, BitVec.ofInt_toInt]

theorem mul_eq_ofInt (x y : Word) : x * y = BitVec.ofInt 64 (x.toInt * y.toInt) := by
  rw [BitVec.ofInt_mul, BitVec.ofInt_toInt, BitVec.ofInt_toInt]

theorem sub_eq_ofInt (x y : Word) : x - y = BitVec.ofInt 64 (x.toInt - y.toInt) := by
  rw [Int.sub_eq_add_neg, BitVec.ofInt_add, BitVec.ofInt_neg, BitVec.ofInt_toInt, BitVec.ofInt_toInt, BitVec.sub_eq_add_neg]

theorem mad_eq_ofInt (x y z : Word) : z + x * y = BitVec.ofInt 64 (z.toInt + x.toInt * y.toInt) := by
  rw [BitVec.ofInt_add, BitVec.ofInt_toInt, ← mul_eq_ofInt]

theorem min_eq_ofInt (x y : Word) : (if condWord .lt y x then y else x) = BitVec.ofInt 64 (min x.toInt y.toInt) := by
  simp only [condWord, decide_eq_true_iff]
  split
  next h => rw [min_eq_right h.le, BitVec.ofInt_toInt]
  next h => rw [min_eq_left (not_lt.mp h), BitVec.ofInt_toInt]

theorem max_eq_ofInt (x y : Word) : (if condWord .lt x y then y else x) = BitVec.ofInt 64 (max x.toInt y.toInt) := by
  simp only [condWord, decide_eq_true_iff]
  split
  next h => rw [max_eq_right h.le, BitVec.ofInt_toInt]
  next h => rw [max_eq_left (not_lt.mp h), BitVec.ofInt_toInt]

theorem minu_eq_ofNat (x y : Word) : (if condWord .ltu y x then y else x) = BitVec.ofNat 64 (min x.toNat y.toNat) := by
  simp only [condWord, decide_eq_true_iff]
  split
  next h => rw [min_eq_right h.le, BitVec.ofNat_toNat, BitVec.setWidth_eq]
  next h => rw [min_eq_left (not_lt.mp h), BitVec.ofNat_toNat, BitVec.setWidth_eq]

theorem maxu_eq_ofNat (x y : Word) : (if condWord .ltu x y then y else x) = BitVec.ofNat 64 (max x.toNat y.toNat) := by
  simp only [condWord, decide_eq_true_iff]
  split
  next h => rw [max_eq_right h.le, BitVec.ofNat_toNat, BitVec.setWidth_eq]
  next h => rw [max_eq_left (not_lt.mp h), BitVec.ofNat_toNat, BitVec.setWidth_eq]

theorem scalarArithmeticResults : Stmt.ScalarArithmeticResults := ⟨
  fun d a b w => computes_of_eq _ (fun _ => rfl) fun _ => by rw [add_eq_ofInt, narrow_ofInt], -- add
  fun d a b w => computes_of_eq _ (fun _ => rfl) fun _ => by rw [sub_eq_ofInt, narrow_ofInt], -- sub
  fun d a i => computes_of_eq _ (fun _ => rfl) fun _ => by rw [BitVec.ofInt_add, BitVec.ofInt_toInt, BitVec.signExtend], -- addi
  fun d a b w => computes_of_eq _ (fun _ => rfl) fun _ => by rw [mul_eq_ofInt, narrow_ofInt], -- mul
  fun d a b => computes_of_eq _ fun _ => rfl, -- mulh
  fun d a b => computes_of_eq _ fun _ => rfl, -- mulhu
  fun d a b => computes_of_eq _ (fun _ => rfl) fun _ => mad_eq_ofInt .., -- mad
  fun d a b => computes_of_eq _ (fun _ => rfl) fun _ => min_eq_ofInt .., -- min
  fun d a b => computes_of_eq _ (fun _ => rfl) fun _ => max_eq_ofInt .., -- max
  fun d a b => computes_of_eq _ (fun _ => rfl) fun _ => minu_eq_ofNat .., -- minu
  fun d a b => computes_of_eq _ (fun _ => rfl) fun _ => maxu_eq_ofNat ..⟩ -- maxu

/-! ### Logic, moves, counts and addresses (R115) -/

/-- Replacing a field by a number, by masks. -/
theorem setBits_eq_masks (x v : Word) (lo n : Nat) :
    setBits x lo n v.toNat = (x &&& ~~~(mask lo n)) ||| ((v <<< lo) &&& mask lo n) := by
  apply BitVec.eq_of_getLsbD_eq
  intro i hi
  simp only [getLsbD_setBits _ _ _ _ _ hi, BitVec.getLsbD_or, BitVec.getLsbD_and, BitVec.getLsbD_not, hi, getLsbD_mask _ _ _ hi,
    BitVec.getLsbD_shiftLeft]
  by_cases inside : lo ≤ i ∧ i < lo + n
  · simp [inside, Nat.not_lt.mpr inside.1, BitVec.getLsbD]
  · simp [inside]

theorem movhi_eq (x : Word) (q : Fin 4) (h : BitVec 16) :
    setBits x (16 * q) 16 h.toNat = (x &&& ~~~(mask (16 * q.val) 16)) ||| (h.zeroExtend 64 <<< (16 * q.val)) := by
  have hz : h.toNat = (h.zeroExtend 64).toNat := (BitVec.toNat_setWidth_of_le (by decide)).symm
  have hin : (h.zeroExtend 64 <<< (16 * q.val)) &&& mask (16 * q.val) 16 = h.zeroExtend 64 <<< (16 * q.val) := by
    apply BitVec.eq_of_getLsbD_eq
    intro i hi
    simp only [BitVec.getLsbD_and, BitVec.getLsbD_shiftLeft, BitVec.getLsbD_setWidth, getLsbD_mask _ _ _ hi]
    by_cases inside : 16 * q.val ≤ i ∧ i < 16 * q.val + 16
    · simp [inside]
    · by_cases low : i < 16 * q.val
      · simp [low]
      · simp [BitVec.getLsbD_of_ge h (i - 16 * q.val) (by omega)]
  rw [hz, setBits_eq_masks, hin]

theorem size_eq_log2_add_one {n : Nat} (h : n ≠ 0) : n.size = n.log2 + 1 :=
  le_antisymm (Nat.size_le.mpr Nat.lt_log2_self) (Nat.lt_size.mpr (Nat.log2_self_le h))

/-- The leading zeros are the bits above the number's own. -/
theorem clzVal_eq (x : Word) : clzVal x = BitVec.ofNat 64 (64 - x.toNat.size) := by
  unfold clzVal
  split
  next h => subst h; rfl
  next h =>
    have h0 : x.toNat ≠ 0 := fun e => h (BitVec.eq_of_toNat_eq e)
    have : x.toNat.size = x.toNat.log2 + 1 := size_eq_log2_add_one h0
    congr 1
    omega

theorem popcVal_eq (x : Word) : popcVal x = BitVec.ofNat 64 ((List.range 64).countP fun i => x.toNat.testBit i) := by
  rw [popcVal, List.countP_eq_length_filter]
  rfl

theorem addr_sum_eq (x y : Word) (n : Nat) : x + (y <<< n) = BitVec.ofNat 64 (x.toNat + y.toNat * 2 ^ n) := by
  apply BitVec.eq_of_toNat_eq
  simp [BitVec.toNat_shiftLeft, Nat.shiftLeft_eq]

theorem addrVal_loc (x y : Word) (n : Nat) :
    addrVal true x y n = (x &&& ~~~(mask 0 47)) ||| (BitVec.ofNat 64 (x.toNat + y.toNat * 2 ^ n) &&& mask 0 47) := by
  rw [← addr_sum_eq, addrVal, if_pos rfl, setBits_eq_masks, BitVec.shiftLeft_zero]

theorem scalarLogicAndMoveResults : Stmt.ScalarLogicAndMoveResults := ⟨
  fun d a b => computes_of_eq _ fun _ => rfl, -- and
  fun d a b => computes_of_eq _ fun _ => rfl, -- or
  fun d a b => computes_of_eq _ fun _ => rfl, -- xor
  fun d a b => computes_of_eq _ fun _ => rfl, -- andn
  fun d n a b => computes_of_eq _ (fun _ => rfl) fun _ => if_congr (getLsbD_zero_iff _) rfl rfl, -- sel
  fun d i => computes_of_eq _ fun _ => rfl, -- movi
  fun d q h => computes_of_eq _ (fun _ => rfl) fun _ => movhi_eq .., -- movhi
  fun d a => computes_of_eq _ (fun _ => rfl) fun _ => clzVal_eq _, -- clz
  fun d a => computes_of_eq _ (fun _ => rfl) fun _ => popcVal_eq _, -- popc
  fun d a b sh => computes_of_eq _ (fun _ => rfl) fun _ => addr_sum_eq .., -- addr
  fun d a b sh => computes_of_eq _ (fun _ => rfl) fun _ => addrVal_loc ..⟩ -- addr.loc

/-! ### Shifts (R117) -/

theorem shiftLeft_eq_ofInt (x : Word) (c : Nat) : x <<< c = BitVec.ofInt 64 (x.toNat * 2 ^ c) := by
  apply BitVec.eq_of_toNat_eq
  have hcast : (x.toNat * 2 ^ c : Int) = ((x.toNat * 2 ^ c : Nat) : Int) := by norm_cast
  rw [BitVec.toNat_shiftLeft, Nat.shiftLeft_eq, hcast, BitVec.ofInt_natCast, BitVec.toNat_ofNat]

theorem ushiftRight_eq_ofInt (x : Word) (c : Nat) : x >>> c = BitVec.ofInt 64 (x.toNat / 2 ^ c) := by
  apply BitVec.eq_of_toNat_eq
  have hcast : (x.toNat / 2 ^ c : Int) = ((x.toNat / 2 ^ c : Nat) : Int) := by norm_cast
  rw [BitVec.toNat_ushiftRight, Nat.shiftRight_eq_div_pow, hcast, BitVec.ofInt_natCast, BitVec.toNat_ofNat,
    Nat.mod_eq_of_lt (lt_of_le_of_lt (Nat.div_le_self _ _) x.isLt)]

theorem sshiftRight_eq_ofInt (x : Word) (c : Nat) : x.sshiftRight c = BitVec.ofInt 64 (x.toInt / 2 ^ c) := by
  apply BitVec.eq_of_toInt_eq
  rw [BitVec.sshiftRight, Int.shiftRight_eq_div_pow]
  norm_cast

/-- Shifting an m-bit number right by m or more leaves its sign alone. -/
theorem ediv_two_pow_min {m : Nat} {x : Int} (h : -2 ^ (m - 1) ≤ x ∧ x < 2 ^ (m - 1)) (c : Nat) : x / 2 ^ min c m = x / 2 ^ c := by
  obtain hc | hc := Nat.le_total c m
  · rw [min_eq_left hc]
  · have hpow : ∀ k, m ≤ k → (2 : Int) ^ (m - 1) ≤ 2 ^ k := fun k hk => pow_le_pow_right₀ (by decide) (by omega)
    have hm := hpow m (le_refl m)
    have hc' := hpow c hc
    rw [min_eq_right hc]
    obtain hx | hx := Int.lt_or_le x 0
    · rw [Int.ediv_eq_neg_one_of_neg_of_le hx (by omega), Int.ediv_eq_neg_one_of_neg_of_le hx (by omega)]
    · rw [Int.ediv_eq_zero_of_lt hx (by omega), Int.ediv_eq_zero_of_lt hx (by omega)]

/-- Dividing by a positive number does not leave a symmetric range. -/
theorem ediv_bounds {b x d : Int} (hd : 0 < d) (h : -b ≤ x ∧ x < b) : -b ≤ x / d ∧ x / d < b :=
  ⟨(Int.le_ediv_iff_mul_le hd).mpr (by nlinarith), (Int.ediv_lt_iff_lt_mul hd).mpr (by nlinarith)⟩

/-- A left shift at or past the width leaves nothing. -/
theorem narrow_shiftLeft_of_ge (w : Bool) (x : Word) {c : Nat} (hc : widthOf w ≤ c) : narrow w (x <<< c) = 0 := by
  rw [shiftLeft_eq_ofInt, narrow_ofInt]
  cases w
  · rw [sized, if_neg (by decide), ← shiftLeft_eq_ofInt]
    exact BitVec.shiftLeft_eq_zero hc
  · obtain ⟨k, rfl⟩ := Nat.exists_eq_add_of_le hc
    have h0 : (x.toNat * 2 ^ (widthOf true + k) : Int) % 2 ^ 32 = 0 % 2 ^ 32 := by
      rw [widthOf, if_pos rfl, pow_add, mul_left_comm, Int.mul_emod_right, Int.zero_emod]
    exact (sized_congr h0).trans rfl

theorem shlVal_eq_narrow (w : Bool) (x : Word) (c : Nat) : shlVal w x c = narrow w (x <<< c) := by
  by_cases hc : widthOf w ≤ c
  · rw [narrow_shiftLeft_of_ge w x hc]
    cases w <;> exact if_pos hc
  · cases w <;> exact if_neg hc

theorem shlVal_eq (w : Bool) (x : Word) (c : Nat) : shlVal w x c = leftBy w x c := by
  rw [shlVal_eq_narrow, shiftLeft_eq_ofInt, narrow_ofInt, leftBy]
  cases w
  · rfl
  · refine sized_congr ?_
    have hlow : uOf true x = x.toNat % 2 ^ 32 := by rw [uOf, if_pos rfl]; norm_cast
    rw [hlow]
    exact (Int.mod_modEq _ _).symm.mul_right _

/-- The part of a word that a form of its width shifts. -/
def lowPart (w : Bool) (x : Word) : Word := if w then (x.truncate 32).zeroExtend 64 else x

theorem toNat_lowPart (w : Bool) (x : Word) : ((lowPart w x).toNat : Int) = uOf w x := by
  cases w
  · rfl
  · simp only [lowPart, uOf, if_true, BitVec.toNat_setWidth]
    omega

theorem shrVal_eq_narrow (w : Bool) (x : Word) (c : Nat) : shrVal w x c = narrow w (lowPart w x >>> c) := by
  by_cases hc : widthOf w ≤ c
  · have hlt : (lowPart w x).toNat < 2 ^ c := by
      refine lt_of_lt_of_le ?_ (Nat.pow_le_pow_right (by decide) hc)
      have := toNat_lowPart w x
      have := x.isLt
      cases w <;> simp only [uOf, widthOf, if_true, if_false, Bool.false_eq_true] at * <;> omega
    have h0 : lowPart w x >>> c = 0 := BitVec.eq_of_toNat_eq (by
      rw [BitVec.toNat_ushiftRight, Nat.shiftRight_eq_div_pow, Nat.div_eq_of_lt hlt]; rfl)
    rw [h0]
    cases w <;> exact if_pos hc
  · cases w <;> exact if_neg hc

theorem shrVal_eq (w : Bool) (x : Word) (c : Nat) : shrVal w x c = rightBy w x c := by
  rw [shrVal_eq_narrow, ushiftRight_eq_ofInt, narrow_ofInt, toNat_lowPart, rightBy]

theorem toInt_narrow (w : Bool) (x : Word) : (narrow w x).toInt = sOf w x := by
  cases w
  · rfl
  · rw [narrow, if_pos rfl, sext32, BitVec.toInt_signExtend_of_le (by decide), BitVec.toInt_setWidth, sOf, if_pos rfl]

theorem sOf_bounds (w : Bool) (x : Word) : -2 ^ (widthOf w - 1) ≤ sOf w x ∧ sOf w x < 2 ^ (widthOf w - 1) := by
  cases w
  · exact ⟨BitVec.le_toInt x, BitVec.toInt_lt⟩
  · simp only [sOf, widthOf, if_true, Int.bmod]
    omega

theorem sized_of_bounds {w : Bool} {x : Int} (h : -2 ^ (widthOf w - 1) ≤ x ∧ x < 2 ^ (widthOf w - 1)) : sized w x = BitVec.ofInt 64 x := by
  cases w
  · rfl
  · simp only [widthOf, if_true] at h
    rw [sized, if_pos rfl, Int.bmod_eq_of_le (by omega) (by omega)]

theorem sraVal_eq (w : Bool) (x : Word) (c : Nat) : sraVal w x c = arithBy w x c := by
  have hsra : sraVal w x c = (narrow w x).sshiftRight (min c (widthOf w)) := by cases w <;> rfl
  have hq := ediv_bounds (d := 2 ^ c) (by positivity) (sOf_bounds w x)
  rw [hsra, sshiftRight_eq_ofInt, toInt_narrow, ediv_two_pow_min (sOf_bounds w x), arithBy, sized_of_bounds hq]

theorem scalarShiftResults : Stmt.ScalarShiftResults := ⟨
  fun d a b w => computes_of_eq _ (fun _ => rfl) fun _ => shlVal_eq .., -- shl
  fun d a b w => computes_of_eq _ (fun _ => rfl) fun _ => shrVal_eq .., -- shr
  fun d a b w => computes_of_eq _ (fun _ => rfl) fun _ => sraVal_eq .., -- sra
  fun d a n => computes_of_eq _ (fun _ => rfl) fun _ => shlVal_eq .., -- shli
  fun d a n => computes_of_eq _ (fun _ => rfl) fun _ => shrVal_eq .., -- shri
  fun d a n => computes_of_eq _ (fun _ => rfl) fun _ => sraVal_eq ..⟩ -- srai

/-- Settles O1: each instruction is a scalar operation, and each value is the exact integer, reduced once. -/
theorem scalarResults : Obligations.ScalarResults := ⟨scalarArithmeticResults, scalarLogicAndMoveResults, scalarShiftResults⟩

end Sys2Proof.Machine
end

section
/-! PROOFS. Scalar division, comparisons, predicate logic and bit fields (R116, R118, R119, R121). -/

namespace Sys2Proof.Machine

open Sys2Proof.Stmt

/-! ### Division (R116) -/

theorem toInt_eq_zero_iff (x : Word) : x.toInt = 0 ↔ x = 0 := by rw [← BitVec.toInt_inj]; rfl

theorem toNat_eq_zero_iff (x : Word) : x.toNat = 0 ↔ x = 0 := by rw [← BitVec.toNat_inj]; rfl

theorem divVal_eq (x y : Word) :
    divVal x y = if y.toInt = 0 then BitVec.ofInt 64 (-1) else BitVec.ofInt 64 (Int.tdiv x.toInt y.toInt) := by
  rw [if_congr (toInt_eq_zero_iff y) rfl rfl]
  rfl

theorem divuVal_eq (x y : Word) :
    divuVal x y = if y.toNat = 0 then BitVec.ofNat 64 (2 ^ 64 - 1) else BitVec.ofNat 64 (x.toNat / y.toNat) := by
  rw [if_congr (toNat_eq_zero_iff y) rfl rfl]
  rfl

theorem remuVal_eq (x y : Word) : remuVal x y = if y.toNat = 0 then x else BitVec.ofNat 64 (x.toNat % y.toNat) := by
  rw [if_congr (toNat_eq_zero_iff y) rfl rfl]
  rfl

theorem remVal_of_zero {x y : Word} (h : y.toInt = 0) : remVal x y = x := if_pos ((toInt_eq_zero_iff y).mp h)

/-- The remainder fits in 64 bits, so that it is exact. -/
theorem toInt_remVal {x y : Word} (h : y.toInt ≠ 0) : (remVal x y).toInt = x.toInt - Int.tdiv x.toInt y.toInt * y.toInt := by
  rw [remVal, if_neg (mt (toInt_eq_zero_iff y).mpr h), ← BitVec.toInt_srem, wordOfInt, BitVec.ofInt_toInt, BitVec.toInt_srem]
  have := Int.tdiv_mul_add_tmod x.toInt y.toInt
  omega

/-- Settles O2: quotients truncate, as the model's do; the one remainder to show exact is that of rem. -/
theorem scalarDivisionResults : Obligations.ScalarDivisionResults := fun d a b => ⟨
  ⟨_, computes_of_eq _ fun _ => rfl, fun _ => divVal_eq ..⟩,
  ⟨_, computes_of_eq _ fun _ => rfl, fun _ => divuVal_eq ..⟩,
  ⟨_, computes_of_eq _ fun _ => rfl, fun _ => ⟨remVal_of_zero, toInt_remVal⟩⟩,
  ⟨_, computes_of_eq _ fun _ => rfl, fun _ => remuVal_eq ..⟩⟩

/-! ### Comparisons (R118) -/

theorem condWord_iff (k : Cond) (x y : Word) : condWord k x y = true ↔ holds k x y := by
  cases k <;> simp [condWord, holds]

theorem predOf_condWord (k : Cond) (x y : Word) :
    (holds k x y → predOf (condWord k x y) = BitVec.allOnes 64) ∧ (¬holds k x y → predOf (condWord k x y) = 0) :=
  ⟨fun h => if_pos ((condWord_iff k x y).mpr h), fun h => if_neg (mt (condWord_iff k x y).mp h)⟩

/-- Settles O3: the outcome of each condition, written to every bit. -/
theorem comparisonResults : Obligations.ComparisonResults :=
  ⟨fun k p a b => ⟨_, decides_of_eq _ fun _ => rfl, fun _ => predOf_condWord ..⟩,
    fun k p a i => ⟨_, decides_of_eq _ fun _ => rfl, fun _ => predOf_condWord ..⟩, rfl, fun _ _ => rfl⟩

/-! ### Predicate logic and bit fields (R119, R121) -/

theorem predicateLogicResults : Stmt.PredicateLogicResults := ⟨
  fun d a b => decides_of_eq _ fun _ => rfl, -- pand
  fun d a b => decides_of_eq _ fun _ => rfl, -- por
  fun d a b => decides_of_eq _ fun _ => rfl, -- pxor
  fun d a b => decides_of_eq _ fun _ => rfl, -- pandn
  fun d a => decides_of_eq _ fun _ => rfl⟩ -- pnot

/-- A signed field is the field's number in two's complement. -/
theorem bfxVal_signed (x : Word) (pos : Nat) {n : Nat} (hn : 0 < n) :
    bfxVal true x pos n = BitVec.ofInt 64 (Int.bmod (x.toNat / 2 ^ pos : Nat) (2 ^ n)) := by
  rw [bfxVal, if_pos rfl, sextNat_eq_bmod hn, bits, Int.natCast_mod, Int.emod_bmod]
  rfl

theorem bitFieldResults : Stmt.BitFieldResults := ⟨
  fun d a w p _ => computes_of_eq _ fun _ => rfl, -- bfx
  fun d a w p _ => computes_of_eq _ (fun _ => rfl) fun _ => bfxVal_signed _ _ (Nat.succ_pos _), -- bfx, signed
  fun d a w p _ => computes_of_eq _ (fun _ => rfl) fun _ => setBits_eq_masks ..⟩ -- bfi

/-- Settles O4: predicate logic is the model's own on words; a field is a remainder of a quotient to bfx and a mask to bfi. -/
theorem predicateLogicAndBitFields : Obligations.PredicateLogicAndBitFields := ⟨predicateLogicResults, bitFieldResults⟩

end Sys2Proof.Machine
end

section
/-! PROOFS. The spill map (R133, R136): a register parked in a tile's columns, also where the accumulators list one word twice. -/

namespace Sys2Proof.Machine

/-! ### The words of a column pair -/

/-- Word w of an image has one place in its column pair. -/
theorem columnKey_injective {t p w w' : Nat} (hw : w < 64) (hw' : w' < 64) (h : columnKey t p w = columnKey t p w') : w = w' := by
  unfold columnKey at h
  omega

/-- The words of `ws` put in their places. -/
def putWords (t p : Nat) (x : VWord) (m : SMap (BitVec 32)) (ws : List Nat) : SMap (BitVec 32) :=
  ws.foldl (fun m w => mput 0 m (columnKey t p w) (BitVec.ofNat 32 (elem 32 x w))) m

theorem putColumns_eq (c : Core) (t p : Nat) (x : VWord) :
    putColumns c t p x = { c with tiles := putWords t p x c.tiles (List.range 64) } := rfl

theorem mget_putWords_other {t p : Nat} {x : VWord} {j : Nat} {ws : List Nat} (h : ∀ w ∈ ws, j ≠ columnKey t p w) (m : SMap (BitVec 32)) :
    mget 0 (putWords t p x m ws) j = mget 0 m j := by
  induction ws generalizing m with
  | nil => rfl
  | cons w ws ih =>
    obtain ⟨hw, hws⟩ := List.forall_mem_cons.mp h
    exact (ih hws _).trans (mget_mput_other 0 m _ _ _ hw)

/-- With rising keys every word is read back from its place. -/
theorem mget_putWords_same {t p : Nat} {x : VWord} {ws : List Nat} (hlt : ∀ w ∈ ws, w < 64) (hnd : ws.Nodup) {m : SMap (BitVec 32)}
    (hm : risesFrom none m) {w : Nat} (hw : w ∈ ws) : (mget 0 (putWords t p x m ws) (columnKey t p w)).toNat = elem 32 x w := by
  induction ws generalizing m with
  | nil => cases hw
  | cons v ws ih =>
    obtain ⟨hv, hlts⟩ := List.forall_mem_cons.mp hlt
    obtain ⟨hnot, hnd⟩ := List.nodup_cons.mp hnd
    obtain rfl | hw := List.mem_cons.mp hw
    · have hother : ∀ u ∈ ws, columnKey t p w ≠ columnKey t p u :=
        fun u hu e => hnot (columnKey_injective hv (hlts u hu) e ▸ hu)
      rw [putWords, List.foldl_cons]
      show (mget 0 (putWords t p x _ ws) _).toNat = _
      rw [mget_putWords_other hother, mget_mput_same 0 _ _ hm, BitVec.toNat_ofNat]
      exact elem_mod ..
    · exact ih hlts hnd (risesFrom_mput 0 hm nofun) hw

/-! ### vpark into a column pair -/

/-- The core that has parked register `v` in column pair `p` of tile `t`. -/
def parked (c : Core) (v : Fin 32) (t p : Nat) : Core :=
  { c with tiles := putWords t p (readV c v) c.tiles (List.range 64), spill := { idx := physV c v, loc := .col t p } :: c.spill }

theorem exec_vpark_col {s : State} {v : Fin 32} {t p : Nat} (hplace : parkPlace (curCore s) = some (.col t p)) :
    exec (.vpark v) s = issue s slotBR (.vpark v) noTests fun s =>
      onCur (onCur s fun c => putColumns c t p (readV (curCore s) v)) fun c =>
        { c with spill := { idx := physV c v, loc := .col t p } :: c.spill } := by
  show execVpark v s = _
  simp only [execVpark, hplace]
  rfl

theorem vpark_leaves_parked {s : State} {v : Fin 32} {t p : Nat} (h : CanIssue (curCore s) [] [] [v.val] [] 0)
    (hplace : parkPlace (curCore s) = some (.col t p)) : Leaves (.vpark v) s (parked (curCore s) v t p) := by
  refine leaves_of h (exec_vpark_col hplace) rfl rfl rfl rfl rfl rfl rfl rfl (Nat.le_refl 0) _ (onCur_onCur _ _ _) ?_
  rw [putColumns_eq, parked]
  generalize putWords .. = m
  rfl

/-- A syllable leaves one core record. -/
theorem leaves_unique {i : Instr} {s : State} {x y : Core} (hx : Leaves i s x) (hy : Leaves i s y) : x = y := by
  obtain ⟨t, ht, hxt⟩ := hx
  obtain ⟨u, hu, hyu⟩ := hy
  obtain rfl : t = u := Host.Outcome.next.inj (ht.symm.trans hu)
  exact hxt.core.symm.trans hyu.core

/-! ### Where it goes -/

theorem freePair_some {c : Core} {t p : Nat} (h : freePair c = some (t, p)) : t < 16 ∧ p < 16 ∧ c.csr.parkcfg.getLsbD t = true ∧
    tileBusy c t = false ∧ ∀ q ∈ c.spill, q.loc ≠ .col t p := by
  obtain ⟨i, hi, hip⟩ := Option.map_eq_some_iff.mp h
  obtain ⟨rfl, rfl⟩ := Prod.mk.inj hip
  have hmem := List.mem_range.mp (List.mem_of_find?_eq_some hi)
  have hfree := List.find?_some hi
  simp only [Bool.and_eq_true, Bool.not_eq_true', List.any_eq_false, beq_iff_eq] at hfree
  obtain ⟨⟨hcfg, hbusy⟩, hloc⟩ := hfree
  exact ⟨by omega, by omega, hcfg, hbusy, hloc⟩

theorem parkPlace_col {c : Core} {t p : Nat} (h : parkPlace c = some (.col t p)) : freePair c = some (t, p) := by
  unfold parkPlace at h
  split at h
  · cases h
  · split at h
    next hpair => cases h; exact hpair
    next => split at h <;> cases h

/-- The first clause of `SpillMapStack` holds where the keys of the accumulators' table rise. -/
theorem vpark_columns_of_rising {s : State} {v : Fin 32} {t p : Nat} (h : CanIssue (curCore s) [] [] [v.val] [] 0)
    (hplace : parkPlace (curCore s) = some (.col t p)) (hrise : risesFrom none (curCore s).tiles) :
    let c := curCore s
    ∃ m, Leaves (.vpark v) s { c with tiles := m, spill := { idx := physV c v, loc := .col t p } :: c.spill } ∧
      (∀ w < 64, (mget 0 m (columnKey t p w)).toNat = elem 32 (readV c v) w) ∧
      (∀ j, (∀ w < 64, j ≠ columnKey t p w) → mget 0 m j = mget 0 c.tiles j) ∧
      t < 16 ∧ p < 16 ∧ c.csr.parkcfg.getLsbD t = true ∧ tileBusy c t = false ∧ ∀ q ∈ c.spill, q.loc ≠ .col t p :=
  ⟨_, vpark_leaves_parked h hplace,
    fun _ hw => mget_putWords_same (fun _ => List.mem_range.mp) List.nodup_range hrise (List.mem_range.mpr hw),
    fun _ hj => mget_putWords_other (fun w hw => hj w (List.mem_range.mp hw)) _, freePair_some (parkPlace_col hplace)⟩

/-! ### A word that is listed twice -/

/-- A core with zero registers and tile 0 eligible, whose accumulators list word 0 of the tile twice, with value 1. -/
def doubledTile : Core := { Core.init with csr := { Core.init.csr with parkcfg := 1 }, tiles := [(0, 1), (0, 1)] }

/-- A die whose core 0 is that core. -/
def parking : State := { State.reset with cores := [(0, doubledTile)] }

theorem doubledTile_canIssue : CanIssue doubledTile [] [] [(0 : Fin 32).val] [] 0 where
  phase := nofun
  reads := nofun
  writes := nofun
  vecs := by
    simp only [List.mem_singleton, forall_eq]
    rfl
  caps := nofun
  room := (by decide : 0 + 0 ≤ 48)

theorem doubledTile_place : parkPlace doubledTile = some (.col 0 0) := by decide

theorem elem_zero (w e : Nat) : elem w 0 e = 0 := by
  show (0#2048).toNat / _ % _ = 0
  rw [BitVec.toNat_zero, Nat.zero_div, Nat.zero_mod]

/-- Zeros parked there take the first listing of word 0 away, and the second shows. -/
theorem doubledTile_parked : mget 0 (parked doubledTile 0 0 0).tiles 0 = 1 := by
  have hzero : readV doubledTile (0 : Fin 32) = 0 := rfl
  simp only [parked, hzero, putWords, elem_zero]
  decide

/-- Refutes O10: its first clause speaks of every core record, those whose accumulators list a word twice among them; it lacks the
hypothesis that the keys rise. There a parked image of zeros leaves 1 in that word. -/
theorem not_spillMapStack : ¬Obligations.SpillMapStack := by
  rintro ⟨hcol, -⟩
  obtain ⟨m, hleaves, hword, -⟩ := hcol parking 0 0 0 doubledTile_canIssue doubledTile_place
  have hparked : Leaves (.vpark 0) parking (parked doubledTile 0 0 0) := vpark_leaves_parked (s := parking) doubledTile_canIssue doubledTile_place
  have htiles : (parked doubledTile 0 0 0).tiles = m := congrArg Core.tiles (leaves_unique hparked hleaves)
  have hzero := hword 0 (by decide)
  have hword0 : elem 32 (readV (curCore parking) (0 : Fin 32)) 0 = 0 := elem_zero 32 0
  rw [hword0, ← htiles] at hzero
  have hone : (mget 0 (parked doubledTile 0 0 0).tiles 0).toNat = 1 := congrArg BitVec.toNat doubledTile_parked
  exact absurd (hone.symm.trans hzero) (by decide)

end Sys2Proof.Machine
end

section
/-! PROOFS. The trap instructions, and the return that reloads the snapshot (R131, R224, R226, R229, R232). -/

namespace Sys2Proof.Machine

/-! ### trap and bkpt -/

/-- A syllable on its own whose test always fails is that trap. -/
theorem trapInstructions : Stmt.TrapInstructions := by
  refine ⟨fun s k a h hp => ?_, fun s k h hp => ?_⟩ <;> rw [BitVec.ofNat_toNat]
  · exact trap_dom h (slot := slotBR) (f := id) rfl rfl rfl rfl rfl hp rfl rfl rfl rfl
  · exact trap_dom h (slot := slotBR) (f := id) rfl rfl rfl rfl rfl hp rfl rfl rfl rfl

/-! ### The return -/

/-- Passing on from a boundary moves the sequencer and the pc alone. -/
theorem advance_eq (x : Core) : advance x = { x with seq := (advance x).seq, pc := (advance x).pc } := by
  unfold advance
  split
  · split <;> rfl
  · rfl

theorem advance_pc_straight {x : Core} (h : x.seq.active = false) : (advance x).pc = x.pc + 32 := by
  rw [advance, if_neg (by simp [h])]

/-- The core that has returned from its handler, with nothing of the handler's in flight: what the snapshot holds, each landing count moved
to the present one. -/
def reloaded (x : Core) (n : Snapshot) : Core :=
  { wakeEngines x with
    results := n.results.map fun r => { r with land := rebase n.icycle x.icycle r.land }
    accs := n.accs.map (rebaseAccess n.icycle x.icycle)
    sdone := (n.sdone.map fun o => { o with land := rebase n.icycle x.icycle o.land }) ++ x.sdone
    after := n.after, rets := n.rets, seq := n.seq, lock := n.lock, pc := n.pc
    snap := none, stop := none, inH := false, held := 0, hold := none }

theorem thaw_eq_reloaded {x : Core} {n : Snapshot} (hs : x.snap = some n) (hres : x.results = []) (hacc : x.accs = []) (hret : x.rets = []) :
    thaw x = reloaded x n := by
  have hw : (wakeEngines x).snap = some n ∧ (wakeEngines x).results = [] ∧ (wakeEngines x).accs = [] ∧ (wakeEngines x).rets = [] :=
    ⟨hs, hres, hacc, hret⟩
  simp only [thaw, hw, List.append_nil]
  rfl

/-- A resume at the next bundle (R224). -/
theorem resumeCore_next (x : Core) :
    resumeCore x true = { thaw x with seq := (advance (thaw x)).seq, pc := (advance (thaw x)).pc, after := .next } := by
  rw [resumeCore, if_pos rfl, advance_eq]

/-- A result keeps its place and value, and the issue cycles it had left at the freeze (R232). -/
theorem reloaded_results (x : Core) (n : Snapshot) :
    (reloaded x n).results.map Exposed.dest = n.results.map Exposed.dest ∧
      (reloaded x n).results.map Exposed.val = n.results.map Exposed.val ∧
      (reloaded x n).results.map (fun r => r.land - x.icycle) = n.results.map fun r => r.land - n.icycle := by
  have hleft : ∀ land, rebase n.icycle x.icycle land - x.icycle = land - n.icycle := fun _ => Nat.add_sub_cancel_left ..
  refine ⟨?_, ?_, ?_⟩ <;> simp only [reloaded, List.map_map, Function.comp_def, hleft]

theorem returnReloadsSnapshot : Stmt.ReturnReloadsSnapshot := by
  intro x n hs hres hacc hret y z
  have hy : y = reloaded x n := thaw_eq_reloaded hs hres hacc hret
  have hz : z = { reloaded x n with seq := (advance (reloaded x n)).seq, pc := (advance (reloaded x n)).pc, after := .next } :=
    thaw_eq_reloaded hs hres hacc hret ▸ resumeCore_next x
  obtain ⟨hdest, hval, hleft⟩ := reloaded_results x n
  rw [hy, hz]
  exact ⟨rfl, rfl, rfl, rfl, rfl, rfl, rfl, rfl, rfl, hdest, hval, hleft, rfl, rfl, rfl, rfl, rfl, rfl, rfl,
    fun hact => advance_pc_straight (x := reloaded x n) hact⟩

/-- Settles O12: the test that trap and bkpt pose is their trap, and a return makes the record `reloaded` of its snapshot. -/
theorem trapsAndReturns : Obligations.TrapsAndReturns := ⟨trapInstructions, returnReloadsSnapshot⟩

end Sys2Proof.Machine
end

section
/-! PROOFS. Vector arithmetic on integer types, select, logic and shifts (R138, R139, R141, R142). -/

namespace Sys2Proof.Machine

open Sys2Proof.Stmt

/-! ### Integer elements (R113, R139) -/

theorem pat_lt (c : Core) (t : ElTy) (v : Fin 32) (e : Nat) : pat c t v e < 2 ^ t.bits := elem_lt _ _ _

/-- A pattern is the wrapped pattern of its own number. -/
theorem patOf_numOf {t : ElTy} {x : Nat} (hx : x < 2 ^ t.bits) : Stmt.patOf t false (numOf t x) = x := by
  have hmod : numOf t x % 2 ^ t.bits = (x : Int) := by
    have hlt : (x : Int) < 2 ^ t.bits := by exact_mod_cast hx
    have hx' : (x : Int) % 2 ^ t.bits = x := Int.emod_eq_of_lt (Int.natCast_nonneg x) hlt
    unfold numOf
    split
    · have := Int.bmod_emod (x := (x : Int)) (m := 2 ^ t.bits)
      push_cast at this
      rw [this, hx']
    · exact hx'
  rw [Stmt.patOf, if_neg (by decide), hmod, Int.toNat_natCast]

section
variable (c : Core) {t : ElTy} (ht : t.isFp = false) (r : Rm) (sat : Bool) {x y : Nat} (hx : x < 2 ^ t.bits)
include ht hx

theorem addElem_int (hy : y < 2 ^ t.bits) : addElem c t r sat false x y = (Stmt.patOf t sat (numOf t x + numOf t y), 0) := by
  rw [addElem, if_neg (by simp [ht]), if_neg (by decide), intRes_eq_patOf, intElem_eq_numOf hx, intElem_eq_numOf hy]

theorem subElem_int (hy : y < 2 ^ t.bits) : addElem c t r sat true x y = (Stmt.patOf t sat (numOf t x - numOf t y), 0) := by
  rw [addElem, if_neg (by simp [ht]), if_pos rfl, intRes_eq_patOf, intElem_eq_numOf hx, intElem_eq_numOf hy]

theorem mulElem_int (hy : y < 2 ^ t.bits) : mulElem c t r sat x y = (Stmt.patOf t sat (numOf t x * numOf t y), 0) := by
  rw [mulElem, if_neg (by simp [ht]), intRes_eq_patOf, intElem_eq_numOf hx, intElem_eq_numOf hy]

theorem minElem_int (hy : y < 2 ^ t.bits) : minmaxElem c t false x y = (Stmt.patOf t false (min (numOf t x) (numOf t y)), 0) := by
  rw [minmaxElem, if_neg (by simp [ht]), intElem_eq_numOf hx, intElem_eq_numOf hy]
  obtain h | h := Int.lt_or_le (numOf t x) (numOf t y)
  · simp [h, min_eq_left h.le, patOf_numOf hx]
  · simp [Int.not_lt.mpr h, min_eq_right h, patOf_numOf hy]

theorem maxElem_int (hy : y < 2 ^ t.bits) : minmaxElem c t true x y = (Stmt.patOf t false (max (numOf t x) (numOf t y)), 0) := by
  rw [minmaxElem, if_neg (by simp [ht]), intElem_eq_numOf hx, intElem_eq_numOf hy]
  obtain h | h := Int.lt_or_le (numOf t x) (numOf t y)
  · simp [h, max_eq_right h.le, patOf_numOf hy]
  · simp [Int.not_lt.mpr h, max_eq_left h, patOf_numOf hx]

theorem absElem_int : absElem c t sat x = (Stmt.patOf t sat |numOf t x|, 0) := by
  rw [absElem, if_neg (by simp [ht]), intRes_eq_patOf, intElem_eq_numOf hx, Int.natCast_natAbs]

end

theorem sca_lt (c : Core) (t : ElTy) (g : Fin 64) : sca c t g < 2 ^ t.bits := Nat.mod_lt _ (Nat.two_pow_pos _)

theorem vectorIntegerArithmetic : Stmt.VectorIntegerArithmetic := fun t d a b g p r sat ht => ⟨
  lanes_of_eq t _ (fun _ => rfl) fun c _ => addElem_int c ht r sat (pat_lt ..) (pat_lt ..), -- vadd
  lanes_of_eq t _ (fun _ => rfl) fun c _ => subElem_int c ht r sat (pat_lt ..) (pat_lt ..), -- vsub
  lanes_of_eq t _ (fun _ => rfl) fun c _ => mulElem_int c ht r sat (pat_lt ..) (pat_lt ..), -- vmul
  lanes_of_eq t _ (fun _ => rfl) fun c _ => minElem_int c ht (pat_lt ..) (pat_lt ..), -- vmin
  lanes_of_eq t _ (fun _ => rfl) fun c _ => maxElem_int c ht (pat_lt ..) (pat_lt ..), -- vmax
  lanes_of_eq t _ (fun _ => rfl) fun c _ => absElem_int c ht sat (pat_lt ..), -- vabs
  lanes_of_eq t _ (fun _ => rfl) fun c _ => addElem_int c ht r false (pat_lt ..) (sca_lt ..), -- vadds
  lanes_of_eq t _ (fun _ => rfl) fun c _ => mulElem_int c ht r false (pat_lt ..) (sca_lt ..)⟩ -- vmuls

/-! ### Logic and select (R141) -/

/-- The complement of a 32-bit pattern. -/
theorem xor_ones {x : Nat} (hx : x < 2 ^ 32) : x ^^^ 0xFFFFFFFF = 2 ^ 32 - 1 - x := by
  refine Nat.eq_of_testBit_eq fun i => ?_
  rw [Nat.testBit_xor, show 0xFFFFFFFF = 2 ^ 32 - 1 from rfl, Nat.testBit_two_pow_sub_one, Nat.sub_sub, Nat.add_comm 1,
    Nat.testBit_two_pow_sub_succ hx]
  by_cases hi : i < 32
  · simp [hi]
  · simp [hi, Nat.testBit_lt_two_pow (lt_of_lt_of_le hx (Nat.pow_le_pow_right (by decide) (not_lt.mp hi)))]

theorem lane_eq_testBit (x : Word) {e : Nat} (he : e < 64) : lane x e = x.toNat.testBit e := by
  rw [lane, Nat.mod_eq_of_lt he, BitVec.getLsbD]

/-! ### Shifts (R142) -/

theorem two_pow_dvd_shifted (x : Nat) {w n : Nat} (h : w ≤ n) : x * 2 ^ n % 2 ^ w = 0 :=
  Nat.mod_eq_zero_of_dvd (Dvd.dvd.mul_left (Nat.pow_dvd_pow 2 h) x)

theorem wrapT_natCast (t : ElTy) (x : Nat) : wrapT t x = x % 2 ^ t.bits := by
  rw [wrapT]
  norm_cast

theorem shiftElem_left (t : ElTy) (x n : Nat) :
    (shiftElem t true false x n).1 % 2 ^ t.bits = x * 2 ^ n % 2 ^ t.bits ∧ (shiftElem t true false x n).2 = 0 := by
  refine ⟨?_, rfl⟩
  rw [shiftElem, if_pos rfl]
  by_cases h : t.bits ≤ n
  · simp only [if_pos h, Nat.zero_mod, two_pow_dvd_shifted x h]
  · simp only [if_neg h, wrapT_natCast, Nat.mod_mod]

theorem shiftElem_right (t : ElTy) {x : Nat} (hx : x < 2 ^ t.bits) (n : Nat) : shiftElem t false false x n = (x / 2 ^ n, 0) := by
  rw [shiftElem, if_neg (by decide), if_neg (by decide)]
  by_cases h : t.bits ≤ n
  · rw [if_pos h, Nat.div_eq_of_lt (lt_of_lt_of_le hx (Nat.pow_le_pow_right (by decide) h))]
  · rw [if_neg h]

theorem bmod_bounds (x : Int) {w : Nat} (hw : 0 < w) : -2 ^ (w - 1) ≤ Int.bmod x (2 ^ w) ∧ Int.bmod x (2 ^ w) < 2 ^ (w - 1) := by
  obtain ⟨k, rfl⟩ := Nat.exists_eq_succ_of_ne_zero hw.ne'
  have hpos := Nat.two_pow_pos (k + 1)
  have hlo := Int.le_bmod (x := x) hpos
  have hhi := Int.bmod_lt (x := x) hpos
  have hpow : ((2 ^ (k + 1) : Nat) : Int) = 2 * 2 ^ k := by push_cast; ring
  rw [hpow] at hlo hhi
  rw [Nat.succ_eq_add_one, Nat.add_sub_cancel]
  omega

theorem shiftElem_arith (t : ElTy) (x n : Nat) :
    shiftElem t false true x n = ((Int.bmod x (2 ^ t.bits) / 2 ^ n % 2 ^ t.bits).toNat, 0) := by
  rw [shiftElem, if_neg (by decide), if_pos rfl, sextNat_eq_bmod (bits_pos t), ediv_two_pow_min (bmod_bounds x (bits_pos t))]
  rfl

theorem vectorLogicAndShifts : Stmt.VectorLogicAndShifts := fun t d a b p n i => ⟨
  lanes_of .i32 _ (fun _ => rfl) rfl rfl rfl rfl fun _ e he => by rw [lane_eq_testBit _ he]; exact ⟨rfl, rfl⟩, -- vsel
  lanes_of_eq .i32 _ fun _ => rfl, -- vand
  lanes_of_eq .i32 _ fun _ => rfl, -- vor
  lanes_of_eq .i32 _ fun _ => rfl, -- vxor
  lanes_of_eq .i32 _ (fun _ => rfl) fun c e => congrArg (fun x => (pat c .i32 a e &&& x, 0)) (xor_ones (pat_lt ..)), -- vandn
  lanes_of t _ (fun _ => rfl) rfl rfl rfl rfl fun _ _ _ => shiftElem_left .., -- vshl
  lanes_of_eq t _ (fun _ => rfl) fun _ _ => shiftElem_right t (pat_lt ..) _, -- vshr
  lanes_of_eq t _ (fun _ => rfl) fun _ _ => shiftElem_arith .., -- vsra
  lanes_of t _ (fun _ => rfl) rfl rfl rfl rfl fun _ _ _ => shiftElem_left .., -- vshli
  lanes_of_eq t _ (fun _ => rfl) fun _ _ => shiftElem_right t (pat_lt ..) _, -- vshri
  lanes_of_eq t _ (fun _ => rfl) fun _ _ => shiftElem_arith ..⟩ -- vsrai

/-- Settles O13: an integer element is the exact number, reduced once by `patOf`; a shift is that number times or over a power of two. -/
theorem vectorIntegerAndLogic : Obligations.VectorIntegerAndLogic := ⟨vectorIntegerArithmetic, vectorLogicAndShifts⟩

end Sys2Proof.Machine
end
